-- ==== Sys2Proof/Word.lean ====
section
/-! DEFINITION. The word types of the RSL-960 and the table type that holds indexed resources. -/

namespace Sys2Proof

/-- A byte of memory. -/
abbrev Byte := BitVec 8
/-- A 32-bit register or mailbox word. -/
abbrev Word := BitVec 32
/-- A physical address A[47:0] (R14). -/
abbrev Addr := BitVec 48
/-- A line address A[47:7] (R14). -/
abbrev LineAddr := BitVec 41
/-- A count of device time, 1 ns a tick (R4). -/
abbrev Tick := BitVec 64
/-- A slice number S0 to S15 (R10). -/
abbrev SliceId := BitVec 4
/-- A PCP port number P0 to P7 (R9). -/
abbrev PortId := BitVec 3
/-- A partition ID, 0 for the base partition (R12). -/
abbrev PartId := BitVec 6
/-- A controller ID: ring ID in [11:4], node ID in [3:0] (R10). -/
abbrev CtrlId := BitVec 12
/-- A node ID inside a ring (R10). -/
abbrev NodeId := BitVec 4
/-- A 32 B chunk of a line (R4). -/
abbrev Chunk := BitVec 256

/-- An operation slot: mailbox in [4:3], slot number in [2:0] (R413, R423). -/
abbrev SlotRef := BitVec 5

/-- An indexed resource of the machine as plain data: pairs of index and value, indexes rising,
    no pair whose value is the resource's default. -/
abbrev Table (α : Type) := List (Nat × α)

end Sys2Proof
end

