-- ==== Sys2Proof/Config.lean ====
section
/-! DEFINITION. What an implementation fixes and the free values: constants with no body, which no
    proof can evaluate. A free value is applied to the state's own counter, so that each use is fresh. -/

namespace Sys2Proof

/-- The choice among candidates that the spec calls pseudo-random: R83 (a port-filter entry) and R198
    (a far-directory victim). Log entry 5. -/
opaque Config.freeChoice : Nat → BitVec 16
/-- SECDED check bits, whose construction R598 leaves open. Log entry 6. -/
opaque Config.freeCheckBits : Nat → BitVec 32
/-- The value of a line after a CLAIM and before the requester writes it (R105). Log entry 7. -/
opaque Config.freeLine : Nat → BitVec 1024
/-- A random number of the authentication exchange (R355). Log entry 8. -/
opaque Config.freeNonce : Nat → BitVec 128
/-- A word whose value the spec does not state. Log entry 9. -/
opaque Config.freeWord : Nat → BitVec 32
/-- A ring of the tree, as its own members know it (R169, R171): the ring above it (itself at the root), how many node positions it
    has (0: the tree has no such ring), the node ID of its bridge, and the node IDs of its members. -/
structure TreeRing where
  parent : BitVec 8
  size : Nat
  bridge : BitVec 4
  members : BitVec 16
  deriving DecidableEq, Repr, Inhabited
/-- The rings of the tree beyond the two that this controller's censuses show; no message of the spec carries them. Log entry 10. -/
opaque Config.treeRing : BitVec 8 → TreeRing
/-- OFS of a ring whose bridge is another controller, as that bridge has recorded it (R206); no message of the spec carries it.
    Log entry 107. -/
opaque Config.treeOfs : BitVec 8 → BitVec 64
/-- The part is of the extended grade RSL-960-E, and not RSL-960-C (R1, R526). Log entry 12. -/
opaque Config.extended : Bool
/-- The 64 KiB of boot ROM that the engines share (R12, R13): the spec gives no byte of it, and no access reads it. Log entry 16. -/
opaque Config.bootRom : BitVec 16 → BitVec 8
/-- SHA-384 of a byte sequence (R542, R544). Log entry 16. -/
opaque Config.sha384 : List (BitVec 8) → BitVec 384
/-- The ECDSA P-384 signature (r then s, 96 bytes) over SHA-384 of the bytes verifies under a key of the boot ROM (R542, R544).
    Log entry 16. -/
opaque Config.signatureOk : BitVec 2 → List (BitVec 8) → List (BitVec 8) → Bool

end Sys2Proof
end

