-- ==== Sys2Proof/Syntax.lean ====
section
/-! DEFINITION. The commands of the block: one constructor of `Instr` per row of spec/opcode_table.json,
    and the types their operands are made of. -/

namespace Sys2Proof

/-- A stable line state (R41). `R` is the reserved code 0b111. -/
inductive LState where
  | I | S | E | O | M | A | X | R
  deriving DecidableEq, Repr, Inhabited

/-- The four chunks of a line and their poison flags: byte b in bits [8b+7:8b], chunk c flagged by bit c
    of `psn` (R4, R143). -/
structure Line where
  bytes : BitVec 1024
  psn : BitVec 4
  deriving DecidableEq, Repr

/-- The four ring ports (R10, R453). -/
inductive RingPort where
  | ringE | ringW | upA | upB
  deriving DecidableEq, Repr

/-- Where a ring message reaches the controller: its own fabric, or a ring port (R147). -/
inductive Input where
  | fabric
  | ring (p : RingPort)
  deriving DecidableEq, Repr

/-- What a read of protected memory finds: no error, a single-bit error, an error that the code cannot
    correct (R49, R390, R557). -/
inductive EccOutcome where
  | none | single | uncorrectable
  deriving DecidableEq, Repr

/-- The thirteen PCP requests (R327). -/
inductive PcpOp where
  | rdSh | rdEx | rd1x | upg | claim | wbD | wbC | drop | rdNc | wrNc | atom | flushL | beamRel
  deriving DecidableEq, Repr

/-- A PCP request header with its data (R326, R328, R329). -/
structure PcpHdr where
  ptag : BitVec 10
  stream : BitVec 8
  addr : Addr
  /-- RD_NC: 2^size bytes -/
  size : BitVec 3
  /-- WR_NC: byte mask -/
  bmask : BitVec 128
  /-- WB_D and WR_NC: the data slots, placed at their chunks -/
  data : Line
  aop : BitVec 4
  aw : BitVec 2
  place : BitVec 2
  keep : Bool
  opA : BitVec 128
  opB : BitVec 128
  deriving DecidableEq, Repr

/-- The probes to requesters (R98). -/
inductive ProbeKind where
  | sh | ex | inv
  deriving DecidableEq, Repr

/-- The fields of a ring header that every message carries (R139). -/
structure RingHdr where
  src : CtrlId
  dst : CtrlId
  epoch : BitVec 4
  txn : BitVec 12
  htag : BitVec 10
  hkind : BitVec 2
  laddr : LineAddr
  deriving DecidableEq, Repr

/-- The requests to a home (R140). -/
inductive ReqOp where
  | sh | ni | ex | upg | claim | wr | ncrd | ncwr | atom
  deriving DecidableEq, Repr

/-- The body of a request to a home: the fields of R141 and the data slots, with the atomic's
    operands as R213 lays them out. -/
structure ReqBody where
  part : PartId
  crit : BitVec 2
  beam : Bool
  bmask : BitVec 128
  data : Line
  aop : BitVec 4
  aw : BitVec 2
  ofs : BitVec 7
  opA : BitVec 128
  opB : BitVec 128
  deriving DecidableEq, Repr

/-- The three snoops (R140). -/
inductive SnpKind where
  | sh | ex | inv
  deriving DecidableEq, Repr

/-- The combined response of a snoop (R153). -/
structure CR where
  shr : Bool
  dsup : Bool
  dirty : Bool
  pen : Bool
  upgv : Bool
  upgo : Bool
  err : Bool
  supnode : NodeId
  seen : BitVec 16
  deriving DecidableEq, Repr

/-- The body of a snoop (R142). -/
structure SnpBody where
  rqid : CtrlId
  rqtxn : BitVec 12
  crit : BitVec 2
  ddh : Bool
  west : Bool
  retry : Bool
  upg : Bool
  turns : BitVec 2
  cr : CR
  deriving DecidableEq, Repr

/-- The body of a FAR_RECALL (R181). -/
structure RecallBody where
  kind : SnpKind
  ddh : Bool
  bcast : Bool
  upg : Bool
  rqid : CtrlId
  rqtxn : BitVec 12
  crit : BitVec 2
  deriving DecidableEq, Repr

/-- The body of a FAR_ACK (R182). -/
structure FarAckBody where
  crd : Bool
  lost : Bool
  bcast : Bool
  cr : CR
  supring : BitVec 8
  slice : SliceId
  nfar : BitVec 6
  deriving DecidableEq, Repr

/-- The body of a GRANT (R143). -/
structure GrantBody where
  gst : LState
  /-- 0 no data, 1 DATA from the home, 2 DATA from the supplier -/
  dsrc : BitVec 2
  supnode : NodeId
  psn : Bool
  noack : Bool
  cont : Bool
  deriving DecidableEq, Repr

/-- The body of a DATA (R143) with its line. -/
structure DataBody where
  crit : BitVec 2
  srck : BitVec 2
  dirty : Bool
  tohome : Bool
  line : Line
  deriving DecidableEq, Repr

/-- The body of a WB_DATA (R143) with its line. -/
structure WbBody where
  part : PartId
  move : Bool
  resent : Bool
  line : Line
  deriving DecidableEq, Repr

/-- A message of the ring (R140, R178). -/
inductive RingMsg where
  | req (op : ReqOp) (h : RingHdr) (b : ReqBody)
  /-- FAR_RD and FAR_EX, which stand for the REQ `op`; `gate` is the GATE field (R179, R180) -/
  | farReq (op : ReqOp) (gate : NodeId) (h : RingHdr) (b : ReqBody)
  | farRecall (h : RingHdr) (b : RecallBody)
  | farAck (h : RingHdr) (b : FarAckBody)
  | snp (k : SnpKind) (h : RingHdr) (b : SnpBody)
  | wbData (h : RingHdr) (b : WbBody)
  | data (h : RingHdr) (b : DataBody)
  | grant (h : RingHdr) (b : GrantBody)
  | gack (h : RingHdr)
  | wbAck (h : RingHdr) (discarded : Bool)
  | wrAck (h : RingHdr)
  | err (h : RingHdr) (status : BitVec 8) (wba : Bool)
  | credit (h : RingHdr) (slice : SliceId) (nreq nwbk : BitVec 5)
  deriving DecidableEq, Repr

/-- A PCP flit frame: 8 B header, eight 32 B slots, 16 B trailer (R314, R316). -/
structure PcpFrame where
  hdr : BitVec 64
  /-- slot i in bits [256i+255:256i] -/
  slots : BitVec 2048
  trailer : BitVec 128
  deriving DecidableEq, Repr

/-- A ring frame: 8 B header, eight 32 B slots, 12 B trailer (R345). A frame may touch a codeword that the FEC
    marks uncorrectable (R349). -/
structure PrlFrame where
  hdr : BitVec 64
  slots : BitVec 2048
  trailer : BitVec 96
  /-- the lane of an uncorrectable codeword that the frame touches, if it touches one -/
  ucw : Option (BitVec 3)
  deriving DecidableEq, Repr

/-- Why the replay timer command is given: it expires, or a NAK arrives (R320). -/
inductive ReplayCause where
  | timer | nak
  deriving DecidableEq, Repr

/-- A record of a census (R360); `subtree` is the mask slot that follows a record with UPPER = 1. -/
structure CensusRec where
  ctrlId : CtrlId
  upper : Bool
  bridge : Bool
  eps : BitVec 2
  wps : BitVec 2
  slow : Bool
  subtree : BitVec 256
  deriving DecidableEq, Repr

/-- A census as it travels (R359, R360). -/
structure Census where
  initiator : CtrlId
  turns : BitVec 2
  recs : List CensusRec
  deriving DecidableEq, Repr

/-- The result of a census as EPOCH_PREP gives it to the members (R361, R363): the records in ring order, and for each
    upper position the node ID that it receives. -/
structure EpochResult where
  recs : List CensusRec
  folded : Bool
  deriving DecidableEq, Repr

/-- A sum of the messages of an epoch that nodes injected and that ended at them (R365). -/
structure DrainSum where
  origin : CtrlId
  epoch : BitVec 4
  injected : Nat
  ended : Nat
  deriving DecidableEq, Repr

/-- What re-enters a slice pipeline as a replay (R51, R56). -/
inductive ReplayItem where
  /-- the oldest ready waiting request of the slice conflict queue -/
  | request
  /-- the first ready waiting snoop of the slice -/
  | snoop
  /-- the head of an input that failed its resource check: 0-7 ports, 8 walker, 9 beam -/
  | input (k : BitVec 4)
  /-- a closing write-combining buffer that failed its resource check -/
  | wcBuf (i : BitVec 6)
  /-- a poison transaction that found no reserved penumbra buffer (R122) -/
  | repair
  deriving DecidableEq, Repr

/-- The four mailboxes of Lantern: numbers 0 to 3 (R413). -/
inductive Mailbox where
  | host | bmc | peer | debug
  deriving DecidableEq, Repr

/-- The three masters that reach the registers (R443). -/
inductive Master where
  | mgmt | smbus | jtag
  deriving DecidableEq, Repr

/-- The reference clocks (R586). -/
inductive Refclk where
  | r25 | r100 | r156
  deriving DecidableEq, Repr

/-- The pins whose rise ends a reset (R533). -/
inductive ResetPin where
  | pwrOk | sysRst | perst
  deriving DecidableEq, Repr

/-- What starts a management reset (R533). -/
inductive MgmtReset where
  /-- PERST_n low -/
  | perst
  | hotReset | functionReset
  deriving DecidableEq, Repr

/-- What V4 finds of a DDR5 channel at start-up (R383, R384, R411): populated, supported, trained at the rate, and its
    organisation. -/
structure ChanReport where
  populated : Bool
  supported : Bool
  trained : Bool
  dimms : BitVec 2
  ranks : BitVec 2
  x8 : Bool
  d32 : Bool
  deriving DecidableEq, Repr

/-- What the work of a start-up step finds outside the controller's own state (R535, R563). -/
structure StepReport where
  /-- channels M0 to M7 -/
  chans : List ChanReport
  /-- the rate at which every populated channel trains: 0b00 6400, 0b01 5600, 0b10 4800 MT/s -/
  rate : BitVec 2
  /-- installed capacity of each channel in bytes -/
  chanBytes : Nat
  /-- stacks that trained -/
  hbmOk : BitVec 2
  hbmRate0 : BitVec 2
  hbmRate1 : BitVec 2
  /-- pseudo-channels left unusable: stack H0 in [31:0], H1 in [63:32] -/
  pcLost : BitVec 64
  /-- lanes newly repaired, as entries of R552 -/
  repairs : List Word
  /-- ways whose tag entry reads back uncorrectable: slice, set, way -/
  badWays : List (SliceId × BitVec 14 × BitVec 4)
  /-- step 7 has run for 2 s -/
  syncLimit : Bool
  deriving DecidableEq, Repr

/-- The LTSSM states to which LTSSM_TRANSITION moves a PCP port, and the reception of a foreign TS set (R312). -/
inductive LtssmMove where
  | polling | foreignTs | configuration | recovery | l0 | detect
  deriving DecidableEq, Repr

/-- An LCI command with its arguments taken apart (R433, R434, R438). Port numbers are those of the ring and port
    commands: 0-7 P0-P7, 8-11 RING_E, RING_W, UP_A, UP_B. -/
inductive LciCmd where
  | sysInfo
  | applyOverlay (source : BitVec 4) (atTick : Bool) (ofs : Word) (tick : Tick)
  | commitAt (mask : BitVec 16) (scope : BitVec 2) (disarm : Bool) (tick : Tick)
  | logRead (toBar2 : Bool) (maxWords : BitVec 16) (start : Word) (ofs : Word)
  | fwBegin (len : Word)
  | fwWrite (ofs : Word) (imgOfs : Word) (len : Word)
  | fwCommit
  | fwCancel
  | thermal (mode : BitVec 3) (value : Word)
  | cacheFlush (whole : Bool) (pid : PartId) (first last : LineAddr)
  | cacheDisable (whole : Bool) (pid : PartId)
  | cacheEnable (whole : Bool) (pid : PartId)
  | partCreate (pid : PartId) (ways : BitVec 16) (pin : BitVec 27) (share : BitVec 24) (streams : List (BitVec 8 × PortId))
  | partSetWays (pid : PartId) (force : Bool) (slices ways : BitVec 16)
  | partSetShare (pid : PartId) (share : BitVec 24) (pin : BitVec 27)
  | partQuiesce (pid : PartId) (resume : Bool)
  | partFreeze (pid : PartId)
  | partSave (pid : PartId) (target checkpoint : Bool) (ofs : Word) (dest : CtrlId) (slot : BitVec 2)
      (homes : List (BitVec 8))
  | partRestore (fromSlot : Bool) (slot : BitVec 2) (newPid : PartId) (maskMode : Bool) (homeAct : BitVec 2)
      (lostFill : Bool) (ofs : Word) (portMap : Word) (ways : BitVec 16)
  | partRemove (pid : PartId)
  | beamAdmit (dry : Bool) (desc : BitVec 512)
  | beamStart (ctx : BitVec 8) (start : Tick)
  | beamCancel (ctx : BitVec 8)
  | beamStatus (ctx : BitVec 8)
  | sliceRetire (n : SliceId)
  | sliceReturn (n : SliceId)
  | portRetire (port : BitVec 4) (force : Bool)
  | portReturn (port : BitVec 4)
  | ringCensus (report : Bool) (ofs : Word)
  | ringKeySet (slot : Bool) (kgen : BitVec 8) (activate clear : Bool) (key : BitVec 256)
  | ringFold (port : BitVec 4)
  | ringUnfold (port : BitVec 4)
  | peerImg (slot : BitVec 2) (last : Bool) (first : Word) (words : List Word)
  | peerLedger (add : Bool) (ctx : BitVec 8) (origin : CtrlId) (charges : List (Word × Word))
  | peerFence (set : Bool) (ranges : List (BitVec 24 × BitVec 24))
  | peerQuery (src : CtrlId) (pid : PartId)
  | peerHomestep (stepNo action : BitVec 4) (move : BitVec 8)
  deriving DecidableEq, Repr

/-- The commands of the block: one constructor per row of the opcode table. -/
inductive Instr where
  /-- MANAGEMENT_RESET: PERST_n, or a PCIe hot reset or function-level reset, resets the management-PCIe island and flushes the HOST queues (R533). -/
  | managementReset (k : MgmtReset)
  /-- REFCLK_LOSS: A reference clock stops or departs by more than 1,000 ppm for over 1 us; REFCLK25 or REFCLK100 forces a power-on reset, and REFCLK156 takes the ring ports down (R586). -/
  | refclkLoss (c : Refclk)
  /-- THERMTRIP: The die sensor reads 125 °C and THERMTRIP_n is driven low and latched until power-on reset (R584). -/
  | thermtrip (tj : BitVec 8)
  /-- THERMAL_BACKSTOP: The die sensor reads the grade maximum Tj plus 10 °C, and the always-on island sets at least throttling level 5 without Lantern (R530). -/
  | thermalBackstop (tj : BitVec 8)
  /-- STARTUP_STEP_DONE: A start-up step completes, STAGE advances and the next step begins, stopping on an error as R536 gives (R535). -/
  | startupStepDone (r : StepReport)
  /-- CMD_DATA_WRITE: A write of MBX.CMD_DATA appends one word to a command queue, and a write to a full queue drops the word and flushes the queue (R416). -/
  | cmdDataWrite (m : Mailbox) (a : Master) (w : Word)
  /-- RPL_DATA_READ: A read of MBX.RPL_DATA removes and returns the oldest reply word, or returns 0 and counts UNDERRUN (R414). -/
  | rplDataRead (m : Mailbox) (a : Master)
  /-- TRC_DATA_READ: A read of MBX.TRC_DATA removes and returns the oldest trace word (R414). -/
  | trcDataRead (a : Master)
  /-- CMD_FLUSH: Writing CMD_FLUSH empties the command queue, discards commands not yet taken and increments the command epoch (R418). -/
  | cmdFlush (m : Mailbox) (a : Master)
  /-- RPL_FLUSH: Writing RPL_FLUSH empties the reply queue, including any held reply, and increments the reply epoch (R418). -/
  | rplFlush (m : Mailbox) (a : Master)
  /-- TRC_FLUSH: Writing TRC_FLUSH empties the trace queue and increments the trace epoch (R418). -/
  | trcFlush (a : Master)
  /-- OP_STATUS_READ: A read of MBX.OP_STATUS latches the slot's progress and result words for the reading master (R425). -/
  | opStatusRead (m : Mailbox) (k : BitVec 3) (a : Master)
  /-- OP_RELEASE: Writing RELEASE returns a slot in DONE, FAILED or ABORTED to IDLE (R424). -/
  | opRelease (m : Mailbox) (k : BitVec 3) (a : Master)
  /-- OP_ABORT: Writing ABORT asks a running abortable operation to end in ABORTED, keeping its effects so far (R426). -/
  | opAbort (m : Mailbox) (k : BitVec 3) (a : Master)
  /-- SCHEDULING_TICK: At the end of each Lantern scheduling tick, Lantern-A checks and takes every completed command, mailbox by mailbox, and queues one reply for each (R420). -/
  | schedulingTick (peersOk : Bool)
  /-- SYS_INFO: Returns the part identity, firmware version, controller state and device time (R434). -/
  | sysInfo (m : Mailbox) (q : BitVec 8)
  /-- APPLY_OVERLAY: Checks a whole overlay from NOR or BAR2 and then applies its records in order, optionally arming its commits at a tick (R549). -/
  | applyOverlay (m : Mailbox) (q : BitVec 8) (source : BitVec 4) (atTick : Bool) (ofs : Word) (tick : Tick)
  /-- COMMIT_AT: Arms a commit of the named groups at a tick on this controller, ring or tree, or disarms every member that has been armed (R435). -/
  | commitAt (m : Mailbox) (q : BitVec 8) (mask : BitVec 16) (scope : BitVec 2) (tick : Tick)
  /-- COMMIT_AT_DISARM: A PEER COMMIT_AT with DISARM set removes this controller's armed commit (R435). -/
  | commitAtDisarm (src : CtrlId) (q : BitVec 8)
  /-- LOG_READ: Returns firmware log records from a sequence number, either in the reply or into BAR2 (R434). -/
  | logRead (m : Mailbox) (q : BitVec 8) (toBar2 : Bool) (maxWords : BitVec 16) (start : Word) (ofs : Word)
  /-- FW_UPDATE_BEGIN: Opens a firmware update, first copying firmware A to B when A is the running image and B differs (R554). -/
  | fwUpdateBegin (m : Mailbox) (q : BitVec 8) (len : Word)
  /-- FW_UPDATE_WRITE: Writes package bytes from BAR2 into the NOR area of the image to which they belong (R554). -/
  | fwUpdateWrite (m : Mailbox) (q : BitVec 8) (ofs : Word) (imgOfs : Word) (len : Word)
  /-- FW_UPDATE_COMMIT: Checks every written image of the package and marks it for use, or erases the written areas on failure (R554). -/
  | fwUpdateCommit (m : Mailbox) (q : BitVec 8)
  /-- FW_UPDATE_CANCEL: Erases the first sector of every area that the update has written and closes the update (R554). -/
  | fwUpdateCancel (m : Mailbox) (q : BitVec 8)
  /-- THERMAL_JUNCTION_LIMIT: THERMAL_LIMIT mode 0 sets the issuing mailbox's junction limit (R436). -/
  | thermalJunctionLimit (m : Mailbox) (q : BitVec 8) (v : Word)
  /-- THERMAL_POWER_CAP: THERMAL_LIMIT mode 1 sets the issuing mailbox's package power cap (R436). -/
  | thermalPowerCap (m : Mailbox) (q : BitVec 8) (v : Word)
  /-- EMERGENCY_THROTTLE: THERMAL_LIMIT mode 2 is taken as an emergency command and sets throttling level 6 before the next tick (R529). -/
  | emergencyThrottle (m : Mailbox) (q : BitVec 8)
  /-- END_EMERGENCY: THERMAL_LIMIT mode 3 from the BMC ends the emergency, and the ladder resumes at level 5 (R529). -/
  | endEmergency (m : Mailbox) (q : BitVec 8)
  /-- THERMAL_CLEAR: THERMAL_LIMIT mode 4 clears the issuing mailbox's own limits (R436). -/
  | thermalClear (m : Mailbox) (q : BitVec 8)
  /-- CACHE_FLUSH: The walkers write back and invalidate, as FLUSH_L does, every line of an address range in a scope (R113). -/
  | cacheFlush (m : Mailbox) (q : BitVec 8) (whole : Bool) (pid : PartId) (first last : LineAddr)
  /-- CACHE_DISABLE: Starts a drain of the scope it names and returns at once (R124). -/
  | cacheDisable (m : Mailbox) (q : BitVec 8) (whole : Bool) (pid : PartId)
  /-- CACHE_ENABLE: Turns a scope that is off back on, so that fills resume (R127). -/
  | cacheEnable (m : Mailbox) (q : BitVec 8) (whole : Bool) (pid : PartId)
  /-- PART_CREATE: Creates an ACTIVE partition with its way mask, shares, pin budget and stream bindings (R291). -/
  | partCreate (m : Mailbox) (q : BitVec 8) (pid : PartId) (ways : BitVec 16) (pin : BitVec 27) (share : BitVec 24) (streams : List (BitVec 8 × PortId))
  /-- PART_SET_WAYS: Writes a partition's way masks for the named slices after a trial re-check of its beams (R290). -/
  | partSetWays (m : Mailbox) (q : BitVec 8) (pid : PartId) (force : Bool) (slices ways : BitVec 16)
  /-- PART_SET_SHARE: Sets a partition's weights and pin budget (R290). -/
  | partSetShare (m : Mailbox) (q : BitVec 8) (pid : PartId) (share : BitVec 24) (pin : BitVec 27)
  /-- PART_QUIESCE: The ports begin refusing the partition's requests, and the command runs until its open work has ended (R292). -/
  | partQuiesce (m : Mailbox) (q : BitVec 8) (pid : PartId)
  /-- PART_RESUME: PART_QUIESCE with RESUME set returns a QUIESCED partition to ACTIVE (R289). -/
  | partResume (m : Mailbox) (q : BitVec 8) (pid : PartId)
  /-- PART_FREEZE: Sets the freeze tick Tf at acceptance plus 10,000 ticks for every running context of the partition (R294). -/
  | partFreeze (m : Mailbox) (q : BitVec 8) (pid : PartId)
  /-- PART_SAVE: Writes the partition image to BAR2 or through PEER to a receive slot, writing the CRC word last (R296). -/
  | partSave (m : Mailbox) (q : BitVec 8) (pid : PartId) (target checkpoint : Bool) (ofs : Word) (dest : CtrlId) (slot : BitVec 2) (homes : List (BitVec 8))
  /-- PART_RESTORE: Checks an image, then carries out the home action, binds streams, loads counters and admits beams, or thaws the partition (R305). -/
  | partRestore (m : Mailbox) (q : BitVec 8) (fromSlot : Bool) (slot : BitVec 2) (newPid : PartId) (maskMode : Bool) (homeAct : BitVec 2) (lostFill : Bool) (ofs : Word) (portMap : Word) (ways : BitVec 16)
  /-- PART_REMOVE: Cancels the partition's beams, drains its scope, unbinds its streams and makes it ABSENT (R298). -/
  | partRemove (m : Mailbox) (q : BitVec 8) (pid : PartId)
  /-- BEAM_ADMIT: Runs the admission checks on a descriptor and assigns a context and an engine, or refuses with a reason (R250). -/
  | beamAdmit (m : Mailbox) (q : BitVec 8) (desc : BitVec 512) (peersOk : Bool)
  /-- BEAM_ADMIT_DRYRUN: Makes every admission check and reports the result without assigning anything or changing the ledger (R252). -/
  | beamAdmitDryrun (m : Mailbox) (q : BitVec 8) (desc : BitVec 512)
  /-- BEAM_START: Starts an ADMITTED context at start tick S, marks its consumer stream and calendars its first opening (R273). -/
  | beamStart (m : Mailbox) (q : BitVec 8) (c : BitVec 8) (start : Tick)
  /-- BEAM_CANCEL: Stops opening rows and releases the pins of every open row before the context becomes FREE (R274). -/
  | beamCancel (m : Mailbox) (q : BitVec 8) (c : BitVec 8)
  /-- BEAM_STATUS: Returns a context's beam record and resets WORST_SLACK (R275). -/
  | beamStatus (m : Mailbox) (q : BitVec 8) (c : BitVec 8)
  /-- SLICE_RETIRE: Folds a slice onto its partner by a fold walk, restages its pins and then commits the fold map (R567). -/
  | sliceRetire (m : Mailbox) (q : BitVec 8) (n : SliceId)
  /-- SLICE_RETURN: Self-tests a folded slice, runs the return walk and then commits the fold map with the slice's bit clear (R570). -/
  | sliceReturn (m : Mailbox) (q : BitVec 8) (n : SliceId) (selfTestOk : Bool)
  /-- PORT_RETIRE: Refuses new requests on a port, removes the port's copies of lines and puts the port in electrical idle (R339). -/
  | portRetire (m : Mailbox) (q : BitVec 8) (port : BitVec 4) (force : Bool)
  /-- PORT_RETURN: Brings a retired or held port back to A0 and trains it again (R340). -/
  | portReturn (m : Mailbox) (q : BitVec 8) (port : BitVec 4)
  /-- RING_CENSUS: Mode 0 takes a census of the ring and writes its result to BAR2 (R359). -/
  | ringCensus (m : Mailbox) (q : BitVec 8) (ofs : Word)
  /-- RING_CENSUS_REPORT: Mode 1 reports the result and records of the last census (R361). -/
  | ringCensusReport (m : Mailbox) (q : BitVec 8)
  /-- RING_KEY_SET: Writes a ring key slot, optionally makes it active, and reports the key check value (R358). -/
  | ringKeySet (m : Mailbox) (q : BitVec 8) (slot : Bool) (kgen : BitVec 8) (activate : Bool) (key : BitVec 256)
  /-- RING_KEY_CLEAR: RING_KEY_SET with CLEAR set clears a key slot that is not active (R437). -/
  | ringKeyClear (m : Mailbox) (q : BitVec 8) (slot : Bool)
  /-- RING_FOLD: Removes a ring port from the routes by an epoch and takes it down once its messages have drained (R372). -/
  | ringFold (m : Mailbox) (q : BitVec 8) (port : BitVec 4)
  /-- RING_UNFOLD: Trains and authenticates a ring port, then takes a census and commits an epoch that routes over the link (R375). -/
  | ringUnfold (m : Mailbox) (q : BitVec 8) (port : BitVec 4)
  /-- PEER_IMG: Writes partition image words into a receive slot and marks the image complete on LAST (R438). -/
  | peerImg (src : CtrlId) (q : BitVec 8) (slot : BitVec 2) (last : Bool) (first : Word) (words : List Word)
  /-- PEER_LEDGER: Adds or removes a beam's charges in the ring ledger (R246). -/
  | peerLedger (src : CtrlId) (q : BitVec 8) (add : Bool) (c : BitVec 8) (origin : CtrlId) (charges : List (Word × Word))
  /-- PEER_FENCE: Sets or clears the move fence for granules whose home is moving (R309). -/
  | peerFence (src : CtrlId) (q : BitVec 8) (set : Bool) (ranges : List (BitVec 24 × BitVec 24))
  /-- PEER_QUERY: Replies with the state of a partition on this controller (R308). -/
  | peerQuery (src : CtrlId) (q : BitVec 8) (origin : CtrlId) (pid : PartId)
  /-- PEER_HOMESTEP: Runs one named step of a home action and replies when it is done (R310). -/
  | peerHomestep (src : CtrlId) (q : BitVec 8) (stepNo action : BitVec 4) (move : BitVec 8)
  /-- REG_RECORD: A configuration record that makes a masked 32-bit register write as MGMT (R547). -/
  | regRecord (blk page : BitVec 6) (ofs : BitVec 16) (value mask : Word)
  /-- REG64_RECORD: A configuration record that makes an 8-byte write to a declared 64-bit pair (R547). -/
  | reg64Record (blk page : BitVec 6) (ofs : BitVec 16) (lo hi : Word)
  /-- IDX_RECORD: A configuration record that writes words into an IDX space with auto-increment (R547). -/
  | idxRecord (space : BitVec 8) (word : Word) (data : List Word)
  /-- CMD_RECORD: A configuration record that issues an LCI command as from HOST and waits for it to end (R547). -/
  | cmdRecord (header : Word) (args : List Word)
  /-- COMMIT_RECORD: A configuration record that writes GLB.COMMIT with its mask (R547). -/
  | commitRecord (mask : BitVec 16)
  /-- WAIT_RECORD: A configuration record that waits until a masked register value matches, or until its timeout passes (R547). -/
  | waitRecord (blk page : BitVec 6) (ofs : BitVec 16) (mask value : Word) (timeout elapsed : Word)
  /-- THERMAL_RECORD: A configuration record that sets the overlay's junction limit and power cap (R547). -/
  | thermalRecord (tj : BitVec 8) (cap : BitVec 16)
  /-- COMMIT: A write of GLB.COMMIT applies the staged copies of every named group, except those refused or armed (R467). -/
  | commit (a : Master) (mask : BitVec 16)
  /-- CACHE_CTL_EN_CLEAR: Clearing GLB.CACHE_CTL.EN starts a drain of the whole cache (R128). -/
  | cacheCtlEnClear (a : Master)
  /-- PART_CTL_EN_CLEAR: Clearing PART.CTL.EN starts a drain of that partition's scope and cancels its beams (R128). -/
  | partCtlEnClear (a : Master) (p : PartId)
  /-- VIEW_CTL_WRITE: A write of GLB.VIEW_CTL changes only the writing master's live-view bit (R464). -/
  | viewCtlWrite (a : Master) (w : Word)
  /-- PCP_LINK_EN_WRITE: A write of PCPn.LINK_CTL.EN either takes the port down to Detect or lets it train (R338). -/
  | pcpLinkEnWrite (a : Master) (p : PortId) (en : Bool)
  /-- RING_LINK_EN_WRITE: A write of RING_x.LINK_CTL.EN either lets the ring port train or takes it down (R354). -/
  | ringLinkEnWrite (a : Master) (p : RingPort) (en : Bool)
  /-- DDR_CTL_EN_CLEAR: Clearing DDRn.CTL.EN on a trained channel retires that channel (R573). -/
  | ddrCtlEnClear (a : Master) (n : BitVec 3)
  /-- DDR_CTL_EN_SET: Setting DDRn.CTL.EN on a retired channel trains it, writes every line poisoned and returns it (R574). -/
  | ddrCtlEnSet (a : Master) (n : BitVec 3)
  /-- ATOM_CTL_CLR: Writing CLR sets every predictor counter of the slice to 0b01, one counter per cycle (R218). -/
  | atomCtlClr (a : Master) (n : SliceId)
  /-- IDX_DATA_READ: A read of IDX.DATA returns a word of the selected space, snapshotting the entry on word 0 and advancing WORD (R459). -/
  | idxDataRead (a : Master)
  /-- IDX_DATA_WRITE: A write of IDX.DATA writes a writable word of the selected space, or drops the write and flags it (R458). -/
  | idxDataWrite (a : Master) (w : Word)
  /-- HIST_LO_READ: A read of TIM.HIST_LO returns the tick of edge NUM from the edge history and latches its high word (R481). -/
  | histLoRead (a : Master)
  /-- PAIR_READ: A read of a declared 64-bit pair returns one consistent value, using the per-master latch of the high word (R447). -/
  | pairRead (a : Master) (addr : BitVec 25)
  /-- READ_CLEAR: A read of an RC field returns its value and clears it (R7). -/
  | readClear (a : Master) (addr : BitVec 25) (len : BitVec 4)
  /-- CNT_EVT_WRITE: A write of a fixed counter sets COUNT, and the increment of that cycle is added to it (R496). -/
  | cntEvtWrite (a : Master) (e : BitVec 9) (v : BitVec 64)
  /-- CNT_MODE_WRITE: A write of PMU.CNT_MODE switches counters between edge mode and level mode (R497). -/
  | cntModeWrite (a : Master) (j : BitVec 4) (w : Word)
  /-- SMP_ENABLE: Setting EN of a sample counter takes its EVENT and MODE and starts counting (R501). -/
  | smpEnable (a : Master) (i : BitVec 3) (event : BitVec 9) (mode pfilt : Bool) (part : PartId)
  /-- SMP_REC_FREE: Writing 1 to REC_VALID frees a sample record (R503). -/
  | smpRecFree (a : Master) (i : BitVec 3)
  /-- DUMP_ENABLE: Setting PMU.DUMP_CTL.EN takes the dump parameters and schedules the snapshots (R505). -/
  | dumpEnable (a : Master) (ext : Bool) (nbuf : BitVec 8)
  /-- DUMP_ACK_WRITE: A write of PMU.DUMP_ACK hands dump buffers back to the writer (R506). -/
  | dumpAckWrite (a : Master) (v : BitVec 8)
  /-- IDLE_HINT_WRITE: A write of PWR.IDLE_HINT sets idle hints, and clearing a bit wakes the domain if it sleeps (R524). -/
  | idleHintWrite (a : Master) (v : BitVec 64)
  /-- REGISTER_WRITE: Any other register write, performed under the width, decode, type, lock, RWD and reach rules (R446). -/
  | registerWrite (a : Master) (addr : BitVec 25) (len : BitVec 4) (v : BitVec 64)
  /-- SMB_BLOCK_WRITE: An SMBus command 0x10 writes a register, after the PEC is checked (R445). -/
  | smbBlockWrite (pecOk : Bool) (ofs w : Word)
  /-- SMB_READ_OFFSET: An SMBus command 0x11 sets the offset of the next read (R445). -/
  | smbReadOffset (pecOk : Bool) (ofs : Word)
  /-- SMB_BLOCK_READ: An SMBus command 0x12 reads the register named by the last 0x11 (R445). -/
  | smbBlockRead (pecOk : Bool)
  /-- PCP_LINK_UP: The LTSSM enters L0 from Detect, and the port begins sending init flits (R322). -/
  | pcpLinkUp (p : PortId) (rate : BitVec 2) (x8 : Bool)
  /-- INIT_FLIT: An init flit from the requester is checked, and the port brings the link into service or counts PCP_PROTO (R322). -/
  | initFlit (p : PortId) (ver : BitVec 8) (role : Bool) (prbCred : BitVec 8)
  /-- FLIT_RECEIVE: A PCP flit frame is CRC-checked, then accepted, discarded or NAKed, and its acknowledgement and credits are taken (R319). -/
  | flitReceive (p : PortId) (f : PcpFrame)
  /-- PCP_REPLAY_TIMER: The replay timer expires, or a NAK arrives, and the port resends every unacknowledged flit, escalating to Recovery (R320). -/
  | pcpReplayTimer (p : PortId) (c : ReplayCause)
  /-- PCP_LINK_DOWN: The LTSSM enters Detect from L0 or Recovery; open requests, probes and the port filter are settled for the port (R338). -/
  | pcpLinkDown (p : PortId)
  /-- PORT_PURGE_DONE: The port-filter purge after link down ends, DOWN clears, and the port may train again (R338). -/
  | portPurgeDone (p : PortId)
  /-- PORT_RETIRE_TIMEOUT: No probe response has arrived for 10 ms during a port retire, so the remaining lines are purged poisoned (R339). -/
  | portRetireTimeout (p : PortId)
  /-- PORT_RETURN_TIMEOUT: A returned PCP port has not reached L0 after 100 ms, and its operation fails with NO_LINK (R340). -/
  | portReturnTimeout (port : BitVec 4)
  /-- RD_SH: Shared read request from a port, acted on against the line's state (R91). -/
  | rdSh (p : PortId) (h : PcpHdr)
  /-- RD_EX: Exclusive read request from a port (R91). -/
  | rdEx (p : PortId) (h : PcpHdr)
  /-- RD_1X: Read-once request that is granted I (R91). -/
  | rd1x (p : PortId) (h : PcpHdr)
  /-- UPG: Upgrade request, served as RD_EX where the port no longer holds the line (R92). -/
  | upg (p : PortId) (h : PcpHdr)
  /-- CLAIM: Exclusive ownership without data, for a full-line write (R105). -/
  | claim (p : PortId) (h : PcpHdr)
  /-- WB_D: A requester's dirty writeback of a whole line (R102). -/
  | wbD (p : PortId) (h : PcpHdr)
  /-- WB_C: A requester gives up a line that it holds in E (R102). -/
  | wbC (p : PortId) (h : PcpHdr)
  /-- DROP: A requester gives up a line that it holds in S (R102). -/
  | drop (p : PortId) (h : PcpHdr)
  /-- RD_NC: Uncached read, which never allocates (R107). -/
  | rdNc (p : PortId) (h : PcpHdr)
  /-- WR_NC: Uncached write, which enters a write-combining buffer (R108). -/
  | wrNc (p : PortId) (h : PcpHdr)
  /-- ATOM: Atomic operation, placed near or far and then executed (R214). -/
  | atom (p : PortId) (h : PcpHdr)
  /-- FLUSH_L: Removes a line from this controller and its requesters, writing it home if it is dirty (R112). -/
  | flushL (p : PortId) (h : PcpHdr)
  /-- BEAM_REL: A consumer stream releases the pin of one line (R263). -/
  | beamRel (p : PortId) (h : PcpHdr)
  /-- PRSP: A requester's probe response, with or without data, which closes the probe (R99). -/
  | prsp (p : PortId) (tag : BitVec 8) (l : LineAddr) (d : Option Line)
  /-- DOORBELL_ACCESS: RD_NC or WR_NC in the doorbell window is decoded by the port against its partition page (R37). -/
  | doorbellAccess (p : PortId) (write : Bool) (h : PcpHdr)
  /-- BEAM_RELEASE_DOORBELL: An 8-byte write to a beam release doorbell releases the pins of every row of the context below the value written (R264). -/
  | beamReleaseDoorbell (p : PortId) (h : PcpHdr)
  /-- REPLAY: A waiting request or referred snoop becomes ready and re-enters the slice pipeline (R56). -/
  | replay (sl : SliceId) (i : ReplayItem)
  /-- ALLOC_STALL_TIMEOUT: A request waiting for an eligible way becomes ready after 512 slice-island cycles (R61). -/
  | allocStallTimeout (sl : SliceId) (i : BitVec 8)
  /-- WC_WINDOW_EXPIRE: A write-combining buffer's window ends, and the buffer closes and performs its bytes (R110). -/
  | wcWindowExpire (sl : SliceId) (i : BitVec 6)
  /-- HBM_READ_COMPLETE: A chunk read from HBM is checked for ECC and LOC and then used, corrected or poisoned (R49). `odecc`: the stack reports a correction by its on-die code (R398). -/
  | hbmReadComplete (sl : SliceId) (q : BitVec 2) (pos : Nat) (err : EccOutcome) (odecc : Bool)
  /-- HBM_WRITE_ACCEPTED: The last chunk write is accepted by the pseudo-channel queue, freeing the fill or penumbra buffer (R73). -/
  | hbmWriteAccepted (sl : SliceId) (q : BitVec 2) (pos : Nat)
  /-- REPAIR_TRANSACTION: A late HBM read error enters the pipeline and sets the line to X with any poison writeback (R121). -/
  | repairTransaction (sl : SliceId)
  /-- FILL_INSTALL: With all four chunks and the grant present, the fill installs the line, updates the shadow tags and closes the entry (R73). -/
  | fillInstall (sl : SliceId) (i : BitVec 8)
  /-- ATOM_PERFORM: The ALU computes an atomic on the target chunk and writes the result at the perform point (R220). -/
  | atomPerform (sl : SliceId) (i : BitVec 8)
  /-- PENUMBRA_HOLD_END: A victim buffer's hold window counts down to 0 (R115). -/
  | penumbraHoldEnd (sl : SliceId) (i : BitVec 7)
  /-- PENUMBRA_WRITEBACK: A penumbra buffer whose data is gathered and that holds a WBK credit issues WB_DATA and enters MI_F (R115). -/
  | penumbraWriteback (sl : SliceId) (i : BitVec 7)
  /-- REFERRED_SNOOP: A snoop referred by the shadow tags passes the pipeline, changes state, probes and answers (R103). -/
  | referredSnoop (sl : SliceId)
  /-- WALKER_FLUSH_STEP: A walker step removes the lines of a set in the scope of a drain or flush, as FLUSH_L does (R125). -/
  | walkerFlushStep (sl : SliceId)
  /-- FOLD_WALK_STEP: A walker step evicts sectors of the set at the fold cursor during a retire or return (R33). -/
  | foldWalkStep (sl : SliceId)
  /-- FOLD_SET_DONE: A set of a fold walk is done, the cursor advances and held requests are released (R33). -/
  | foldSetDone (sl : SliceId)
  /-- SCRUB_STEP: A walker scrub step checks the tags, shadow tags and data of a set and rewrites corrected chunks (R561). -/
  | scrubStep (sl : SliceId)
  /-- DRAIN_END: Every walker has passed its sets and the flush buffers are freed, so the scope becomes off (R124). -/
  | drainEnd (whole : Bool) (p : PartId)
  /-- QUIESCE_DONE: A scheduling tick finds no open work of the partition, and it becomes QUIESCED (R293). -/
  | quiesceDone (p : PartId)
  /-- FREEZE_TICK: Device time reaches Tf, and the partition's running contexts enter FROZEN (R294). -/
  | freezeTick (p : PartId)
  /-- CANCEL_DONE: The last release step of a cancel passes, and the context becomes FREE with its ledger charges removed (R274). -/
  | cancelDone (c : BitVec 8)
  /-- RQ_SH: A shared read arrives at the home and waits in its line's order (R150). -/
  | rqSh (i : Input) (h : RingHdr) (b : ReqBody)
  /-- RQ_NI: A read without install arrives at the home (R150). -/
  | rqNi (i : Input) (h : RingHdr) (b : ReqBody)
  /-- RQ_EX: An exclusive read arrives at the home (R150). -/
  | rqEx (i : Input) (h : RingHdr) (b : ReqBody)
  /-- RQ_UPG: An upgrade arrives at the home (R150). -/
  | rqUpg (i : Input) (h : RingHdr) (b : ReqBody)
  /-- RQ_CLAIM: An exclusive request without data arrives at the home (R150). -/
  | rqClaim (i : Input) (h : RingHdr) (b : ReqBody)
  /-- RQ_WR: A masked write to be performed at the home arrives there (R150). -/
  | rqWr (i : Input) (h : RingHdr) (b : ReqBody)
  /-- RQ_NCRD: A read of an UNCACHED range arrives and is performed at the home DDR5 (R149). -/
  | rqNcrd (i : Input) (h : RingHdr) (b : ReqBody)
  /-- RQ_NCWR: A write of an UNCACHED range arrives and is performed at the home DDR5 (R149). -/
  | rqNcwr (i : Input) (h : RingHdr) (b : ReqBody)
  /-- RQ_ATOM: A far atomic arrives at the home (R223). -/
  | rqAtom (i : Input) (h : RingHdr) (b : ReqBody)
  /-- HOME_TXN_START: The home starts the oldest ready entry: it reads DDR5 and the far directory, answers for its own cache, launches the snoop and sends recalls (R149). -/
  | homeTxnStart (sl : SliceId)
  /-- FAR_RD: A cross-ring read request, crossed or injected at a gate with a far credit, arrives at the home (R179). -/
  | farRd (i : Input) (op : ReqOp) (gate : NodeId) (h : RingHdr) (b : ReqBody)
  /-- FAR_EX: A cross-ring exclusive, write or atomic request arrives at the home (R179). -/
  | farEx (i : Input) (op : ReqOp) (gate : NodeId) (h : RingHdr) (b : ReqBody)
  /-- FAR_RECALL: A gate accepts a recall, launches a snoop on its ring and, for a broadcast, forwards copies (R193). -/
  | farRecall (i : Input) (h : RingHdr) (b : RecallBody)
  /-- FAR_ACK: A recall answer or a far credit return reaches the home or a forwarding gate (R189). -/
  | farAck (i : Input) (h : RingHdr) (b : FarAckBody)
  /-- SNP_SH: A shared snoop reaches a node, which screens it, answers and forwards it, or ends the circuit at its home (R158). -/
  | snpSh (i : Input) (h : RingHdr) (b : SnpBody)
  /-- SNP_EX: An exclusive snoop reaches a node and is answered as it passes (R158). -/
  | snpEx (i : Input) (h : RingHdr) (b : SnpBody)
  /-- SNP_INV: An invalidating snoop reaches a node and is answered as it passes (R158). -/
  | snpInv (i : Input) (h : RingHdr) (b : SnpBody)
  /-- GRANT: A grant reaches the requesting entry, installing the line, closing an abandoned entry, or completing a far atomic (R96). -/
  | grant (i : Input) (h : RingHdr) (b : GrantBody)
  /-- GACK: The requester's acknowledgement reaches the home entry, which may then close (R151). -/
  | gack (i : Input) (h : RingHdr)
  /-- WB_DATA: A writeback reaches the home, which writes it, holds it or discards it, and acknowledges it (R162). -/
  | wbData (i : Input) (h : RingHdr) (b : WbBody)
  /-- DATA: Line data reaches a fill buffer or a home entry, and the chunks are forwarded early (R163). -/
  | data (i : Input) (h : RingHdr) (b : DataBody)
  /-- WB_ACK: A writeback acknowledgement frees its penumbra buffer (R115). -/
  | wbAck (i : Input) (h : RingHdr) (discarded : Bool)
  /-- WR_ACK: A write acknowledgement completes the combined WR_NC requests (R111). -/
  | wrAck (i : Input) (h : RingHdr)
  /-- ERR: An error response closes the named transaction or frees the named penumbra buffer (R144). -/
  | err (i : Input) (h : RingHdr) (status : BitVec 8) (wba : Bool)
  /-- CREDIT: End-to-end REQ or WBK credits are returned to a node (R134). -/
  | credit (i : Input) (h : RingHdr) (slice : SliceId) (nreq nwbk : BitVec 5)
  /-- FD_EVICTION: The home starts a directory eviction of a victim entry with SNP_EX recalls to the named rings (R199). -/
  | fdEviction (sl : SliceId)
  /-- SNOOP_TIMER: The snoop timer expires, and the snoop is launched again, or on the second expiry the line is poisoned and ERR is sent (R166). -/
  | snoopTimer (sl : SliceId) (far : Bool) (i : BitVec 6)
  /-- GRANT_TIMER: The grant timer expires, and the request completes with ring timeout while its entry is marked abandoned (R166). -/
  | grantTimer (sl : SliceId) (i : BitVec 8)
  /-- DATA_TIMER: The data timer expires, and the line is installed in X with the missing chunks poisoned (R166). -/
  | dataTimer (sl : SliceId) (i : BitVec 8)
  /-- WRITEBACK_TIMER: The writeback timer expires, and the buffer stays in MI_F and is counted (R166). -/
  | writebackTimer (sl : SliceId) (i : BitVec 7)
  /-- RECALL_TIMER: The recall timer expires, and it restarts, or on the second expiry acts as FAR_ACK with LOST set (R204). -/
  | recallTimer (sl : SliceId) (evict far : Bool) (i : BitVec 6)
  /-- GATE_CIRCUIT_TIMER: The gate circuit timer expires, and it relaunches, or on the second expiry sends FAR_ACK with LOST set (R204). -/
  | gateCircuitTimer (i : BitVec 6)
  /-- FAR_GRANT_TIMER: The far grant timer expires, as the ring grant timer does (R204). -/
  | farGrantTimer (sl : SliceId) (i : BitVec 8)
  /-- RING_TRAIN_DONE: A ring port completes PMD training, block lock and deskew, and enters AUTH (R354). -/
  | ringTrainDone (p : RingPort) (lanes : BitVec 8) (isForeign : Bool)
  /-- PRL_FRAME: A ring frame is checked, accepted or NAKed, and its credits and screened messages are taken (R349). -/
  | prlFrame (p : RingPort) (f : PrlFrame)
  /-- RING_REPLAY_TIMER: The ring replay timer expires, the frames are resent, and after REPLAY_MAX the port goes down (R349). -/
  | ringReplayTimer (p : RingPort)
  /-- BLOCK_LOCK_LOSS: A ring port loses block lock and goes down as a failed port, turning messages back and starting a census (R371). -/
  | blockLockLoss (p : RingPort) (lanes : BitVec 8)
  /-- LANE_SET: A LANE_SET management slot switches both sides to a new lane set (R351). -/
  | laneSet (p : RingPort) (set : BitVec 8)
  /-- LANE_SET_TIMEOUT: A LANE_SET exchange has not completed in 20 us, and the port goes down (R352). -/
  | laneSetTimeout (p : RingPort)
  /-- AUTH_CHAL: The partner's challenge arrives, and the port answers with AUTH_RESP carrying its MAC (R355). -/
  | authChal (p : RingPort) (ver : BitVec 4) (port : BitVec 2) (ctrl : CtrlId) (kgen : BitVec 8) (nonce : BitVec 128)
  /-- AUTH_RESP: The partner's MAC is verified, and AUTH_DONE is sent with the result (R356). -/
  | authResp (p : RingPort) (mac : BitVec 128)
  /-- AUTH_DONE: The partner's result arrives, and the port enters STANDBY on a double pass (R355). -/
  | authDone (p : RingPort) (r : BitVec 4)
  /-- AUTH_TIMEOUT: Authentication has not completed 1 ms after entering AUTH, and it ends with TIMEOUT (R357). -/
  | authTimeout (p : RingPort)
  /-- AUTH_RESTART: 100 ms after a failed exchange, authentication starts again (R357). -/
  | authRestart (p : RingPort)
  /-- CENSUS: A census slot arrives; the node appends its record and forwards or turns it, or the initiator forms the result (R359). -/
  | census (p : RingPort) (c : Census)
  /-- EPOCH_PREP: A member stages the tables of a new epoch and answers, or arms COMMIT_AT for Tm (R363). -/
  | epochPrep (p : RingPort) (initiator : CtrlId) (epoch : BitVec 4) (r : EpochResult) (tm : Option Tick)
  /-- EPOCH_ACK: The initiator gathers acknowledgements and sets the commit tick Tm (R363). -/
  | epochAck (p : RingPort) (member : CtrlId) (epoch : BitVec 4)
  /-- EPOCH_COMMIT: At Tm a member makes the new epoch current with its credit divisions (R363). -/
  | epochCommit (upper : Bool)
  /-- DRAIN: A DRAIN slot carries a node's counts of an old epoch's messages to Lantern-B (R365). -/
  | drain (p : RingPort) (d : DrainSum)
  /-- EPOCH_DRAIN_END: The counts of an old epoch balance, or 1 ms has passed, so the epoch dies and, at the limit, writebacks are resent (R365). -/
  | epochDrainEnd (upper : Bool)
  /-- PEER: A PEER fragment arrives and is assembled, and a complete command enters the PEER queue (R438). -/
  | peer (p : RingPort) (dst src : CtrlId) (words : List Word) (last : Bool)
  /-- PEER_ASSEMBLY_TIMEOUT: A sender's fragments stop for 1 ms, and its partly assembled command is discarded (R438). -/
  | peerAssemblyTimeout (src : CtrlId)
  /-- SLOW: A slow-partner notice makes homes and gates withhold credits from the named node (R369). -/
  | slow (p : RingPort) (origin : CtrlId) (node : NodeId) (on : Bool)
  /-- STARVE_TIMER: Starvation of a class for STARVE us marks the partner slow and raises RING_SLOW (R369). -/
  | starveTimer (p : RingPort)
  /-- STARVE_RETIRE_TIMER: Starvation lasting RETIRE us takes the port down as a failed port (R370). -/
  | starveRetireTimer (p : RingPort)
  /-- SLOW_CLEAR: 100 ms without starvation clears SLOW and restores the credit shares (R369). -/
  | slowClear (p : RingPort)
  /-- AUTO_RETURN_TIMER: Every 1 s, a failed port with AUTO_RETURN set tries to return (R375). -/
  | autoReturnTimer (p : RingPort)
  /-- SYNC: A SYNC arrives and is stamped, and SYNC_RSP is returned with t2 and t3 (R377). -/
  | sync (p : RingPort)
  /-- SYNC_RSP: SYNC_RSP arrives, the follower computes delay and offset, and it trims its counter (R377). -/
  | syncRsp (p : RingPort) (t1 t2 t3 t4 : Tick)
  /-- LOST_HOME_TIMEOUT: A penumbra buffer's home has been unreachable for 600 s, so the buffer is freed and DATA_UE is raised (R572). -/
  | lostHomeTimeout (sl : SliceId) (i : BitVec 7)
  /-- TSTAMP_EDGE: An edge on TSTAMP_IN is captured with its tick, and in encoder mode it may trigger a beam row (R583). -/
  | tstampEdge (i : BitVec 2) (falling : Bool) (before after : Word) (tick : Tick)
  /-- ROW_OPEN: A row's opening tick arrives, and its staging window starts (R236). -/
  | rowOpen (c : BitVec 8)
  /-- ROW_EXPIRY: The pins of row r expire at the opening of row r plus EXPIRE, and release steps are run (R236). -/
  | rowExpiry (c : BitVec 8)
  /-- STAGING_ISSUE: An engine issues the next staging read of a row at its pace tick, within its allotment (R256). -/
  | stagingIssue (k : BitVec 3)
  /-- STAGING_READ: A beam staging read passes the slice, hits or misses, and sets the pin (R258). -/
  | stagingRead (sl : SliceId)
  /-- RELEASE_STEP: A release step passes the slice and clears a line's pin (R265). -/
  | releaseStep (c : BitVec 8)
  /-- DIE_SENSOR_READ: Every 100 us, Lantern-A reads the hottest die sensor into PWR.THERMAL.TJ (R525). -/
  | dieSensorRead (tj : BitVec 8)
  /-- POWER_ESTIMATE: Every 1 ms, Lantern-A computes the estimated package power (R525). -/
  | powerEstimate (pkg : BitVec 16)
  /-- DVFS_WINDOW: At the end of each 1 ms window, Lantern-A chooses each slice's frequency from its occupancy (R513). -/
  | dvfsWindow (n : SliceId) (lookups cycles : Word)
  /-- VOLTAGE_RAMP_DONE: A slice voltage ramp ends, and the raised frequency takes effect (R512). -/
  | voltageRampDone (n : SliceId)
  /-- HBM_TEMP_READ: Every 1 ms the stack temperature is read, and refresh is doubled or restored (R402). -/
  | hbmTempRead (k : Bool) (temp : BitVec 8)
  /-- RDIMM_TEMP_READ: Every 16 ms the RDIMM sensors are read into DDRn.TEMP (R525). -/
  | rdimmTempRead (n : BitVec 3) (temp : BitVec 8)
  /-- MR4_READ: Every 16 ms MR4 of every rank is read to set its tREFI (R393). -/
  | mr4Read (n : BitVec 3) (double : Bool)
  /-- A1_IDLE_ENTRY: After 64 island cycles with no work, the domain's clock is gated into A1 (R514). -/
  | a1IdleEntry (d : BitVec 6)
  /-- DOMAIN_ENTRY_DONE: A domain completes its entry to A2 or A3, unless arriving work aborts the entry (R517). -/
  | domainEntryDone (d : BitVec 6)
  /-- WAKE_ALARM: A wake alarm fires, and a sleeping domain begins waking for its calendared event (R520). -/
  | wakeAlarm (d : BitVec 6)
  /-- DOMAIN_WAKE_DONE: A domain reaches A0 after its wake time and any reinitialisation, bringing its device-time copy into step (R514). -/
  | domainWakeDone (d : BitVec 6) (ok : Bool)
  /-- DDR_REFRESH: The tREFI interval elapses, and a same-bank refresh is issued or postponed (R393). -/
  | ddrRefresh (n : BitVec 3) (bank : BitVec 8) (limit : BitVec 4)
  /-- DDR_RFM: A bank's activate count reaches RAAIMT, and same-bank RFM is issued (R394). -/
  | ddrRfm (n : BitVec 3) (bank : BitVec 8) (raaimt : BitVec 16)
  /-- HBM_REFRESH: The tREFI interval elapses, and per-bank refresh is issued (R401). -/
  | hbmRefresh (sl : SliceId) (q : BitVec 2) (bank : BitVec 4) (limit : BitVec 4)
  /-- ALERT_N: An RDIMM signals a write-CRC or parity error, and the command is reissued or a retrain in place starts (R391). -/
  | alertN (n : BitVec 3)
  /-- RETRAIN_DONE: A retrain in place ends, and the channel resumes or is retired (R405). -/
  | retrainDone (n : BitVec 3) (ok : Bool)
  /-- TRACKING: Every 100 ms, V4 and V5 check drift and adjust memory timing (R406). -/
  | tracking (lost : BitVec 64)
  /-- PATROL_SCRUB_BURST: A calendared patrol-scrub burst reads lines and writes back corrections or poison (R396). -/
  | patrolScrubBurst (n : BitVec 3) (outcomes : List (Nat × EccOutcome))
  /-- DDR_READ_COMPLETE: A home DDR5 read completes, and the line is used, corrected or delivered poisoned (R390). -/
  | ddrReadComplete (n : BitVec 3) (pos : Nat) (err : EccOutcome)
  /-- ENGINE_WATCHDOG: An engine's 1 ms internal watchdog expires, and the engine stops (R565). -/
  | engineWatchdog (e : BitVec 6)
  /-- ENGINE_STOP: An engine stops on a fault, FW_FAULT is raised, and the engine is reloaded and restarted (R565). -/
  | engineStop (e : BitVec 6) (memoryLost : Bool)
  /-- COUNTER_WRAP: A fixed counter wraps from its maximum to 0 and sets OVF (R496). -/
  | counterWrap (e : BitVec 9) (n : BitVec 8)
  /-- SAMPLE_OVERFLOW: A sample counter overflows, reloads, sets OVF, raises SAMPLE and arms a capture (R502). -/
  | sampleOverflow (i : BitVec 3) (n : BitVec 8)
  /-- SAMPLE_CAPTURE: The first transaction past the capture point after an overflow fills the sample record (R502). -/
  | sampleCapture (i : BitVec 3) (a : Addr) (port : PortId) (portv : Bool) (part : PartId) (cls : BitVec 3) (op : BitVec 8) (slice : SliceId) (skid : BitVec 6)
  /-- DUMP_SNAPSHOT: At a snapshot tick, every island latches its counters, and the record is written to the next free buffer or skipped (R505). -/
  | dumpSnapshot (busMaster : Bool)
  /-- RESET_RELEASE: PWR_OK, SYS_RST_n or PERST_n rises so that a reset ends and start-up or the management endpoint begins (R533). -/
  | resetRelease (pin : ResetPin)
  /-- REFCLK_RETURN: A lost reference clock has been within its requirements for 1 ms, so the held reset ends or the ring ports come back (R586). -/
  | refclkReturn (c : Refclk)
  /-- LTSSM_TRANSITION: The PCP LTSSM moves between Detect, Polling, Configuration and Recovery on receiver detection and received ordered sets, counting foreign TS sets and returning from Recovery to L0 (R312). -/
  | ltssmTransition (p : PortId) (t : LtssmMove)
  /-- PEER_UNREACHABLE: A member has not answered a PEER command within 20 us, so Lantern-A disarms the armed members and the operation fails (R435). -/
  | peerUnreachable (k : SlotRef)
  /-- BAR2_WRITE: A host write to BAR2 writes the bulk buffer, or is dropped and counted in GLB.BAR2_REJECT when the range is held or out of range (R428). -/
  | bar2Write (ofs : BitVec 22) (bytes : List Byte)
  /-- REGISTER_READ: A BAR0 or JTAG register read that wakes a domain in A2, reads all-ones and sets DOMAIN_OFF in A3, or flags WIDTH or UNALIGNED (R456). -/
  | registerRead (a : Master) (addr : BitVec 25) (len : BitVec 4)
  /-- OPERATION_PROGRESS: Lantern advances a running background operation such as PART_SAVE, LOG_READ to BAR2, FW_UPDATE or PART_RESTORE by one unit, and ends its slot DONE or FAILED (R430). -/
  | operationProgress (k : SlotRef) (reply : BitVec 8)
  /-- SNAPSHOT_TICK: Device time reaches the checkpoint tick Tc, and each beam's runtime words are taken for the image (R297). -/
  | snapshotTick (k : SlotRef)
  /-- PORT_FILTER_PURGE_STEP: A walker step purges or probes the port-filter entries of a set for a downed or retiring port, or after an uncorrectable filter entry (R338). -/
  | portFilterPurgeStep (p : PortId) (sl : SliceId)
  /-- MOVE_WALK_STEP: A walker step of a home action sends lines of the moving ranges to the new home as WB_DATA (R310). -/
  | moveWalkStep (sl : SliceId)
  /-- CHANNEL_RETURN_DONE: The training and poison fill of a returned DDR5 channel end, RETIRED clears or training failure sets CFG_ERR, and beams are re-checked (R574). -/
  | channelReturnDone (n : BitVec 3) (ok : Bool)
  /-- PREDICTOR_CLEAR_DONE: A predictor clear started by CLR has set its last counter, and CLR_BUSY clears (R218). -/
  | predictorClearDone (sl : SliceId)
  /-- DEBUG_HALT: A debug request halts or resumes an engine, setting or clearing its HALTED bit (R488). -/
  | debugHalt (e : BitVec 6) (halt : Bool)
  /-- POWER_ON_RESET: PWR_OK goes low and everything returns to its reset state; start-up begins when PWR_OK and SYS_RST_n are both high (R533). -/
  | powerOnReset
  /-- SYSTEM_RESET: SYS_RST_n low for at least 1 us resets every island except the boot attempt count, the reset cause and the firmware log (R533). -/
  | systemReset
  /-- RAIL_MONITOR_TRIP: VDD_AON or VIN_SLICE falls below 90 % while PWR_OK is high, and a power-on reset starts within 2 us (R578). -/
  | railMonitorTrip
  /-- BOOT_WATCHDOG: READY has not been set 10 s after reset, so a system reset starts and the attempt count rises (R537). -/
  | bootWatchdog
  /-- NOP_RECORD: A NOP record of a configuration image, which does nothing (R547). -/
  | nopRecord
  /-- ARMED_COMMIT_FIRE: The device time reaches the armed commit tick, and the armed groups are applied (R468). -/
  | armedCommitFire
  /-- SYNC_PERIOD: The exchange period expires, and the node sends SYNC to its follower (R377). -/
  | syncPeriod
  /-- RESIDENCY_REPORT: The slice reports a pinned line's residency tick, or an error, to the engine (R259). -/
  | residencyReport
  /-- THROTTLE_WINDOW: At the end of each 1 ms window, Lantern-A sets the throttling level for the next window (R528). -/
  | throttleWindow
  deriving DecidableEq, Repr

end Sys2Proof
end

