-- ==== Sys2Proof/Decode.lean ====
section
/-! DEFINITION. The commands that words spell. The rows of spec/opcode_table.json give no bits, so that no word spells a
    command; the words of LCI commands are taken apart in Machine/LciOps.lean (R415, R432-R438). -/

namespace Sys2Proof

/-- The command that an opcode-table word spells: none, for no row gives bits. -/
def decodeTableWord (_nbits _w : Nat) : Option Instr := none

end Sys2Proof
end

