-- ==== Sys2Proof/Machine/Table.lean ====
section
/-! DEFINITION. Reading and writing of indexed resources and of byte-addressed memory, each kept in one
    canonical form: indexes rising, and nothing listed that equals what an unlisted index reads as. -/

namespace Sys2Proof.Machine

/-- The value of entry `k`, `d` where none is listed. -/
def tget {α : Type} (d : α) : Table α → Nat → α
  | [], _ => d
  | (j, v) :: t, k => if j = k then v else tget d t k

/-- List `v` at `k`. -/
def tins {α : Type} (k : Nat) (v : α) : Table α → Table α
  | [] => [(k, v)]
  | (j, w) :: t => if k < j then (k, v) :: (j, w) :: t else if k = j then (k, v) :: t else (j, w) :: tins k v t

/-- Unlist `k`. -/
def tdel {α : Type} (k : Nat) (t : Table α) : Table α := t.filter fun e => e.1 ≠ k

/-- Entry `k` becomes `v`; an entry that becomes the default is unlisted. -/
def tset {α : Type} [DecidableEq α] (d : α) (t : Table α) (k : Nat) (v : α) : Table α :=
  if v = d then tdel k t else tins k v t

/-- Indexes rise strictly from `lo` on, and no listed value is the default. -/
def twfFrom {α : Type} [DecidableEq α] (d : α) : Nat → Table α → Bool
  | _, [] => true
  | lo, (j, v) :: t => decide (lo ≤ j) && decide (v ≠ d) && twfFrom d (j + 1) t

/-- The canonical form of a table. -/
def twf {α : Type} [DecidableEq α] (d : α) (t : Table α) : Bool := twfFrom d 0 t

/-- What a byte of memory that nothing has written reads as. Log entry 1. -/
def unwrittenByte : Byte := 0

/-- One byte of a memory. -/
def mread1 (m : List Host.Cell) (a : Nat) : Byte := tget unwrittenByte m a

/-- One byte written. -/
def mwrite1 (m : List Host.Cell) (a : Nat) (b : Byte) : List Host.Cell := tset unwrittenByte m a b

/-- The cells that list the bytes `bs` from address `a` on. -/
def mcells : Nat → List Byte → List Host.Cell
  | _, [] => []
  | a, b :: bs => if b = unwrittenByte then mcells (a + 1) bs else (a, b) :: mcells (a + 1) bs

/-- The bytes `bs` written from address `a` on. -/
def mwrite (m : List Host.Cell) (a : Nat) (bs : List Byte) : List Host.Cell :=
  (m.filter fun c => c.1 < a) ++ mcells a bs ++ (m.filter fun c => a + bs.length ≤ c.1)

/-- `n` bytes read from address `a` on. -/
def mread (m : List Host.Cell) (a : Nat) : Nat → List Byte
  | 0 => []
  | n + 1 => mread1 m a :: mread m (a + 1) n

/-- The canonical form of a memory. -/
def Memory.wf (m : List Host.Cell) : Bool := twf unwrittenByte m

/-- The low `n` bytes of a bit vector, least significant first. -/
def bytesOf {w : Nat} (v : BitVec w) : Nat → List Byte
  | 0 => []
  | n + 1 => BitVec.ofNat 8 v.toNat :: bytesOf (v >>> 8) n

/-- The number that bytes spell, least significant first. -/
def natOfBytes : List Byte → Nat
  | [] => 0
  | b :: bs => b.toNat + 256 * natOfBytes bs

/-- Saturating increment. -/
def satInc {w : Nat} (v : BitVec w) : BitVec w := if v = BitVec.allOnes w then v else v + 1

/-- Bit `i` set to `b`. -/
def setBit {w : Nat} (v : BitVec w) (i : Nat) (b : Bool) : BitVec w :=
  if b then v ||| BitVec.twoPow w i else v &&& ~~~(BitVec.twoPow w i)

/-- The numbers of the bits that are set. -/
def bitsOf {w : Nat} (v : BitVec w) : List Nat := (List.range w).filter fun i => v.getLsbD i

/-- How many bits are set. -/
def popcount {w : Nat} (v : BitVec w) : Nat := (bitsOf v).length

/-- Bits [lo+n-1:lo] of `v` replaced by `x`. -/
def putBits {w n : Nat} (v : BitVec w) (lo : Nat) (x : BitVec n) : BitVec w :=
  (v &&& ~~~((BitVec.allOnes n).setWidth w <<< lo)) ||| (x.setWidth w <<< lo)

end Sys2Proof.Machine
end

