-- ==== Sys2Proof/Machine/Crc.lean ====
section
/-! DEFINITION. The check codes and hashes that the spec names: CRC-64 (R317), CRC-32C (R301), SHA-256 (FIPS 180-4) and
    HMAC-SHA-256 (RFC 2104) for the link authentication (R356). -/

namespace Sys2Proof.Machine

/-- One bit of a reflected CRC. -/
def crcBit {w : Nat} (poly c : BitVec w) : BitVec w := if c.getLsbD 0 then (c >>> 1) ^^^ poly else c >>> 1
/-- One byte of a reflected CRC. -/
def crcByte {w : Nat} (poly c : BitVec w) (b : Byte) : BitVec w :=
  (List.range 8).foldl (fun c _ => crcBit poly c) (c ^^^ b.setWidth w)
/-- CRC-64 of bytes in transmission order (R317). -/
def crc64 (bs : List Byte) : BitVec 64 :=
  ~~~(bs.foldl (crcByte 0xc96c5795d7870f42) (BitVec.allOnes 64))
/-- CRC-32C of bytes in transmission order (R301, R346). -/
def crc32c (bs : List Byte) : BitVec 32 :=
  ~~~(bs.foldl (crcByte 0x82f63b78) (BitVec.allOnes 32))

/-! SHA-256. Its constants are the first 32 bits of the fractional parts of roots of the first primes. -/

/-- The first 64 primes. -/
def primes : List Nat := (List.range 312).filter fun n => decide (2 ≤ n) && (List.range n).all fun d => decide (d < 2) || n % d != 0
/-- The largest number of the form r + (less than 2 ^ k) whose power m is at most x. -/
def rootBelow (m x : Nat) : Nat → Nat → Nat
  | 0, r => r
  | k + 1, r => rootBelow m x k (if (r + 2 ^ k) ^ m ≤ x then r + 2 ^ k else r)
/-- 32 bits of the fraction of the root m of each of the first n primes, which are below 2 ^ 9. -/
def rootBits (m n : Nat) : List (BitVec 32) :=
  (primes.take n).map fun p => BitVec.ofNat 32 (rootBelow m (p * 2 ^ (32 * m)) 37 0)
/-- The round constants: cube roots. -/
def shaK : List (BitVec 32) := rootBits 3 64
/-- The initial hash value: square roots. -/
def shaInit : List (BitVec 32) := rootBits 2 8
/-- The sum of a word's rotations to the right. -/
def rotations (x : BitVec 32) (ns : List Nat) : BitVec 32 := ns.foldl (fun v n => v ^^^ x.rotateRight n) 0
/-- Words of bytes, most significant byte first. -/
def beWords : List Byte → List (BitVec 32)
  | a :: b :: c :: d :: t => (a ++ b ++ c ++ d) :: beWords t
  | _ => []
/-- The message schedule, newest word first, grown by n words from its first sixteen. -/
def shaSchedule (w : List (BitVec 32)) : Nat → List (BitVec 32)
  | 0 => w
  | n + 1 =>
    let w2 := w.getD 1 0
    let w15 := w.getD 14 0
    let grown := w.getD 15 0 + w.getD 6 0 + (w15 >>> 3 ^^^ rotations w15 [7, 18]) + (w2 >>> 10 ^^^ rotations w2 [17, 19])
    shaSchedule (grown :: w) n
/-- One round on the eight working variables. -/
def shaRound (h : List (BitVec 32)) (kw : BitVec 32) : List (BitVec 32) :=
  match h with
  | [a, b, c, d, e, f, g, x] =>
    let chosen := g ^^^ (e &&& (f ^^^ g))
    let most := (a &&& b) ||| (c &&& (a ||| b))
    let u := kw + x + chosen + rotations e [6, 11, 25]
    [u + most + rotations a [2, 13, 22], a, b, c, d + u, e, f, g]
  | _ => h
/-- One block of 64 bytes. -/
def shaBlock (h : List (BitVec 32)) (bs : List Byte) : List (BitVec 32) :=
  let w := (shaSchedule (beWords bs).reverse 48).reverse
  let r := (shaK.zip w).foldl (fun h kw => shaRound h (kw.1 + kw.2)) h
  (h.zip r).map fun p => p.1 + p.2
/-- The blocks of a padded message. -/
def shaBlocks (h : List (BitVec 32)) (bs : List Byte) : Nat → List (BitVec 32)
  | 0 => h
  | n + 1 => shaBlocks (shaBlock h (bs.take 64)) (bs.drop 64) n
/-- The padded message. -/
def shaPad (bs : List Byte) : List Byte :=
  let z := (119 - bs.length % 64) % 64
  bs ++ [0x80] ++ List.replicate z 0 ++ (bytesOf (BitVec.ofNat 64 (8 * bs.length)) 8).reverse
/-- SHA-256 of bytes. -/
def sha256 (bs : List Byte) : List Byte :=
  let p := shaPad bs
  (shaBlocks shaInit p (p.length / 64)).flatMap fun w => (bytesOf w 4).reverse
/-- HMAC-SHA-256 under a key of 32 bytes. -/
def hmac (key msg : List Byte) : List Byte :=
  let k := key ++ List.replicate 32 0
  sha256 (k.map (· ^^^ 0x5c) ++ sha256 (k.map (· ^^^ 0x36) ++ msg))

end Sys2Proof.Machine
end

