-- ==== Sys2Proof/Machine/StateCache.lean ====
section
/-! DEFINITION. The state of the sixteen slices: tags, shadow tags, port filter, buffers, conflict queue,
    HBM queues, predictor control (chapters 3, 4 and 7 of the spec). Plain data only. -/

namespace Sys2Proof.Machine

/-- A primary tag entry (R40). `st` holds the 32 line states, `err` what its SECDED code finds (R598). -/
structure TagEntry where
  tag : BitVec 18
  sv : Bool
  part : PartId
  rqh : Bool
  pin : BitVec 32
  st : BitVec 96
  err : EccOutcome
  deriving DecidableEq, Repr

/-- A shadow tag entry with its stored parity (R76). -/
structure ShadowEntry where
  tag : BitVec 18
  sv : Bool
  pres : BitVec 32
  owng : BitVec 8
  par : BitVec 4
  deriving DecidableEq, Repr

/-- A port-filter entry (R81). -/
structure PfEntry where
  ptag : BitVec 26
  hold : BitVec 8
  exh : Bool
  fsl : Bool
  err : EccOutcome
  deriving DecidableEq, Repr

/-- A far-directory entry (R186). -/
structure FdEntry where
  ftag : BitVec 25
  valid : Bool
  bcast : Bool
  exr : Bool
  ownp : BitVec 2
  pv : BitVec 4
  ptr0 : BitVec 8
  ptr1 : BitVec 8
  ptr2 : BitVec 8
  ptr3 : BitVec 8
  err : EccOutcome
  deriving DecidableEq, Repr

/-- Who issued a request that a slice carries out. -/
inductive ReqSrc where
  | port (p : PortId)
  /-- a beam staging read: context, row, line of the row (R258) -/
  | beam (ctx : BitVec 8) (row : Nat) (idx : BitVec 16)
  /-- the write of a closing write-combining buffer (R108) -/
  | wc (i : BitVec 6)
  deriving DecidableEq, Repr

/-- A request inside a slice: a PCP request after its port has decoded it, a staging read, or the write
    of a write-combining buffer. `cons` marks a consumer stream (R261), `rel` one whose beam is in release mode
    consume (R262). -/
structure Req where
  src : ReqSrc
  op : PcpOp
  hdr : PcpHdr
  part : PartId
  cons : Bool
  rel : Bool
  /-- the port's link has gone down: the completion is discarded, no filter entry is made (R338) -/
  dead : Bool
  deriving DecidableEq, Repr

/-- The transient states of a miss-table entry (R89). -/
inductive Transient where
  | none | isW | imW | smW
  deriving DecidableEq, Repr

/-- The kinds of miss-table entry: waiting in the conflict queue (R56), ring or local (R89), and the entry
    of an atomic that needs neither (R219, R222). -/
inductive MKind where
  | waiting | ring | loc | bare
  deriving DecidableEq, Repr

/-- What a waiting request or snoop waits for (R56, R61, R83, R117). -/
inductive WaitOn where
  /-- until the object with this serial number closes -/
  | closed (id : Nat)
  /-- until one of the objects with these serial numbers closes (R83) -/
  | anyClosed (ids : List Nat)
  /-- until the penumbra buffer with this serial number has gathered its data, or is gone -/
  | gathered (id : Nat)
  /-- until PRB of the penumbra buffer with this serial number is 0 -/
  | probed (id : Nat)
  /-- R61: an eligible way of the set; a release in the set, or the timeout, makes it ready -/
  | alloc (set : BitVec 14)
  /-- R558: until the walk after an uncorrectable filter entry has passed -/
  | filterWalk (pfset : BitVec 11)
  /-- a snoop: until the line's set is neither in motion (R33) nor lost (R44) -/
  | unheld (l : LineAddr)
  | ready
  deriving DecidableEq, Repr

/-- The pool a miss-table entry was taken from (R57). -/
inductive Pool where
  | shared | port (p : PortId) | beam
  deriving DecidableEq, Repr

/-- A miss-table entry (R57, R89) with its fill buffer (R71). -/
structure MissEntry where
  serial : Nat
  pool : Pool
  req : Req
  kind : MKind
  tr : Transient
  waitOn : WaitOn
  way : BitVec 4
  hasWay : Bool
  noInstall : Bool
  reqOp : ReqOp
  home : CtrlId
  far : Bool
  reqSent : Bool
  start : Tick
  fill : Line
  fillV : BitVec 4
  fillDirty : Bool
  supData : Bool
  psnSeen : Bool
  fwd : BitVec 4
  grant : Option GrantBody
  grantHdr : Option RingHdr
  grantTick : Tick
  prb : BitVec 8
  prbLine : Option Line
  abandoned : Bool
  behind : Bool
  predUpd : Bool
  noMsg : Bool
  rdPend : BitVec 4
  performed : Bool
  old : BitVec 128
  poisoned : Bool
  /-- a performed atomic with KEEP = 1 whose completion waits for a filter entry (R221) -/
  owesCmp : Bool
  /-- the grant timer and the data timer in µs, as they were when they started (R164, R202) -/
  tmo : Nat
  dtmo : Nat
  deriving DecidableEq, Repr

/-- A fill buffer, or a penumbra line being reinstalled, whose chunk writes the pseudo-channel queue has
    not all accepted (R73, R74). -/
structure FillDrain where
  slice : SliceId
  serial : Nat
  /-- the miss-table entry whose fill buffer it is, or the penumbra buffer -/
  entry : Option (BitVec 8)
  pen : Option (BitVec 7)
  laddr : LineAddr
  line : Line
  left : BitVec 4
  deriving DecidableEq, Repr

/-- Why a penumbra buffer exists (R114). -/
inductive PenKind where
  | victim | flush | poison | snoop
  deriving DecidableEq, Repr

/-- Who is told when a flush buffer is freed (R112, R124). -/
inductive PenOwner where
  | none
  | flushReq (p : PortId) (ptag : BitVec 10)
  | walker
  deriving DecidableEq, Repr

/-- DATA that a buffer owes to a snoop (R104, R159, R160). -/
structure Supply where
  dst : CtrlId
  txn : BitVec 12
  htag : BitVec 10
  hkind : BitVec 2
  crit : BitVec 2
  tohome : Bool
  freeAfter : Bool
  deriving DecidableEq, Repr

/-- A penumbra buffer (R114). `mif` tells MI_F from MI_P; `resetX` is the third row of R121;
    `wbStart` and `wbFired` belong to the writeback timer (R166). -/
structure PenBuf where
  serial : Nat
  laddr : LineAddr
  mif : Bool
  kind : PenKind
  frm : LState
  dirty : Bool
  poison : Bool
  chv : BitVec 4
  prb : BitVec 8
  part : PartId
  holdt : BitVec 8
  supplied : Bool
  data : Line
  probeData : Bool
  owner : PenOwner
  supply : Option Supply
  resetX : Bool
  dest : CtrlId
  move : Bool
  resent : Bool
  wbStart : Tick
  wbFired : Bool
  /-- the writeback timer in µs, as it was when it started (R164) -/
  wbTmo : Nat
  /-- the ring and the epoch under which the writeback was sent (R373) -/
  wbUpper : Bool
  wbEpoch : BitVec 4
  /-- the eviction was cancelled: the buffer only holds data for its writes to HBM (R117) -/
  back : Bool
  /-- kind snoop: the line stays here in O or S after the probe (R103) -/
  stay : Bool
  deriving DecidableEq, Repr

/-- The life of a write-combining buffer (R108-R111). -/
inductive WcState where
  | opened | closing | writing
  deriving DecidableEq, Repr

/-- A write-combining buffer (R109). -/
structure WcBuf where
  serial : Nat
  laddr : LineAddr
  port : PortId
  part : PartId
  data : Line
  mask : BitVec 128
  ptags : List (BitVec 10)
  state : WcState
  deriving DecidableEq, Repr

/-- Where a chunk read from HBM goes. -/
inductive HbmDest where
  | deliv (id : Nat)
  | xfer (id : Nat)
  | pen (i : BitVec 7) (serial : Nat)
  | entry (i : BitVec 8) (serial : Nat)
  | home (far : Bool) (i : BitVec 6) (serial : Nat)
  | scrub
  /-- a write of the fill drain with this serial number -/
  | fill (serial : Nat)
  | none
  deriving DecidableEq, Repr

/-- An operation waiting in a pseudo-channel queue: a chunk read, or a chunk write under a byte mask. -/
structure HbmOp where
  write : Bool
  laddr : LineAddr
  set : BitVec 14
  way : BitVec 4
  chunk : BitVec 2
  dest : HbmDest
  data : Chunk
  mask : BitVec 32
  poison : Bool
  beam : Bool
  /-- the request's partition (R285) -/
  part : PartId
  deriving DecidableEq, Repr

/-- Weighted round robin at a point of R285: the partition whose turn it is, and how many it may still send before the next. -/
structure Wrr where
  turn : PartId
  left : Nat
  deriving DecidableEq, Repr

/-- A transfer of chunks from HBM to a snoop's requester or home (R103, R160). -/
structure Xfer where
  id : Nat
  laddr : LineAddr
  supply : Supply
  got : BitVec 4
  line : Line
  deriving DecidableEq, Repr

/-- A transfer of chunks from HBM to a port (R70, R333). -/
structure Deliv where
  id : Nat
  slice : SliceId
  laddr : LineAddr
  port : PortId
  ptag : BitVec 10
  gst : LState
  crit : BitVec 2
  want : BitVec 4
  got : BitVec 4
  line : Line
  psnSeen : Bool
  req : Req
  oldv : BitVec 128
  deriving DecidableEq, Repr

/-- Who waits for a probe response (R95, R102, R115). -/
inductive ProbeOwner where
  | miss (sl : SliceId) (i : BitVec 8) (serial : Nat)
  | pen (sl : SliceId) (i : BitVec 7) (serial : Nat)
  | lprobe (sl : SliceId) (serial : Nat)
  | none
  deriving DecidableEq, Repr

/-- A probe of a port, held or outstanding. `taken` is a WB_D taken as its data (R101); `after` holds the tags of the
    completions for the line that the slice issued before it and that have not left (R100). -/
structure Probe where
  kind : ProbeKind
  laddr : LineAddr
  owner : ProbeOwner
  exh : Bool
  taken : Option Line
  after : List (BitVec 10)
  deriving DecidableEq, Repr

/-- Probes of one line that no miss-table entry or penumbra buffer owns: a back-probe (R83), the probe of
    R93, a port retire (R339), a port-filter walk (R558). -/
structure LProbe where
  serial : Nat
  slice : SliceId
  laddr : LineAddr
  folded : Bool
  prb : BitVec 8
  back : Bool
  flushOf : Option (PortId × BitVec 10)
  deriving DecidableEq, Repr

/-- A referred snoop that waits in its receive buffer (R56), or is held for a lost set (R44). -/
structure WaitSnp where
  serial : Nat
  input : Input
  kind : SnpKind
  hdr : RingHdr
  body : SnpBody
  waitOn : WaitOn
  deriving DecidableEq, Repr

/-- A poison writeback that a walk owes, because no reserved buffer was free (R122, R568): what `poisonWb` needs. -/
structure OwedPsn where
  laddr : LineAddr
  part : PartId
  frm : LState
  data : Line
  prb : BitVec 8
  dirty : Bool
  deriving DecidableEq, Repr

/-- What remains of one slice: pointers, lists and control registers. -/
structure SliceSt where
  rrPtr : BitVec 4
  wayRetire : List (BitVec 14 × BitVec 4)
  tagLost : Bool
  tagLostOvf : Bool
  /-- sets whose tag and shadow entries were both lost: their snoops are held (R44) -/
  lostSets : List (BitVec 14)
  wcWindow : Word
  penHold : Word
  thresh : BitVec 2
  mode : BitVec 2
  hintEn : Bool
  clrBusy : Bool
  /-- inputs whose head failed its resource check (R51): input number, request -/
  stalled : List (BitVec 4 × Req)
  snps : List WaitSnp
  /-- late read errors that await their repair transaction (R121) -/
  repairs : List LineAddr
  /-- poison writebacks owed by a walk that found no reserved buffer (R122, R568) -/
  owedPoison : List OwedPsn
  /-- probe responses that carry poison and wait in their sink for a reserved buffer (R122) -/
  sinks : List (PortId × Probe × Option Line)
  /-- filter sets whose entries are being recovered, and how many of the 256 sets are passed (R558) -/
  filterWalks : List (BitVec 11 × Nat)
  scrubSet : BitVec 14
  /-- after a cold retire: folded lines without an entry count as broadcast, EXR = 1 (R568) -/
  coldFold : Bool
  deriving DecidableEq, Repr

/-- A drain of the whole cache (`none`) or of one partition (R124); `pos` counts the sets that each walker
    has passed, `ended` is the state off (R127). -/
structure Drain where
  scope : Option PartId
  pos : Table Nat
  ended : Bool
  count : Nat
  slot : Option SlotRef
  /-- contexts whose cancellation must end before the walkers start (R129) -/
  cancels : List (BitVec 8)
  deriving DecidableEq, Repr

/-- A flush of an address range in a scope, run by the walkers (R113). -/
structure FlushWalk where
  scope : Option PartId
  first : LineAddr
  last : LineAddr
  pos : Table Nat
  count : Nat
  /-- lines set to I by the flush -/
  gone : Nat
  slot : Option SlotRef
  deriving DecidableEq, Repr

/-- A fold walk: the slice that moves, its direction, the cursor and the requests held at it (R33). -/
structure FoldWalk where
  slice : SliceId
  ret : Bool
  cursor : BitVec 15
  slot : Option SlotRef
  held : List Req
  /-- pinned lines of the set in motion to restage (R267) -/
  restage : List (LineAddr × PartId)
  deriving DecidableEq, Repr

/-- All slices of the controller. -/
structure Cache where
  tags : Table TagEntry
  shadow : Table ShadowEntry
  repl : Table (BitVec 16)
  pf : Table PfEntry
  fd : Table FdEntry
  pred : Table (BitVec 2)
  miss : Table (Option MissEntry)
  drain : List FillDrain
  pen : Table (Option PenBuf)
  wc : Table (Option WcBuf)
  hbmq : Table (List HbmOp)
  hbmDir : Table (Option Bool)
  /-- the round robin of each pseudo-channel queue, numbered as the queues (R285) -/
  hbmWrr : Table Wrr
  slices : Table SliceSt
  delivs : List Deliv
  xfers : List Xfer
  probes : Table (Option Probe)
  lprobes : List LProbe
  drains : List Drain
  flushes : List FlushWalk
  folds : List FoldWalk
  deriving DecidableEq, Repr

end Sys2Proof.Machine
end

