-- ==== Sys2Proof/Machine/StateHome.lean ====
section
/-! DEFINITION. The state of the homes and gates: conflict queues, circuits, recalls, WBK buffers, end-to-end
    credits, and the home and fold maps (chapters 2, 5 and 6 of the spec). Plain data only. -/

namespace Sys2Proof.Machine

/-- A home-map entry (R17). -/
structure HomeMapEntry where
  base : BitVec 24
  valid : Bool
  last : BitVec 24
  home : CtrlId
  priv : Bool
  uncached : Bool
  localBase : BitVec 16
  deriving DecidableEq, Repr

/-- The state of an entry at a home: waiting, HQ_S, HQ_F (R146, R189), and a far atomic on a line already in A,
    or a response already sent, which is in neither. -/
inductive HState where
  | waiting | hqS | hqF | runA | answered
  deriving DecidableEq, Repr

/-- A WB_DATA held in a WBK buffer (R162): its header and body. -/
structure HeldWb where
  hdr : RingHdr
  body : WbBody
  deriving DecidableEq, Repr

/-- A snoop circuit run by a home, an eviction or a gate (R149, R155, R193). -/
structure Circuit where
  running : Bool
  launches : Nat
  west : Bool
  start : Tick
  cr : CR
  /-- the snoop timer of this circuit in µs, as it was at the launch (R164) -/
  tmo : Nat
  /-- the second launch is due: the home's own answer to it must wait (R97, R159, R166) -/
  relaunch : Bool
  deriving DecidableEq, Repr

/-- Recalls of a transaction that have not been answered, the combination of those that have, and the recall
    timer (R189, R190, R204). -/
structure Recalls where
  /-- controller IDs of the gates that have not answered -/
  open_ : List CtrlId
  cr : CR
  /-- ring of the supplier, when a far ring supplied -/
  supring : Option (BitVec 8)
  /-- rings whose answer kept nothing, so that their pointer is cleared (R189) -/
  empty : List (BitVec 8)
  lost : Bool
  fired : Nat
  start : Tick
  /-- the recall timer in µs, as it was when it started (R164, R202) -/
  tmo : Nat
  deriving DecidableEq, Repr

/-- An entry of a home conflict queue or far conflict queue (R84, R184), or a directory-eviction slot (R199,
    `evict`). -/
structure HomeEntry where
  serial : Nat
  far : Bool
  evict : Bool
  op : ReqOp
  hdr : RingHdr
  body : ReqBody
  gate : NodeId
  state : HState
  needWay : Bool
  circ : Circuit
  rcl : Recalls
  /-- the DDR5 read: asked for, and its line when it has come -/
  ddrAsked : Bool
  ddr : Option Line
  toHome : Option Line
  held : List HeldWb
  fdBefore : FdEntry
  cont : Bool
  gackDue : Bool
  /-- the WB_DATA of a PEN supplier is still to come, from this controller (R151) -/
  penDue : Option CtrlId
  /-- far atomic: chunks of the line read from the home slice's HBM, and their way -/
  atomGot : BitVec 4
  atomLine : Line
  way : BitVec 4
  /-- the 4 chunk writes of an atomic result not yet accepted -/
  wrPend : BitVec 4
  /-- the response has been sent -/
  sent : Bool
  /-- the far-directory way that the grant will write (R198) -/
  fdWay : Option (BitVec 4)
  deriving DecidableEq, Repr

/-- An entry of a gate's recall table (R193). -/
structure RecallEntry where
  serial : Nat
  hdr : RingHdr
  body : RecallBody
  /-- true: the snoop runs on the parent ring, at the bridge's upper position -/
  upper : Bool
  circ : Circuit
  copies : List CtrlId
  cr : CR
  supring : Option (BitVec 8)
  lost : Bool
  fired : Nat
  /-- the FAR_ACK has left; the entry stands until the supplier's DATA has been relayed (R195) -/
  acked : Bool
  /-- the DATA of a supplier has been relayed (R195) -/
  relayed : Bool
  deriving DecidableEq, Repr

/-- A request at its home that has no entry yet: its set is in motion in a fold walk (R33), or the queue that two folded
    slices share is full (R32, R84, R85). -/
structure HomeWait where
  far : Bool
  gate : NodeId
  op : ReqOp
  hdr : RingHdr
  body : ReqBody
  deriving DecidableEq, Repr

/-- The homes and gates of this controller. -/
structure Home where
  homeq : Table (Option HomeEntry)
  farq : Table (Option HomeEntry)
  evict : Table (Option HomeEntry)
  recalls : Table (Option RecallEntry)
  /-- recalls deferred because the table was full, oldest first; `true`: kept here, having come over the own fabric (R176, R193) -/
  rclDefer : List (RingHdr × RecallBody × Bool)
  /-- requests that wait for an entry at this home, oldest first (R32, R33, R85) -/
  arrWait : List HomeWait
  /-- writebacks handled whose writer may not know it yet: its buffer can still answer a snoop with PEN (R151) -/
  wbAcked : List (LineAddr × CtrlId)
  /-- lines whose directory entry, in broadcast mode, waits for a way (R205) -/
  fdOwed : List LineAddr
  /-- REQ credits spent per (home node, slice); WBK credits spent per home node; far credits spent by this
      gate per (node, slice) (R134, R136, R184) -/
  reqSpent : Table Nat
  wbkSpent : Table Nat
  wbkSpentUp : Table Nat
  farSpent : Table Nat
  /-- credits of a slow partner withheld (R369): node, REQ credits, WBK credits -/
  withheld : Table Nat
  /-- REQ messages that wait for a credit, oldest first -/
  reqWait : List (SliceId × BitVec 8)
  /-- far requests at this gate without a far credit, and whether the home's ring is the upper one (R184) -/
  farWait : List (RingMsg × Bool)
  /-- WBK buffers in use, of the own position and the upper position (R136, R177) -/
  wbkUsed : Nat
  wbkUsedUp : Nat
  /-- writebacks stored at a gate on their way to another ring, and whether that is the upper one (R177) -/
  wbkTransit : List (HeldWb × Bool)
  /-- the move fence: first and last granule (R309) -/
  fence : List (BitVec 24 × BitVec 24)
  /-- the next armed commit that fires ends the home action, and clears the fence with it (R309, R310) -/
  fenceEnd : Bool
  mapLive : Table HomeMapEntry
  mapStaged : Table HomeMapEntry
  foldLive : BitVec 16
  foldStaged : BitVec 16
  /-- homes that no route reaches, and since when (R571, R572) -/
  lostHomes : List (CtrlId × Tick)
  deriving DecidableEq, Repr

end Sys2Proof.Machine
end

