-- ==== Sys2Proof/Machine/StateLink.lean ====
section
/-! DEFINITION. The state of the links: PCP ports with their retry state (chapter 10), ring ports, route epochs, census,
    authentication and time synchronisation (chapter 11). Plain data only. -/

namespace Sys2Proof.Machine

/-- A message to a requester (R330-R332). -/
inductive PortMsg where
  | cmp (ptag : BitVec 10) (gst : LState) (psn : Bool) (status : BitVec 8) (oldv : BitVec 128)
  | cmpd (ptag : BitVec 10) (gst : LState) (psn : Bool) (crit : BitVec 2) (want : BitVec 4) (line : Line)
      (oldv : BitVec 128)
  | data (ptag : BitVec 10) (chunk : BitVec 2) (c : Chunk) (psn : Bool)
  | probe (k : ProbeKind) (tag : BitVec 8) (laddr : LineAddr)
  deriving DecidableEq, Repr

/-- The LTSSM states that LINK_STATUS reports (R341). -/
inductive Ltssm where
  | detect | polling | configuration | l0 | recovery | idle
  deriving DecidableEq, Repr

/-- A message of which data slots are still owed (R318, R347): its header slot, how many data slots, and those that have
    come, each with its kind. -/
structure Partial where
  hdr : BitVec 256
  need : Nat
  slots : List (BitVec 4 × BitVec 256)
  deriving DecidableEq, Repr

/-- The retirement of a port under way (R339): its operation slot, the step reached, the filter entries cleared and the
    lines poisoned, and since when no response has come. -/
structure Retire where
  slot : Option SlotRef
  probing : Bool
  cleared : Nat
  poisoned : Nat
  since : Tick
  deriving DecidableEq, Repr

/-- A port and its link (R35, R311-R341). -/
structure PortSt where
  en : Bool
  maxrate : BitVec 2
  x8ok : Bool
  autoRetrain : Bool
  /-- the port may leave Detect and train (R338, R340) -/
  trainOk : Bool
  ltssm : Ltssm
  rate : BitVec 2
  x8 : Bool
  initDone : Bool
  down : Bool
  retired : Bool
  held : Bool
  /-- the port was held, not retired, when its return began (R340, R426) -/
  wasHeld : Bool
  replayTmo : BitVec 12
  replayMax : BitVec 4
  /-- probe credits that the requester offered (R322) -/
  prbOffer : BitVec 8
  /-- probe credits held -/
  prbCred : Nat
  errCapt : BitVec 384
  captured : Bool
  /-- a good init flit has come, and an init flit has been sent after it -/
  initRx : Bool
  rxNext : BitVec 12
  ackv : Bool
  nakSent : Bool
  txNext : BitVec 12
  /-- flits sent and not acknowledged, oldest first (R319) -/
  unacked : List (BitVec 12 × Tick × PortMsg)
  /-- messages that wait because 128 flits are unacknowledged -/
  txWait : List PortMsg
  replays : Nat
  /-- when the last recoveries began (R320) -/
  recoveries : List Tick
  part : Option Partial
  /-- request credits that the requester has spent and that have not been returned (R323, R595) -/
  reqhUsed : Nat
  reqdUsed : Nat
  /-- requests in the receive buffer, the fabric input being full (R595), and the round robin that takes them (R285) -/
  rxq : List Req
  wrr : Wrr
  /-- probes issued and not yet sent, oldest first (R330) -/
  probeHold : List Probe
  /-- completions that may not overtake a held probe of their line, oldest first: tag, line, message (R100) -/
  cmpHold : List (BitVec 10 × LineAddr × PortMsg)
  /-- open requests: tag, partition and line (R325) -/
  open_ : List (BitVec 10 × PartId × LineAddr)
  stream : Table (BitVec 8)
  streamStaged : Table (BitVec 8)
  dbEn : Bool
  dbBase : BitVec 30
  /-- the filter sets purged so far, slice by slice, since the link went down (R338) -/
  purge : Option Nat
  retiring : Bool
  retire : Option Retire
  /-- the operation that returns the port, and since when (R340) -/
  returning : Option (SlotRef × Tick)
  deriving DecidableEq, Repr

/-- The states of a ring port (R354). -/
inductive RpState where
  | down | training | auth | standby | active | quarantined | retired
  deriving DecidableEq, Repr

/-- A management slot that a ring port sends (R347). The receiver's Lantern-B consumes it. -/
inductive Mgmt where
  | census (c : Census)
  | authChal (ver : BitVec 4) (port : BitVec 2) (ctrl : CtrlId) (kgen : BitVec 8) (nonce : BitVec 128)
  | authResp (mac : BitVec 128)
  | authDone (result : BitVec 4)
  | sync
  | syncRsp (t2 t3 : Tick)
  | laneSet (set : BitVec 8)
  | epochPrep (initiator : CtrlId) (epoch : BitVec 4) (r : EpochResult) (tm : Option Tick)
  | epochAck (member : CtrlId) (epoch : BitVec 4)
  | drain (d : DrainSum)
  /-- one fragment of a PEER command or reply: 28 B of payload (R347, R438) -/
  | peer (dst src : CtrlId) (words : List Word) (last : Bool)
  | slow (origin : CtrlId) (node : NodeId) (on : Bool)
  deriving DecidableEq, Repr

/-- What a frame carries in one sending: a message, or a management slot. -/
inductive FrameItem where
  | msg (m : RingMsg)
  /-- a GRANT and the home's DATA that goes with it, in one frame (R161) -/
  | pair (g d : RingMsg)
  | mgmt (m : Mgmt)
  deriving DecidableEq, Repr

/-- An entry of SCREEN_WIN (R381). -/
structure ScreenWin where
  base : BitVec 24
  src : BitVec 8
  last : BitVec 24
  valid : Bool
  deriving DecidableEq, Repr

/-- The authentication exchange of a ring port (R355). -/
structure Auth where
  start : Tick
  nonce : BitVec 128
  /-- the generation that this side offered in its AUTH_CHAL (R358) -/
  offered : BitVec 8
  /-- the partner's AUTH_CHAL: controller, port, generation, nonce -/
  chal : Option (CtrlId × BitVec 2 × BitVec 8 × BitVec 128)
  sentDone : Bool
  gotDone : Bool
  /-- ended with a result other than PASS, at this tick -/
  failed : Option Tick
  deriving DecidableEq, Repr

/-- A ring port and its link (R342-R381). -/
structure RingPortSt where
  en : Bool
  minlanes : BitVec 2
  autoReturn : Bool
  state : RpState
  lanes : BitVec 8
  slow : Bool
  /-- messages are turned back at this port (R371) -/
  turn : Bool
  partnerId : CtrlId
  partnerPort : BitVec 2
  partnerValid : Bool
  authResult : BitVec 4
  authKgen : BitVec 8
  /-- failures of authentication: when (R357, R368) -/
  authFails : List Tick
  replayTmo : BitVec 12
  replayMax : BitVec 4
  ucwLimit : BitVec 8
  starve : BitVec 16
  retireUs : BitVec 16
  qlimit : BitVec 8
  reqmax : BitVec 16
  farmax : BitVec 16
  syncDelay : BitVec 16
  errCapt : BitVec 384
  captured : Bool
  win : Table ScreenWin
  winStaged : Table ScreenWin
  /-- link credits spent, by class: REQ, FAR general, FAR reserved, SNP, WBK, DAT, RSP, management (R348) -/
  spent : Table Nat
  /-- receive-buffer entries in use, by the same classes (R132, R183) -/
  rxUsed : Table Nat
  rxNext : BitVec 12
  ackv : Bool
  nakSent : Bool
  txNext : BitVec 12
  unacked : List (BitVec 12 × Tick × FrameItem)
  replays : Nat
  part : Option Partial
  /-- messages ready to forward with the port they came by, messages ready to inject, management slots ready, each oldest first (R596) -/
  transit : List (RingMsg × Option RingPort)
  inject : List RingMsg
  mgmtq : List Mgmt
  /-- messages started since the last in which the lowest class was taken (R596) -/
  started : BitVec 4
  /-- messages of a class forwarded since a message of it became ready to inject (R596) -/
  passed : Table Nat
  /-- lanes that have failed, and uncorrectable codewords counted per lane in the window numbered `ucwWin` (R351) -/
  failedLanes : BitVec 8
  ucw : Table Nat
  ucwWin : Nat
  /-- a LANE_SET that this port proposed or answered, and when (R351, R352) -/
  laneProp : Option (BitVec 8 × Tick)
  /-- screening failures counted toward quarantine in the window numbered `qwin` (R368) -/
  qcount : Nat
  qwin : Nat
  /-- REQ (even) and FAR (odd) messages accepted per source ring in the window numbered `rateWin` (R366) -/
  rate : Table Nat
  rateWin : Nat
  /-- since when each class has starved (R369), and since when none has -/
  starved : Table Nat
  unstarved : Tick
  auth : Option Auth
  /-- the departure of the last SYNC (R377) -/
  t1 : Option Tick
  /-- the port goes down when its drain has ended (R372), for this operation -/
  planned : Option SlotRef
  /-- an operation that brings the port back, and since when (R375) -/
  returning : Option (SlotRef × Tick)
  /-- when the port last went down from a failure (R375) -/
  failedAt : Option Tick
  deriving DecidableEq, Repr

/-- The tables of one route epoch for one ring (R362): node route table, ring route table {ACT, NEXT}, membership mask,
    shape, and for each gate of the ring its node and the controller behind it. -/
structure EpSlot where
  epoch : BitVec 4
  dirs : Table (BitVec 2)
  routes : Table (BitVec 6)
  members : BitVec 16
  folded : Bool
  gates : List (NodeId × CtrlId)
  /-- node IDs in ring order, eastward; a chain runs from its west end to its east end -/
  order : List NodeId
  /-- the links of this position that the epoch routes over -/
  east : Bool
  west : Bool
  deriving DecidableEq, Repr

/-- This controller's position in one ring: current and old epochs, the epoch being prepared, and the counts of R365. -/
structure RingPos where
  ring : BitVec 8
  node : NodeId
  cur : EpSlot
  old : Option EpSlot
  /-- when the current epoch became current -/
  tm : Tick
  next : Option EpSlot
  /-- Tm of the epoch being prepared, and who prepares it -/
  nextTm : Option Tick
  /-- initiator only: members that have not acknowledged -/
  unacked : List CtrlId
  prepBy : CtrlId
  prepRes : EpochResult
  /-- the epoch slot that is not current, when its epoch is neither live nor being prepared (R362, R458) -/
  spare : EpSlot
  /-- staged entries of the other slot's ring route table (R173), where a write has staged one -/
  staged : Table (BitVec 6)
  /-- staged words 0 and 1 of the other epoch slot (R458), plus 1 so that an unlisted word is not staged -/
  stagedWords : Table (BitVec 33)
  /-- ring IDs below this controller's ring, as the last census gives them -/
  subtree : BitVec 256
  injected : Table Nat
  ended : Table Nat
  /-- sums of the current DRAIN: nodes that have reported, and the sums -/
  drainSeen : List CtrlId
  drainInj : Nat
  drainEnd : Nat
  /-- the last census: its records, whether it is complete, and the refusals it reports -/
  census : List CensusRec
  censusRun : Bool
  censusDup : Bool
  censusRefused : Bool
  /-- a complete census that waits for a drain (R364) -/
  waiting : Option EpochResult
  deriving DecidableEq, Repr

/-- The PEER fragments of one sender, until its command is complete (R438). -/
structure PeerAsm where
  src : CtrlId
  port : RingPort
  words : List Word
  last : Tick
  deriving DecidableEq, Repr

/-- A ring key slot (R358). -/
structure KeySlot where
  key : BitVec 256
  gen : BitVec 8
  valid : Bool
  deriving DecidableEq, Repr

/-- The network side of the controller. -/
structure Net where
  ctrlId : CtrlId
  ctrlIdValid : Bool
  isBridge : Bool
  lower : RingPos
  upper : RingPos
  ports : Table RingPortSt
  key0 : KeySlot
  key1 : KeySlot
  activeKey : Bool
  peerAsm : List PeerAsm
  /-- TIM.SYNC_CTL.PERIOD, and TIM.SYNC_STATUS (R380) -/
  syncPeriod : BitVec 12
  syncMaster : NodeId
  syncIsMaster : Bool
  syncLocked : Bool
  syncOffset : BitVec 16
  /-- the rate correction in ppm that the last exchange asked for, a two's complement number (R378, R479) -/
  trim : BitVec 16
  /-- the device time has been stepped since reset (R378) -/
  stepped : Bool
  /-- when SYNC was last sent (R377) -/
  syncSent : Tick
  /-- TIM.TREE_OFS and TIM.TREE_STATUS (R208) -/
  treeOfs : BitVec 64
  treeRoot : BitVec 8
  treeDepth : BitVec 4
  treeValid : Bool
  /-- deferred crossing messages, oldest first, up and down (R176) -/
  deferUp : List RingMsg
  deferDown : List RingMsg
  deriving DecidableEq, Repr

end Sys2Proof.Machine
end

