-- ==== Sys2Proof/Machine/StateTop.lean ====
section
/-! DEFINITION. The state of Lantern and of the blocks around the data path: mailboxes and operations (chapter 13),
    beams (chapter 8), time and edges, register access (chapters 14, 15), power (chapter 17), memory channels
    (chapter 12), start-up and images (chapter 18). Plain data only. -/

namespace Sys2Proof.Machine

/-! Operations (R421-R430). -/

/-- The objects that commands lock (R421, R433). A port is numbered as the commands number it. -/
inductive Obj where
  | config
  /-- the bytes of BAR2 from `lo` up to, not including, `hi` -/
  | bar2 (lo hi : Nat)
  | fw | thermal | cache
  | part (p : PartId)
  | beam (c : BitVec 8)
  | slice (n : SliceId)
  | port (n : BitVec 4)
  | ring | key
  | slot (n : BitVec 2)
  deriving DecidableEq, Repr

/-- The states of an operation slot (R423). -/
inductive OpState where
  | idle | running | done | failed | aborted
  deriving DecidableEq, Repr

/-- A configuration image being applied (R547-R550): the records not yet applied, the index of the next, and what it
    waits for. -/
structure ApplyJob where
  recs : List (List Word)
  idx : Nat
  /-- ATTICK: the commit tick, and the masks gathered so far -/
  atTick : Option Tick
  mask : BitVec 16
  isBase : Bool
  /-- the overlay's index, 0xF for one in BAR2, and the image's SERIAL -/
  index : BitVec 4
  serial : Word
  /-- the slot of a background CMD record -/
  waitSlot : Option SlotRef
  /-- since when a WAIT record waits -/
  waitFrom : Option Tick
  /-- the masks have been armed, and the operation waits for the commit to fire -/
  armed : Bool
  deriving DecidableEq, Repr

/-- A beam of a partition image that waits to be admitted: the image's words of the beam (R300). -/
structure RestoreJob where
  pid : PartId
  thaw : Bool
  img : List Word
  portMap : Word
  maskMode : Bool
  ways : BitVec 16
  homeAct : BitVec 2
  lostFill : Bool
  /-- the members have been asked and have not all answered, so that nothing has changed yet (R302, R308) -/
  asking : Bool
  /-- steps of the home action that are done (R310) -/
  homeStep : Nat
  /-- local bases chosen for the moving ranges -/
  bases : List Nat
  bound : Bool
  beam : Nat
  refused : Nat
  firstReason : BitVec 8
  /-- beams admitted: position in the image and context -/
  ctxs : List (Nat × BitVec 8)
  deriving DecidableEq, Repr

/-- What a running operation is. -/
inductive Job where
  | none
  /-- ended by other commands of the table: drains, flushes, walks, quiesce, freeze, cancels, ports, ring steps -/
  | hw
  /-- PART_SAVE: home-map indices, the image once it is taken, where it goes, the snapshot tick awaited (R296, R297) -/
  | save (pid : PartId) (homes : List (BitVec 8)) (img : List Word) (ofs : Option Nat) (dest : CtrlId) (slot : BitVec 2)
      (tc : Option Tick)
  /-- LOG_READ to BAR2: words, offset -/
  | log (words : List Word) (ofs : Nat) (next lost : Word)
  | fwBegin (copy len : Nat)
  | fwWrite (ofs : Nat) (len : Nat)
  | fwCommit
  | fwCancel
  | restore (r : RestoreJob)
  | apply (a : ApplyJob)
  /-- COMMIT_AT: mask, scope, tick, members armed, those not yet asked -/
  | commitAt (mask : BitVec 16) (scope : BitVec 2) (tick : Tick) (armedAt : List CtrlId) (todo : List CtrlId)
  /-- PART_REMOVE: the partition, and whether its drain has begun (R298) -/
  | remove (pid : PartId) (draining : Bool)
  /-- PART_QUIESCE and PART_FREEZE -/
  | quiesce (pid : PartId) (opened : Nat)
  | freeze (pid : PartId)
  /-- RING_CENSUS mode 0: the BAR2 offset -/
  | census (ofs : Nat)
  deriving DecidableEq, Repr

/-- An operation slot (R423), with what runs in it and the objects it holds (R421). -/
structure OpSlot where
  state : OpState
  error : BitVec 8
  opcode : BitVec 8
  seq : BitVec 8
  progress : Word
  /-- result word i in bits [32i+31:32i] -/
  result : BitVec 128
  job : Job
  objs : List Obj
  deriving DecidableEq, Repr

/-- A command being assembled: its header and the argument words that have come (R416). -/
structure CmdAsm where
  header : Word
  args : List Word
  deriving DecidableEq, Repr

/-- A mailbox (R414-R419); trace fields belong to DEBUG. -/
structure MbxSt where
  /-- complete commands not yet taken: header and arguments -/
  cmds : List CmdAsm
  asm : Option CmdAsm
  rplq : List Word
  /-- replies that do not fit yet (R419) -/
  held : List (List Word)
  cmdEpoch : BitVec 4
  rplEpoch : BitVec 4
  stale : BitVec 16
  overrun : BitVec 16
  underrun : BitVec 16
  trcEn : Bool
  trcq : List Word
  trcEpoch : BitVec 4
  trcLost : BitVec 16
  deriving DecidableEq, Repr

/-- The latch of a slot's progress and result words for one master (R425). -/
structure OpLatch where
  progress : Word
  result : BitVec 128
  deriving DecidableEq, Repr

/-- The thermal limits of one source: 0 where it has none (R436, R526). -/
structure Limits where
  tj : BitVec 8
  cap : BitVec 16
  deriving DecidableEq, Repr

/-- Lantern. -/
structure Lantern where
  mbx : Table MbxSt
  /-- by SlotRef -/
  slots : Table OpSlot
  /-- by master number and SlotRef -/
  latches : Table (Option OpLatch)
  /-- by mailbox number; 4 is the overlay -/
  limits : Table Limits
  /-- receive slots marked complete (R438) -/
  slotDone : BitVec 4
  /-- a change waits for Lantern-A to run admission again (R276) -/
  recheckDue : Bool
  /-- the PEER command sender and SEQ whose reply goes back, by order of the PEER command queue -/
  peerSrc : List CtrlId
  deriving DecidableEq, Repr

/-! Beams (chapter 8). -/

/-- Why a row's release steps run (R265, R274). -/
inductive RelKind where
  | expiry | doorbell | cancel
  deriving DecidableEq, Repr

/-- An open row: its window, the positions issued (all below `next` but those in `held`), those whose staging read is
    open, how many lines are done (R270), and its release steps. -/
structure BeamRow where
  row : Nat
  open_ : Tick
  deadline : Tick
  next : Nat
  held : List Nat
  reading : List Nat
  got : Nat
  late : Bool
  counted : Bool
  lastTick : Option Tick
  rel : Option RelKind
  /-- release steps: positions below `relNext` have been stepped but those in `relHeld` -/
  relNext : Nat
  relHeld : List Nat
  /-- positions that a fold walk stages again and whose reports have not come (R267) -/
  restage : List Nat
  deriving DecidableEq, Repr

/-- A charge of a beam in the ring ledger (R246): resource and rate in MB/s. -/
structure Charge where
  resource : Word
  rate : Word
  deriving DecidableEq, Repr

/-- A beam context: the record of R269 and the engine's own state. -/
structure BeamCtx where
  state : BitVec 3
  engine : BitVec 6
  part : PartId
  degraded : Bool
  dreason : BitVec 3
  nextRow : BitVec 48
  lastOpen : Tick
  rowsDone : Word
  lateLines : Word
  lateRows : Word
  expired : Word
  worstSlack : Word
  stageErr : BitVec 16
  nopin : BitVec 16
  skipped : BitVec 16
  gridFast : BitVec 16
  lastEdge : Tick
  staged : BitVec 64
  desc : BitVec 512
  /-- the start tick S (R273) -/
  start : Tick
  interval : Nat
  tlat : Nat
  /-- allotments by slice (R247) -/
  allot : Table Nat
  rows : List BeamRow
  /-- pins released by doorbell steps (R265) -/
  released : Nat
  /-- edges captured and not yet used: the row that each triggers and its tick (R234) -/
  edges : List (Nat × Tick)
  /-- edges captured at or after S -/
  edgeCount : Nat
  /-- number of the edge at LAST_EDGE (R278) -/
  lastEdgeNo : Nat
  /-- tick of the last expiry past the last row (R236) -/
  lastExpiry : Tick
  /-- the operation that cancels the context -/
  cancelSlot : Option SlotRef
  /-- Tf of a freeze (R294) -/
  freezeAt : Option Tick
  /-- R279: no edge matched; the next edge takes the number after LAST_EDGE's -/
  resync : Bool
  /-- the tick of a thaw, before which no row opens; 0 where there was none (R303) -/
  resume : Tick
  deriving DecidableEq, Repr

/-- An entry of the ring ledger: the origin, its context and charges (R246, R438). -/
structure LedgerEntry where
  origin : CtrlId
  ctx : BitVec 8
  charges : List Charge
  /-- removed, but not yet by every member, so that the charges still count (R246) -/
  leaving : Bool
  deriving DecidableEq, Repr

/-- A staging read that a cluster has issued and that has not reached its slice. -/
structure StagingRead where
  ctx : BitVec 8
  row : Nat
  idx : BitVec 16
  /-- the deadline that it carries (R258, R267) -/
  dl : Nat
  deriving DecidableEq, Repr

/-- The beam block (R253, R269, R488). -/
structure Beams where
  ctx : Table BeamCtx
  setcap : BitVec 4
  foldsafeAll : Bool
  ddrShare : BitVec 8
  queueMargin : BitVec 16
  refreshMargin : BitVec 16
  hbmShare : BitVec 8
  sliceShare : BitVec 8
  portShare : BitVec 8
  ringShare : BitVec 8
  ledger : List LedgerEntry
  reads : List StagingRead
  deriving DecidableEq, Repr

/-! Engines (R458, R488, R565). -/

/-- An engine: B0-B39 are 0 to 39, W0-W15 40 to 55, V0-V5 56 to 61, Lantern-A 62, Lantern-B 63. -/
structure Engine where
  halted : Bool
  /-- stopped for good (R565) -/
  dead : Bool
  lastStop : Option Tick
  deriving DecidableEq, Repr

/-! Time and edges (R480, R481). -/

/-- TIM beside the synchronisation state. -/
structure Tim where
  tsCtl : BitVec 16
  tsLast : Table Tick
  tsCount : Table Word
  /-- ticks of the last 1,024 edges of each input, newest first -/
  hist : Table (List Tick)
  histSel : BitVec 2
  histNum : Word
  deriving DecidableEq, Repr

/-! Register access (chapters 14, 15). -/

/-- The access registers of a block (R451). -/
structure AccBlk where
  status : BitVec 6
  violation : BitVec 22
  cfgReject : BitVec 22
  deriving DecidableEq, Repr

/-- A master's pair latch in a block (R447): the high word taken by a read of the low word at this offset, and the low
    word held by a write. -/
structure PairLatch where
  rd : Option (BitVec 16 × Word)
  wr : Option (BitVec 16 × Word)
  deriving DecidableEq, Repr

/-- An IDX channel (R457, R459). -/
structure IdxChan where
  space : BitVec 8
  autoInc : Bool
  word : Word
  range : Bool
  roWrite : Bool
  noAccess : Bool
  /-- a snapshot: the first word of its entry, and the entry's words -/
  snap : Option (Nat × List Word)
  deriving DecidableEq, Repr

/-- GLB, IDX and the state of accesses. -/
structure Regs where
  acc : Table AccBlk
  /-- by master number and block -/
  latch : Table PairLatch
  idx : Table IdxChan
  smbOfs : Word
  /-- the value that a master's last read returned -/
  readData : Table (BitVec 64)
  viewMgmt : Bool
  viewSmb : Bool
  scratch : Word
  bar2Reject : BitVec 16
  pending : BitVec 16
  foldPair : Bool
  streamCons : Bool
  armedConflict : Bool
  overlap : Bool
  /-- since when a commit is being applied -/
  busy : Option Tick
  armMask : BitVec 16
  armTick : Tick
  armed : Bool
  /-- the armed commit belongs to this operation -/
  armSlot : Option SlotRef
  /-- the last configuration record given as a command succeeded -/
  recOk : Bool
  deriving DecidableEq, Repr

/-! Power (chapter 17). -/

/-- A power domain: its state (0 A0 to 3 A3), an entry or a wake under way with its start, the wake alarm, the last wake
    by demand (R514-R521). -/
structure Dom where
  state : BitVec 2
  entering : Option (BitVec 2 × Tick)
  waking : Option Tick
  alarm : Option Tick
  lastDemand : Option Tick
  /-- since when the domain's island has had no work -/
  idleFrom : Tick
  deriving DecidableEq, Repr

/-- PWR (R483) and what the windows of R513 and R528 gather. -/
structure Pwr where
  dom : Table Dom
  hint : BitVec 64
  hold : BitVec 64
  mhz : Table (BitVec 12)
  /-- frequencies that wait for a voltage ramp (R512) -/
  ramp : Table (BitVec 12)
  /-- the choices of R513 -/
  choice : Table (BitVec 12)
  tj : BitVec 8
  pkg : BitVec 16
  level : BitVec 3
  emergency : Bool
  windows : Nat
  backstop : Bool
  tjMax : BitVec 8
  pkgSum : Nat
  pkgCount : Nat
  stackMax : BitVec 8
  policy : Table (BitVec 16)
  policyStaged : Table (BitVec 16)
  /-- the next walker scrub step of each slice, the next burst of each DDR channel, and the next tracking (chapter 17,
      event calendar) -/
  walkAt : Table Nat
  scrubAt : Table Nat
  trackAt : Tick
  deriving DecidableEq, Repr

/-! Memory channels (chapter 12). -/

/-- A DDR5 channel (R411): registers, activate counts, refreshes postponed, the command reissues, the scrub position. -/
structure DdrCh where
  en : Bool
  scrubEn : Bool
  dimms : BitVec 2
  ranks : BitVec 2
  x8 : Bool
  d32 : Bool
  rate : BitVec 2
  trained : Bool
  cfgErr : Bool
  retraining : Bool
  doubleRef : Bool
  tempMax : BitVec 8
  period : BitVec 8
  errLoc : BitVec 40
  captured : Bool
  raa : Table Nat
  postponed : Table Nat
  reissues : Nat
  retries : Nat
  retryWin : Nat
  scrubCa : Nat
  /-- lines written since the scrub read of the current burst was issued (R397) -/
  sinceScrub : List Nat
  /-- a retrain in place in which the returning channel is trained (R574) -/
  returning : Bool
  deriving DecidableEq, Repr

/-- An HBM stack (R412). -/
structure HbmSt where
  trained : Bool
  rate : BitVec 2
  doubleRef : Bool
  temp : BitVec 8
  pcLost : Word
  used : BitVec 8
  new : BitVec 8
  /-- lanes recorded by scrub for repair at the next training (R562) -/
  noted : List Word
  /-- corrected errors of the current scrub pass, by DQ lane -/
  laneErrs : Table Nat
  postponed : Table Nat
  deriving DecidableEq, Repr

/-- A step of a home action under way on this controller (R310): its number and action, what the walkers have passed,
    the local address reached by step 3 of MOVE, and the PEER command that waits for its reply. -/
structure MoveWalk where
  stepNo : Nat
  action : BitVec 4
  pos : Table Nat
  nextLine : Nat
  reply : Option (CtrlId × BitVec 8)
  deriving DecidableEq, Repr

/-! Start-up (chapter 18). -/

/-- An open firmware update (R554): package length, bytes written, the NOR areas written (offset and bytes). -/
structure FwUpd where
  len : Nat
  written : Nat
  areas : List (Nat × Nat)
  /-- image boundaries found in the package so far: package offset, NOR offset, length -/
  images : List (Nat × Nat × Nat)
  deriving DecidableEq, Repr

/-- Resets, boot state, log and update (R533-R556), pins (R578, R584, R586). -/
structure Boot where
  pwrOk : Bool
  sysRst : Bool
  perst : Bool
  ready : Bool
  ddrDegraded : Bool
  fwB : Bool
  stage : BitVec 4
  bootErr : BitVec 8
  /-- start-up has stopped under R536, so that the watchdog is disarmed -/
  stopped : Bool
  recovery : Bool
  attempts : Nat
  cause : BitVec 2
  /-- ticks since the end of the last reset -/
  upTime : Nat
  version : Word
  runSvn : BitVec 8
  raiseSvn : Bool
  /-- DIGEST of the running image (R542), and its sections: target, load offset, bytes (R543) -/
  runDigest : BitVec 384
  runSect : List (Word × Word × Word)
  svnFloor : BitVec 8
  revoked : BitVec 4
  upd : Option FwUpd
  apply : Option ApplyJob
  /-- the default overlay has been started at step 5 -/
  overlayed : Bool
  log : Table Word
  logPos : Nat
  /-- log records in the buffer, oldest first: sequence number, position, words -/
  logRecs : List (Nat × Nat × Nat)
  logSeq : Nat
  /-- words of records not yet read by LOG_READ -/
  logUnread : Nat
  railTrip : Bool
  thermtrip : Bool
  lostClk : BitVec 3
  /-- INT_n asserted (driven low) -/
  intLow : Bool
  deriving DecidableEq, Repr

end Sys2Proof.Machine
end

