-- ==== Sys2Proof/Machine/State.lean ====
section
/-! DEFINITION. The state of the controller as plain data, the reasons a step can stop, and reset. -/

namespace Sys2Proof.Machine

/-- A partition page and its counters (R283, R286, R288). -/
structure PartSt where
  en : Bool
  state : BitVec 3
  ways : Table (BitVec 16)
  waysStaged : Table (BitVec 16)
  share : BitVec 24
  shareStaged : BitVec 24
  pinBudget : BitVec 27
  pinBudgetStaged : BitVec 27
  pins : BitVec 27
  freezeTick : Tick
  hits : BitVec 64
  misses : BitVec 64
  writebacks : BitVec 64
  qrefused : BitVec 64
  lateLines : BitVec 64
  lateRows : BitVec 64
  consUnpin : BitVec 64
  rowsDone : BitVec 64
  deriving DecidableEq, Repr

/-- What the controller sends outward, in order of issue. -/
inductive OutMsg where
  /-- a normal ring frame sent for the first time, with its FSEQ (R349) -/
  | frame (p : RingPort) (fseq : BitVec 12) (i : FrameItem)
  /-- a frame sent again (R320, R349) -/
  | frameAgain (p : RingPort) (fseq : BitVec 12) (i : FrameItem)
  | frameNak (p : RingPort)
  /-- a message to this controller's own fabric -/
  | self (m : RingMsg)
  /-- a normal PCP flit sent for the first time (R319) -/
  | flit (p : PortId) (fseq : BitVec 12) (m : PortMsg)
  | flitAgain (p : PortId) (fseq : BitVec 12) (m : PortMsg)
  | flitNak (p : PortId)
  | flitInit (p : PortId)
  | msix (v : BitVec 5)
  /-- PCIe memory writes of the management endpoint (R504-R507) -/
  | hostWrite (addr : BitVec 64) (words : List Word)
  deriving DecidableEq, Repr

/-- A fixed counter (R495); its mode is held in PMU (R497, R498). -/
structure Cnt where
  count : BitVec 48
  ovf : Bool
  restart : Bool
  deriving DecidableEq, Repr

/-- A sample record (R500). -/
structure SmpRec where
  addr : Addr
  port : PortId
  portv : Bool
  part : PartId
  cls : BitVec 3
  op : BitVec 8
  skid : BitVec 6
  slice : SliceId
  tick : Tick
  deriving DecidableEq, Repr

/-- A sample counter: its registers, the EVENT and MODE taken when EN was set, and an armed capture
    (R500-R503). -/
structure Smp where
  event : BitVec 9
  en : Bool
  mode : Bool
  pfilt : Bool
  part : PartId
  count : BitVec 48
  reload : BitVec 48
  ovf : Bool
  recValid : Bool
  missed : BitVec 8
  record : SmpRec
  takenEvent : BitVec 9
  takenMode : Bool
  armed : Bool
  skid : BitVec 6
  deriving DecidableEq, Repr

/-- The periodic dump: its registers, and what was taken when EN was set (R504-R506). -/
structure Dump where
  en : Bool
  ext : Bool
  nbuf : BitVec 8
  period : Word
  base : BitVec 64
  t0 : Tick
  done : BitVec 8
  next : BitVec 8
  skipped : BitVec 8
  seq : BitVec 16
  lost : Bool
  tExt : Bool
  tNbuf : BitVec 8
  tPeriod : Nat
  tBase : BitVec 64
  nextTick : Tick
  deriving DecidableEq, Repr

/-- Counters, error events and the event registers (R439-R442, R484-R507). `cond` holds which condition
    events held at the last cycle (R494). -/
structure Ctrs where
  trouble : Table (BitVec 16)
  fixed : Table Cnt
  mode : BitVec 384
  cond : BitVec 384
  smp : Table Smp
  dump : Dump
  errEvent : BitVec 10
  captBlock : BitVec 6
  captEvent : BitVec 4
  captValid : Bool
  ceThresh : BitVec 16
  evt : BitVec 32
  evtEn : BitVec 32
  intStatus : BitVec 32
  intEn : BitVec 32
  deriving DecidableEq, Repr

/-- The ECC-storage bits of a chunk (R48) that the model holds, and whether the chunk was ever written. -/
structure HbmSide where
  written : Bool
  poison : Bool
  loc : BitVec 5
  deriving DecidableEq, Repr

/-- Lines all written at once with, or without, the poison mark: lines `lo` up to, not including, `hi`, of one channel where
    `chan` names one (R310, R574). -/
structure PsnRun where
  lo : Nat
  hi : Nat
  chan : Option (BitVec 3)
  mark : Bool
  deriving DecidableEq, Repr

/-- The memories of the controller, and the poison marks of DDR5 lines (R389): `psnRuns`, the latest last, gives the mark of
    a line that `ddrPsn` does not list. -/
structure Mem where
  ddr : List Host.Cell
  ddrPsn : Table Bool
  psnRuns : List PsnRun
  hbmSide : Table HbmSide
  hbm : List Host.Cell
  bar2 : List Host.Cell
  nor : List Host.Cell
  slots : List Host.Cell
  /-- Lantern code and data, 4 MiB (R12, R543) -/
  lantern : List Host.Cell
  deriving DecidableEq, Repr

/-- A residency report from a slice to the beam engine, until RESIDENCY_REPORT takes it (R259). -/
structure Report where
  ctx : BitVec 8
  row : Nat
  idx : BitVec 16
  tick : Tick
  error : Bool
  poisoned : Bool
  /-- the PIN bit of the line is set, so that the line is resident (R237) -/
  pinned : Bool
  deriving DecidableEq, Repr

/-- A home DDR5 read waiting in its channel: the entry it serves (R149, R390, R392). -/
structure DdrRead where
  chan : BitVec 3
  la : Nat
  slice : SliceId
  far : Bool
  entry : BitVec 6
  serial : Nat
  beam : Bool
  /-- PART of the request (R285) -/
  part : PartId
  /-- the line as it was before a write that entered the channel behind this read (R392) -/
  old : Option Line
  deriving DecidableEq, Repr

/-- The timer registers of R164 and R202, as written. -/
structure Tmo where
  snp : Word
  grant : Word
  data : Word
  wback : Word
  rcl : Word
  farGrant : Word
  deriving DecidableEq, Repr

/-- The whole controller. -/
structure State where
  /-- the commands that wait, first in, first out -/
  pending : List Instr
  /-- device time (R4, R511) -/
  now : Tick
  /-- the model's own: which object is the older, and which object a waiter waits for -/
  serial : Nat
  /-- the model's own: how many free values have been used -/
  free : Nat
  cache : Cache
  home : Home
  net : Net
  ports : Table PortSt
  parts : Table PartSt
  ctrs : Ctrs
  mem : Mem
  tmo : Tmo
  /-- the reflected copies (R454, R477), by block number x 65,536 + canonical offset -/
  refl : Table Word
  /-- what the controller has sent outward, oldest first -/
  out : List OutMsg
  /-- the controller has taken itself out (R569) -/
  ctrlOut : Bool
  reports : List Report
  /-- ring ports that the board leaves unconnected, RING_E in bit 0 (R11) -/
  unwired : BitVec 4
  /-- installed DDR5 capacity in bytes (R19, R385) -/
  capacity : Nat
  /-- nodes from which credits are withheld (R369) -/
  slow : BitVec 16
  /-- waiting snoops that have become ready, by serial number, in the order in which they did (R56) -/
  snpReady : List Nat
  /-- four-channel mode, and its use of M4-M7 (R385) -/
  ddrFour : Bool
  ddrHigh : Bool
  /-- DDR5 channels retired (R409) -/
  ddrRet : BitVec 8
  /-- DDR5 reads waiting in their channels' queues (R392) -/
  ddrq : List DdrRead
  /-- the round robin of each channel's reads (R285) -/
  ddrWrr : Table Wrr
  chans : Table DdrCh
  hbms : Table HbmSt
  lan : Lantern
  beams : Beams
  engines : Table Engine
  /-- words of the engines' local memories (R458, space 0x30) -/
  engMem : Table Word
  tim : Tim
  regs : Regs
  pwr : Pwr
  boot : Boot
  /-- a step of a home action (R310) -/
  move : Option MoveWalk
  deriving DecidableEq, Repr

/-- Reasons a step can stop with a fault. No meaning raises one: every command has an effect in the spec, and an event
    whose condition does not hold leaves the state as it is. -/
inductive Fault where
  /-- never raised; safe -/
  | none
  deriving DecidableEq, Repr

/-- Reasons a step can refuse a command. -/
inductive Refusal where
  /-- raised by Dispatch.lean for a command that has no meaning yet; safe -/
  | notModelled (mnemonic : String)
  deriving DecidableEq, Repr

/-! Reset (R533): every table is empty, so that every indexed resource is at its default. -/

/-- Partition 0 after reset (R283). -/
def partBase : PartSt :=
  { en := true, state := 1, ways := (List.range 16).map fun n => (n, 0xFFFF)
    waysStaged := (List.range 16).map fun n => (n, 0xFFFF), share := 0x101010, shareStaged := 0x101010, pinBudget := 0
    pinBudgetStaged := 0, pins := 0, freezeTick := 0, hits := 0, misses := 0, writebacks := 0, qrefused := 0
    lateLines := 0, lateRows := 0, consUnpin := 0, rowsDone := 0 }
/-- A cache with nothing in it. The whole cache is off until CACHE_ENABLE or a write of EN (R479, R487). -/
def cacheReset : Cache :=
  { tags := [], shadow := [], repl := [], pf := [], fd := [], pred := [], miss := [], drain := [], pen := [], wc := []
    hbmq := [], hbmDir := [], hbmWrr := [], slices := [], delivs := [], xfers := [], probes := [], lprobes := []
    drains := [{ scope := none, pos := [], ended := true, count := 0, slot := none, cancels := [] }], flushes := [], folds := [] }
/-- Homes and gates with nothing open. -/
def homeReset : Home :=
  { homeq := [], farq := [], evict := [], recalls := [], rclDefer := [], arrWait := [], wbAcked := [], fdOwed := []
    reqSpent := [], wbkSpent := [], wbkSpentUp := [], farSpent := [], withheld := [], reqWait := [], farWait := [], wbkUsed := 0, wbkUsedUp := 0, wbkTransit := [], fence := [], fenceEnd := false
    mapLive := [], mapStaged := [], foldLive := 0, foldStaged := 0, lostHomes := [] }
/-- The tables of a ring of which no census has been taken: this node alone. -/
def slotReset : EpSlot :=
  { epoch := 0, dirs := [], routes := [], members := 1, folded := true, gates := [], order := [0], east := false
    west := false }
/-- A ring position before the first census. -/
def posReset : RingPos :=
  { ring := 0, node := 0, cur := slotReset, old := none, spare := slotReset, tm := 0, next := none, nextTm := none, unacked := []
    prepBy := 0, prepRes := ⟨[], true⟩, staged := [], stagedWords := [], subtree := 0, injected := [], ended := [], drainSeen := []
    drainInj := 0, drainEnd := 0, census := [], censusRun := false, censusDup := false, censusRefused := false
    waiting := none }
/-- The network side after reset (R208, R380). -/
def netReset : Net :=
  { ctrlId := 0, ctrlIdValid := false, isBridge := false, lower := posReset, upper := posReset, ports := []
    key0 := ⟨0, 0, false⟩, key1 := ⟨0, 0, false⟩, activeKey := false, peerAsm := [], syncPeriod := 125, syncMaster := 0
    syncIsMaster := false, syncLocked := false, syncOffset := 0, trim := 0, stepped := false, syncSent := 0, treeOfs := 0
    treeRoot := 0, treeDepth := 0, treeValid := false, deferUp := [], deferDown := [] }
/-- Counters and events after reset (R439, R484, R504). -/
def ctrsReset : Ctrs :=
  { trouble := [], fixed := [], mode := 0, cond := 0, smp := []
    dump := { en := false, ext := true, nbuf := 0, period := 1000000, base := 0, t0 := 0, done := 0, next := 0
              skipped := 0, seq := 0, lost := false, tExt := false, tNbuf := 0, tPeriod := 0, tBase := 0, nextTick := 0 }
    errEvent := 0, captBlock := 0, captEvent := 0, captValid := false, ceThresh := 0x1000, evt := 0, evtEn := 0
    intStatus := 0, intEn := 0x88C }
/-- Beams after reset (R253). -/
def beamsReset : Beams :=
  { ctx := [], setcap := 12, foldsafeAll := false, ddrShare := 50, queueMargin := 1000, refreshMargin := 500
    hbmShare := 50, sliceShare := 50, portShare := 60, ringShare := 50, ledger := [], reads := [] }
/-- Registers after reset. -/
def regsReset : Regs :=
  { acc := [], latch := [], idx := [], smbOfs := 0, readData := [], viewMgmt := false, viewSmb := false, scratch := 0
    bar2Reject := 0, pending := 0, foldPair := false, streamCons := false, armedConflict := false, overlap := false
    busy := none, armMask := 0, armTick := 0, armed := false, armSlot := none, recOk := true }
/-- Power after reset (R483). -/
def pwrReset : Pwr :=
  { dom := [], hint := 0, hold := 0, mhz := [], ramp := [], choice := [], tj := 0, pkg := 0, level := 0, emergency := false
    windows := 0, backstop := false, tjMax := 0, pkgSum := 0, pkgCount := 0, stackMax := 0, policy := []
    policyStaged := [], walkAt := [], scrubAt := [], trackAt := 0 }
/-- Start-up after a power-on reset whose pins have risen (R533, R538). -/
def bootReset : Boot :=
  { pwrOk := true, sysRst := true, perst := true, ready := false, ddrDegraded := false, fwB := false
    stage := 0, bootErr := 0, stopped := false, recovery := false, attempts := 0, cause := 0, upTime := 0, version := 0
    runSvn := 0, raiseSvn := false, runDigest := 0, runSect := [], svnFloor := 0, revoked := 0, upd := none, apply := none, overlayed := false, log := []
    logPos := 0, logRecs := [], logSeq := 0, logUnread := 0, railTrip := false, thermtrip := false, lostClk := 0
    intLow := false }
/-- The controller right after a power-on reset (R533). -/
def State.reset : State :=
  { pending := [], now := 0, serial := 0, free := 0, cache := cacheReset, home := homeReset, net := netReset, ports := []
    parts := [(0, partBase)], ctrs := ctrsReset
    mem := { ddr := [], ddrPsn := [], psnRuns := [], hbmSide := [], hbm := [], bar2 := [], nor := [], slots := [], lantern := [] }
    tmo := ⟨20, 1000, 20, 2000, 100, 2000⟩, refl := [], out := [], ctrlOut := false, reports := [], unwired := 0, capacity := 0
    slow := 0, snpReady := [], ddrFour := false, ddrHigh := false, ddrRet := 0, ddrq := [], ddrWrr := [], chans := [], hbms := []
    lan := { mbx := [], slots := [], latches := [], limits := [], slotDone := 0, recheckDue := false, peerSrc := [] }, beams := beamsReset
    engines := [], engMem := [], tim := ⟨0, [], [], [], 0, 0⟩, regs := regsReset, pwr := pwrReset, boot := bootReset
    move := none }

end Sys2Proof.Machine
end

