-- ==== Sys2Proof/Machine/Flags.lean ====
section
/-! DEFINITION. The flags of the controller: the numbers of the trouble kinds (R564), blocks (R453), error
    events (R485) and events (R440, R490-R493), and the raising and counting of each. -/

namespace Sys2Proof.Machine

/-- TAG_CE (R564). -/
def kSlcTagCe : Nat := 0
/-- TAG_UE (R564). -/
def kSlcTagUe : Nat := 1
/-- TAG_RSVD_STATE (R564). -/
def kSlcTagRsvdState : Nat := 2
/-- SHADOW_PAR (R564). -/
def kSlcShadowPar : Nat := 3
/-- PF_CE (R564). -/
def kSlcPfCe : Nat := 4
/-- PF_UE (R564). -/
def kSlcPfUe : Nat := 5
/-- FD_CE (R564). -/
def kSlcFdCe : Nat := 6
/-- FD_UE (R564). -/
def kSlcFdUe : Nat := 7
/-- HBM_CE (R564). -/
def kSlcHbmCe : Nat := 8
/-- HBM_UE (R564). -/
def kSlcHbmUe : Nat := 9
/-- HBM_LOC (R564). -/
def kSlcHbmLoc : Nat := 10
/-- POISON_WB (R564). -/
def kSlcPoisonWb : Nat := 11
/-- UNMAPPED_ADDR (R564). -/
def kSlcUnmappedAddr : Nat := 12
/-- MISDIRECTED (R564). -/
def kSlcMisdirected : Nat := 13
/-- WB_STALE (R564). -/
def kSlcWbStale : Nat := 14
/-- WBACK_STRAY (R564). -/
def kSlcWbackStray : Nat := 15
/-- CR_ERR (R564). -/
def kSlcCrErr : Nat := 16
/-- SNP_SEEN (R564). -/
def kSlcSnpSeen : Nat := 17
/-- SNP_TMO (R564). -/
def kSlcSnpTmo : Nat := 18
/-- SNP_LOST (R564). -/
def kSlcSnpLost : Nat := 19
/-- GRANT_TMO (R564). -/
def kSlcGrantTmo : Nat := 20
/-- FAR_GRANT_TMO (R564). -/
def kSlcFarGrantTmo : Nat := 21
/-- DATA_TMO (R564). -/
def kSlcDataTmo : Nat := 22
/-- WBACK_TMO (R564). -/
def kSlcWbackTmo : Nat := 23
/-- LATE_GRANT (R564). -/
def kSlcLateGrant : Nat := 24
/-- LATE_SNP (R564). -/
def kSlcLateSnp : Nat := 25
/-- LATE_DAT (R564). -/
def kSlcLateDat : Nat := 26
/-- LATE_FACK (R564). -/
def kSlcLateFack : Nat := 27
/-- TIMEOUT_RACE (R564). -/
def kSlcTimeoutRace : Nat := 28
/-- FAR_RCL_TMO (R564). -/
def kSlcFarRclTmo : Nat := 29
/-- FAR_RCL_LOST (R564). -/
def kSlcFarRclLost : Nat := 30
/-- FD_OVERFLOW (R564). -/
def kSlcFdOverflow : Nat := 31
/-- FD_EVICT (R564). -/
def kSlcFdEvict : Nat := 32
/-- FD_STALL (R564). -/
def kSlcFdStall : Nat := 33
/-- PEN_CANCEL (R564). -/
def kSlcPenCancel : Nat := 34
/-- PEN_SERVE (R564). -/
def kSlcPenServe : Nat := 35
/-- DRAIN_NOFILL (R564). -/
def kSlcDrainNofill : Nat := 36
/-- DRAIN_REFUSE (R564). -/
def kSlcDrainRefuse : Nat := 37
/-- ATOM_ILLEGAL (R564). -/
def kSlcAtomIllegal : Nat := 38
/-- ATOM_NOALLOC (R564). -/
def kSlcAtomNoalloc : Nat := 39
/-- ATOM_DEMOTE (R564). -/
def kSlcAtomDemote : Nat := 40
/-- ATOM_POISON (R564). -/
def kSlcAtomPoison : Nat := 41
/-- BEAM_PIN_CAP (R564). -/
def kSlcBeamPinCap : Nat := 42
/-- BEAM_STAGE_POISON (R564). -/
def kSlcBeamStagePoison : Nat := 43
/-- BEAM_CONS_UNPIN (R564). -/
def kSlcBeamConsUnpin : Nat := 44
/-- BEAM_REL_REJECT (R564). -/
def kSlcBeamRelReject : Nat := 45
/-- BEAM_PIN_INVAL (R564). -/
def kSlcBeamPinInval : Nat := 46
/-- BEAM_RESTAGE (R564). -/
def kSlcBeamRestage : Nat := 47
/-- MOVE_FENCE (R564). -/
def kSlcMoveFence : Nat := 48
/-- WAY_RETIRED (R564). -/
def kSlcWayRetired : Nat := 49
/-- LOST_WB (R564). -/
def kSlcLostWb : Nat := 50
/-- HOME_GONE (R564). -/
def kSlcHomeGone : Nat := 51
/-- PCP_FOREIGN (R564). -/
def kPcpPcpForeign : Nat := 0
/-- PCP_CRC (R564). -/
def kPcpPcpCrc : Nat := 1
/-- PCP_REPLAY (R564). -/
def kPcpPcpReplay : Nat := 2
/-- PCP_RECOVERY (R564). -/
def kPcpPcpRecovery : Nat := 3
/-- PCP_PROTO (R564). -/
def kPcpPcpProto : Nat := 4
/-- PCP_CREDIT (R564). -/
def kPcpPcpCredit : Nat := 5
/-- TIMEOUT_RACE (R564). -/
def kPcpTimeoutRace : Nat := 6
/-- STREAM_UNMAPPED (R564). -/
def kPcpStreamUnmapped : Nat := 7
/-- DB_REJECT (R564). -/
def kPcpDbReject : Nat := 8
/-- BEAM_DB_REJECT (R564). -/
def kPcpBeamDbReject : Nat := 9
/-- PORT_PURGE_POISON (R564). -/
def kPcpPortPurgePoison : Nat := 10
/-- PRL_FOREIGN (R564). -/
def kPrlPrlForeign : Nat := 0
/-- RING_CRC (R564). -/
def kPrlRingCrc : Nat := 1
/-- RING_REPLAY (R564). -/
def kPrlRingReplay : Nat := 2
/-- LANE_DROP (R564). -/
def kPrlLaneDrop : Nat := 3
/-- AUTH_FAIL (R564). -/
def kPrlAuthFail : Nat := 4
/-- SCR_CREDIT (R564). -/
def kPrlScrCredit : Nat := 5
/-- SCR_OP (R564). -/
def kPrlScrOp : Nat := 6
/-- SCR_FIELD (R564). -/
def kPrlScrField : Nat := 7
/-- STALE_EPOCH (R564). -/
def kPrlStaleEpoch : Nat := 8
/-- SCR_SRC (R564). -/
def kPrlScrSrc : Nat := 9
/-- UNROUTABLE (R564). -/
def kPrlUnroutable : Nat := 10
/-- SCR_ADDR (R564). -/
def kPrlScrAddr : Nat := 11
/-- SCR_RATE (R564). -/
def kPrlScrRate : Nat := 12
/-- CROSS_DEFER (R564). -/
def kPrlCrossDefer : Nat := 13
/-- CROSS_ILLEGAL (R564). -/
def kPrlCrossIllegal : Nat := 14
/-- RCL_DEFER (R564). -/
def kPrlRclDefer : Nat := 15
/-- TIMEOUT_RACE (R564). -/
def kPrlTimeoutRace : Nat := 16
/-- DDR_CE (R564). -/
def kDdrDdrCe : Nat := 0
/-- DDR_UE (R564). -/
def kDdrDdrUe : Nat := 1
/-- DDR_POISON_RD (R564). -/
def kDdrDdrPoisonRd : Nat := 2
/-- DDR_RETRY (R564). -/
def kDdrDdrRetry : Nat := 3
/-- DDR_RFM (R564). -/
def kDdrDdrRfm : Nat := 4
/-- DDR_RETRAIN (R564). -/
def kDdrDdrRetrain : Nat := 5
/-- SCRUB_CE (R564). -/
def kDdrScrubCe : Nat := 6
/-- SCRUB_UE (R564). -/
def kDdrScrubUe : Nat := 7
/-- SCRUB_SKIP (R564). -/
def kDdrScrubSkip : Nat := 8
/-- DDR_RETIRED_ACC (R564). -/
def kDdrDdrRetiredAcc : Nat := 9
/-- HBM_ODECC (R564). -/
def kHbmHbmOdecc : Nat := 0
/-- HBM_LANE_FAIL (R564). -/
def kHbmHbmLaneFail : Nat := 1
/-- SMB_PEC (R564). -/
def kGlbSmbPec : Nat := 0
/-- ENG_FAULT (R564). -/
def kGlbEngFault : Nat := 1
/-- PEER_REJECT (R564). -/
def kMbxPeerReject : Nat := 0
/-- PWR_ENTRY_ABORT (R564). -/
def kPwrPwrEntryAbort : Nat := 0

/-- Block numbers of R453. -/
def blkGlb : Nat := 0
/-- MBX (R453). -/
def blkMbx : Nat := 1
/-- PWR (R453). -/
def blkPwr : Nat := 3
/-- SLCn (R453). -/
def blkSlc (n : SliceId) : Nat := 7 + n.toNat
/-- PCPn (R453). -/
def blkPcp (n : PortId) : Nat := 23 + n.toNat
/-- The number r of a ring port (R490). -/
def ringIx : RingPort → Nat
  | .ringE => 0 | .ringW => 1 | .upA => 2 | .upB => 3
/-- RING_E, RING_W, UP_A, UP_B (R453). -/
def blkRing (p : RingPort) : Nat := 31 + ringIx p
/-- DDRn (R453). -/
def blkDdr (n : BitVec 3) : Nat := 35 + n.toNat
/-- HBMn (R453). -/
def blkHbm (n : Nat) : Nat := 43 + n

/-- Slice event of kind k (R490, R491). -/
def evSlc (k : Nat) (n : SliceId) : Nat := 16 * k + n.toNat
/-- PCP event of kind k (R490, R492). -/
def evPcp (k : Nat) (n : PortId) : Nat := 0x0C0 + 8 * k + n.toNat
/-- Ring-port event of kind k (R490, R492). -/
def evRing (k : Nat) (p : RingPort) : Nat := 0x100 + 4 * k + ringIx p
/-- DDR event of kind k (R490, R492). -/
def evDdr (k : Nat) (n : BitVec 3) : Nat := 0x120 + 8 * k + n.toNat
/-- HBM event of kind k (R490, R492). -/
def evHbm (k : Nat) (n : Nat) : Nat := 0x150 + 2 * k + n
/-- Beam-cluster event of kind k (R490, R492). -/
def evBeam (k : Nat) (c : Nat) : Nat := 0x160 + 5 * k + c

/-- Event v is set in both event registers; a 0-to-1 change under an enable signals vector v (R439-R441). -/
def raiseEvt (s : State) (v : Nat) : State :=
  let rise := !s.ctrs.evt.getLsbD v && s.ctrs.evtEn.getLsbD v
  { s with
    ctrs := { s.ctrs with evt := setBit s.ctrs.evt v true, intStatus := setBit s.ctrs.intStatus v true }
    out := if rise then s.out ++ [.msix (BitVec.ofNat 5 v)] else s.out }

/-! The firmware log (R434, R556). -/

/-- The oldest records that overlap the words to be written are dropped. -/
def logDrop (recs : List (Nat × Nat × Nat)) (need : Nat) : List (Nat × Nat × Nat) :=
  match recs with
  | [] => []
  | r :: rest => if ((r :: rest).map fun x => x.2.2).sum + need ≤ 65536 then r :: rest else logDrop rest need
/-- One record: its header, device time and payload (R434); event LOG at three quarters unread. -/
def logAdd (s : State) (code : BitVec 8) (payload : List Word) : State :=
  let b := s.boot
  let hd : Word := code.setWidth 32 ||| (BitVec.ofNat 32 payload.length) <<< 8 ||| (BitVec.ofNat 32 (b.logSeq % 65536)) <<< 16
  let ws := [hd, s.now.extractLsb' 0 32, s.now.extractLsb' 32 32] ++ payload
  let n := ws.length
  let log := (ws.zip (List.range n)).foldl (fun t e => tset (0 : Word) t ((b.logPos + e.2) % 65536) e.1) b.log
  let unread := min 65536 (b.logUnread + n)
  let s := { s with boot := { b with
    log := log, logPos := (b.logPos + n) % 65536, logRecs := logDrop b.logRecs n ++ [(b.logSeq, b.logPos, n)]
    logSeq := b.logSeq + 1, logUnread := unread } }
  if 49152 ≤ unread ∧ b.logUnread < 49152 then raiseEvt s 12 else s
/-- The words of a record. -/
def logWords (s : State) (r : Nat × Nat × Nat) : List Word :=
  (List.range r.2.2).map fun i => tget 0 s.boot.log ((r.2.1 + i) % 65536)

/-- The class of an error event decides the event bit it sets (R485). -/
def evtOfErr (e : Nat) : Nat := if e ≤ 6 then 7 else if e = 9 then 10 else 9

/-- Error event e is raised by block b (R484, R485), and logged (R556). -/
def raiseErr (s : State) (b e : Nat) : State :=
  let c := s.ctrs
  let s := if c.errEvent = 0 then
      { s with ctrs := { c with captBlock := BitVec.ofNat 6 b, captEvent := BitVec.ofNat 4 e, captValid := true } }
    else s
  let s := raiseEvt { s with ctrs := { s.ctrs with errEvent := setBit s.ctrs.errEvent e true } } (evtOfErr e)
  logAdd s 0x08 [BitVec.ofNat 32 e, BitVec.ofNat 32 b]

/-- One more occurrence of trouble kind k in block b (R486). -/
def trouble (s : State) (b k : Nat) : State :=
  let i := 64 * b + k
  let old := tget 0 s.ctrs.trouble i
  let new := satInc old
  let s' := { s with ctrs := { s.ctrs with trouble := tset 0 s.ctrs.trouble i new } }
  if old ≠ new ∧ (new = s.ctrs.ceThresh ∨ new = 0xFFFF) then raiseEvt s' 8 else s'

/-- A fixed counter after n more counts (R494, R496). -/
def cntAdd (c : Cnt) (n : Nat) : Cnt :=
  { c with count := c.count + BitVec.ofNat 48 n, ovf := c.ovf || decide (2 ^ 48 ≤ c.count.toNat + n) }

/-- A fixed counter at reset. -/
def cnt0 : Cnt := ⟨0, false, false⟩

/-- A sample record at reset. -/
def smpRec0 : SmpRec := ⟨0, 0, false, 0, 0, 0, 0, 0, 0⟩

/-- A sample counter at reset (R500). -/
def smp0 : Smp := ⟨0, false, false, false, 0, 0, 0, false, false, 0, smpRec0, 0, false, false, 0⟩

/-- What one sample counter does on n occurrences (R501), and whether it overflows (R502). -/
def smpAdd (m : Smp) (n : Nat) : Smp × Bool :=
  if m.count.toNat + n < 2 ^ 48 then ({ m with count := m.count + BitVec.ofNat 48 n }, false)
  else
    let rest := m.count.toNat + n - 2 ^ 48
    ({ m with
        count := m.reload + BitVec.ofNat 48 rest
        ovf := true
        armed := m.armed || !m.recValid
        skid := if m.recValid then m.skid else 0
        missed := if m.recValid then satInc m.missed else m.missed }, true)

/-- Sample counter i sees n occurrences (R501, R502). -/
def smpCount (s : State) (i n : Nat) : State :=
  let (m, o) := smpAdd (tget smp0 s.ctrs.smp i) n
  let s := { s with ctrs := { s.ctrs with smp := tset smp0 s.ctrs.smp i m } }
  if o then raiseEvt s (16 + i) else s

/-- Whether sample counter i counts an occurrence of event e for a transaction of `part` (R501). -/
def smpSees (s : State) (e : Nat) (part : Option PartId) (i : Nat) : Bool :=
  let m := tget smp0 s.ctrs.smp i
  m.en && decide (m.takenEvent.toNat = e) && (!m.pfilt || part == some m.part)

/-- The sample counters see n occurrences of event e (R501). -/
def smpAll (s : State) (e n : Nat) (part : Option PartId) : Nat → State
  | 0 => s
  | i + 1 =>
    let s := smpAll s e n part i
    if smpSees s e part i then smpCount s i (if (tget smp0 s.ctrs.smp i).takenMode then 1 else n) else s

/-- Event e occurs n times in one cycle of its island, for a transaction of `part` (R494, R501). -/
def countFor (s : State) (e n : Nat) (part : Option PartId) : State :=
  if n = 0 then s else
  let k := if s.ctrs.mode.getLsbD e then 1 else n
  let s := { s with ctrs := { s.ctrs with fixed := tset cnt0 s.ctrs.fixed e (cntAdd (tget cnt0 s.ctrs.fixed e) k) } }
  if s.ctrs.smp.isEmpty then s else smpAll s e n part 8

/-- INT_n is driven low while an enabled event is pending (R441). -/
def settle (s : State) : State :=
  { s with boot := { s.boot with intLow := decide (s.ctrs.intStatus &&& s.ctrs.intEn ≠ 0) } }
/-- The STATE of a partition, ABSENT where none is listed (R283). -/
def partStateAt (s : State) (p : Nat) : BitVec 3 := ((s.parts.find? fun (x : Nat × PartSt) => x.1 == p).map fun (x : Nat × PartSt) => x.2.state).getD 0
/-- The log record of one partition whose state changed: partition, old and new state (R556). Log entry 13. -/
def logPart (s t u : State) (p : Nat) : State :=
  if partStateAt s p = partStateAt t p then u
  else logAdd u 0x0D [BitVec.ofNat 32 p, BitVec.ofNat 32 ((partStateAt s p).toNat + 256 * (partStateAt t p).toNat)]
/-- The log records of the partitions whose state changed (R556). A reset is no such change: no firmware runs that would log it
    (R538). -/
def logParts (s t : State) : State :=
  (if t.boot.stage.toNat < 3 then [] else t.parts).foldl (fun (u : State) (e : Nat × PartSt) => logPart s t u e.1) t
/-- A reset is held: by PWR_OK or SYS_RST_n low, by a rail that fell, or by REFCLK25 or REFCLK100 lost (R533, R578, R586). -/
def inReset (s : State) : Bool :=
  !s.boot.pwrOk || !s.boot.sysRst || s.boot.railTrip || s.boot.lostClk.getLsbD 0 || s.boot.lostClk.getLsbD 1
/-- The management endpoint does not answer: it has not come up yet, or PERST_n holds it (R533, R535). -/
def endpointDown (s : State) : Bool := !s.boot.perst || decide (s.boot.stage < 2)
/-- Event e occurs once. -/
def count (s : State) (e : Nat) : State := countFor s e 1 none

end Sys2Proof.Machine
end

