-- ==== Sys2Proof/Machine/Operands.lean ====
section
/-! DEFINITION. The operand forms of the commands: how a physical address is taken apart (R14-R16), where its line
    is cached and where it lives (R17-R33, R46, R47), and the codes of states and sizes. -/

namespace Sys2Proof

/-- The 3-bit code of a line state (R41). -/
def LState.code : LState → BitVec 3
  | .I => 0 | .S => 1 | .E => 2 | .O => 3 | .M => 4 | .A => 5 | .X => 6 | .R => 7
/-- The line state of a code (R41). -/
def LState.ofCode (c : BitVec 3) : LState :=
  match c.toNat with
  | 0 => .I | 1 => .S | 2 => .E | 3 => .O | 4 => .M | 5 => .A | 6 => .X | _ => .R
/-- The code read as a state: the reserved code is treated as I (R41). -/
def LState.eff : LState → LState
  | .R => .I | s => s
/-- Dirty here: M, O or A (R62). -/
def LState.dirty : LState → Bool
  | .M | .O | .A => true | _ => false
/-- Exclusive or owned: E, O, M or A (R77). -/
def LState.owned : LState → Bool
  | .E | .O | .M | .A => true | _ => false

/-- Two answers ORed; the first supplier's name is kept, and a second supplier sets ERR (R154, R190). -/
def CR.or (a b : CR) : CR :=
  { shr := a.shr || b.shr, dsup := a.dsup || b.dsup, dirty := a.dirty || b.dirty, pen := a.pen || (b.pen && !a.dsup)
    upgv := a.upgv || b.upgv, upgo := a.upgo || b.upgo, err := a.err || b.err || (a.dsup && b.dsup)
    supnode := if a.dsup then a.supnode else if b.dsup || b.pen then b.supnode else a.supnode
    seen := a.seen }

end Sys2Proof

namespace Sys2Proof.Machine

/-- A[47:7] (R14). -/
def lineOf (a : Addr) : LineAddr := a.extractLsb' 7 41
/-- The address of byte 0 of a line. -/
def addrOf (l : LineAddr) : Addr := l.setWidth 48 <<< 7
/-- The critical chunk A[6:5] (R14). -/
def critOf (a : Addr) : BitVec 2 := a.extractLsb' 5 2
/-- The prism hash of an address (R15). -/
def prism (a : Addr) : SliceId :=
  a.extractLsb' 12 4 ^^^ a.extractLsb' 16 4 ^^^ a.extractLsb' 20 4 ^^^ a.extractLsb' 24 4 ^^^ a.extractLsb' 28 4
    ^^^ a.extractLsb' 32 4 ^^^ a.extractLsb' 36 4 ^^^ a.extractLsb' 40 4 ^^^ a.extractLsb' 44 4
/-- The slice of a line (R15). -/
def sliceOf (l : LineAddr) : SliceId := prism (addrOf l)
/-- The set index A[17:16], A[29:18] (R16). -/
def setOf (l : LineAddr) : BitVec 14 :=
  (addrOf l).extractLsb' 16 2 ++ (addrOf l).extractLsb' 18 12
/-- The sector tag A[47:30] (R14). -/
def tagOf (l : LineAddr) : BitVec 18 := l.extractLsb' 23 18
/-- The line within the sector, A[11:7] (R14). -/
def lineNo (l : LineAddr) : BitVec 5 := l.extractLsb' 0 5
/-- The 16 MiB granule A[47:24] (R17). -/
def granuleOf (l : LineAddr) : BitVec 24 := l.extractLsb' 17 24
/-- The line address that a slice, set, tag and line number give back (R16). -/
def lineFrom (sl : SliceId) (set : BitVec 14) (tag : BitVec 18) (l : BitVec 5) : LineAddr :=
  let hi : Addr := tag.setWidth 48 <<< 30 ||| (set.extractLsb' 0 12).setWidth 48 <<< 18
    ||| (set.extractLsb' 12 2).setWidth 48 <<< 16
  lineOf (hi ||| (sl ^^^ prism hi).setWidth 48 <<< 12 ||| l.setWidth 48 <<< 7)

/-- A line of zeros without poison. -/
def line0 : Line := ⟨0, 0⟩
/-- Chunk c of a line. -/
def chunkOf (d : Line) (c : Nat) : Chunk := d.bytes.extractLsb' (256 * c) 256
/-- The poison flag of chunk c. -/
def chunkPsn (d : Line) (c : Nat) : Bool := d.psn.getLsbD c
/-- Chunk c replaced. -/
def putChunk (d : Line) (c : Nat) (x : Chunk) (psn : Bool) : Line :=
  { bytes := putBits d.bytes (256 * c) x, psn := setBit d.psn c psn }
/-- A byte mask as a bit mask. -/
def byteMask : (n : Nat) → BitVec n → Nat
  | 0, _ => 0
  | n + 1, m => byteMask n (m.setWidth n) + (if m.getLsbD n then 255 * 256 ^ n else 0)
/-- Bytes of `new` named by the mask over `old` (R109, R161). -/
def mergeBytes (old new : BitVec 1024) (mask : BitVec 128) : BitVec 1024 :=
  let k := BitVec.ofNat 1024 (byteMask 128 mask)
  (old &&& ~~~k) ||| (new &&& k)
/-- The chunks that a byte mask touches. -/
def chunksOfMask (m : BitVec 128) : BitVec 4 :=
  BitVec.ofBool (m.extractLsb' 96 32 ≠ 0) ++ BitVec.ofBool (m.extractLsb' 64 32 ≠ 0)
    ++ BitVec.ofBool (m.extractLsb' 32 32 ≠ 0) ++ BitVec.ofBool (m.extractLsb' 0 32 ≠ 0)
/-- A full or partial write merged over a line: a chunk's poison clears only under a write of the whole line,
    and a poisoned slot poisons its chunk (R108, R123). -/
def mergeLine (old new : Line) (mask : BitVec 128) : Line :=
  { bytes := mergeBytes old.bytes new.bytes mask
    psn := if mask = BitVec.allOnes 128 then new.psn else old.psn ||| (new.psn &&& chunksOfMask mask) }
/-- The delivery order of R69. -/
def chunkOrder (c : BitVec 2) : List Nat := [c.toNat, (c + 1).toNat, (c + 2).toNat, (c + 3).toNat]

/-- The combined response at launch (R153). -/
def cr0 : CR := ⟨false, false, false, false, false, false, false, 0, 0⟩
/-- An unwritten tag entry (R40). -/
def tag0 : TagEntry := ⟨0, false, 0, false, 0, 0, .none⟩
/-- An unwritten shadow entry (R76). -/
def shadow0 : ShadowEntry := ⟨0, false, 0, 0, 0⟩
/-- A free port-filter entry (R81). -/
def pf0 : PfEntry := ⟨0, 0, false, false, .none⟩
/-- A free far-directory entry (R186). -/
def fd0 : FdEntry := ⟨0, false, false, false, 0, 0, 0, 0, 0, 0, .none⟩
/-- The predictor value that start-up writes (R215). -/
def pred0 : BitVec 2 := 1
/-- A slice after reset (R54, R110, R115, R218). -/
def slice0 : SliceSt := ⟨0, [], false, false, [], 128, 64, 2, 0, true, false, [], [], [], [], [], [], 0, false⟩
/-- An unused home-map entry (R17); the fields that firmware loads are 0 (log entry 3). -/
def hmap0 : HomeMapEntry := ⟨0, false, 0, 0, false, false, 0⟩

/-- State of line l in a tag entry (R40, R42). -/
def TagEntry.line (e : TagEntry) (l : BitVec 5) : LState :=
  if e.sv then LState.ofCode (e.st.extractLsb' (3 * l.toNat) 3) else .I
/-- State of line l, as the machine treats it (R41). -/
def TagEntry.eff (e : TagEntry) (l : BitVec 5) : LState := (e.line l).eff
/-- State of line l written. -/
def TagEntry.setLine (e : TagEntry) (l : BitVec 5) (s : LState) : TagEntry :=
  { e with st := putBits e.st (3 * l.toNat) s.code }
/-- PIN bits, 0 for a way without a sector (R42). -/
def TagEntry.pins (e : TagEntry) : BitVec 32 := if e.sv then e.pin else 0
/-- The states of the 32 lines. -/
def TagEntry.states (e : TagEntry) : List LState := (List.range 32).map fun l => e.eff (BitVec.ofNat 5 l)
/-- The penumbra need of a way (R62). -/
def TagEntry.need (e : TagEntry) : Nat :=
  (e.states.filter fun s => s.dirty || (s == .E && e.rqh)).length
/-- Even parity over bits [15k+14:15k] of a shadow entry (R76). -/
def ShadowEntry.parity (e : ShadowEntry) : BitVec 4 :=
  let v : BitVec 60 := BitVec.ofNat 60
    (e.tag.toNat + (if e.sv then 2 ^ 18 else 0) + 2 ^ 19 * e.pres.toNat + 2 ^ 51 * e.owng.toNat)
  let p (k : Nat) : BitVec 1 := BitVec.ofBool (popcount (v.extractLsb' (15 * k) 15) % 2 = 1)
  p 3 ++ p 2 ++ p 1 ++ p 0
/-- The parity of a shadow entry holds. -/
def ShadowEntry.ok (e : ShadowEntry) : Bool := e.par == e.parity
/-- A shadow entry with its parity made right. -/
def ShadowEntry.seal (e : ShadowEntry) : ShadowEntry := { e with par := e.parity }

/-- The tag of a line in the port filter (R81). -/
def pfTagOf (l : LineAddr) : BitVec 26 := tagOf l ++ (setOf l).extractLsb' 11 3 ++ lineNo l
/-- The port-filter set of a line (R81). -/
def pfSetOf (l : LineAddr) : BitVec 11 := (setOf l).extractLsb' 0 11 ^^^ ((lineNo l).setWidth 11 <<< 6)
/-- The far-directory set of a line (R186). -/
def fdSetOf (l : LineAddr) : BitVec 12 := (addrOf l).extractLsb' 16 12 ^^^ ((lineNo l).setWidth 12 <<< 7)
/-- The far-directory tag of a line (R186). -/
def fdTagOf (l : LineAddr) : BitVec 25 := (addrOf l).extractLsb' 28 20 ++ lineNo l
/-- The predictor counter of a line (R215). -/
def predIx (l : LineAddr) : BitVec 16 := (addrOf l).extractLsb' 7 16 ^^^ (addrOf l).extractLsb' 23 16

/-- Pseudo-channel of a line within its slice (R47). -/
def qOf (l : LineAddr) : Nat := (lineNo l).toNat % 4
/-- Byte offset of chunk c within its pseudo-channel (R47). -/
def hbmOffset (set : BitVec 14) (way : Nat) (l : BitVec 5) (c : Nat) : Nat :=
  (set.toNat * 16 + way) * 1024 + (l.toNat / 4) * 128 + c * 32
/-- Address of a chunk in the model's one HBM memory: slice, pseudo-channel, offset (R46, R47). -/
def hbmAddr (sl : SliceId) (set : BitVec 14) (way : Nat) (l : LineAddr) (c : Nat) : Nat :=
  sl.toNat * 2 ^ 30 + qOf l * 2 ^ 28 + hbmOffset set way (lineNo l) c
/-- The location check of a chunk (R48). -/
def locOf (set : BitVec 14) (way : Nat) (l : LineAddr) (c : Nat) : BitVec 5 :=
  set.setWidth 5 ^^^ BitVec.ofNat 5 (way % 16) ^^^ lineNo l ^^^ BitVec.ofNat 5 (8 * (c % 4))

/-- A width code of an atomic in bytes, 0 where it is reserved (R209). -/
def awBytes (aw : BitVec 2) : Nat := match aw.toNat with | 0 => 4 | 1 => 8 | 2 => 16 | _ => 0
/-- The combinations of operation and width that R209 lists. -/
def atomLegal (aop : BitVec 4) (aw : BitVec 2) : Bool :=
  match aop.toNat with
  | 4 => decide (aw.toNat ≤ 2)
  | 5 => aw.toNat == 1 || aw.toNat == 2
  | n => decide (n ≤ 9) && decide (aw.toNat ≤ 1)
/-- What memory receives (R209), for values of `8 * width` bits held in 128. -/
def atomResult (aop : BitVec 4) (bytes : Nat) (old a b : BitVec 128) : BitVec 128 :=
  let m : BitVec 128 := BitVec.ofNat 128 (2 ^ (8 * bytes) - 1)
  let old := old &&& m
  let a := a &&& m
  let b := b &&& m
  let sx (x : BitVec 128) : Int := if 2 * x.toNat < 2 ^ (8 * bytes) then x.toNat else (x.toNat : Int) - 2 ^ (8 * bytes)
  match aop.toNat with
  | 0 => (old + a) &&& m
  | 1 => old &&& a
  | 2 => old ||| a
  | 3 => old ^^^ a
  | 4 => a
  | 5 => if old = a then b else old
  | 6 => if sx a < sx old then a else old
  | 7 => if sx old < sx a then a else old
  | 8 => if a.toNat < old.toNat then a else old
  | 9 => if old.toNat < a.toNat then a else old
  | _ => old
/-- The value of `bytes` bytes at offset `ofs` of a line. -/
def lineValue (d : Line) (ofs : Nat) (bytes : Nat) : BitVec 128 :=
  BitVec.ofNat 128 ((d.bytes >>> (8 * ofs)).toNat % 2 ^ (8 * bytes))
/-- That value replaced. -/
def putLineValue (d : Line) (ofs bytes : Nat) (v : BitVec 128) : Line :=
  let m : BitVec 1024 := BitVec.ofNat 1024 (2 ^ (8 * bytes) - 1) <<< (8 * ofs)
  { d with bytes := (d.bytes &&& ~~~m) ||| ((v.setWidth 1024 <<< (8 * ofs)) &&& m) }

/-- The request of an RD_NC: the chunks that hold the bytes, and the byte mask (R328). -/
def rdNcMask (addr : Addr) (size : BitVec 3) : BitVec 128 :=
  BitVec.ofNat 128 ((2 ^ (2 ^ size.toNat) - 1) * 2 ^ (addr.toNat % 128))
/-- RD_NC: addr aligned to its size (R328). -/
def rdNcAligned (addr : Addr) (size : BitVec 3) : Bool := addr.toNat % 2 ^ size.toNat == 0

end Sys2Proof.Machine
end

