-- ==== Sys2Proof/Machine/Ops.lean ====
section
/-! DEFINITION. The named operations over the state that the meanings share: slices and their tables, placement,
    homes, messages to ports and rings, probes, HBM queues and penumbra buffers. -/

namespace Sys2Proof.Machine

/-! Slices and their tables. -/

/-- A fresh serial number: which object is the older, and which object a waiter waits for. -/
def fresh (s : State) : State := { s with serial := s.serial + 1 }

/-- Slice n. -/
def sliceSt (s : State) (sl : SliceId) : SliceSt := tget slice0 s.cache.slices sl.toNat
/-- Slice n written. -/
def putSlice (s : State) (sl : SliceId) (x : SliceSt) : State :=
  { s with cache := { s.cache with slices := tset slice0 s.cache.slices sl.toNat x } }
/-- Index of a way in the tables of ways. -/
def wayIx (sl : SliceId) (set : BitVec 14) (way : Nat) : Nat := (sl.toNat * 16384 + set.toNat) * 16 + way
/-- A primary tag entry. -/
def tagAt (s : State) (sl : SliceId) (set : BitVec 14) (way : Nat) : TagEntry := tget tag0 s.cache.tags (wayIx sl set way)
/-- A primary tag entry written. -/
def putTag (s : State) (sl : SliceId) (set : BitVec 14) (way : Nat) (e : TagEntry) : State :=
  { s with cache := { s.cache with tags := tset tag0 s.cache.tags (wayIx sl set way) e } }
/-- A shadow entry. -/
def shadowAt (s : State) (sl : SliceId) (set : BitVec 14) (way : Nat) : ShadowEntry :=
  tget shadow0 s.cache.shadow (wayIx sl set way)
/-- A shadow entry written. -/
def putShadow (s : State) (sl : SliceId) (set : BitVec 14) (way : Nat) (e : ShadowEntry) : State :=
  { s with cache := { s.cache with shadow := tset shadow0 s.cache.shadow (wayIx sl set way) e } }
/-- The replacement state of a set (R64). -/
def replAt (s : State) (sl : SliceId) (set : BitVec 14) : BitVec 16 := tget 0 s.cache.repl (sl.toNat * 16384 + set.toNat)
/-- The replacement state written. -/
def putRepl (s : State) (sl : SliceId) (set : BitVec 14) (r : BitVec 16) : State :=
  { s with cache := { s.cache with repl := tset 0 s.cache.repl (sl.toNat * 16384 + set.toNat) r } }
/-- Index of a port-filter entry. -/
def pfIx (sl : SliceId) (set : BitVec 11) (way : Nat) : Nat := (sl.toNat * 2048 + set.toNat) * 16 + way
/-- A port-filter entry. -/
def pfAt (s : State) (sl : SliceId) (set : BitVec 11) (way : Nat) : PfEntry := tget pf0 s.cache.pf (pfIx sl set way)
/-- A port-filter entry written; one left with HOLD = 0 is free (R81). What a free entry still shows in PTAG, FSL and its check
    bits the spec does not say: here they are 0. DESIGN CHOICE, log entry 109. -/
def putPf (s : State) (sl : SliceId) (set : BitVec 11) (way : Nat) (e : PfEntry) : State :=
  let e := if e.hold = 0 then pf0 else e
  { s with cache := { s.cache with pf := tset pf0 s.cache.pf (pfIx sl set way) e } }
/-- Index of a far-directory entry. -/
def fdIx (sl : SliceId) (set : BitVec 12) (way : Nat) : Nat := (sl.toNat * 4096 + set.toNat) * 16 + way
/-- A far-directory entry. -/
def fdAt (s : State) (sl : SliceId) (set : BitVec 12) (way : Nat) : FdEntry := tget fd0 s.cache.fd (fdIx sl set way)
/-- A far-directory entry written. -/
def putFd (s : State) (sl : SliceId) (set : BitVec 12) (way : Nat) (e : FdEntry) : State :=
  { s with cache := { s.cache with fd := tset fd0 s.cache.fd (fdIx sl set way) e } }
/-- Miss-table entry i of a slice. -/
def missAt (s : State) (sl : SliceId) (i : Nat) : Option MissEntry := tget none s.cache.miss (sl.toNat * 256 + i)
/-- Miss-table entry written, or freed. -/
def putMiss (s : State) (sl : SliceId) (i : Nat) (e : Option MissEntry) : State :=
  { s with cache := { s.cache with miss := tset none s.cache.miss (sl.toNat * 256 + i) e } }
/-- Penumbra buffer i of a slice. -/
def penAt (s : State) (sl : SliceId) (i : Nat) : Option PenBuf := tget none s.cache.pen (sl.toNat * 128 + i)
/-- Penumbra buffer written, or freed. -/
def putPen (s : State) (sl : SliceId) (i : Nat) (b : Option PenBuf) : State :=
  { s with cache := { s.cache with pen := tset none s.cache.pen (sl.toNat * 128 + i) b } }
/-- Write-combining buffer i of a slice. -/
def wcAt (s : State) (sl : SliceId) (i : Nat) : Option WcBuf := tget none s.cache.wc (sl.toNat * 64 + i)
/-- Write-combining buffer written, or freed. -/
def putWc (s : State) (sl : SliceId) (i : Nat) (b : Option WcBuf) : State :=
  { s with cache := { s.cache with wc := tset none s.cache.wc (sl.toNat * 64 + i) b } }

/-- The listed entries of one slice in a table with n entries a slice, by number. -/
def ofSlice {α : Type} (t : Table (Option α)) (sl : SliceId) (n : Nat) : List (Nat × α) :=
  t.filterMap fun e => if e.1 / n = sl.toNat then e.2.map fun v => (e.1 % n, v) else none
/-- The open miss-table entries of a slice. -/
def missOf (s : State) (sl : SliceId) : List (Nat × MissEntry) := ofSlice s.cache.miss sl 256
/-- The penumbra buffers of a slice that are in use. -/
def penOf (s : State) (sl : SliceId) : List (Nat × PenBuf) := ofSlice s.cache.pen sl 128
/-- The write-combining buffers of a slice that are in use. -/
def wcOf (s : State) (sl : SliceId) : List (Nat × WcBuf) := ofSlice s.cache.wc sl 64
/-- Home conflict queue entries of a slice. -/
def homeqOf (s : State) (sl : SliceId) : List (Nat × HomeEntry) := ofSlice s.home.homeq sl 64
/-- Far conflict queue entries of a slice. -/
def farqOf (s : State) (sl : SliceId) : List (Nat × HomeEntry) := ofSlice s.home.farq sl 32
/-- Directory-eviction slots of a slice in use. -/
def evictOf (s : State) (sl : SliceId) : List (Nat × HomeEntry) := ofSlice s.home.evict sl 4
/-- The first number below n that is not in use. -/
def firstFree (used : List Nat) (n : Nat) : Option Nat := (List.range n).find? fun i => !used.contains i

/-! Ports and partitions. -/

/-- A port after reset. -/
def port0 : PortSt :=
  { en := false, maxrate := 0, x8ok := true, autoRetrain := true, trainOk := false, ltssm := .detect, rate := 0, x8 := false
    initDone := false, down := false, retired := false, held := false, replayTmo := 250, replayMax := 4, prbOffer := 0
    prbCred := 0, errCapt := 0, captured := false, initRx := false, rxNext := 0, ackv := false, nakSent := false
    txNext := 0, unacked := [], txWait := [], replays := 0, recoveries := [], part := none, reqhUsed := 0, reqdUsed := 0
    rxq := [], wrr := ⟨0, 0⟩, probeHold := [], cmpHold := [], open_ := [], stream := [], streamStaged := [], dbEn := false, dbBase := 0, purge := none
    retiring := false, retire := none, returning := none, wasHeld := false }
/-- Port n. -/
def portSt (s : State) (p : PortId) : PortSt := tget port0 s.ports p.toNat
/-- Port n written. -/
def putPort (s : State) (p : PortId) (x : PortSt) : State := { s with ports := tset port0 s.ports p.toNat x }
/-- The page of a partition other than 0 after reset (R283). -/
def part0 : PartSt := ⟨false, 0, [], [], 0x101010, 0x101010, 0, 0, 0, 0, 0, 0, 0, 0, 0, 0, 0, 0⟩
/-- Partition p. -/
def partSt (s : State) (p : PartId) : PartSt := tget part0 s.parts p.toNat
/-- Partition p written. -/
def putPart (s : State) (p : PartId) (x : PartSt) : State := { s with parts := tset part0 s.parts p.toNat x }

/-! Engines (R458, R565). -/

/-- An engine after reset. -/
def engine0 : Engine := ⟨false, false, none⟩
/-- Engine e. -/
def engineSt (s : State) (e : Nat) : Engine := tget engine0 s.engines e
/-- Engine e written. -/
def putEngine (s : State) (e : Nat) (x : Engine) : State := { s with engines := tset engine0 s.engines e x }
/-- Engine e has its code: Lantern from step 2 of start-up on, the others from step 3 on (R535). -/
def engineUp (s : State) (e : Nat) : Bool := decide ((if 62 ≤ e then 2 else 3) ≤ s.boot.stage.toNat)
/-- Engine e runs. -/
def engineRuns (s : State) (e : Nat) : Bool := engineUp s e && !(engineSt s e).halted && !(engineSt s e).dead
/-- Lantern-B runs: it takes the census, authenticates links, keeps device time, and serves the PEER mailbox (R13, R347). While it is
    stopped none of this goes on, and the management slots that arrive are not consumed: log entry 122. -/
def lanternB (s : State) : Bool := engineRuns s 63

/-! Weighted round robin (R285). -/

/-- The points of R285, in the order of the bytes of PART.SHARE: port injection, HBM queues, home DDR5 queues. -/
inductive SharePoint where
  | portInject | hbmQueue | ddrQueue
  deriving DecidableEq, Repr
/-- The weight of a partition at a point; 0 is used as 1. -/
def weightOf (s : State) (k : SharePoint) (p : PartId) : Nat :=
  let v := (partSt s p).share
  max 1 (match k with
    | .portInject => v.extractLsb' 0 8
    | .hbmQueue => v.extractLsb' 8 8
    | .ddrQueue => v.extractLsb' 16 8).toNat
/-- The round robin before anything was served. -/
def wrr0 : Wrr := ⟨0, 0⟩
/-- The partition served next among those that wait at a point: the one whose turn it is while its turn lasts, else the next one
    that waits, for as many requests as its weight. -/
def wrrPick (w : PartId → Nat) (x : Wrr) (ps : List PartId) : Option (PartId × Wrr) :=
  if ps.contains x.turn ∧ 0 < x.left then some (x.turn, { x with left := x.left - 1 })
  else
    (((List.range 64).map fun k => x.turn + 1 + BitVec.ofNat 6 k).find? ps.contains).map fun p => (p, ⟨p, w p - 1⟩)

/-! Where a line is cached (R15, R16, R29, R33). -/

/-- Where the fabric delivers a line. -/
structure Place where
  /-- the slice that the prism hash gives -/
  own : SliceId
  /-- the slice that holds it -/
  sl : SliceId
  set : BitVec 14
  tag : BitVec 18
  line : BitVec 5
  folded : Bool
  /-- the set is in motion under a fold walk (R33) -/
  held : Bool
  deriving DecidableEq, Repr

/-- Whether set `set` of slice n is served by the partner, and whether it is in motion (R29, R33). -/
def foldRoute (s : State) (n : SliceId) (set : BitVec 14) : Bool × Bool :=
  match s.cache.folds.find? fun w => w.slice == n with
  | some w =>
    if set.toNat = w.cursor.toNat then (w.ret, true)
    else if set.toNat < w.cursor.toNat then (!w.ret, false)
    else (w.ret, false)
  | none => (s.home.foldLive.getLsbD n.toNat, false)

/-- Where a line goes. -/
def place (s : State) (l : LineAddr) : Place :=
  let n := sliceOf l
  let set := setOf l
  let (f, h) := foldRoute s n set
  { own := n, sl := if f then n ^^^ 8 else n, set, tag := tagOf l, line := lineNo l, folded := f, held := h }

/-- Whether ways 8-15 of this set of slice n hold the folded sectors of its partner (R29); the set that a return walk has
    in motion still does (R33). -/
def carries (s : State) (n : SliceId) (set : BitVec 14) : Bool :=
  match s.cache.folds.find? fun w => w.slice == n ^^^ 8 with
  | some w => if w.ret then decide (w.cursor.toNat ≤ set.toNat) else decide (set.toNat < w.cursor.toNat)
  | none => s.home.foldLive.getLsbD (n ^^^ 8).toNat

/-- The ways that may hold a sector of the place (R29). -/
def waysFor (s : State) (pl : Place) : List Nat :=
  if pl.folded then (List.range 8).map (· + 8)
  else if carries s pl.sl pl.set then List.range 8 else List.range 16

/-- The way that holds the sector, if one does (R50, stage T3). -/
def findWay (s : State) (pl : Place) : Option Nat :=
  (waysFor s pl).find? fun w =>
    let e := tagAt s pl.sl pl.set w
    e.sv && e.tag == pl.tag

/-- The state of the line here (R41, R42). -/
def stateHere (s : State) (pl : Place) : LState :=
  match findWay s pl with
  | some w => (tagAt s pl.sl pl.set w).eff pl.line
  | none => .I

/-- The way mask of a partition for a place (R30, R59). -/
def wayMask (s : State) (p : PartId) (pl : Place) : BitVec 16 :=
  let m (n : SliceId) : BitVec 16 := tget 0 (partSt s p).ways n.toNat
  let fold (x : BitVec 16) : BitVec 8 := x.extractLsb' 0 8 ||| x.extractLsb' 8 8
  if pl.folded then fold (m pl.own) ++ (0 : BitVec 8)
  else if carries s pl.sl pl.set then (0 : BitVec 8) ++ fold (m pl.sl)
  else m pl.sl

/-! Where a line lives (R18, R19). -/

/-- The entry of the home map that applies (R18). -/
def homeOf (s : State) (l : LineAddr) : Option HomeMapEntry :=
  (s.home.mapLive.find? fun e =>
    e.2.valid && decide (e.2.base ≤ granuleOf l) && decide (granuleOf l ≤ e.2.last)).map Prod.snd
/-- The local DDR5 address of a line (R19). -/
def localAddr (e : HomeMapEntry) (l : LineAddr) : Nat :=
  ((granuleOf l).toNat - e.base.toNat + e.localBase.toNat) * 2 ^ 24 + (addrOf l).toNat % 2 ^ 24
/-- Ring ID of a controller ID (R10). -/
def ringOf (c : CtrlId) : BitVec 8 := c.extractLsb' 4 8
/-- Node ID of a controller ID (R10). -/
def nodeOf (c : CtrlId) : NodeId := c.extractLsb' 0 4
/-- This controller's ring. -/
def myRing (s : State) : BitVec 8 := ringOf s.net.ctrlId
/-- This controller's node ID. -/
def myNode (s : State) : NodeId := nodeOf s.net.ctrlId
/-- A controller ID from its parts (R10). -/
def ctrlOf (r : BitVec 8) (n : NodeId) : CtrlId := r ++ n
/-- The position in the own ring, or in the parent ring (R170). -/
def posOf (s : State) (upper : Bool) : RingPos := if upper then s.net.upper else s.net.lower
/-- The same, written. -/
def putPos (s : State) (upper : Bool) (x : RingPos) : State :=
  { s with net := if upper then { s.net with upper := x } else { s.net with lower := x } }
/-- The tables of an epoch of a ring: the current ones where the epoch is not live (R364). -/
def epSlot (s : State) (upper : Bool) (e : BitVec 4) : EpSlot :=
  let x := posOf s upper
  match x.old with
  | some o => if o.epoch = e ∧ x.cur.epoch ≠ e then o else x.cur
  | none => x.cur
/-- The current epoch of the own ring. -/
def myEpoch (s : State) : BitVec 4 := s.net.lower.cur.epoch
/-- NEXT of a ring route table entry (R173). -/
def nextOf (r : BitVec 6) : NodeId := r.extractLsb' 0 4
/-- ACT of a ring route table entry (R173). -/
def actOf (r : BitVec 6) : BitVec 2 := r.extractLsb' 4 2
/-- The controller at a node position of a ring: behind an upper position stands its bridge (R170, R360). -/
def ctrlAt (s : State) (upper : Bool) (n : NodeId) : CtrlId :=
  match (posOf s upper).cur.gates.find? fun g => g.1 == n with
  | some g => g.2
  | none => ctrlOf (posOf s upper).ring n
/-- The node position of a ring through which ring x is reached (R172): the ring's gate, or this node. -/
def gateNode (s : State) (upper : Bool) (x : BitVec 8) : NodeId :=
  let r := tget 0 (posOf s upper).cur.routes x.toNat
  if actOf r = 2 then nextOf r else (posOf s upper).node
/-- The gate of the own ring toward ring x, as a controller. -/
def gateCtrl (s : State) (x : BitVec 8) : CtrlId := ctrlAt s false (gateNode s false x)
/-- This controller is the home of the line. -/
def isHome (s : State) (l : LineAddr) : Bool :=
  match homeOf s l with
  | some e => e.home == s.net.ctrlId
  | none => false

/-! Timers (R164, R168, R202). -/

/-- A timer value in µs, used as the nearest end of its range (R164, R202). -/
def tmoClamp (w : Word) (lo hi : Nat) : Nat := max lo (min hi (w.toNat % 2 ^ 20))
/-- The snoop timer. -/
def tmoSnp (s : State) : Nat := tmoClamp s.tmo.snp 5 10000
/-- The grant timer. -/
def tmoGrant (s : State) : Nat := tmoClamp s.tmo.grant 100 1000000
/-- The data timer. -/
def tmoData (s : State) : Nat := tmoClamp s.tmo.data 5 10000
/-- The writeback timer. -/
def tmoWback (s : State) : Nat := tmoClamp s.tmo.wback 100 1000000
/-- The recall timer. -/
def tmoRcl (s : State) : Nat := tmoClamp s.tmo.rcl 30 100000
/-- The far grant timer. -/
def tmoFarGrant (s : State) : Nat := tmoClamp s.tmo.farGrant 200 1000000
/-- A timer of `us` µs started at `start` has reached its expiry. -/
def due (s : State) (start : Tick) (us : Nat) : Bool := decide (start.toNat + 1000 * us ≤ s.now.toNat)
/-- An arrival in the cycle of its timer's expiry is taken and counted (R168). -/
def race (s : State) (b : Nat) (isDue : Bool) : State := if isDue then trouble s b (if b < 23 then kSlcTimeoutRace else kPrlTimeoutRace) else s

/-! Flits to a port (R319), completions and chunks (R331-R333). -/

/-- A message leaves in a normal flit of its own, unless 128 flits are unacknowledged (R318, R319; log entry 30). What a
    link that is down would carry is discarded (R338). -/
def sendPort (s : State) (p : PortId) (m : PortMsg) : State :=
  let x := portSt s p
  if x.down then s
  else if x.unacked.length < 128 ∧ x.txWait = [] then
    count { putPort s p { x with unacked := x.unacked ++ [(x.txNext, s.now, m)], txNext := x.txNext + 1 } with
            out := s.out ++ [.flit p x.txNext m] } (evPcp 4 p)
  else putPort s p { x with txWait := x.txWait ++ [m] }

/-- Messages that waited leave while fewer than 128 flits are unacknowledged (R319). -/
def pumpFlits (s : State) (p : PortId) : Nat → State
  | 0 => s
  | n + 1 =>
    let x := portSt s p
    match x.txWait with
    | m :: rest =>
      if x.unacked.length < 128 then
        pumpFlits (count { putPort s p { x with unacked := x.unacked ++ [(x.txNext, s.now, m)], txNext := x.txNext + 1
                                                txWait := rest } with
                           out := s.out ++ [.flit p x.txNext m] } (evPcp 4 p)) p n
      else s
    | [] => s

/-- A completion leaves, and its data slots are counted. -/
def leaveCmp (s : State) (p : PortId) (m : PortMsg) : State :=
  let s := count (sendPort s p m) (evPcp 1 p)
  match m with
  | .cmpd _ _ _ _ want _ _ => countFor (countFor s 0x175 (popcount want) none) (evPcp 5 p) (popcount want) none
  | _ => s

/-! Probes (R98-R102, R330). -/

/-- Outstanding probe t of port p. -/
def probeAt (s : State) (p : PortId) (t : Nat) : Option Probe := tget none s.cache.probes (p.toNat * 256 + t)
/-- The same, written. -/
def putProbe (s : State) (p : PortId) (t : Nat) (x : Option Probe) : State :=
  { s with cache := { s.cache with probes := tset none s.cache.probes (p.toNat * 256 + t) x } }
/-- The outstanding probes of a port, by tag. -/
def probesOf (s : State) (p : PortId) : List (Nat × Probe) :=
  s.cache.probes.filterMap fun e => if e.1 / 256 = p.toNat then e.2.map fun v => (e.1 % 256, v) else none

/-- A completion for a line waits behind the probes of that line that were issued before it and have not left (R100). -/
def cmpBlocked (s : State) (p : PortId) (l : LineAddr) (t : BitVec 10) : Bool :=
  (portSt s p).probeHold.any fun b => b.laddr == l && !b.after.contains t
/-- The completion under tag t that the slice has issued for a line has not left yet (R100). -/
def cmpPending (s : State) (p : PortId) (l : LineAddr) (t : BitVec 10) : Bool :=
  (s.cache.delivs.any fun d => d.port == p && d.laddr == l && d.ptag == t)
    || (portSt s p).cmpHold.any fun c => c.1 == t && c.2.1 == l
/-- The tags of the completions for a line that have not left. -/
def cmpTags (s : State) (p : PortId) (l : LineAddr) : List (BitVec 10) :=
  (s.cache.delivs.filterMap fun d => if d.port = p ∧ d.laddr = l then some d.ptag else none)
    ++ (portSt s p).cmpHold.filterMap fun c => if c.2.1 = l then some c.1 else none

/-- Held completions and probes leave, each line's in the order of issue (R100): a completion when no earlier probe of its
    line is held, a probe when every earlier completion of its line has left and a probe tag and a credit are free (R330). -/
def pumpProbes (s : State) (p : PortId) : Nat → State
  | 0 => s
  | n + 1 =>
    let x := portSt s p
    match x.cmpHold.find? fun c => !cmpBlocked s p c.2.1 c.1 with
    | some c => pumpProbes (leaveCmp (putPort s p { x with cmpHold := x.cmpHold.erase c }) p c.2.2) p n
    | none =>
      match x.probeHold.find? (fun b => !b.after.any (cmpPending s p b.laddr)), firstFree ((probesOf s p).map Prod.fst) 256 with
      | some pb, some t =>
        if x.prbCred = 0 then s
        else
          let s := putPort s p { x with probeHold := x.probeHold.erase pb, prbCred := x.prbCred - 1 }
          let s := putProbe s p t (some pb)
          let s := count (sendPort s p (.probe pb.kind (BitVec.ofNat 8 t) pb.laddr)) (evPcp 2 p)
          pumpProbes s p n
      | _, _ => s
/-- All that may leave leaves. -/
def pumpHeld (s : State) (p : PortId) : State :=
  pumpProbes s p ((portSt s p).probeHold.length + (portSt s p).cmpHold.length)

/-- The line of an open request (R325). -/
def lineOfTag (s : State) (p : PortId) (t : BitVec 10) : Option LineAddr :=
  ((portSt s p).open_.find? fun e => e.1 == t).map (·.2.2)
/-- A completion issued: its tag is freed, and what a link that is down would carry is discarded (R325, R338). It waits
    behind the held probes of its line, and lets the probes that waited for it go (R100). -/
def issueCmp (s : State) (p : PortId) (t : BitVec 10) (m : PortMsg) : State :=
  let x := portSt s p
  let l := lineOfTag s p t
  let s := putPort s p { x with open_ := x.open_.filter fun e => e.1 ≠ t }
  if x.down then s
  else
    match l with
    | none => leaveCmp s p m
    | some l =>
      if cmpBlocked s p l t then
        let x := portSt s p
        putPort s p { x with cmpHold := x.cmpHold ++ [(t, l, m)] }
      else pumpHeld (leaveCmp s p m) p

/-- A completion without data. -/
def complete (s : State) (p : PortId) (ptag : BitVec 10) (gst : LState) (psn : Bool) (status : BitVec 8)
    (oldv : BitVec 128) : State :=
  issueCmp s p ptag (.cmp ptag (if status = 0 then gst else .I) psn status oldv)

/-- A completion that carries the line (CMPD). -/
def completeData (s : State) (p : PortId) (ptag : BitVec 10) (gst : LState) (psn : Bool) (crit : BitVec 2)
    (want : BitVec 4) (d : Line) (oldv : BitVec 128) : State :=
  issueCmp s p ptag (.cmpd ptag gst psn crit want d oldv)

/-- A chunk forwarded in a DATA message (R72, R332). -/
def portData (s : State) (p : PortId) (ptag : BitVec 10) (c : Nat) (x : Chunk) (psn : Bool) : State :=
  if (portSt s p).down then s
  else count (count (sendPort s p (.data ptag (BitVec.ofNat 2 c) x psn)) 0x175) (evPcp 5 p)

/-- A request ended by an error response. -/
def refusePort (s : State) (p : PortId) (ptag : BitVec 10) (status : BitVec 8) : State :=
  complete s p ptag .I false status 0

/-- A probe issued to a port; it waits its turn for a tag and a credit (R330), behind the completions for its line that the
    slice issued before it (R100). -/
def sendProbe (s : State) (k : ProbeKind) (l : LineAddr) (exh : Bool) (o : ProbeOwner) (p : PortId) : State :=
  let x := portSt s p
  pumpHeld (putPort s p { x with probeHold := x.probeHold ++ [⟨k, l, o, exh, none, cmpTags s p l⟩] }) p

/-- Probes issued to every port of a mask. -/
def sendProbes (s : State) (k : ProbeKind) (l : LineAddr) (exh : Bool) (o : ProbeOwner) (m : BitVec 8) : State :=
  (bitsOf m).foldl (fun s p => sendProbe s k l exh o (BitVec.ofNat 3 p)) s

/-- A probe to the port for the line is open (R102), sent or held. -/
def probeOpen (s : State) (p : PortId) (l : LineAddr) : Bool :=
  (probesOf s p).any (fun e => e.2.laddr == l) || (portSt s p).probeHold.any fun e => e.laddr == l

/-! The port filter (R81, R82). -/

/-- The filter way of a line, if it has an entry. -/
def pfFind (s : State) (pl : Place) (l : LineAddr) : Option Nat :=
  (List.range 16).find? fun w =>
    let e := pfAt s pl.sl (pfSetOf l) w
    e.hold != 0 && e.ptag == pfTagOf l && e.fsl == pl.folded
/-- The filter entry of a line, free when it has none. -/
def pfGet (s : State) (pl : Place) (l : LineAddr) : PfEntry :=
  match pfFind s pl l with
  | some w => pfAt s pl.sl (pfSetOf l) w
  | none => pf0
/-- HOLD and EXH of a line rewritten. -/
def pfPut (s : State) (pl : Place) (l : LineAddr) (hold : BitVec 8) (exh : Bool) : State :=
  match pfFind s pl l with
  | some w => putPf s pl.sl (pfSetOf l) w { pfAt s pl.sl (pfSetOf l) w with hold := hold, exh := exh }
  | none => s
/-- RQH of the sector set (R43). -/
def setRqh (s : State) (pl : Place) : State :=
  match findWay s pl with
  | some w => putTag s pl.sl pl.set w { tagAt s pl.sl pl.set w with rqh := true }
  | none => s
/-- A grant recorded: the port is added to HOLD, with EXH for a grant of E or M (R82, R95). -/
def pfGrant (s : State) (pl : Place) (l : LineAddr) (p : PortId) (exh : Bool) : State :=
  let one : BitVec 8 := BitVec.twoPow 8 p.toNat
  match pfFind s pl l with
  | some w =>
    let e := pfAt s pl.sl (pfSetOf l) w
    putPf s pl.sl (pfSetOf l) w { e with hold := if exh then one else e.hold ||| one, exh := exh }
  | none =>
    match (List.range 16).find? fun w => (pfAt s pl.sl (pfSetOf l) w).hold == 0 with
    | some w => setRqh (putPf s pl.sl (pfSetOf l) w ⟨pfTagOf l, one, exh, pl.folded, .none⟩) pl
    | none => s

/-! Shadow tags (R76, R77). -/

/-- A line has an open miss-table entry that does not wait in the conflict queue. -/
def lineOpen (s : State) (sl : SliceId) (l : LineAddr) : Bool :=
  (missOf s sl).any fun e => e.2.kind != .waiting && lineOf e.2.req.hdr.addr == l
/-- The lines of a way. -/
def wayLine (s : State) (sl : SliceId) (set : BitVec 14) (way : Nat) (l : BitVec 5) : LineAddr :=
  let own := if carries s sl set && decide (8 ≤ way) then sl ^^^ 8 else sl
  lineFrom own set (tagAt s sl set way).tag l
/-- The shadow entry of a way made equal to the summary of R77, as every W stage leaves it. -/
def syncShadow (s : State) (sl : SliceId) (set : BitVec 14) (way : Nat) : State :=
  let e := tagAt s sl set way
  let up (l : Nat) : Bool := lineOpen s sl (wayLine s sl set way (BitVec.ofNat 5 l))
  let here (l : Nat) : LState := e.eff (BitVec.ofNat 5 l)
  let pres : BitVec 32 := (List.range 32).foldl (fun m l => setBit m l (e.sv && (here l != .I || up l))) 0
  let owng : BitVec 8 := (List.range 32).foldl
    (fun m l => if e.sv && ((here l).owned || up l) then setBit m (l / 4) true else m) 0
  putShadow s sl set way (ShadowEntry.seal ⟨e.tag, e.sv, pres, owng, 0⟩)

/-- The state of a line changed in the tags, and the shadow entry with it (R77). -/
def setLine (s : State) (pl : Place) (st : LState) : State :=
  match findWay s pl with
  | some w => syncShadow (putTag s pl.sl pl.set w ((tagAt s pl.sl pl.set w).setLine pl.line st)) pl.sl pl.set w
  | none => s
/-- The shadow entry of the line's sector brought up to date. -/
def syncLine (s : State) (pl : Place) : State :=
  match findWay s pl with
  | some w => syncShadow s pl.sl pl.set w
  | none => s

/-! HBM (R46-R49, R68). -/

/-- The queue of pseudo-channel q of a slice. -/
def hbmq (s : State) (sl : SliceId) (q : Nat) : List HbmOp := tget [] s.cache.hbmq (sl.toNat * 4 + q)
/-- The same, written. -/
def putHbmq (s : State) (sl : SliceId) (q : Nat) (x : List HbmOp) : State :=
  { s with cache := { s.cache with hbmq := tset [] s.cache.hbmq (sl.toNat * 4 + q) x } }
/-- An operation joins the queue of its pseudo-channel. -/
def pushHbm (s : State) (sl : SliceId) (o : HbmOp) : State :=
  let q := qOf o.laddr
  putHbmq s sl q (hbmq s sl q ++ [o])
/-- Whom an operation of a pseudo-channel queue is for: the partition, and the beam priority bit (R241, R285). -/
structure HbmFor where
  part : PartId
  beam : Bool
  deriving DecidableEq, Repr
/-- A request's own operations. -/
def Req.hbmFor (r : Req) : HbmFor := ⟨r.part, match r.src with | .beam _ _ _ => true | _ => false⟩
/-- Operations that no request asked for belong to the partition of the sector. -/
def sectorFor (s : State) (pl : Place) (way : Nat) : HbmFor := ⟨(tagAt s pl.sl pl.set way).part, false⟩
/-- Reads of the chunks `cs` of a line queued (R70). -/
def queueReads (s : State) (pl : Place) (l : LineAddr) (way : Nat) (cs : List Nat) (d : HbmDest) (b : HbmFor) : State :=
  cs.foldl (fun s c => pushHbm s pl.sl
    ⟨false, l, pl.set, BitVec.ofNat 4 way, BitVec.ofNat 2 c, d, 0, 0, false, b.beam, b.part⟩) s
/-- A fill buffer that still drains follows a later write of its line, since hits are served from it (R74). -/
def followDrain (s : State) (sl : SliceId) (l : LineAddr) (x : Line) (mask : BitVec 128) (psn : Bool) : State :=
  { s with cache := { s.cache with drain := s.cache.drain.map fun (d : FillDrain) =>
      if d.slice = sl ∧ d.laddr = l then
        { d with line := { bytes := mergeBytes d.line.bytes x.bytes mask
                           psn := (d.line.psn &&& ~~~chunksOfMask mask) ||| (if psn then chunksOfMask mask else 0) } }
      else d } }
/-- Writes of the chunks of a line queued, under a byte mask (R73, R108). -/
def queueWrites (s : State) (pl : Place) (l : LineAddr) (way : Nat) (x : Line) (mask : BitVec 128) (psn : Bool)
    (d : HbmDest) (b : HbmFor) : State :=
  ((List.range 4).filter fun c => (chunksOfMask mask).getLsbD c).foldl (fun s c => pushHbm s pl.sl
    ⟨true, l, pl.set, BitVec.ofNat 4 way, BitVec.ofNat 2 c, d, chunkOf x c, mask.extractLsb' (32 * c) 32, psn, b.beam, b.part⟩)
    (followDrain s pl.sl l x mask psn)
/-- Side bits of a chunk that nothing has written. -/
def hbmSide0 : HbmSide := ⟨false, false, 0⟩
/-- Chunk index in the side table. -/
def sideIx (sl : SliceId) (o : HbmOp) : Nat := hbmAddr sl o.set o.way.toNat o.laddr o.chunk.toNat / 32
/-- The data of a chunk in HBM. -/
def hbmData (s : State) (sl : SliceId) (o : HbmOp) : Chunk :=
  BitVec.ofNat 256 (natOfBytes (mread s.mem.hbm (hbmAddr sl o.set o.way.toNat o.laddr o.chunk.toNat) 32))
/-- Bytes of `new` under the mask, else of `old`. -/
def maskChunk (old new : Chunk) (mask : BitVec 32) : Chunk :=
  let k := BitVec.ofNat 256 (byteMask 32 mask)
  (old &&& ~~~k) ||| (new &&& k)
/-- A queued write performed: data, POISON and LOC (R48). -/
def hbmWrite (s : State) (sl : SliceId) (o : HbmOp) : State :=
  let a := hbmAddr sl o.set o.way.toNat o.laddr o.chunk.toNat
  let x := maskChunk (hbmData s sl o) o.data o.mask
  { s with mem := { s.mem with
      hbm := mwrite s.mem.hbm a (bytesOf x 32)
      hbmSide := tset hbmSide0 s.mem.hbmSide (a / 32) ⟨true, o.poison, locOf o.set o.way.toNat o.laddr o.chunk.toNat⟩ } }

/-- The POISON bit that a chunk has in HBM once the queued writes before now are performed (R48, R108). -/
def chunkPoison (s : State) (pl : Place) (way : Nat) (l : LineAddr) (c : Nat) : Bool :=
  let same (o : HbmOp) : Bool := o.write && o.set == pl.set && o.way == BitVec.ofNat 4 way && lineNo o.laddr == lineNo l
    && o.chunk == BitVec.ofNat 2 c
  match (hbmq s pl.sl (qOf l)).reverse.find? same with
  | some o => o.poison
  | none => (tget hbmSide0 s.mem.hbmSide (hbmAddr pl.sl pl.set way l c / 32)).poison
/-- The line in HBM is poisoned. -/
def linePoison (s : State) (pl : Place) (way : Nat) (l : LineAddr) : Bool :=
  (List.range 4).any (chunkPoison s pl way l)
/-- A line that a CLAIM has been granted has an undefined value until its requester writes it (R105): what HBM holds of it, and
    what is on its way there, becomes a free value, the POISON bits as they stand (R106). Log entry 7. -/
def claimValue (s : State) (pl : Place) (way : Nat) (l : LineAddr) : State :=
  let d : Line := ⟨Config.freeLine s.free, 0⟩
  let s := { s with free := s.free + 1 }
  let at_ (o : HbmOp) : Bool := o.write && o.set == pl.set && o.way == BitVec.ofNat 4 way && lineNo o.laddr == lineNo l
  let s := putHbmq s pl.sl (qOf l) ((hbmq s pl.sl (qOf l)).map fun o =>
    if at_ o then { o with data := chunkOf d o.chunk.toNat } else o)
  let s := { s with
    mem := { s.mem with hbm := (List.range 4).foldl (fun m c =>
      mwrite m (hbmAddr pl.sl pl.set way l c) (bytesOf (chunkOf d c) 32)) s.mem.hbm }
    cache := { s.cache with drain := s.cache.drain.map fun (x : FillDrain) =>
      if x.slice = pl.sl ∧ x.laddr = l then { x with line := { x.line with bytes := d.bytes } } else x } }
  s

/-- The line is being written from a fill buffer, so that a hit is served from it (R74). -/
def drainOf (s : State) (sl : SliceId) (l : LineAddr) : Option Line :=
  s.cache.drain.findSome? fun e => if e.slice = sl ∧ e.laddr = l then some e.line else none

/-! Open objects: what a waiter may wait for (R55, R56). -/

/-- The object with this serial number is still open. -/
def serialOpen (s : State) (sl : SliceId) (id : Nat) : Bool :=
  (missOf s sl).any (fun e => e.2.serial == id) || (wcOf s sl).any (fun e => e.2.serial == id)
    || (penOf s sl).any (fun e => e.2.serial == id) || s.cache.lprobes.any (fun e => e.serial == id)
    || (homeqOf s sl).any (fun e => e.2.serial == id) || (farqOf s sl).any (fun e => e.2.serial == id)

/-- A waiter is ready (R56, R61, R117). -/
def waitReady (s : State) (sl : SliceId) : WaitOn → Bool
  | .closed id => !serialOpen s sl id
  | .anyClosed ids => ids.isEmpty || ids.any fun id => !serialOpen s sl id
  | .gathered id => match (penOf s sl).find? fun e => e.2.serial == id with
    | some e => e.2.mif || (e.2.chv == 0xF && e.2.prb == 0)
    | none => true
  | .probed id => match (penOf s sl).find? fun e => e.2.serial == id with
    | some e => e.2.prb == 0
    | none => true
  | .alloc _ => false
  | .filterWalk f => !(sliceSt s sl).filterWalks.any fun w => w.1 == f
  | .unheld l => !(place s l).held && !(sliceSt s (place s l).sl).lostSets.contains (place s l).set
  | .ready => true

/-- A release in a set makes the requests that wait for a way of it ready (R61). -/
def wakeSet (s : State) (sl : SliceId) (set : BitVec 14) : State :=
  (missOf s sl).foldl (fun s e =>
    if e.2.kind == .waiting && e.2.waitOn == .alloc set then putMiss s sl e.1 (some { e.2 with waitOn := .ready }) else s) s

/-! Memory channels (R411, R412). -/

/-- A DDR5 channel after reset. -/
def chan0 : DdrCh :=
  { en := false, scrubEn := true, dimms := 0, ranks := 0, x8 := false, d32 := false, rate := 0, trained := false
    cfgErr := false, retraining := false, doubleRef := false, tempMax := 0, period := 24, errLoc := 0, captured := false
    raa := [], postponed := [], reissues := 0, retries := 0, retryWin := 0, scrubCa := 0, sinceScrub := [], returning := false }
/-- Channel n. -/
def chanSt (s : State) (n : Nat) : DdrCh := tget chan0 s.chans n
/-- Channel n written. -/
def putChan (s : State) (n : Nat) (x : DdrCh) : State := { s with chans := tset chan0 s.chans n x }
/-- A stack after reset. -/
def hbm0 : HbmSt :=
  { trained := false, rate := 0, doubleRef := false, temp := 0, pcLost := 0, used := 0, new := 0, noted := [], laneErrs := []
    postponed := [] }
/-- Stack k. -/
def hbmSt (s : State) (k : Nat) : HbmSt := tget hbm0 s.hbms k
/-- Stack k written. -/
def putHbmSt (s : State) (k : Nat) (x : HbmSt) : State := { s with hbms := tset hbm0 s.hbms k x }
/-- The pseudo-channel of its stack that queue q of a slice is (R46, R412). -/
def pcOf (sl : SliceId) (q : Nat) : Nat := 4 * (sl.toNat % 8) + q

/-! What a meaning answers. -/

/-- The waiting snoops of t that have become ready in the step from s to t, in the order of their arrival (R56). -/
def newlyReady (s t : State) : List Nat :=
  (List.range 16).flatMap fun k =>
    let sl : SliceId := BitVec.ofNat 4 k
    ((sliceSt t sl).snps.filter fun w => waitReady t sl w.waitOn && !t.snpReady.contains w.serial
      && !((sliceSt s sl).snps.any fun v => v.serial == w.serial && waitReady s sl v.waitOn)).map (·.serial)
/-- The state that a meaning answers: the changes of partitions logged, snoops that have become ready noted, the queue of commands
    as it was and INT_n following the event registers. -/
def settled (s t : State) : State := settle { logParts s t with pending := s.pending, snpReady := t.snpReady ++ newlyReady s t }
/-- A meaning's answer: what the command made of the state. While a reset is held, a command finds nothing that acts. -/
def finish (s t : State) : Host.Outcome State Fault Refusal := .next (settled s (if inReset s then s else t))
/-- The answer of an access by a master: the management endpoint must be up. -/
def finishAt (s : State) (a : Master) (t : State) : Host.Outcome State Fault Refusal :=
  finish s (if a == .mgmt && endpointDown s then s else t)

end Sys2Proof.Machine
end

