-- ==== Sys2Proof/Machine/Send.lean ====
section
/-! DEFINITION. How a ring message leaves: routes (R173, R362), the start of messages and management slots at a ring port
    (R133, R348, R596), turning back (R371), crossing at a bridge (R174-R177), and far credits at a gate (R184). -/

namespace Sys2Proof.Machine

/-- The header of a ring message. -/
def hdrOf : RingMsg → RingHdr
  | .req _ h _ | .farReq _ _ h _ | .farRecall h _ | .farAck h _ | .snp _ h _ | .wbData h _ | .data h _ | .grant h _
  | .gack h | .wbAck h _ | .wrAck h | .err h _ _ | .credit h _ _ _ => h

/-- The message under another epoch. -/
def withEpoch (e : BitVec 4) : RingMsg → RingMsg
  | .req o h b => .req o { h with epoch := e } b
  | .farReq o g h b => .farReq o g { h with epoch := e } b
  | .farRecall h b => .farRecall { h with epoch := e } b
  | .farAck h b => .farAck { h with epoch := e } b
  | .snp k h b => .snp k { h with epoch := e } b
  | .wbData h b => .wbData { h with epoch := e } b
  | .data h b => .data { h with epoch := e } b
  | .grant h b => .grant { h with epoch := e } b
  | .gack h => .gack { h with epoch := e }
  | .wbAck h d => .wbAck { h with epoch := e } d
  | .wrAck h => .wrAck { h with epoch := e }
  | .err h st w => .err { h with epoch := e } st w
  | .credit h sl a b => .credit { h with epoch := e } sl a b

/-- The class of a message (R130). -/
def classOf : RingMsg → Nat
  | .req _ _ _ => 0
  | .farReq _ _ _ _ | .farRecall _ _ | .farAck _ _ => 1
  | .snp _ _ _ => 2
  | .wbData _ _ => 3
  | .data _ _ => 4
  | .grant _ _ | .gack _ | .wbAck _ _ | .wrAck _ | .err _ _ _ | .credit _ _ _ _ => 5
/-- The link credit that a message spends: REQ, FAR general, FAR reserved, SNP, WBK, DAT, RSP (R183, R348). -/
def creditIx : RingMsg → Nat
  | .req _ _ _ => 0
  | .farReq _ _ _ _ => 1
  | .farRecall _ _ | .farAck _ _ => 2
  | .snp _ _ _ => 3
  | .wbData _ _ => 4
  | .data _ _ => 5
  | .grant _ _ | .gack _ | .wbAck _ _ | .wrAck _ | .err _ _ _ | .credit _ _ _ _ => 6
/-- The credits that each side holds when a link enters service (R348). -/
def creditCap (k : Nat) : Nat := [32, 24, 8, 64, 32, 64, 128, 16].getD k 0
/-- Data slots of a request (R141, R213). -/
def reqSlots : ReqOp → Nat
  | .wr | .ncwr => 4
  | .atom => 2
  | _ => 0
/-- NDATA of a message (R139). -/
def ndataOf : RingMsg → Nat
  | .req o _ _ | .farReq o _ _ _ => reqSlots o
  | .wbData _ _ | .data _ _ => 4
  | _ => 0

/-! Ring ports. -/

/-- A ring port after reset (R381). -/
def ringPort0 : RingPortSt :=
  { en := false, minlanes := 0, autoReturn := false, state := .down, lanes := 0, slow := false, turn := false
    partnerId := 0, partnerPort := 0, partnerValid := false, authResult := 0, authKgen := 0, authFails := []
    replayTmo := 250, replayMax := 4, ucwLimit := 4, starve := 200, retireUs := 10000, qlimit := 16, reqmax := 4096
    farmax := 1024, syncDelay := 0, errCapt := 0, captured := false, win := [], winStaged := [], spent := []
    rxUsed := [], rxNext := 0, ackv := false, nakSent := false, txNext := 0, unacked := [], replays := 0, part := none
    transit := [], inject := [], mgmtq := [], started := 0, passed := [], failedLanes := 0, ucw := [], ucwWin := 0
    laneProp := none, qcount := 0, qwin := 0, rate := [], rateWin := 0, starved := [], unstarved := 0, auth := none
    t1 := none, planned := none, returning := none, failedAt := none }
/-- Ring port p. -/
def ringPort (s : State) (p : RingPort) : RingPortSt := tget ringPort0 s.net.ports (ringIx p)
/-- Ring port p written. -/
def putRing (s : State) (p : RingPort) (x : RingPortSt) : State :=
  { s with net := { s.net with ports := tset ringPort0 s.net.ports (ringIx p) x } }
/-- The four ring ports. -/
def allRing : List RingPort := [.ringE, .ringW, .upA, .upB]
/-- The port belongs to the parent ring. -/
def isUp : RingPort → Bool
  | .upA | .upB => true
  | _ => false
/-- The other port of the same ring position. -/
def otherPort : RingPort → RingPort
  | .ringE => .ringW | .ringW => .ringE | .upA => .upB | .upB => .upA
/-- The two ports of a ring position: east and west. -/
def eastPort (upper : Bool) : RingPort := if upper then .upA else .ringE
/-- West port of a ring position. -/
def westPort (upper : Bool) : RingPort := if upper then .upB else .ringW
/-- The port carries messages of an epoch: it is ACTIVE, and the epoch routes over its link (R354, R371). -/
def ringPortUp (s : State) (p : RingPort) (e : BitVec 4) : Bool :=
  let t := epSlot s (isUp p) e
  (ringPort s p).state == .active && (match p with
    | .ringE | .upA => t.east
    | .ringW | .upB => t.west)
/-- The port carries management slots (R354). -/
def mgmtUp (s : State) (p : RingPort) : Bool :=
  let x := ringPort s p
  x.state == .active || x.state == .standby
/-- Credits of a class left at the partner. -/
def freeOf (x : RingPortSt) (k : Nat) : Nat := creditCap k - tget 0 x.spent k

/-- A message counted as injected under its epoch, in the position of the port (R365). -/
def countInjected (s : State) (upper : Bool) (e : BitVec 4) : State :=
  let x := posOf s upper
  putPos s upper { x with injected := tset 0 x.injected e.toNat (tget 0 x.injected e.toNat + 1) }
/-- A message counted as ended under its epoch (R365). -/
def countEnded (s : State) (upper : Bool) (e : BitVec 4) : State :=
  let x := posOf s upper
  putPos s upper { x with ended := tset 0 x.ended e.toNat (tget 0 x.ended e.toNat + 1) }

/-- A normal frame with one item leaves for the first time; `ks` are the credits that it spends (R347, R349; log entry 30). -/
def startFrame (s : State) (p : RingPort) (i : FrameItem) (ks : List Nat) (slots : Nat) : State :=
  let x := ringPort s p
  let s := putRing s p { x with
    spent := ks.foldl (fun t k => tset 0 t k (tget 0 t k + 1)) x.spent, unacked := x.unacked ++ [(x.txNext, s.now, i)], txNext := x.txNext + 1 }
  countFor (count { s with out := s.out ++ [.frame p x.txNext i] } (evRing 0 p)) (evRing 2 p) slots none

/-- A message of class c may start with `need` free entries at the partner (R133). -/
def mayStart (x : RingPortSt) (c need : Nat) (m : RingMsg) : Bool :=
  classOf m == c && decide (need ≤ freeOf x (creditIx m))
/-- What the port starts next: a message in transit, with the port it came by, or one that the node originates. -/
inductive Start where
  | transit (m : RingMsg) (p : Option RingPort)
  | inject (m : RingMsg)
  deriving DecidableEq, Repr
/-- A GRANT and the DATA of the same home, for the same transaction, that goes with it (R161, R225). -/
def pairs : RingMsg → RingMsg → Bool
  | .grant h g, .data k d => g.dsrc == 1 && !d.tohome && h == { k with epoch := h.epoch }
  | _, _ => false
/-- The DATA that leaves in the same frame as a GRANT of this controller. -/
def companion (x : RingPortSt) (g : RingMsg) : Option RingMsg := x.inject.find? (pairs g)
/-- A message that this node originates may start. A GRANT of this controller whose data comes from the home starts together with
    its DATA, and the DATA not without it (R161, R225). -/
def mayInject (me : CtrlId) (x : RingPortSt) (c : Nat) (m : RingMsg) : Bool :=
  mayStart x c 2 m && (match m with
    | .grant h g => !(g.dsrc == 1 && h.src == me) || (companion x m).any fun d => decide (2 ≤ freeOf x (creditIx d))
    | .data _ _ => !x.inject.any fun g => pairs g m
    | _ => true)
/-- The choice of R596. -/
def chooseMsg (me : CtrlId) (x : RingPortSt) : Option Start :=
  let order := if x.started = 15 then [0, 1, 2, 3, 4, 5] else [5, 4, 3, 2, 1, 0]
  order.findSome? fun c =>
    match x.transit.find? (fun m => mayStart x c 1 m.1), x.inject.find? (mayInject me x c) with
    | some t, some i => some (if 8 ≤ tget 0 x.passed c then .inject i else .transit t.1 t.2)
    | some t, none => some (.transit t.1 t.2)
    | none, some i => some (.inject i)
    | none, none => none

/-- A receive-buffer entry of a port frees, and its link credit goes back to the partner (R132, R348). -/
def freeRx (s : State) (p : RingPort) (k : Nat) : State :=
  let x := ringPort s p
  putRing s p { x with rxUsed := tset 0 x.rxUsed k (tget 0 x.rxUsed k - 1) }
/-- The same, for a message that may have come over the fabric. -/
def freeRxOf (s : State) (p : Option RingPort) (m : RingMsg) : State :=
  match p with
  | some p => freeRx s p (creditIx m)
  | none => s

/-- A message that this node originates starts, under the current epoch, with the DATA that goes with it if it is a GRANT. -/
def startInject (s : State) (p : RingPort) (m : RingMsg) : State :=
  let x := ringPort s p
  let up := isUp p
  let e := (posOf s up).cur.epoch
  let d := companion x m
  let inj := x.inject.erase m
  let s := putRing s p { x with
    inject := match d with
      | some d => inj.erase d
      | none => inj
    started := x.started + (if d.isSome then 2 else 1)
    passed := tset 0 (match d with
      | some d => tset 0 x.passed (classOf d) 0
      | none => x.passed) (classOf m) 0 }
  let s := countInjected s up e
  let m := withEpoch e m
  match d with
  | some d =>
    let d := withEpoch e d
    let s := startFrame (countInjected s up e) p (.pair m d) [creditIx m, creditIx d] (2 + ndataOf m + ndataOf d)
    count (count s (evRing 5 p)) (evRing 5 p)
  | none => count (startFrame s p (.msg m) [creditIx m] (1 + ndataOf m)) (evRing 5 p)
/-- The management slot that a port may start: one is ready and a management credit is held (R596). -/
def mgmtReady (x : RingPortSt) : Option Mgmt :=
  if (x.state = .auth ∨ x.state = .standby ∨ x.state = .active) ∧ 0 < freeOf x 7 then x.mgmtq.head? else none

/-- The port starts what it may, in the order of R596. -/
def pumpRing (s : State) (p : RingPort) : Nat → State
  | 0 => s
  | n + 1 =>
    let x := ringPort s p
    if 256 ≤ x.unacked.length then s
    else
      match mgmtReady x with
      | some g => pumpRing (startFrame (putRing s p { x with mgmtq := x.mgmtq.tail }) p (.mgmt g) [7] 1) p n
      | none =>
        if x.state ≠ .active then s
        else
          match chooseMsg s.net.ctrlId x with
          | none => s
          | some (.transit m a) =>
            let waits := x.inject.any fun y => classOf y == classOf m
            let s := putRing s p { x with
              transit := x.transit.erase (m, a), started := x.started + 1
              passed := if waits then tset 0 x.passed (classOf m) (tget 0 x.passed (classOf m) + 1) else x.passed }
            let s := freeRxOf s a m
            pumpRing (count (startFrame s p (.msg m) [creditIx m] (1 + ndataOf m)) (evRing 4 p)) p n
          | some (.inject m) => pumpRing (startInject s p m) p n

/-- Which classes have a message ready and no credit, and since when (R369, R370). -/
def noteStarve (s : State) (p : RingPort) : State :=
  let x := ringPort s p
  let starves (k : Nat) : Bool :=
    x.state == .active && (x.transit.map Prod.fst ++ x.inject).any (fun m => creditIx m == k) && freeOf x k == 0
  let t := (List.range 7).foldl (fun t k =>
    if starves k then (if tget 0 t k = 0 then tset 0 t k (s.now.toNat + 1) else t) else tset 0 t k 0) x.starved
  putRing s p { x with starved := t, unstarved := if t.isEmpty then (if x.starved.isEmpty then x.unstarved else s.now) else x.unstarved }
/-- The port starts all it may. -/
def pump (s : State) (p : RingPort) : State :=
  let x := ringPort s p
  noteStarve (pumpRing s p (x.transit.length + x.inject.length + x.mgmtq.length)) p

/-- A message made ready at a port, in transit or originated here; a port at which messages turn back sends it out of
    the other port (R371). -/
def sendBy (s : State) (p : RingPort) (transit : Option RingPort) (m : RingMsg) : State :=
  let e := (hdrOf m).epoch
  let q := if ringPortUp s p e then p else otherPort p
  let s := if ringPortUp s p e then s else count s (evRing 6 p)
  if !ringPortUp s q e then
    countEnded (freeRxOf (trouble s (blkRing p) kPrlUnroutable) transit m) (isUp p) (hdrOf m).epoch
  else
    let x := ringPort s q
    match transit with
    | some a => pump (putRing s q { x with transit := x.transit ++ [(m, some a)] }) q
    | none => pump (putRing s q { x with inject := x.inject ++ [m] }) q

/-- A management slot made ready at a port. -/
def sendMgmt (s : State) (p : RingPort) (m : Mgmt) : State :=
  let x := ringPort s p
  pump (putRing s p { x with mgmtq := x.mgmtq ++ [m] }) p

/-! Routes (R170, R173, R362). -/

/-- Where a message goes from a position. -/
inductive Hop where
  | here | port (p : RingPort) | cross | nowhere
  deriving DecidableEq, Repr

/-- The direction of a node position (R362). -/
def hopTo (t : EpSlot) (upper : Bool) (n : NodeId) : Hop :=
  match (tget 0 t.dirs n.toNat).toNat with
  | 0 => .here
  | 1 => .port (eastPort upper)
  | 2 => .port (westPort upper)
  | _ => .nowhere
/-- The way of a message from a position, by the tables of its epoch. -/
def hop (s : State) (upper : Bool) (m : RingMsg) : Hop :=
  let h := hdrOf m
  if h.dst = s.net.ctrlId ∧ ¬ upper then .here
  else
    let t := epSlot s upper h.epoch
    let r := tget 0 t.routes (ringOf h.dst).toNat
    match (actOf r).toNat with
    | 0 => .nowhere
    | 1 =>
      if t.gates.any (fun g => g.1 == nodeOf h.dst && g.2 != h.dst) then .nowhere
      else match hopTo t upper (nodeOf h.dst) with
        | .here => .nowhere
        | x => x
    | 2 => hopTo t upper (nextOf r)
    | _ => if s.net.isBridge then .cross else .nowhere

/-- A message originated here or leaving a crossing buffer goes into a ring, or to this controller's own fabric. -/
def injectIn (s : State) (upper : Bool) (m : RingMsg) : State :=
  let m := withEpoch (posOf s upper).cur.epoch m
  match hop s upper m with
  | .here => { s with out := s.out ++ [.self m] }
  | .port p => sendBy s p none m
  | .cross | .nowhere => trouble s (blkRing (eastPort upper)) kPrlUnroutable

/-! The tree (R169, R172, R201), as the censuses of this controller's rings show it, and beyond them as Config gives it. -/

/-- The ring of a position has a bridge of its own, so that another ring stands above it (R169). -/
def hasBridge (s : State) (upper : Bool) : Bool := (posOf s upper).cur.gates.any fun g => ringOf g.2 == (posOf s upper).ring
/-- A ring stands directly below the ring of a position. -/
def ringBelow (s : State) (upper : Bool) (x : BitVec 8) : Bool :=
  x != (posOf s upper).ring && (posOf s upper).cur.gates.any fun g => ringOf g.2 == x
/-- The ring above ring x; the root ring itself (R169). -/
def ringAbove (s : State) (x : BitVec 8) : BitVec 8 :=
  if x = myRing s then
    (if s.net.isBridge && (mgmtUp s .upA || mgmtUp s .upB) then s.net.upper.ring
      else if hasBridge s false then (Config.treeRing x).parent else x)
  else if ringBelow s false x then myRing s
  else if s.net.isBridge && x == s.net.upper.ring then (if hasBridge s true then (Config.treeRing x).parent else x)
  else if s.net.isBridge && ringBelow s true x then s.net.upper.ring
  else (Config.treeRing x).parent
/-- The bridge of ring x. -/
def bridgeOf (s : State) (x : BitVec 8) : CtrlId :=
  match (s.net.lower.cur.gates ++ s.net.upper.cur.gates).find? fun g => ringOf g.2 == x with
  | some g => g.2
  | none => ctrlOf x (Config.treeRing x).bridge
/-- The rings from ring x up to the root; `n` bounds the depth. -/
def chainUp (s : State) : Nat → BitVec 8 → List (BitVec 8)
  | 0, x => [x]
  | n + 1, x => if ringAbove s x = x then [x] else x :: chainUp s n (ringAbove s x)
/-- The rings from ring x up to the root: DEPTH is at most 15 (R208). -/
def ringChain (s : State) (x : BitVec 8) : List (BitVec 8) := chainUp s 15 x
/-- The gate of ring x toward this controller's ring (R172): the bridge of x, or for a ring above this one the bridge of the ring
    below it through which it is reached. -/
def gateOf (s : State) (x : BitVec 8) : CtrlId :=
  let up := ringChain s (myRing s)
  if up.contains x then bridgeOf s ((up.takeWhile (· != x)).getLastD x) else bridgeOf s x
/-- The ring for which a gate answers this controller's recalls (R172, R193). -/
def gateRing (s : State) (c : CtrlId) : BitVec 8 :=
  if (ringChain s (myRing s)).contains (ringOf c) then ringAbove s (ringOf c) else ringOf c
/-- The node positions of ring x. -/
def ringSize (s : State) (x : BitVec 8) : Nat :=
  let of (upper : Bool) : Nat := max 1 (max (posOf s upper).census.length (posOf s upper).cur.order.length)
  if x = myRing s then of false
  else if s.net.isBridge && x == s.net.upper.ring then of true
  else (Config.treeRing x).size
/-- The rings of the tree. -/
def treeRings (s : State) : List (BitVec 8) :=
  ((List.range 256).map (BitVec.ofNat 8)).filter fun x =>
    x == myRing s || (ringChain s (myRing s)).contains x || s.net.lower.subtree.getLsbD x.toNat || (Config.treeRing x).size != 0
/-- The rings that a route from ring a to ring b visits (R201). -/
def routeRings (s : State) (a b : BitVec 8) : List (BitVec 8) :=
  let x := ringChain s a
  let y := ringChain s b
  (x.filter fun r => !y.contains r) ++ (y.filter fun r => !x.contains r) ++ (x.find? fun r => y.contains r).toList
/-- The largest value of f over the routes between any two rings. -/
def overRoutes (s : State) (f : List (BitVec 8) → Nat) : Nat :=
  (treeRings s).foldl (fun m a => (treeRings s).foldl (fun m b => max m (f (routeRings s a b))) m) 0
/-- T of the tree (R201), in ticks: every ring folded and every term at its maximum. -/
def treeT (s : State) : Nat :=
  let r := overRoutes s fun l => (l.map fun x => 85 * (ringSize s x - 1)).sum + 100 * (l.length - 1)
  let c := (treeRings s).foldl (fun m x => max m (2 * (ringSize s x - 1) * 85 + 10 * ringSize s x)) 0
  4 * r + 160 + c
/-- The links of the longest path between two controllers of the tree, every ring folded (R378). -/
def treeLinks (s : State) : Nat := overRoutes s fun l => (l.map fun x => ringSize s x - 1).sum

/-! Far credits (R184). -/

/-- This gate's share of the 32 far credits of a home slice (R184). -/
def farShare (s : State) (upper : Bool) : Nat :=
  let x := posOf s upper
  let g := max 1 x.cur.gates.length
  let lowest := x.cur.gates.all fun y => decide (x.node ≤ y.1)
  32 / g + (if lowest then 32 % g else 0)
/-- Index of far credits spent. -/
def farIx (upper : Bool) (h : CtrlId) (sl : SliceId) : Nat := (if upper then 256 else 0) + (nodeOf h).toNat * 16 + sl.toNat

/-- A far request injected into its home's ring by the gate, or kept until a far credit is held (R180, R184). -/
def gateInject (s : State) (upper : Bool) (m : RingMsg) : State :=
  match m with
  | .farReq op _ h b =>
    let k := farIx upper h.dst (sliceOf h.laddr)
    let sp := tget 0 s.home.farSpent k
    if sp < farShare s upper then
      injectIn { s with home := { s.home with farSpent := tset 0 s.home.farSpent k (sp + 1) } } upper
        (.farReq op (posOf s upper).node h b)
    else { s with home := { s.home with farWait := s.home.farWait ++ [(m, upper)] } }
  | m => injectIn s upper m

/-! Crossing (R174-R177). -/

/-- Messages of a kind of credit that sit in the crossing buffers toward a ring (R175). -/
def crossUsed (s : State) (up : Bool) (k : Nat) : Nat :=
  let other (m : RingMsg) : Bool := creditIx m == k && (hdrOf m).src != s.net.ctrlId
  ((ringPort s (eastPort up)).inject.filter other).length + ((ringPort s (westPort up)).inject.filter other).length
    + (s.home.farWait.filter fun w => w.2 == up && other w.1).length
/-- Crossing-buffer entries of a kind of credit, per direction (R175). -/
def crossCap (k : Nat) : Nat := [0, 24, 8, 0, 0, 32, 64, 0].getD k 0

/-- WBK credits of this node for a position: 8 for each (R136). -/
def wbkShare : Nat := 8
/-- The node position where a writeback to a home goes first in a ring (R177). -/
def wbkHop (s : State) (upper : Bool) (home : CtrlId) : NodeId :=
  if ringOf home = (posOf s upper).ring then nodeOf home else gateNode s upper (ringOf home)
/-- WBK credits spent, by position. -/
def wbkSpentOf (s : State) (upper : Bool) : Table Nat := if upper then s.home.wbkSpentUp else s.home.wbkSpent
/-- The same, written. -/
def putWbkSpent (s : State) (upper : Bool) (t : Table Nat) : State :=
  { s with home := if upper then { s.home with wbkSpentUp := t } else { s.home with wbkSpent := t } }
/-- A WBK credit for a writeback in a ring is held. -/
def wbkFree (s : State) (upper : Bool) (home : CtrlId) : Bool :=
  decide (tget 0 (wbkSpentOf s upper) (wbkHop s upper home).toNat < wbkShare)
/-- It is spent. -/
def wbkSpend (s : State) (upper : Bool) (home : CtrlId) : State :=
  let k := (wbkHop s upper home).toNat
  putWbkSpent s upper (tset 0 (wbkSpentOf s upper) k (tget 0 (wbkSpentOf s upper) k + 1))

/-- A gate passes stored writebacks on while it holds WBK credits, and returns the credit of each (R177). -/
def pumpWbk (s : State) : Nat → State
  | 0 => s
  | n + 1 =>
    match s.home.wbkTransit.find? fun w => wbkFree s w.2 w.1.hdr.dst with
    | none => s
    | some (w, up) =>
      let s := wbkSpend { s with home := { s.home with
        wbkTransit := s.home.wbkTransit.erase (w, up)
        wbkUsed := if up then s.home.wbkUsed - 1 else s.home.wbkUsed
        wbkUsedUp := if up then s.home.wbkUsedUp else s.home.wbkUsedUp - 1 } } up w.hdr.dst
      let s := injectIn s up (.wbData w.hdr w.body)
      let from_ := !up
      let back : CtrlId := if ringOf w.hdr.src = (posOf s from_).ring then w.hdr.src
        else ctrlAt s from_ (gateNode s from_ (ringOf w.hdr.src))
      let h : RingHdr := { src := s.net.ctrlId, dst := back, epoch := 0, txn := 0, htag := 0, hkind := 0, laddr := 0 }
      pumpWbk (injectIn s from_ (.credit h 0 0 1)) n

/-- A message moves from one ring of the bridge to the other; `up` is the ring it moves into. -/
def crossInto (s : State) (up : Bool) (m : RingMsg) : State :=
  match m with
  | .farReq _ _ h _ => if ringOf h.dst = (posOf s up).ring then gateInject s up m else injectIn s up m
  | .wbData h b =>
    let s := { s with home := { s.home with
      wbkTransit := s.home.wbkTransit ++ [(⟨h, b⟩, up)]
      wbkUsed := if up then s.home.wbkUsed + 1 else s.home.wbkUsed
      wbkUsedUp := if up then s.home.wbkUsedUp else s.home.wbkUsedUp + 1 } }
    pumpWbk s s.home.wbkTransit.length
  | m => injectIn s up m

/-- Messages deferred in a direction. -/
def deferred (s : State) (up : Bool) : List RingMsg := if up then s.net.deferUp else s.net.deferDown
/-- The same, written. -/
def putDeferred (s : State) (up : Bool) (l : List RingMsg) : State :=
  { s with net := if up then { s.net with deferUp := l } else { s.net with deferDown := l } }

/-- A message in transit that crosses at this bridge (R174-R177): taken, or forwarded on round the ring when its
    crossing buffer is full or held for a message deferred before it. -/
def crossTransit (s : State) (p : RingPort) (m : RingMsg) : State :=
  let up := !isUp p
  let k := creditIx m
  if k = 0 ∨ k = 3 then countEnded (freeRx (trouble s (blkRing p) kPrlCrossIllegal) p k) (isUp p) (hdrOf m).epoch
  else if k = 4 then crossInto (countEnded (freeRx (count s (evRing 7 p)) p k) (isUp p) (hdrOf m).epoch) up m
  else
    let waiting := (deferred s up).filter fun y => creditIx y == k
    let before := waiting.takeWhile fun y => y != m
    if crossUsed s up k + before.length < crossCap k then
      let s := putDeferred s up ((deferred s up).erase m)
      crossInto (countEnded (freeRx (count s (evRing 7 p)) p k) (isUp p) (hdrOf m).epoch) up m
    else
      let s := if waiting.contains m then s else putDeferred s up (deferred s up ++ [m])
      sendBy (trouble s (blkRing p) kPrlCrossDefer) (otherPort p) (some p) m

/-- A message this controller originates leaves for its destination. -/
def send (s : State) (m : RingMsg) : State :=
  if (hdrOf m).dst = s.net.ctrlId then { s with out := s.out ++ [.self m] }
  else
    let m := withEpoch (myEpoch s) m
    match hop s false m with
    | .here => { s with out := s.out ++ [.self m] }
    | .port p => sendBy s p none m
    | .cross => crossInto s true m
    | .nowhere => trouble s (blkRing .ringE) kPrlUnroutable

end Sys2Proof.Machine
end

