-- ==== Sys2Proof/Machine/Slice.lean ====
section
/-! DEFINITION. What the slice pipeline shares: reading of protected entries, conflicts, miss-table entries, way
    choice, eviction into the penumbra, requests to homes, and delivery of a hit (chapters 3 and 4). -/

namespace Sys2Proof.Machine

/-! Reading of tag entries (R41, R44, R45). -/

/-- A tag entry rebuilt from its shadow entry: lines present become X (R44). -/
def rebuiltTag (sh : ShadowEntry) : TagEntry :=
  { tag := sh.tag, sv := sh.sv, part := 0, rqh := true, pin := 0
    st := (List.range 32).foldl (fun st l => if sh.pres.getLsbD l then putBits st (3 * l) LState.X.code else st) 0
    err := .none }

/-- The controller takes itself out: every port retires, every ring port goes down as a failed port (R569). -/
def controllerOut (s : State) : State :=
  { s with ctrlOut := true
           ports := (List.range 8).foldl (fun t p =>
             let x := tget port0 t p
             tset port0 t p { x with retiring := true }) s.ports }

/-- A way enters the way-retire list, so that admission runs again; a full list raises SLICE_TAG_LOST with the overflow
    flag (R44, R45, R276). -/
def retireWay (s : State) (sl : SliceId) (set : BitVec 14) (way : Nat) : State :=
  let x := sliceSt s sl
  if x.wayRetire.length < 32 then
    let s := { s with lan := { s.lan with recheckDue := true } }
    trouble (putSlice s sl { x with wayRetire := x.wayRetire ++ [(set, BitVec.ofNat 4 way)] }) (blkSlc sl) kSlcWayRetired
  else raiseErr (putSlice s sl { x with tagLost := true, tagLostOvf := true }) (blkSlc sl) 0

/-- One tag entry read (R44): a single-bit error is corrected, an uncorrectable entry is rebuilt from the shadow entry,
    and where that fails too the way is lost and the controller goes out. -/
def readTag (s : State) (sl : SliceId) (set : BitVec 14) (way : Nat) : State :=
  let e := tagAt s sl set way
  match e.err with
  | .none => s
  | .single => trouble (putTag s sl set way { e with err := .none }) (blkSlc sl) kSlcTagCe
  | .uncorrectable =>
    let sh := shadowAt s sl set way
    let s := trouble s (blkSlc sl) kSlcTagUe
    if sh.ok then syncShadow (putTag s sl set way (rebuiltTag sh)) sl set way
    else
      let x := sliceSt s sl
      let s := retireWay s sl set way
      let s := putSlice s sl { sliceSt s sl with tagLost := true, lostSets := x.lostSets ++ [set] }
      controllerOut (raiseErr (putTag s sl set way tag0) (blkSlc sl) 0)

/-- The sixteen entries of a set read (R50, R44). -/
def readSet (s : State) (sl : SliceId) (set : BitVec 14) : State :=
  (List.range 16).foldl (fun s w => readTag s sl set w) s

/-- A state read from a tag entry that is the reserved code is counted (R41). -/
def countRsvdLine (s : State) (sl : SliceId) (set : BitVec 14) (way : Nat) (ln : BitVec 5) : State :=
  if (tagAt s sl set way).line ln = .R then trouble s (blkSlc sl) kSlcTagRsvdState else s
/-- The same for the 32 states of an entry, where an eviction or a walker reads them all. -/
def countRsvdWay (s : State) (sl : SliceId) (set : BitVec 14) (way : Nat) : State :=
  (List.range 32).foldl (fun s l => countRsvdLine s sl set way (BitVec.ofNat 5 l)) s
/-- A set read by a walker: each valid way's entry, its shadow where that is needed, and its line states (R41, R44). -/
def walkSetRead (s : State) (sl : SliceId) (set : BitVec 14) : State :=
  (List.range 16).foldl (fun s w => if (tagAt s sl set w).sv then countRsvdWay s sl set w else s) (readSet s sl set)
/-- The same for the line that a pass looks up. -/
def countRsvd (s : State) (pl : Place) : State :=
  match findWay s pl with
  | some w => countRsvdLine s pl.sl pl.set w pl.line
  | none => s

/-- One port-filter entry read (R557, R558): an uncorrectable entry is cleared, and the walk over the 256 sets that
    could have used its filter set is started. -/
def readPf (s : State) (sl : SliceId) (set : BitVec 11) (way : Nat) : State :=
  let e := pfAt s sl set way
  match e.err with
  | .none => s
  | .single => trouble (putPf s sl set way { e with err := .none }) (blkSlc sl) kSlcPfCe
  | .uncorrectable =>
    let x := sliceSt s sl
    trouble (putSlice (putPf s sl set way pf0) sl { x with filterWalks := x.filterWalks ++ [(set, 0)] })
      (blkSlc sl) kSlcPfUe

/-- The filter set of a line read. -/
def readPfSet (s : State) (sl : SliceId) (l : LineAddr) : State :=
  (List.range 16).foldl (fun s w => readPf s sl (pfSetOf l) w) s

/-- Stages T1 to C2 for a line: its tag set and filter set read (R50). -/
def readStages (s : State) (pl : Place) (l : LineAddr) : State :=
  countRsvd (readPfSet (readSet s pl.sl pl.set) pl.sl l) pl

/-! Replacement (R64-R66). -/

/-- Tree node i covers way w. -/
def nodeCovers (i w : Nat) : Bool :=
  let leaf := 16 + w
  leaf == i || leaf / 2 == i || leaf / 4 == i || leaf / 8 == i || leaf / 16 == i
/-- The choice among candidates from a node on (R64). -/
def plruFrom (r : BitVec 16) (cand : List Nat) : Nat → Nat → Nat
  | node, 0 => node
  | node, k + 1 =>
    if 16 ≤ node then node
    else
      let b := if r.getLsbD (node - 1) then 1 else 0
      let pref := 2 * node + b
      let other := 2 * node + 1 - b
      plruFrom r cand (if cand.any (nodeCovers pref) then pref else other) k
/-- The victim among candidates (R64, R66): from node 1, or from the half's node under a fold. -/
def plruVictim (r : BitVec 16) (cand : List Nat) (top : Nat) : Nat := plruFrom r cand top 4 - 16
/-- The tree after a use of way w: each node of its path points away from it (R65). -/
def plruUse (r : BitVec 16) (w : Nat) : BitVec 16 :=
  [1, 2, 4, 8].foldl (fun r k =>
    let child := (16 + w) / (16 / (2 * k))
    setBit r (child / 2 - 1) (child % 2 == 0)) r
/-- A use of the way counted in the set's tree (R65). -/
def useWay (s : State) (pl : Place) (w : Nat) : State := putRepl s pl.sl pl.set (plruUse (replAt s pl.sl pl.set) w)

/-! Miss-table entries (R57). -/

/-- The pool and number of an entry for a source, if one is free (R57). Which free entry is taken, the spec does not say: the
    lowest-numbered one; and an entry whose fill buffer still drains (R71, R73) is not used again until it has. DESIGN CHOICE,
    log entry 109. -/
def freeEntry (s : State) (sl : SliceId) (src : ReqSrc) : Option (Nat × Pool) :=
  let used := missOf s sl
  let shared := (used.filter fun e => e.2.pool == .shared).length
  let own : Pool × Nat := match src with
    | .port p => (.port p, 8)
    | .beam _ _ _ => (.beam, 32)
    | .wc i => match wcAt s sl i.toNat with
      | some b => (.port b.port, 8)
      | none => (.shared, 160)
  let ix := firstFree (used.map Prod.fst ++ s.cache.drain.filterMap fun d => if d.slice = sl then d.entry.map (·.toNat) else none) 256
  match ix with
  | none => none
  | some i =>
    if shared < 160 then some (i, .shared)
    else if (used.filter fun e => e.2.pool == own.1).length < own.2 then some (i, own.1)
    else none

/-- An entry before its transaction is known. -/
def entry0 (r : Req) (serial : Nat) (pool : Pool) : MissEntry :=
  { serial, pool, req := r, kind := .waiting, tr := .none, waitOn := .ready, way := 0, hasWay := false
    noInstall := false, reqOp := .sh, home := 0, far := false, reqSent := false, start := 0, fill := line0, fillV := 0
    fillDirty := false, supData := false, psnSeen := false, fwd := 0, grant := none, grantHdr := none, grantTick := 0
    prb := 0, prbLine := none, abandoned := false, behind := false, predUpd := false, noMsg := false, rdPend := 0
    performed := false, old := 0, poisoned := false, owesCmp := false, tmo := 0, dtmo := 0 }

/-- What a resource check lacks (R51, R84). -/
inductive Short where
  /-- a miss-table entry -/
  | missEntry
  /-- a penumbra buffer -/
  | penBuf
  /-- a reserved penumbra buffer (R122) -/
  | poisonBuf
  /-- a write-combining buffer: the oldest open one is closed -/
  | wcBuf (close : Option Nat)
  /-- a back-probe slot -/
  | probeSlot
  deriving DecidableEq, Repr
/-- The outcome of stage D: the transaction has passed W, or its resource check failed and it writes nothing (R51). -/
inductive PipeOut where
  | passed (s : State)
  | stalled (w : Short)
  deriving DecidableEq, Repr
/-- The buffer must write before anything else happens to the line: it closes (R110). -/
def wcClose (s : State) (sl : SliceId) (i : Nat) : State :=
  match wcAt s sl i with
  | some b => if b.state = .opened then putWc s sl i (some { b with state := .closing }) else s
  | none => s
/-- A failed resource check noted: its event, and the buffer that it closes (R84). -/
def noteShort (s : State) (sl : SliceId) (part : PartId) : Short → State
  | .missEntry => count s (evSlc 3 sl)
  | .penBuf => countFor s (evSlc 4 sl) 1 (some part)
  | .poisonBuf => s
  | .wcBuf (some i) => countFor (wcClose s sl i) (evSlc 5 sl) 1 (some part)
  | .wcBuf none => s
  | .probeSlot => count s (evSlc 7 sl)

/-- The line of a request. -/
def Req.laddr (r : Req) : LineAddr := lineOf r.hdr.addr

/-- A request placed in the slice conflict queue (R55, R56). `ser` is the age it keeps from an earlier wait. -/
def waitIn (s : State) (sl : SliceId) (r : Req) (ser : Option Nat) (w : WaitOn) : PipeOut :=
  match freeEntry s sl r.src with
  | none => .stalled .missEntry
  | some (i, pool) =>
    let s := fresh s
    let e := entry0 r (ser.getD s.serial) pool
    .passed (putMiss s sl i (some { e with waitOn := w }))

/-- A counter of a partition page changed. -/
def onPart (s : State) (p : PartId) (f : PartSt → PartSt) : State := putPart s p (f (partSt s p))
/-- A request found its line here and sends nothing to a home; WR_NC counts in neither counter (R286, R287). -/
def countHit (s : State) (r : Req) : State :=
  match r.src with
  | .port _ => if r.op = .wrNc then s else onPart s r.part fun x => { x with hits := x.hits + 1 }
  | _ => s
/-- A request sends a request to a home (R286, R287). -/
def countMiss (s : State) (r : Req) : State :=
  match r.src with
  | .port _ => if r.op = .wrNc then s else onPart s r.part fun x => { x with misses := x.misses + 1 }
  | _ => s

/-! Answers to the issuer of a request. -/

/-- The request ends with an error (R334); a staging read reports it to its engine (R259), a write-combining
    buffer completes every request combined in it. -/
def answerErr (s : State) (sl : SliceId) (r : Req) (status : BitVec 8) : State :=
  match r.src with
  | .port p => if r.dead then s else refusePort s p r.hdr.ptag status
  | .beam c row idx => { s with reports := s.reports ++ [⟨c, row, idx, s.now, true, false, false⟩] }
  | .wc i =>
    match wcAt s sl i.toNat with
    | some b => putWc (b.ptags.foldl (fun s t => refusePort s b.port t status) s) sl i.toNat none
    | none => s

/-- A completion without data. -/
def answer (s : State) (r : Req) (gst : LState) (psn : Bool) (oldv : BitVec 128) : State :=
  match r.src with
  | .port p => if r.dead then s else complete s p r.hdr.ptag gst psn 0 oldv
  | _ => s

/-- The chunks that a request returns: the whole line, or those of an RD_NC (R328). -/
def wantOf (r : Req) : BitVec 4 :=
  if r.op = .rdNc then chunksOfMask (rdNcMask r.hdr.addr r.hdr.size) else 0xF
/-- Bytes outside an RD_NC read 0 (R328). -/
def trimLine (r : Req) (d : Line) : Line :=
  if r.op = .rdNc then { bytes := mergeBytes 0 d.bytes (rdNcMask r.hdr.addr r.hdr.size), psn := d.psn &&& wantOf r } else d

/-- A whole line delivered at once with its completion. -/
def answerData (s : State) (r : Req) (gst : LState) (d : Line) (oldv : BitVec 128) : State :=
  match r.src with
  | .port p =>
    if r.dead then s
    else
      let d := trimLine r d
      completeData s p r.hdr.ptag gst (d.psn &&& wantOf r != 0) (critOf r.hdr.addr) (wantOf r) d oldv
  | _ => s

/-- A hit served: from the fill buffer while its writes are not all accepted (R74), else by four chunk reads in
    delivery order (R70). Every chunk of a line in X leaves with the poison flag (R91). -/
def deliverHit (s : State) (pl : Place) (r : Req) (w : Nat) (gst : LState) (poisoned : Bool) : State :=
  match r.src with
  | .port p =>
    match drainOf s pl.sl r.laddr with
    | some d => answerData s r gst (if poisoned then { d with psn := 0xF } else d) 0
    | none =>
      let s := fresh s
      let d : Deliv := { id := s.serial, slice := pl.sl, laddr := r.laddr, port := p, ptag := r.hdr.ptag, gst
                         crit := critOf r.hdr.addr, want := wantOf r, got := 0, line := line0, psnSeen := poisoned, req := r, oldv := 0 }
      let s := { s with cache := { s.cache with delivs := s.cache.delivs ++ [d] } }
      queueReads s pl r.laddr w (chunkOrder d.crit) (.deliv s.serial) r.hbmFor
  | _ => s

/-! Scope of drains (R126, R127). -/

/-- The partition whose scope a request for a line falls in: that of the line's sector, where it is present, else its own. -/
def scopePart (s : State) (pl : Place) (part : PartId) : PartId :=
  match findWay s pl with
  | some w => (tagAt s pl.sl pl.set w).part
  | none => part
/-- A drain whose scope covers the line for this request. Where a drain of the whole cache and one of a partition both do, the spec
    does not say which of the two statuses of R126 and R127 answers: the drain that started first. DESIGN CHOICE, log entry
    109. -/
def drainFor (s : State) (pl : Place) (part : PartId) : Option Drain :=
  let sp := scopePart s pl part
  s.cache.drains.find? fun d => d.scope == none || d.scope == some sp

/-! Penumbra buffers (R114-R116). -/

/-- Buffers in use that are not of the reserved eight (R116). -/
def penUsed (s : State) (sl : SliceId) : Nat := ((penOf s sl).filter fun b => b.1 < 120).length
/-- Free buffers that R59 counts. -/
def penFree (s : State) (sl : SliceId) : Nat := 120 - penUsed s sl
/-- A free buffer: of the 120, or of the reserved eight for kind poison (R116). -/
def freePen (s : State) (sl : SliceId) (poison : Bool) : Option Nat :=
  let used := (penOf s sl).map Prod.fst
  if poison then (List.range 128).find? fun i => 120 ≤ i && !used.contains i
  else firstFree used 120

/-- A buffer as it enters (R115). -/
def penNew (s : State) (l : LineAddr) (k : PenKind) (frm : LState) (part : PartId) (hold : BitVec 8) : PenBuf :=
  { serial := s.serial, laddr := l, mif := false, kind := k, frm, dirty := frm.dirty, poison := false, chv := 0, prb := 0
    part, holdt := hold, supplied := false, data := line0, probeData := false, owner := .none, supply := none
    resetX := false, dest := (homeOf s l).elim 0 (·.home), move := false, resent := false, wbStart := 0
    wbFired := false, wbTmo := 0, wbUpper := false, wbEpoch := 0, back := false, stay := false }

/-- The hold window of a slice (R115). -/
def holdOf (s : State) (sl : SliceId) : BitVec 8 := (sliceSt s sl).penHold.setWidth 8

/-- A line leaves the tags for a penumbra buffer of kind victim or flush: reads of dirty data are queued, and the
    ports that hold the line are probed and leave the filter (R67, R112, R115). The tag is not changed here. A victim in E
    enters a buffer where RQH = 1 (R62), a flushed line in E where a port holds it with EXH (R112). A clean line without a
    filter entry leaves its buffer at once (R115, step 2). -/
def toPenumbra (s : State) (pl : Place) (w : Nat) (l : LineAddr) (k : PenKind) (owner : PenOwner) : State :=
  let st := (tagAt s pl.sl pl.set w).eff pl.line
  let f := pfGet s pl l
  let part := (tagAt s pl.sl pl.set w).part
  let kind : ProbeKind := if k = .flush ∧ f.exh then .ex else .inv
  if !st.dirty && k == .victim && st == .E && (tagAt s pl.sl pl.set w).rqh && f.hold == 0 then wakeSet s pl.sl pl.set
  else if st.dirty || f.exh || (k == .victim && st == .E && f.hold != 0) then
    match freePen s pl.sl false with
    | none => s
    | some i =>
      let s := fresh s
      let id := s.serial
      let b := penNew s l k st part (if k = .victim then holdOf s pl.sl else 0)
      let s := putPen s pl.sl i (some { b with prb := f.hold, owner := owner })
      let s := pfPut s pl l 0 false
      let s := sendProbes s kind l f.exh (.pen pl.sl (BitVec.ofNat 7 i) id) f.hold
      if st.dirty then queueReads s pl l w [0, 1, 2, 3] (.pen (BitVec.ofNat 7 i) id) (sectorFor s pl w) else s
  else
    let s := pfPut s pl l 0 false
    sendProbes s .inv l false .none f.hold

/-- The 32 lines of a way taken out (R67): those that R62 counts go to the penumbra, the others are dropped, and ports
    that hold any of them are probed. -/
def evictWay (s : State) (pl : Place) (w : Nat) : State :=
  let e := tagAt s pl.sl pl.set w
  if !e.sv then s
  else (List.range 32).foldl (fun (s : State) l =>
    let ln := BitVec.ofNat 5 l
    let la := wayLine s pl.sl pl.set w ln
    let pv : Place := { pl with line := ln, tag := e.tag, folded := carries s pl.sl pl.set && decide (8 ≤ w) }
    if e.eff ln = .I then s else
    toPenumbra s pv w la .victim .none) (countRsvdWay s pl.sl pl.set w)

/-! Choice of a way (R59, R60, R63). -/

/-- The line stands in this way. -/
def inWay (s : State) (sl : SliceId) (set : BitVec 14) (w : Nat) (l : LineAddr) : Bool :=
  (tagAt s sl set w).sv && wayLine s sl set w (lineNo l) == l
/-- Some line of the way has an open miss-table entry (R59). -/
def wayBusy (s : State) (sl : SliceId) (set : BitVec 14) (w : Nat) : Bool :=
  (missOf s sl).any fun m => m.2.kind != .waiting && inWay s sl set w m.2.req.laddr
/-- A far atomic of the home has been performed, or runs, and the write of its result has not been accepted (R223). -/
def atomOpen (h : HomeEntry) : Bool := h.op == .atom && (h.state == .runA || h.wrPend != 0)
/-- Some line of the way is under a far atomic of the home (R223). -/
def wayAtom (s : State) (sl : SliceId) (set : BitVec 14) (w : Nat) : Bool :=
  (homeqOf s sl ++ farqOf s sl).any fun h => atomOpen h.2 && inWay s sl set w h.2.hdr.laddr
/-- The way is eligible for a new sector (R59), apart from the mask. -/
def wayEligible (s : State) (sl : SliceId) (set : BitVec 14) (w : Nat) : Bool :=
  let e := tagAt s sl set w
  e.pins == 0 && !wayBusy s sl set w && !wayAtom s sl set w
    && !(sliceSt s sl).wayRetire.contains (set, BitVec.ofNat 4 w)
    && (!e.sv || decide (e.need ≤ penFree s sl))
/-- The class of a way (R63). -/
def wayClass (s : State) (sl : SliceId) (set : BitVec 14) (w : Nat) : Nat :=
  let e := tagAt s sl set w
  if !e.sv then 1 else if e.rqh then 4 else if e.need = 0 then 2 else 3
/-- The victim for a new sector of the place under a way mask, if a way is eligible (R63, R66). -/
def chooseVictim (s : State) (pl : Place) (mask : BitVec 16) : Option Nat :=
  let el := (waysFor s pl).filter fun w => mask.getLsbD w && wayEligible s pl.sl pl.set w
  let top := if pl.folded then 3 else if carries s pl.sl pl.set then 2 else 1
  let cls (k : Nat) := el.filter fun w => wayClass s pl.sl pl.set w == k
  match cls 1 with
  | w :: _ => some w
  | [] =>
    match [2, 3, 4].find? fun k => !(cls k).isEmpty with
    | some k => some (plruVictim (replAt s pl.sl pl.set) (cls k) top)
    | none => none
/-- Ways of the mask that are ineligible only for want of penumbra buffers (R84, PEN_FULL). -/
def penShort (s : State) (pl : Place) (mask : BitVec 16) : Nat :=
  ((waysFor s pl).filter fun w =>
    let e := tagAt s pl.sl pl.set w
    mask.getLsbD w && e.sv && e.pins == 0 && decide (penFree s pl.sl < e.need)).length

/-- The sector of a place allocated in way w (R67): the victim leaves, the new tag entry is written. -/
def allocWay (s : State) (pl : Place) (w : Nat) (part : PartId) : State :=
  let s := evictWay s pl w
  syncShadow (putTag s pl.sl pl.set w ⟨pl.tag, true, part, false, 0, 0, .none⟩) pl.sl pl.set w

/-! Requests to homes (R134, R145, R179). -/

/-- How many members a mask has, at least 1. -/
def memberCount (m : BitVec 16) : Nat := max 1 (popcount m)
/-- The REQ credits of this node at a home slice (R135). -/
def reqShare (s : State) (home : CtrlId) : Nat :=
  let n := memberCount s.net.lower.cur.members
  if home = s.net.ctrlId then 64 / n + 64 % n else 64 / n
/-- Index of REQ credits: home node and home slice. -/
def reqCredIx (home : CtrlId) (l : LineAddr) : Nat := (nodeOf home).toNat * 16 + (sliceOf l).toNat
/-- A home that no route reaches (R571). -/
def homeLost (s : State) (h : CtrlId) : Bool := s.home.lostHomes.any fun e => e.1 == h

/-- The request body of an entry (R141, R180, R213). -/
def reqBodyOf (s : State) (sl : SliceId) (e : MissEntry) : ReqBody :=
  let r := e.req
  let wcb : Option WcBuf := match r.src with
    | .wc i => wcAt s sl i.toNat
    | _ => none
  { part := r.part, crit := critOf r.hdr.addr
    beam := match r.src with | .beam _ _ _ => true | _ => false
    bmask := match e.reqOp, wcb with
      | .wr, some b => b.mask
      | .ncwr, _ => r.hdr.bmask
      | .ncrd, _ => rdNcMask r.hdr.addr r.hdr.size
      | _, _ => 0
    data := match e.reqOp, wcb with
      | .wr, some b => b.data
      | .ncwr, _ => r.hdr.data
      | _, _ => line0
    aop := r.hdr.aop, aw := r.hdr.aw, ofs := r.hdr.addr.extractLsb' 0 7, opA := r.hdr.opA, opB := r.hdr.opB }

/-- The request of an entry sent, if a credit is held; else it waits for one (R134). The grant timer starts when it
    is sent (R166). -/
def sendReq (s : State) (sl : SliceId) (i : Nat) : State :=
  match missAt s sl i with
  | none => s
  | some e =>
    let h : RingHdr := { src := s.net.ctrlId, dst := e.home, epoch := myEpoch s, txn := sl ++ BitVec.ofNat 8 i
                         htag := 0, hkind := 0, laddr := e.req.laddr }
    let b := reqBodyOf s sl e
    let sent := some { e with reqSent := true, start := s.now, tmo := if e.far then tmoFarGrant s else tmoGrant s }
    if e.far then send (putMiss s sl i sent) (.farReq e.reqOp 0 h b)
    else
      let k := reqCredIx e.home e.req.laddr
      let sp := tget 0 s.home.reqSpent k
      if sp < reqShare s e.home then
        send { putMiss s sl i sent with home := { s.home with reqSpent := tset 0 s.home.reqSpent k (sp + 1) } } (.req e.reqOp h b)
      else { s with home := { s.home with reqWait := s.home.reqWait ++ [(sl, BitVec.ofNat 8 i)] } }

/-- A transaction opens an entry that is not waiting: `ser` is the age a replay keeps. -/
def openEntry (s : State) (pl : Place) (r : Req) (ser : Option Nat) (f : MissEntry → MissEntry) :
    Option (State × Nat) :=
  match freeEntry s pl.sl r.src with
  | none => none
  | some (i, pool) =>
    let s := fresh s
    some (putMiss s pl.sl i (some (f (entry0 r (ser.getD s.serial) pool))), i)

end Sys2Proof.Machine
end

