-- ==== Sys2Proof/Machine/Pipeline.lean ====
section
/-! DEFINITION. Stage D of the slice pipeline: what each request does against the state of its line (R55, R83, R91-R94,
    R107-R112, R117, R126, R127, R214, R219, R258, R262, R263). -/

namespace Sys2Proof.Machine

/-! Demotion and pins. -/

/-- A line in A becomes M (R94, R226). -/
def demote (s : State) (pl : Place) : State :=
  if stateHere s pl = .A then trouble (setLine s pl .M) (blkSlc pl.sl) kSlcAtomDemote else s

/-- The PIN bit of the line. -/
def pinned (s : State) (pl : Place) : Bool :=
  match findWay s pl with
  | some w => (tagAt s pl.sl pl.set w).pins.getLsbD pl.line.toNat
  | none => false
/-- The PIN bit of the line written; a release may free a way (R61). -/
def putPin (s : State) (pl : Place) (b : Bool) : State :=
  match findWay s pl with
  | some w =>
    let e := tagAt s pl.sl pl.set w
    let s := putTag s pl.sl pl.set w { e with pin := setBit e.pin pl.line.toNat b }
    if b then s else wakeSet s pl.sl pl.set
  | none => s
/-- A pinned line that becomes I keeps its PIN bit and is counted (R266). -/
def countPinInval (s : State) (pl : Place) : State :=
  if pinned s pl then trouble s (blkSlc pl.sl) kSlcBeamPinInval else s
/-- The line becomes I. -/
def setI (s : State) (pl : Place) : State := setLine (countPinInval s pl) pl .I

/-- A read of a consumer stream: it releases the pin, or counts that it found none (R262). -/
def consRead (s : State) (pl : Place) (r : Req) : State :=
  if r.cons && (r.op == .rdSh || r.op == .rd1x || r.op == .rdNc) then
    if pinned s pl then (if r.rel then putPin s pl false else s)
    else onPart (trouble s (blkSlc pl.sl) kSlcBeamConsUnpin) r.part fun x => { x with consUnpin := x.consUnpin + 1 }
  else s

/-- How many ways of the half or set that a place uses hold a pinned line (R60). -/
def pinnedWays (s : State) (pl : Place) : Nat :=
  ((waysFor s pl).filter fun w => (tagAt s pl.sl pl.set w).pins != 0).length
/-- The most ways that may hold pinned lines (R60). -/
def pinCap (s : State) (pl : Place) : Nat := if pl.folded || carries s pl.sl pl.set then 6 else 12
/-- A staging pass sets the pin of its line, unless R60 refuses it. The result tells whether the pin was refused. -/
def stagePin (s : State) (pl : Place) : State × Bool :=
  match findWay s pl with
  | none => (s, true)
  | some w =>
    let e := tagAt s pl.sl pl.set w
    if e.pins.getLsbD pl.line.toNat then (s, false)
    else if e.pins = 0 ∧ pinCap s pl ≤ pinnedWays s pl then
      (trouble s (blkSlc pl.sl) kSlcBeamPinCap, true)
    else (putPin s pl true, false)
/-- The report of a staging read whose pass sets the pin, or is refused it (R237, R258, R259). -/
def stageDone (s : State) (pl : Place) (r : Req) (poisoned : Bool) : State :=
  match r.src with
  | .beam c row idx =>
    let (s, refused) := stagePin s pl
    { s with reports := s.reports ++ [⟨c, row, idx, s.now, false, poisoned, !refused⟩] }
  | _ => s

/-! Poison writebacks (R121, R122) and the writes of a fill (R73, R74). -/

/-- A poison writeback: a buffer of kind poison from the reserved eight (R121, R122). With probes out, the buffer waits for
    them, and counts as a poison writeback once it is known to be one. Without a free buffer the writeback is owed: only a walk
    comes here so (R568); a transaction has failed its resource check before. -/
def poisonWb (s : State) (sl : SliceId) (l : LineAddr) (part : PartId) (frm : LState) (d : Line) (prb : BitVec 8)
    (dirty : Bool) : State :=
  match freePen s sl true with
  | some i =>
    let s := fresh s
    let id := s.serial
    let b := { penNew s l .poison frm part 0 with
      dirty := dirty, poison := true, chv := 0xF, data := d, prb := prb, resetX := prb != 0 }
    let s := putPen s sl i (some b)
    let s := if prb = 0 then trouble s (blkSlc sl) kSlcPoisonWb else s
    sendProbes s .inv l true (.pen sl (BitVec.ofNat 7 i) id) prb
  | none =>
    let x := sliceSt s sl
    putSlice s sl { x with owedPoison := x.owedPoison ++ [⟨l, part, frm, d, prb, dirty⟩] }
/-- A transaction that needs a reserved buffer finds none (R122). -/
def poisonShort (s : State) (sl : SliceId) : Bool := (freePen s sl true).isNone
/-- The chunk writes of a line from a fill buffer, which is kept until all are accepted (R71, R73, R74). -/
def fillWrites (s : State) (pl : Place) (l : LineAddr) (w serial : Nat) (entry : Option (BitVec 8)) (d : Line) (b : HbmFor) :
    State :=
  let s := queueWrites s pl l w d (BitVec.allOnes 128) (d.psn != 0) (.fill serial) b
  { s with cache := { s.cache with drain := s.cache.drain ++ [⟨pl.sl, serial, entry, none, l, d, 0xF⟩] } }

/-! Port-filter room (R82, R83). -/

/-- A request whose grant makes a port-filter entry (R82). -/
def makesEntry (r : Req) : Bool :=
  match r.src with
  | .port _ => !r.dead && (r.op == .rdSh || r.op == .rdEx || r.op == .upg || r.op == .claim)
  | _ => false
/-- The line that a filter entry names. -/
def pfLine (sl : SliceId) (set : BitVec 11) (e : PfEntry) : LineAddr :=
  let l : BitVec 5 := e.ptag.extractLsb' 0 5
  let lo : BitVec 11 := set ^^^ (l.setWidth 11 <<< 6)
  lineFrom (if e.fsl then sl ^^^ 8 else sl) (e.ptag.extractLsb' 5 3 ++ lo) (e.ptag.extractLsb' 8 18) l
/-- The serial numbers of the transactions open in a slice on lines of which `p` holds: entries that do not wait, probes
    without an owner, atomics of the home. -/
def openOn (s : State) (sl : SliceId) (p : LineAddr → Bool) : List Nat :=
  ((missOf s sl).filterMap fun e => if e.2.kind != .waiting && p e.2.req.laddr then some e.2.serial else none)
    ++ (s.cache.lprobes.filterMap fun e => if e.slice == sl && p e.laddr then some e.serial else none)
    ++ (homeqOf s sl ++ farqOf s sl).filterMap fun h =>
      if h.2.op == .atom && h.2.state != .waiting && p h.2.hdr.laddr then some h.2.serial else none
/-- The line has an open transaction. -/
def lineBusy (s : State) (sl : SliceId) (l : LineAddr) : Bool := !(openOn s sl (· == l)).isEmpty
/-- What the filter set offers a request that needs an entry (R83). -/
inductive PfRoom where
  /-- the line has an entry, or one is free -/
  | room
  /-- a back-probe has been started, or every entry has an open transaction: what to wait for -/
  | wait (s : State) (w : WaitOn)
  /-- no back-probe slot is free -/
  | full
  deriving DecidableEq, Repr
/-- Transactions past stage W that will make an entry in a filter set: a transaction that has passed its resource check is not
    delayed for room any more (R85). DEDUCED, log entry 110. -/
def pfReserved (s : State) (sl : SliceId) (set : BitVec 11) : Nat :=
  ((missOf s sl).filter fun e =>
    e.2.kind != .waiting && !e.2.abandoned && makesEntry e.2.req && pfSetOf e.2.req.laddr == set
      && (pfFind s (place s e.2.req.laddr) e.2.req.laddr).isNone).length

/-- Room for the line in its filter set; with none, a back-probe of an entry without an open transaction (R83). -/
def pfRoom (s : State) (pl : Place) (l : LineAddr) : PfRoom :=
  let set := pfSetOf l
  let ways := List.range 16
  let free := (ways.filter fun w => (pfAt s pl.sl set w).hold == 0).length
  if (pfFind s pl l).isSome || decide (pfReserved s pl.sl set < free) then .room
  else
    let idle := ways.filter fun w =>
      (pfAt s pl.sl set w).hold != 0 && !lineBusy s pl.sl (pfLine pl.sl set (pfAt s pl.sl set w))
    match idle with
    | [] => .wait s (.anyClosed (openOn s pl.sl fun m => pfSetOf m == set))
    | _ =>
      if 32 ≤ (s.cache.lprobes.filter fun e => e.slice == pl.sl && e.back).length then .full
      else
        let clean := idle.filter fun w => !(pfAt s pl.sl set w).exh
        let cand := if clean.isEmpty then idle else clean
        let w := cand.getD ((Config.freeChoice s.free).toNat % cand.length) 0
        let e := pfAt s pl.sl set w
        let v := pfLine pl.sl set e
        let s := fresh { s with free := s.free + 1 }
        let id := s.serial
        let s := { s with cache := { s.cache with
          lprobes := s.cache.lprobes ++ [⟨id, pl.sl, v, e.fsl, e.hold, true, none⟩] } }
        let s := sendProbes s .inv v e.exh (.lprobe pl.sl id) e.hold
        .wait (count s (evSlc 6 pl.sl)) (.closed id)

/-- A probe of one line that no entry owns; its response data is written into the line (R93, R339, R558). -/
def startLProbe (s : State) (pl : Place) (l : LineAddr) (m : BitVec 8) (exh : Bool) (fl : Option (PortId × BitVec 10)) :
    State × Nat :=
  let s := fresh s
  let id := s.serial
  let s := { s with cache := { s.cache with lprobes := s.cache.lprobes ++ [⟨id, pl.sl, l, pl.folded, m, false, fl⟩] } }
  (sendProbes s .inv l exh (.lprobe pl.sl id) m, id)

/-! Opening of entries. -/

/-- The port of a request as a mask; a staging read and a write-combining buffer have none of their own. -/
def ownMask (r : Req) : BitVec 8 :=
  match r.src with
  | .port p => BitVec.twoPow 8 p.toNat
  | _ => 0

/-- Wait for filter room, or go on. -/
def withRoom (s : State) (pl : Place) (r : Req) (ser : Option Nat) (k : State → PipeOut) : PipeOut :=
  if makesEntry r then
    match pfRoom s pl r.laddr with
    | .room => k s
    | .wait s w => waitIn s pl.sl r ser w
    | .full => .stalled .probeSlot
  else k s

/-- A way for a request that allocates (R58, R59): the sector's own, or a victim's; without one the request waits
    (R61). -/
def withWay (s : State) (pl : Place) (r : Req) (ser : Option Nat) (k : State → Nat → PipeOut) : PipeOut :=
  match findWay s pl with
  | some w => k s w
  | none =>
    let mask := wayMask s r.part pl
    let s := countFor s (evSlc 4 pl.sl) (penShort s pl mask) (some r.part)
    match chooseVictim s pl mask with
    | some w => if (freeEntry s pl.sl r.src).isNone then .stalled .missEntry else k (allocWay s pl w r.part) w
    | none => waitIn (countFor s (evSlc 8 pl.sl) 1 (some r.part)) pl.sl r ser (.alloc pl.set)

/-- A hit counted as a use of its way (R65); a RD_NC leaves the replacement state alone (R107). -/
def useHit (s : State) (pl : Place) (w : Nat) (r : Req) : State := if r.op = .rdNc then s else useWay s pl w

/-- A ring entry opened and its request sent (R89, R145, R179). Probes go to the ports of `m`, whose HOLD bits are
    cleared. -/
def openRing (s : State) (pl : Place) (r : Req) (ser : Option Nat) (he : HomeMapEntry) (tr : Transient) (op : ReqOp)
    (way : Option Nat) (noInstall : Bool) (m : BitVec 8) : PipeOut :=
  let f := pfGet s pl r.laddr
  let upd (e : MissEntry) : MissEntry :=
    { e with kind := .ring, tr := tr, reqOp := op, home := he.home, far := ringOf he.home != myRing s
             way := BitVec.ofNat 4 (way.getD 0), hasWay := way.isSome, noInstall := noInstall, prb := m }
  match openEntry s pl r ser upd with
  | none => .stalled .missEntry
  | some (s, i) =>
    let id := ((missAt s pl.sl i).map (·.serial)).getD 0
    let s := if m = 0 then s else
      sendProbes (pfPut s pl r.laddr (f.hold &&& ~~~m) (f.exh && f.hold &&& m == 0)) .inv r.laddr
        (f.exh && f.hold &&& m != 0) (.miss pl.sl (BitVec.ofNat 8 i) id) m
    .passed (countMiss (countFor (sendReq (syncLine s pl) pl.sl i) (evSlc 2 pl.sl) 1 (some r.part)) r)

/-- A local entry opened and its probes sent (R89): `sh` to keep the port in S, else `ex` and `inv`. -/
def openLocal (s : State) (pl : Place) (r : Req) (ser : Option Nat) (tr : Transient) (w : Nat) (kind : ProbeKind)
    (m : BitVec 8) : PipeOut :=
  let f := pfGet s pl r.laddr
  let upd (e : MissEntry) : MissEntry :=
    { e with kind := .loc, tr := tr, way := BitVec.ofNat 4 w, hasWay := true, prb := m }
  match openEntry s pl r ser upd with
  | none => .stalled .missEntry
  | some (s, i) =>
    let id := ((missAt s pl.sl i).map (·.serial)).getD 0
    let s := match kind with
      | .sh => pfPut s pl r.laddr f.hold false
      | _ => pfPut s pl r.laddr (f.hold &&& ~~~m) false
    let s := sendProbes s kind r.laddr f.exh (.miss pl.sl (BitVec.ofNat 8 i) id) m
    .passed (countHit (useHit (syncLine s pl) pl w r) r)

/-! Requests against line states (R91). -/

/-- The entry that applies to the line, or the granule is in no entry. -/
def homeEntry (s : State) (r : Req) : HomeMapEntry := (homeOf s r.laddr).getD hmap0

/-- The granted state of a read: S for RD_SH, else I (R87, R91). -/
def readGrant (r : Req) : LState := if r.op = .rdSh then .S else .I

/-- RD_SH, RD_1X and RD_NC (R91, R107, R126). -/
def pipeRead (s : State) (pl : Place) (r : Req) (ser : Option Nat) : PipeOut :=
  let s := demote s pl
  let he := homeEntry s r
  let st := stateHere s pl
  let f := pfGet s pl r.laddr
  if st = .I then
    if he.uncached then openRing s pl r ser he .isW .ncrd none true 0
    else match drainFor s pl r.part with
    | some _ =>
      match openRing s pl r ser he .isW .ni none true 0 with
      | .passed s => .passed (trouble (consRead s pl r) (blkSlc pl.sl) kSlcDrainNofill)
      | o => o
    | none =>
      if r.op = .rdNc then openRing (consRead s pl r) pl r ser he .isW .ni none true 0
      else withRoom s pl r ser fun s => withWay s pl r ser fun s w =>
        openRing (consRead s pl r) pl r ser he .isW .sh (some w) false 0
  else
    match findWay s pl with
    | none => .passed s
    | some w =>
      withRoom s pl r ser fun s =>
      if (st = .E ∨ st = .M) ∧ f.exh then
        openLocal (countFor (consRead s pl r) (evSlc 1 pl.sl) 1 (some r.part)) pl r ser .isW w .sh f.hold
      else
        let s := useHit (consRead s pl r) pl w r
        let s := if st = .X then s else countFor s (evSlc 1 pl.sl) 1 (some r.part)
        let s := match r.src with
          | .port p => if r.op = .rdSh && !r.dead then pfGrant s pl r.laddr p false else s
          | _ => s
        .passed (deliverHit (countHit s r) pl r w (readGrant r) (st == .X))

/-- RD_EX, UPG and CLAIM when the line or its sector is not here (R58, R91, R126, R127). -/
def pipeExMiss (s : State) (pl : Place) (r : Req) (ser : Option Nat) (he : HomeMapEntry) : PipeOut :=
  match drainFor s pl r.part with
  | some d =>
    .passed (trouble (answerErr s pl.sl r (if d.ended then 0x08 else 0x07)) (blkSlc pl.sl) kSlcDrainRefuse)
  | none => withWay s pl r ser fun s w =>
    openRing s pl r ser he .imW (if r.op = .claim then .claim else .ex) (some w) false 0

/-- A hit that grants at once: E to RD_EX and UPG, M to CLAIM. -/
def grantEx (s : State) (pl : Place) (r : Req) (w : Nat) (data : Bool) : State :=
  let s := countFor (useWay s pl w) (evSlc 1 pl.sl) 1 (some r.part)
  let s := match r.src with
    | .port p => if r.dead then s else pfGrant s pl r.laddr p true
    | _ => s
  let s := if r.op = .claim then claimValue (setLine s pl .M) pl w r.laddr else s
  let s := countHit s r
  if data then deliverHit s pl r w .E false else answer s r (if r.op = .claim then .M else .E) false 0

/-- RD_EX, UPG and CLAIM (R91, R92). -/
def pipeEx (s : State) (pl : Place) (r : Req) (ser : Option Nat) : PipeOut :=
  let s := demote s pl
  let he := homeEntry s r
  let st := stateHere s pl
  let f := pfGet s pl r.laddr
  let own := ownMask r
  let others := f.hold &&& ~~~own
  -- R92: an UPG whose port is not in HOLD, or whose line is in X or I, is served as RD_EX
  let r : Req := if r.op = .upg ∧ (f.hold &&& own = 0 ∨ st = .X ∨ st = .I) then { r with op := .rdEx } else r
  let op : ReqOp := if r.op = .claim then .claim else .upg
  if (st = .I ∨ (findWay s pl).isNone) ∧ (drainFor s pl r.part).isSome then pipeExMiss s pl r ser he
  else withRoom s pl r ser fun s =>
  match st, findWay s pl with
  | .I, _ => pipeExMiss s pl r ser he
  | _, none => pipeExMiss s pl r ser he
  | .X, some w =>
    openRing (useWay s pl w) pl r ser he .imW (if r.op = .claim then .claim else .ex) (some w) false others
  | .S, some w | .O, some w =>
    let s := countFor (useWay s pl w) (evSlc 1 pl.sl) 1 (some r.part)
    openRing s pl r ser he .smW op (some w) false others
  | _, some w =>
    if others = 0 then .passed (grantEx s pl r w (r.op == .rdEx))
    else openLocal (countFor s (evSlc 1 pl.sl) 1 (some r.part)) pl r ser .imW w
      (if r.op = .rdEx ∧ f.exh then .ex else .inv) others

/-- WB_D, WB_C and DROP (R91, R101, R102, R121). -/
def pipeWb (s : State) (pl : Place) (r : Req) : PipeOut :=
  match r.src with
  | .port p =>
    let l := r.laddr
    let f := pfGet s pl l
    let own := ownMask r
    let rest := f.hold &&& ~~~own
    if probeOpen s p l then
      if r.op = .wbD then
        -- taken as the data of the oldest probe to the port for the line
        match (probesOf s p).find? fun e => e.2.laddr == l with
        | some (t, pb) => .passed (putProbe s p t (some { pb with taken := some r.hdr.data }))
        | none =>
          let x := portSt s p
          .passed (putPort s p { x with probeHold := x.probeHold.map fun pb =>
            if pb.laddr == l then { pb with taken := some r.hdr.data } else pb })
      else .passed s
    else if f.hold &&& own = 0 then .passed (trouble s (blkSlc pl.sl) kSlcWbStale)
    else if f.exh then
      match r.op, findWay s pl with
      | .wbD, some w =>
        let psn := r.hdr.data.psn != 0
        if psn ∧ poisonShort s pl.sl then .stalled .poisonBuf
        else
          let s := pfPut s pl l rest false
          if psn then
            -- R121, last row: the line becomes X, with a poison writeback to the home
            .passed (poisonWb (setLine s pl .X) pl.sl l (tagAt s pl.sl pl.set w).part .M r.hdr.data 0 true)
          else
            let s := setLine s pl .M
            .passed (queueWrites s pl l w r.hdr.data (BitVec.allOnes 128) false .none r.hbmFor)
      | .wbC, _ | .drop, _ => .passed (pfPut s pl l rest false)
      | _, _ => .passed (pfPut s pl l rest false)
    else
      -- held in S: DROP is right, WB_D and WB_C are protocol errors handled as DROP
      let s := pfPut s pl l rest false
      .passed (if r.op = .drop then s else trouble s (blkPcp p) kPcpPcpProto)
  | _ => .passed s

/-- A hit counts as a use of its way (R65). -/
def touchHit (s : State) (pl : Place) : State :=
  match stateHere s pl, findWay s pl with
  | .I, _ | _, none => s
  | _, some w => useWay s pl w
/-- BEAM_REL (R263). One that is not of a consumer stream changes nothing, the replacement state neither. -/
def pipeBeamRel (s : State) (pl : Place) (r : Req) : PipeOut :=
  let s := if r.cons then (let t := touchHit s pl; if pinned t pl then putPin t pl false else t)
    else trouble s (blkSlc pl.sl) kSlcBeamRelReject
  .passed (answer s r .I false 0)

/-- FLUSH_L (R112). -/
def pipeFlush (s : State) (pl : Place) (r : Req) : PipeOut :=
  let s := demote s pl
  let st := stateHere s pl
  let f := pfGet s pl r.laddr
  let owner : PenOwner := match r.src with
    | .port p => if r.dead then .none else .flushReq p r.hdr.ptag
    | _ => .none
  match st, findWay s pl with
  | .I, _ | _, none => .passed (answer s r .I false 0)
  | _, some w =>
    let s := useWay s pl w
    if st.dirty || f.exh then
      if penFree s pl.sl = 0 then .stalled .penBuf
      else .passed (setI (toPenumbra s pl w r.laddr .flush owner) pl)
    else
      let s := setI s pl
      if f.hold = 0 then .passed (answer s r .I false 0)
      else
        let s := pfPut s pl r.laddr 0 false
        let fl := match r.src with
          | .port p => if r.dead then none else some (p, r.hdr.ptag)
          | _ => none
        .passed (startLProbe s pl r.laddr f.hold false fl).1

/-! Write-combining (R108-R111). -/

/-- The request that performs the bytes of a closing buffer (R108). -/
def wcReq (b : WcBuf) (i : Nat) : Req :=
  { src := .wc (BitVec.ofNat 6 i), op := .wrNc, part := b.part, cons := false, rel := false, dead := false
    hdr := { ptag := b.ptags.headD 0, stream := 0, addr := addrOf b.laddr, size := 0, bmask := b.mask, data := b.data
             aop := 0, aw := 0, place := 0, keep := false, opA := 0, opB := 0 } }

/-- The bytes of a buffer leave the line X: its data carries poison, or it covers a poisoned base in part (R121, R123). -/
def wcPoisons (b : WcBuf) (base : Option Line) : Bool :=
  b.data.psn != 0 || (b.mask != BitVec.allOnes 128 && base.any fun d => d.psn != 0)
/-- Every request combined in a buffer completed, and the buffer freed (R111). -/
def wcDone (s : State) (sl : SliceId) (i : Nat) (b : WcBuf) : State :=
  putWc (b.ptags.foldl (fun s t => complete s b.port t .I false 0 0) s) sl i none
/-- The bytes of a buffer merged into the line, which becomes M, and every combined request completed (R108, R111). `base` is
    the data of a fill or of a probe, kept in the fill buffer of entry `e`. Poisoned bytes, or a base poisoned and not wholly
    written, make the line X with a poison writeback (R121, R123): the merged line is dirty, so that its owner hands it back
    also where the grant was E. DEDUCED, log entry 111. Bytes merged over poisoned chunks in HBM leave those poisoned. -/
def wcMerge (s : State) (pl : Place) (w i : Nat) (b : WcBuf) (base : Option Line) (e : Option (BitVec 8 × Nat)) : State :=
  let m : Line := match base with
    | some d => mergeLine d b.data b.mask
    | none => b.data
  let bad := wcPoisons b base
  let s := setLine s pl (if bad then .X else .M)
  let s := match base, e with
    | some _, some (k, id) => fillWrites s pl b.laddr w id (some k) (if bad then { m with psn := 0xF } else m) ⟨b.part, false⟩
    | some _, none => queueWrites s pl b.laddr w m (BitVec.allOnes 128) bad .none ⟨b.part, false⟩
    | none, _ => if bad then s
      else queueWrites s pl b.laddr w b.data b.mask (b.mask != BitVec.allOnes 128 && linePoison s pl w b.laddr) .none
        ⟨b.part, false⟩
  let s := if bad then poisonWb s pl.sl b.laddr (tagAt s pl.sl pl.set w).part .M { m with psn := 0xF } 0 true else s
  wcDone s pl.sl i b

/-- A WR_NC to a cacheable line (R108, R109, R84). -/
def pipeWrNc (s : State) (pl : Place) (r : Req) : PipeOut :=
  match r.src with
  | .port p =>
    match (wcOf s pl.sl).find? fun e => e.2.laddr == r.laddr && e.2.state == .opened with
    | some (i, b) =>
      let b := { b with data := { bytes := mergeBytes b.data.bytes r.hdr.data.bytes r.hdr.bmask
                                  psn := b.data.psn ||| (r.hdr.data.psn &&& chunksOfMask r.hdr.bmask) }
                        mask := b.mask ||| r.hdr.bmask, ptags := if r.dead then b.ptags else b.ptags ++ [r.hdr.ptag] }
      let s := putWc s pl.sl i (some b)
      .passed (if b.mask = BitVec.allOnes 128 then wcClose s pl.sl i else s)
    | none =>
      match firstFree ((wcOf s pl.sl).map Prod.fst) 64 with
      | some i =>
        let s := fresh s
        let b : WcBuf := ⟨s.serial, r.laddr, p, r.part, ⟨mergeBytes 0 r.hdr.data.bytes r.hdr.bmask,
          r.hdr.data.psn &&& chunksOfMask r.hdr.bmask⟩, r.hdr.bmask, if r.dead then [] else [r.hdr.ptag], .opened⟩
        let s := putWc s pl.sl i (some b)
        .passed (if b.mask = BitVec.allOnes 128 || (drainFor s pl r.part).isSome then wcClose s pl.sl i else s)
      | none =>
        -- the oldest open buffer is closed and written out (R84, R110)
        let opened := (wcOf s pl.sl).filter fun e => e.2.state == .opened
        match opened.foldl (fun (o : Option (Nat × WcBuf)) e =>
            match o with
            | some x => if e.2.serial < x.2.serial then some e else o
            | none => some e) none with
        | some (i, _) => .stalled (.wcBuf (some i))
        | none => .stalled (.wcBuf none)
  | _ => .passed s

/-! Atomics (R210, R214, R219, R222). -/

/-- The predictor counter of a line in a slice (R215). -/
def predAt (s : State) (sl : SliceId) (l : LineAddr) : BitVec 2 :=
  tget pred0 s.cache.pred (sl.toNat * 65536 + (predIx l).toNat)
/-- The predictor counter moved by one, saturating at 0 and 3 (R216). -/
def predMove (s : State) (sl : SliceId) (l : LineAddr) (up : Bool) : State :=
  let c := predAt s sl l
  let n := if up then satInc c else if c = 0 then 0 else c - 1
  { s with cache := { s.cache with pred := tset pred0 s.cache.pred (sl.toNat * 65536 + (predIx l).toNat) n } }

/-- Where R214 places an atomic: near or far, and whether the outcome updates the predictor. -/
def atomPlace (s : State) (pl : Place) (r : Req) (he : HomeMapEntry) : Bool × Bool :=
  let x := sliceSt s pl.sl
  let st := stateHere s pl
  let thresh := if x.thresh = 0 then 1 else x.thresh.toNat
  if he.uncached then (true, false)
  else if isHome s r.laddr && st == .A then (true, false)
  else if st != .I then (false, true)
  else if (drainFor s pl r.part).isSome then (true, false)
  else if x.mode = 1 then (false, true)
  else if x.mode = 2 then (true, true)
  else if x.hintEn && r.hdr.place == 1 then (false, true)
  else if x.hintEn && r.hdr.place == 2 then (true, true)
  else (decide (thresh ≤ (predAt s pl.sl r.laddr).toNat), true)

/-- The target chunk of the near atomic in entry i, whose line this slice holds alone: from the fill buffer while that still
    drains (R74), else by a chunk read (R220). -/
def atomSource (s : State) (pl : Place) (w i : Nat) : State :=
  match missAt s pl.sl i with
  | none => s
  | some e =>
    let c := (critOf e.req.hdr.addr).toNat
    match drainOf s pl.sl e.req.laddr with
    | some d => putMiss s pl.sl i (some { e with
        kind := .bare, fill := putChunk e.fill c (chunkOf d c) (chunkPsn d c), fillV := setBit e.fillV c true, rdPend := 0
        poisoned := e.poisoned || chunkPsn d c })
    | none => queueReads (putMiss s pl.sl i (some { e with kind := .bare, rdPend := BitVec.twoPow 4 c })) pl e.req.laddr w [c]
        (.entry (BitVec.ofNat 8 i) e.serial) e.req.hbmFor

/-- An ATOM (R210, R214, R219, R222). -/
def pipeAtom (s : State) (pl : Place) (r : Req) (ser : Option Nat) : PipeOut :=
  let he := homeEntry s r
  let st := stateHere s pl
  let f := pfGet s pl r.laddr
  let (far, upd) := atomPlace s pl r he
  if far then
    let cond := he.uncached
    let mk (e : MissEntry) : MissEntry :=
      { e with kind := .bare, reqOp := .atom, home := he.home, far := ringOf he.home != myRing s, noInstall := true
               predUpd := upd }
    match openEntry s pl r ser mk with
    | none => .stalled .missEntry
    | some (s, i) =>
      let s := syncLine s pl
      let s := if cond then s else countFor s (evSlc 11 pl.sl) 1 (some r.part)
      .passed (countMiss (sendReq s pl.sl i) r)
  else
    match st, findWay s pl with
    | .I, _ | _, none => withWay s pl r ser fun s w => openRing s pl r ser he .imW .ex (some w) false 0
    | .X, some w => openRing (useWay s pl w) pl r ser he .imW .ex (some w) false f.hold
    | .S, some w | .O, some w =>
      openRing (countFor (useWay s pl w) (evSlc 1 pl.sl) 1 (some r.part)) pl r ser he .smW .upg (some w) false f.hold
    | _, some w =>
      let s := countFor s (evSlc 1 pl.sl) 1 (some r.part)
      if f.hold = 0 then
        let mk (e : MissEntry) : MissEntry :=
          { e with kind := .bare, way := BitVec.ofNat 4 w, hasWay := true, noMsg := true }
        match openEntry s pl r ser mk with
        | none => .stalled .missEntry
        | some (s, i) => .passed (countHit (useWay (atomSource (syncLine s pl) pl w i) pl w) r)
      else openLocal s pl r ser .imW w (if f.exh then .ex else .inv) f.hold

/-! Staging reads (R258). -/

/-- A beam staging read against the state of its line (R258). In the scope of a drain nothing is filled (R125): a staging read of
    another scope's beam that misses there ends with an error. DESIGN CHOICE, log entry 112. -/
def pipeStage (s : State) (pl : Place) (r : Req) (ser : Option Nat) : PipeOut :=
  let s := demote s pl
  let he := homeEntry s r
  let f := pfGet s pl r.laddr
  match stateHere s pl, findWay s pl with
  | .I, _ | _, none =>
    if (drainFor s pl r.part).isSome then .passed (trouble (answerErr s pl.sl r 0x07) (blkSlc pl.sl) kSlcDrainNofill)
    else withWay s pl r ser fun s w => openRing s pl r ser he .isW .sh (some w) false 0
  | .X, some w =>
    .passed (stageDone (trouble (useWay s pl w) (blkSlc pl.sl) kSlcBeamStagePoison) pl r true)
  | _, some w =>
    if f.exh then openLocal s pl r ser .isW w .sh f.hold
    else .passed (stageDone (useWay s pl w) pl r false)

/-! The pipeline (R50-R56, R117). -/

/-- What the line conflicts with for a request of this age (R55, R90): an older entry, a write-combining buffer, a
    probe that no entry owns, an atomic of the home. -/
def conflict (s : State) (sl : SliceId) (l : LineAddr) (ser : Option Nat) : Option WaitOn :=
  let older (n : Nat) : Bool := match ser with
    | some k => decide (n < k)
    | none => true
  match ((missOf s sl).filter fun e => e.2.req.laddr == l && older e.2.serial).foldl (fun m e => max m (e.2.serial + 1)) 0 with
  | n + 1 => some (.closed n)
  | 0 =>
    match (wcOf s sl).find? fun e => e.2.laddr == l with
    | some e => some (.closed e.2.serial)
    | none =>
      match s.cache.lprobes.find? fun e => e.slice == sl && e.laddr == l with
      | some e => some (.closed e.serial)
      | none =>
        match (homeqOf s sl ++ farqOf s sl).find? fun h => h.2.op == .atom && h.2.state != .waiting && h.2.hdr.laddr == l with
        | some h => some (.closed h.2.serial)
        | none =>
          if (sliceSt s sl).filterWalks.any fun w => w.1 == pfSetOf l then some (.filterWalk (pfSetOf l)) else none

/-- Entries of the line learn that a request was placed behind them (R216). -/
def markBehind (s : State) (sl : SliceId) (l : LineAddr) : State :=
  (missOf s sl).foldl (fun s e => if e.2.req.laddr == l then putMiss s sl e.1 (some { e.2 with behind := true }) else s) s

/-- A cancelled eviction: the line is reinstalled from its buffer in its sector's way (R117, R118), and the buffer's
    writes to HBM are queued. -/
def reinstall (s : State) (pl : Place) (w i : Nat) (b : PenBuf) : State :=
  let st : LState := match b.frm with
    | .E => .M
    | .A => if isHome s b.laddr then .A else .M
    | x => x
  let s := setLine s pl st
  let s := queueWrites s pl b.laddr w b.data (BitVec.allOnes 128) b.poison (.fill b.serial) ⟨b.part, false⟩
  let s := { s with cache := { s.cache with
    drain := s.cache.drain ++ [⟨pl.sl, b.serial, none, some (BitVec.ofNat 7 i), b.laddr, b.data, 0xF⟩] } }
  trouble (putPen s pl.sl i (some { b with back := true })) (blkSlc pl.sl) kSlcPenCancel

/-- The table of R91 and its companions, once no conflict remains. -/
def pipeDecide (s : State) (pl : Place) (r : Req) (ser : Option Nat) : PipeOut :=
  match r.src with
  | .beam _ _ _ => pipeStage s pl r ser
  | _ =>
    match r.op with
    | .rdSh | .rd1x | .rdNc => pipeRead s pl r ser
    | .rdEx | .upg | .claim => pipeEx s pl r ser
    | .wbD | .wbC | .drop => pipeWb s pl r
    | .wrNc => pipeWrNc s pl r
    | .atom => pipeAtom s pl r ser
    | .flushL => pipeFlush s pl r
    | .beamRel => pipeBeamRel s pl r

/-- A request that a port must not make while it holds the line (R93). -/
def forbidden (s : State) (pl : Place) (r : Req) : Bool :=
  match r.src with
  | .port _ =>
    let f := pfGet s pl r.laddr
    let mine := f.hold &&& ownMask r != 0
    match r.op with
    | .rdSh | .rd1x => mine
    | .rdEx | .claim => mine && f.exh
    | _ => false
  | _ => false

/-- The penumbra cases (R117), then the decision. -/
def pipePenumbra (s : State) (pl : Place) (r : Req) (ser : Option Nat) : PipeOut :=
  match (penOf s pl.sl).find? fun e => e.2.laddr == r.laddr && !e.2.back with
  | none => pipeDecide s pl r ser
  | some (i, b) =>
    if b.kind = .victim ∧ ¬ b.mif then
      if b.chv ≠ 0xF ∨ b.prb ≠ 0 then waitIn s pl.sl r ser (.gathered b.serial)
      else
        match findWay s pl with
        | some w => pipeDecide (reinstall s pl w i b) pl r ser
        | none =>
          match r.src, r.op with
          | .port _, .rdSh | .port _, .rd1x | .port _, .rdNc =>
            .passed (trouble (answerData (consRead (countHit s r) pl r) r .I { b.data with psn := if b.poison then 0xF else b.data.psn } 0)
              (blkSlc pl.sl) kSlcPenServe)
          | _, _ => waitIn s pl.sl r ser (.closed b.serial)
    else waitIn s pl.sl r ser (.closed b.serial)

/-- A granule under the move fence (R309). -/
def fenced (s : State) (l : LineAddr) : Bool := s.home.fence.any fun f => decide (f.1 ≤ granuleOf l ∧ granuleOf l ≤ f.2)
/-- Address checks of the slice (R19, R20, R24, R25, R210, R309, R571): the status that answers the request, with the trouble
    kind counted, if one applies. Where a request breaks more than one rule, the spec does not say which status answers (of
    PRIVATE and UNCACHED it says that both rules apply): the order here is a DESIGN CHOICE, log entry 140, PRIVATE before
    UNCACHED. -/
def addrCheck (s : State) (r : Req) : Option (BitVec 8 × Option Nat) :=
  match homeOf s r.laddr with
  | none => some (0x01, some kSlcUnmappedAddr)
  | some he =>
    if fenced s r.laddr then
      some (0x09, some kSlcMoveFence)
    else if he.priv && ringOf he.home != myRing s then some (0x0E, none)
    else if he.uncached && r.op != .rdNc && r.op != .wrNc && r.op != .atom then some (0x02, none)
    else if he.home == s.net.ctrlId && decide (s.capacity ≤ localAddr he r.laddr) then some (0x01, some kSlcUnmappedAddr)
    else if homeLost s he.home then some (0x0A, some kSlcHomeGone)
    else if r.op == .atom && (!atomLegal r.hdr.aop r.hdr.aw || r.hdr.addr.toNat % awBytes r.hdr.aw != 0) then
      some (0x0C, some kSlcAtomIllegal)
    else none

/-- A closing buffer performed against the state of its line (R108, R111), or stalled for want of an entry. A line that sits in
    a penumbra buffer is not here, so that its bytes go to the home at once: of the two rules that could apply, R108 and R117,
    the spec does not say which does. DESIGN CHOICE, log entry 109. -/
def wcPerform (s : State) (sl : SliceId) (i : Nat) : PipeOut :=
  match wcAt s sl i with
  | none => .passed s
  | some b =>
    if b.state ≠ .closing then .passed s
    else
    let pl := place s b.laddr
    let s := demote (readStages s pl b.laddr) pl
    let r := wcReq b i
    match addrCheck s r with
    | some (st, k) => .passed (answerErr (match k with
      | some k => trouble s (blkSlc sl) k
      | none => s) sl r st)
    | none =>
      let he := homeEntry s r
      let f := pfGet s pl b.laddr
      let writing := putWc s sl i (some { b with state := .writing })
      match stateHere s pl, findWay s pl with
      | .E, some w | .M, some w =>
        if f.hold ≠ 0 then openLocal writing pl r none .imW w (if f.exh then .ex else .inv) f.hold
        else if wcPoisons b none ∧ poisonShort s sl then .stalled .poisonBuf
        else .passed (wcMerge (useWay s pl w) pl w i b none none)
      | .S, some w | .O, some w => openRing (useWay writing pl w) pl r none he .smW .upg (some w) false f.hold
      | .X, some w =>
        match openRing (useWay writing pl w) pl r none he .none .wr none true f.hold with
        | .passed s => .passed (setI s pl)
        | o => o
      | _, _ => openRing writing pl r none he .none .wr none true 0

/-- A WR_NC for an UNCACHED range goes straight to the home (R25). -/
def pipeUncachedWrite (s : State) (pl : Place) (r : Req) (ser : Option Nat) : PipeOut :=
  openRing s pl r ser (homeEntry s r) .none .ncwr none true 0

/-- One pass of a request through the pipeline. `ser` is the age of a replay. -/
def pipe (s : State) (r : Req) (ser : Option Nat) : PipeOut :=
  let l := r.laddr
  let pl := place s l
  let s := readStages s pl l
  let s := countFor s (evSlc 0 pl.sl) 1 (some r.part)
  if r.op = .wbD ∨ r.op = .wbC ∨ r.op = .drop then
    -- no completion is due (R327), so that an unmapped address is counted only (R20), before the table of R102
    pipeWb (if (homeOf s l).isNone then trouble s (blkSlc pl.sl) kSlcUnmappedAddr else s) pl r
  else
  match addrCheck s r with
  | some (st, k) =>
    let s := match k with
      | some k => trouble s (blkSlc pl.sl) k
      | none => s
    .passed (answerErr s pl.sl r st)
  | none =>
    -- an open write-combining buffer: a WR_NC of its port and partition joins it, anything else closes it (R109, R110)
    let wcb := (wcOf s pl.sl).find? fun e => e.2.laddr == l
    let joins : Bool := match wcb, r.src with
      | some (_, b), .port p => r.op == PcpOp.wrNc && b.state == WcState.opened && b.port == p && b.part == r.part
      | _, _ => false
    if joins then pipeWrNc s pl r
    else
    let s := match wcb with
      | some (i, _) => wcClose s pl.sl i
      | none => s
    match conflict s pl.sl l ser with
    | some w => waitIn (markBehind s pl.sl l) pl.sl r ser w
    | none =>
      if (homeEntry s r).uncached && r.op == PcpOp.wrNc then pipeUncachedWrite s pl r ser
      else if forbidden s pl r then
        match r.src with
        | .port p =>
          if (freeEntry s pl.sl r.src).isNone then .stalled .missEntry
          else
            let f := pfGet s pl l
            let (s, id) := startLProbe s pl l (ownMask r) f.exh none
            waitIn (trouble s (blkPcp p) kPcpPcpProto) pl.sl r ser (.closed id)
        | _ => .passed s
      else pipePenumbra s pl r ser

/-- The input number of a request's source (R53, R54). -/
def inputOf (r : Req) : BitVec 4 :=
  match r.src with
  | .port p => p.setWidth 4
  | _ => 9

/-- The state after a pass that failed its resource check: as before it (R51), but for the event of the shortage, and for what
    a lost way starts in the cycle in which it is found (R44). -/
def bounce (s : State) (r : Req) (w : Short) : State :=
  let pl := place s r.laddr
  let seen := readStages s pl r.laddr
  noteShort (if seen.ctrlOut && !s.ctrlOut then seen else s) pl.sl r.part w
/-- Stage A has taken a request of a port: the round-robin pointer goes one past it (R54). -/
def tookPort (s : State) (sl : SliceId) (r : Req) : State :=
  match r.src with
  | .port p => putSlice s sl { sliceSt s sl with rrPtr := BitVec.ofNat 4 (p.toNat + 1) }
  | _ => s
/-- The same for the slice's walker, position 8 (R54). -/
def tookWalker (s : State) (sl : SliceId) : State := putSlice s sl { sliceSt s sl with rrPtr := 0 }

/-- A request delivered to its slice: held at a set in motion (R33), kept at the head of its input when a resource is
    missing (R51) or when an earlier request of that input still waits there. -/
def deliver (s : State) (r : Req) : State :=
  let pl := place s r.laddr
  if pl.held then
    { s with cache := { s.cache with folds := s.cache.folds.map fun w =>
        if w.slice == pl.own then { w with held := w.held ++ [r] } else w } }
  else
    let s := countFor (count s 0x174) 0x175 (match r.op with
      | .wbD => 4
      | .wrNc => popcount (chunksOfMask r.hdr.bmask)
      | _ => 0) none
    let x := sliceSt s pl.sl
    if x.stalled.any fun e => e.1 == inputOf r then putSlice s pl.sl { x with stalled := x.stalled ++ [(inputOf r, r)] }
    else
      let s := tookPort s pl.sl r
      match pipe s r none with
      | .passed s => s
      | .stalled w =>
        let s := bounce s r w
        let x := sliceSt s pl.sl
        putSlice s pl.sl { x with stalled := x.stalled ++ [(inputOf r, r)] }

end Sys2Proof.Machine
end

