-- ==== Sys2Proof/Machine/Entry.lean ====
section
/-! DEFINITION. How a miss-table entry ends: chunks and grants arriving, the installing pass, local entries, atomics at
    their perform point, probe responses, and the handing of penumbra data (R72-R75, R95, R96, R104, R115, R121, R163,
    R216, R220, R221, R227). -/

namespace Sys2Proof.Machine

/-- A line becomes X (R121): with its ownership handed back where it was owned, and the port that holds it exclusively
    probed. `owned` says that the line is, or is granted, M, O or A. -/
def becomeX (s : State) (pl : Place) (l : LineAddr) (owned : Bool) : State :=
  let f := pfGet s pl l
  let part := match findWay s pl with
    | some w => (tagAt s pl.sl pl.set w).part
    | none => 0
  let frm := stateHere s pl
  let s := setLine s pl .X
  if f.exh then poisonWb (pfPut s pl l 0 false) pl.sl l part frm line0 f.hold owned
  else if owned then poisonWb s pl.sl l part frm line0 0 true
  else s

/-- GACK to the home for an installed grant (R152). -/
def sendGack (s : State) (sl : SliceId) (i : Nat) (e : MissEntry) : State :=
  match e.grantHdr, e.grant with
  | some h, some g =>
    if g.noack then s
    else send s (.gack { src := s.net.ctrlId, dst := e.home, epoch := myEpoch s, txn := sl ++ BitVec.ofNat 8 i
                         htag := h.htag, hkind := h.hkind, laddr := e.req.laddr })
  | _, _ => s

/-- The entry closes; what waited for a way of its set may try again (R61, R73). -/
def closeEntry (s : State) (sl : SliceId) (i : Nat) (pl : Place) : State :=
  wakeSet (syncLine (putMiss s sl i none) pl) sl pl.set

/-- The chunk writes of an installed fill, which the fill buffer keeps until all are accepted (R73, R74). -/
def installWrites (s : State) (pl : Place) (i w : Nat) (e : MissEntry) (d : Line) : State :=
  fillWrites s pl e.req.laddr w e.serial (some (BitVec.ofNat 8 i)) d e.req.hbmFor

/-- A recorded grant for the issuer: its filter entry, EXH for a grant of E or M (R82, R95). -/
def recordGrant (s : State) (pl : Place) (e : MissEntry) (poisoned : Bool) : State :=
  match e.req.src with
  | .port p => if makesEntry e.req then pfGrant s pl e.req.laddr p (e.req.op != .rdSh && !poisoned) else s
  | _ => s

/-- The state that a completion names for an installed line (R91); a poisoned exclusive grant is S (log entry 22). -/
def grantName (r : Req) (poisoned : Bool) : LState :=
  match r.op with
  | .rdSh => .S
  | .rdEx | .upg => if poisoned then .S else .E
  | .claim => .M
  | _ => .I

/-! Atomics at the requesting slice. -/

/-- The predictor's outcome for a near atomic (R216); rows 1, 2 and 4 of R214 place far, so every near one counts. -/
def nearOutcome (s : State) (sl : SliceId) (e : MissEntry) : State :=
  if e.behind then predMove s sl e.req.laddr true
  else
    match e.grant with
    | some g =>
      if g.dsrc = 2 ∧ (ringOf e.home ≠ myRing s ∨ g.supnode ≠ nodeOf e.home) then predMove s sl e.req.laddr true else s
    | none => if e.noMsg then predMove s sl e.req.laddr false else s

/-- The completion of a performed near atomic with KEEP = 1: it carries the updated line and grants S, once the line has its
    filter entry; with no free entry a back-probe is started, and the miss-table entry stays open (R221). -/
def atomAnswer (s : State) (pl : Place) (i w : Nat) : State :=
  match missAt s pl.sl i with
  | none => s
  | some e =>
    let r := e.req
    let done (s : State) : State :=
      if e.rdPend = 0 then closeEntry s pl.sl i pl else putMiss s pl.sl i (some { e with owesCmp := false, waitOn := .ready })
    if !e.owesCmp || !waitReady s pl.sl e.waitOn then s
    else
      match r.src with
      | .port p =>
        if r.dead then done s
        else
          match pfRoom s pl r.laddr with
          | .full => count s (evSlc 7 pl.sl)
          | .wait s wt => putMiss s pl.sl i (some { e with waitOn := wt })
          | .room =>
            let s := done (pfGrant s pl r.laddr p false)
            match if e.fillV = 0xF then some e.fill else drainOf s pl.sl r.laddr with
            | some d => completeData s p r.hdr.ptag .S false (critOf r.hdr.addr) 0xF d e.old
            | none =>
              let s := fresh s
              let dl : Deliv := { id := s.serial, slice := pl.sl, laddr := r.laddr, port := p, ptag := r.hdr.ptag, gst := .S
                                  crit := critOf r.hdr.addr, want := 0xF, got := 0, line := line0, psnSeen := false
                                  req := r, oldv := e.old }
              let s := { s with cache := { s.cache with delivs := s.cache.delivs ++ [dl] } }
              queueReads s pl r.laddr w (chunkOrder dl.crit) (.deliv s.serial) r.hbmFor
      | _ => done s

/-- A near atomic whose line is poisoned is not performed (R227). -/
def atomPoisoned (s : State) (pl : Place) (i : Nat) (e : MissEntry) : State :=
  let owned := (stateHere s pl).dirty
  let s := nearOutcome (trouble (becomeX s pl e.req.laddr owned) (blkSlc pl.sl) kSlcAtomPoison) pl.sl e
  let s := match e.req.src with
    | .port p => if e.req.dead then s else complete s p e.req.hdr.ptag .I true 0x0B 0
    | _ => s
  closeEntry s pl.sl i pl

/-- The perform point of a near atomic whose target chunk is at hand (R220, R221). -/
def atomPerform (s : State) (pl : Place) (i w : Nat) (e : MissEntry) : State :=
  let r := e.req
  let c := (critOf r.hdr.addr).toNat
  if chunkPsn e.fill c || e.poisoned then atomPoisoned s pl i e
  else
    let bytes := awBytes r.hdr.aw
    let ofs := r.hdr.addr.toNat % 128
    let old := lineValue e.fill ofs bytes
    let d := putLineValue e.fill ofs bytes (atomResult r.hdr.aop bytes old r.hdr.opA r.hdr.opB)
    let mask : BitVec 128 := if e.fillV = 0xF then BitVec.allOnes 128 else BitVec.ofNat 128 (2 ^ 32 - 1) <<< (32 * c)
    let s := useWay (setLine s pl .M) pl w
    let s := queueWrites s pl r.laddr w d mask false (.entry (BitVec.ofNat 8 i) e.serial) r.hbmFor
    let s := nearOutcome s pl.sl e
    let e : MissEntry := { e with performed := true, old := old, fill := d, rdPend := chunksOfMask mask, kind := .bare, tr := .none }
    let s := putMiss s pl.sl i (some e)
    match r.src with
    | .port p =>
      if r.dead then s
      else if !r.hdr.keep then complete s p r.hdr.ptag .I false 0 old
      else atomAnswer (putMiss s pl.sl i (some { e with owesCmp := true, waitOn := .ready })) pl i w
    | _ => s

/-! The installing pass (R73, R75, R95, R96, R163, R167). -/

/-- The entry of a ring transaction may install: the grant is here, every probe is answered, and every chunk that the
    grant names has come (R73, R95). -/
def entryReady (e : MissEntry) : Bool :=
  match e.grant with
  | some g => e.prb == 0 && (g.dsrc == 0 || e.fillV == 0xF)
  | none => false

/-- The state an installed line takes (R96, R163). -/
def installState (e : MissEntry) (g : GrantBody) : LState :=
  if e.req.op = .claim then .M
  else if e.supData && e.fillDirty && (g.gst == .E || g.gst == .M) then .M
  else g.gst

/-- The write-combining buffer whose bytes an entry performs (R108). -/
def bufOf (s : State) (sl : SliceId) (r : Req) : Option (Nat × WcBuf) :=
  match r.src with
  | .wc k => (wcAt s sl k.toNat).map fun b => (k.toNat, b)
  | _ => none
/-- The ring entry i installs its line, answers its issuer, sends GACK and closes. The pass reads the tags as any other (R50);
    one that must start a poison writeback and finds no reserved buffer makes no change (R122). -/
def installRing (s₀ : State) (sl : SliceId) (i : Nat) : State :=
  match missAt s₀ sl i with
  | none => s₀
  | some e =>
    match e.grant with
    | none => s₀
    | some g =>
      let r := e.req
      let pl := place s₀ r.laddr
      let s := readStages s₀ pl r.laddr
      match findWay s pl with
      | none => closeEntry (sendGack s sl i e) sl i pl
      | some w =>
        -- a home that supplied its own request from a line that a far atomic left dirty here stays the owner (R103, R229)
        let st := if g.gst == .S && (stateHere s pl).dirty then .O else installState e g
        let hasData := g.dsrc != 0 && r.op != .claim
        let poisoned := hasData && (e.fill.psn != 0 || e.psnSeen)
        let fill : Line := if poisoned then { e.fill with psn := 0xF } else e.fill
        let base : Option Line := if hasData then some fill else none
        let buf := if e.abandoned then none else bufOf s sl r
        let isAtom : Bool := r.op == .atom && !e.abandoned
        let short : Bool := match buf with
          | some (_, b) => wcPoisons b base
          | none => poisoned && (st.dirty || (pfGet s pl r.laddr).exh)
        if short && poisonShort s sl then s₀
        else
          let s := setLine s pl st
          let s := if r.op = .claim then claimValue s pl w r.laddr else s
          let s := if poisoned && buf.isNone then becomeX s pl r.laddr st.dirty else s
          -- the fill buffer is written out here, unless the bytes of a write or an atomic go into it first
          let s := if hasData && buf.isNone && (!isAtom || poisoned) then installWrites s pl i w e fill else s
          -- a fill counts as a use, except one for RD_1X; an upgrade counted when its hit was found (R65)
          let s := if r.op = .rd1x ∨ (e.tr = .smW ∧ ¬ hasData) then s else useWay s pl w
          let s := sendGack s sl i e
          if e.abandoned then closeEntry s sl i pl
          else
          match buf, r.src, r.op with
          | some (k, b), _, _ => closeEntry (wcMerge s pl w k b base (some (BitVec.ofNat 8 i, e.serial))) sl i pl
          | none, .port _, .atom =>
            if poisoned then atomPoisoned s pl i e
            else if hasData then putMiss s sl i (some { e with kind := .bare })
            else atomSource s pl w i
          | none, .port _, _ =>
            let s := recordGrant s pl e poisoned
            let s := if r.op = .rdEx ∧ ¬ hasData then deliverHit s pl r w .E false
              else answer s r (grantName r poisoned) poisoned 0
            closeEntry s sl i pl
          | none, .beam _ _ _, _ => closeEntry (stageDone s pl r poisoned) sl i pl
          | none, .wc _, _ => closeEntry s sl i pl

/-- An entry that installs nothing ends when its grant and every chunk have come (R107, R222). -/
def finishNoInstall (s : State) (sl : SliceId) (i : Nat) : State :=
  match missAt s sl i with
  | none => s
  | some e =>
    match e.grant with
    | none => s
    | some g =>
      if !entryReady e then s
      else
        let r := e.req
        let pl := place s r.laddr
        let s := sendGack s sl i e
        if e.abandoned then closeEntry s sl i pl
        else if r.op = .atom then
          let s := if e.predUpd then predMove s sl r.laddr g.cont else s
          if g.psn || e.fill.psn != 0 then
            let s := trouble s (blkSlc sl) kSlcAtomPoison
            let s := match r.src with
              | .port p => if r.dead then s else complete s p r.hdr.ptag .I true 0x0B 0
              | _ => s
            closeEntry s sl i pl
          else
            closeEntry (answer s r .I false (lineValue e.fill (r.hdr.addr.toNat % 128) (awBytes r.hdr.aw))) sl i pl
        else closeEntry (answer s r .I (e.fill.psn &&& wantOf r != 0) 0) sl i pl

/-! Local entries (R91, R95, R107, R108, R219). -/

/-- A local entry whose probes are all answered changes its line, records the grant and answers (R91). Data that a probe
    returned is written from the entry's fill buffer and makes the line M (R71); poison makes it X (R121, R122). -/
def finishLocal (s₀ : State) (sl : SliceId) (i : Nat) : State :=
  match missAt s₀ sl i with
  | none => s₀
  | some e =>
    let r := e.req
    let pl := place s₀ r.laddr
    let s := readStages s₀ pl r.laddr
    match findWay s pl with
    | none => closeEntry s sl i pl
    | some w =>
      let psn : Bool := r.op != .claim && e.prbLine.any fun d => d.psn != 0
      let buf := bufOf s sl r
      let short : Bool := match buf with
        | some (_, b) => wcPoisons b e.prbLine
        | none => psn
      if short && poisonShort s sl then s₀
      else
      let s := match e.prbLine with
        | some d =>
          if r.op == .claim || buf.isSome || (r.op == .atom && !psn) then s
          else if psn then
            let part := (tagAt s pl.sl pl.set w).part
            poisonWb (setLine (pfPut s pl r.laddr 0 false) pl .X) sl r.laddr part .M d 0 true
          else fillWrites (setLine s pl .M) pl r.laddr w e.serial (some (BitVec.ofNat 8 i)) d r.hbmFor
        | none => s
      match buf, r.src, r.op with
      | some (k, b), _, _ => closeEntry (wcMerge s pl w k b e.prbLine (some (BitVec.ofNat 8 i, e.serial))) sl i pl
      | none, .beam _ _ _, _ => closeEntry (stageDone s pl r psn) sl i pl
      | none, .wc _, _ => closeEntry s sl i pl
      | none, .port _, .atom =>
        match e.prbLine with
        | some d => if psn then atomPoisoned s pl i e else atomPerform s pl i w { e with fill := d, fillV := 0xF }
        | none => atomSource s pl w i
      | none, .port _, op =>
        let s := if op = .claim then claimValue (setLine s pl .M) pl w r.laddr else s
        let s := recordGrant s pl e psn
        let s := closeEntry s sl i pl
        if op = .upg ∨ op = .claim then answer s r (grantName r psn) psn 0
        else
          match e.prbLine with
          | some d => answerData s r (grantName r psn) d 0
          | none => deliverHit s pl r w (grantName r psn) false

/-- An entry ends if its conditions hold (R73, R95). -/
def tryFinish (s : State) (sl : SliceId) (i : Nat) : State :=
  match missAt s sl i with
  | none => s
  | some e =>
    match e.kind with
    | .loc => if e.prb = 0 then finishLocal s sl i else s
    | .ring => if !entryReady e then s else if e.noInstall then finishNoInstall s sl i else installRing s sl i
    | .bare =>
      if e.noInstall then finishNoInstall s sl i
      else
        let pl := place s e.req.laddr
        match e.owesCmp, findWay s pl with
        | true, some w => atomAnswer s pl i w
        | _, _ => s
    | .waiting => s

/-- Atomics whose completion waited for filter room try again (R221). -/
def retryFinish (s : State) (sl : SliceId) : State :=
  (missOf s sl).foldl (fun s e => if e.2.owesCmp then tryFinish s sl e.1 else s) s

/-! Penumbra data (R104, R115, R159, R160). -/

/-- DATA sent from a buffer to the destination that a snoop named (R160). -/
def sendSupply (s : State) (l : LineAddr) (p : Supply) (d : Line) (srck : BitVec 2) (dirty : Bool) : State :=
  send s (.data { src := s.net.ctrlId, dst := p.dst, epoch := myEpoch s, txn := if p.tohome then 0 else p.txn
                  htag := p.htag, hkind := p.hkind, laddr := l }
    ⟨p.crit, srck, dirty, p.tohome, d⟩)

/-- A line that a walker removed has been written back: every drain and flush of its scope counts it (R124, R434). -/
def countWritten (s : State) (b : PenBuf) : State :=
  let c := s.cache
  { s with cache := { c with
    drains := c.drains.map fun (d : Drain) =>
      if !d.ended && (d.scope == none || d.scope == some b.part) then { d with count := d.count + 1 } else d
    flushes := c.flushes.map fun (f : FlushWalk) =>
      if (f.scope == none || f.scope == some b.part) && decide (f.first ≤ b.laddr ∧ b.laddr ≤ f.last) then
        { f with count := f.count + 1 } else f } }
/-- The owner of a flush buffer is told that it is free (R112, R124). -/
def penFreed (s : State) (sl : SliceId) (b : PenBuf) : State :=
  let s := wakeSet s sl (setOf b.laddr)
  match b.owner with
  | .flushReq p t => complete s p t .I false 0 0
  | .walker => if b.mif then countWritten s b else s
  | .none => s

/-- What a buffer does when its chunks and probes are all in: a snoop's data leaves, a clean E line is freed, and the
    third row of R121 resets its line. -/
def penSettle (s : State) (sl : SliceId) (i : Nat) : State :=
  match penAt s sl i with
  | none => s
  | some b =>
    if b.prb ≠ 0 then s
    else if (b.kind = .victim ∨ b.kind = .flush) ∧ b.frm = .E ∧ !b.dirty ∧ b.supply.isNone then
      penFreed (putPen s sl i none) sl b
    else if b.resetX then
      let pl := place s b.laddr
      if b.dirty then
        if b.probeData && !b.poison then setI (putPen s sl i (some { b with resetX := false })) pl
        else trouble (putPen s sl i (some { b with resetX := false })) (blkSlc sl) kSlcPoisonWb
      else penFreed (putPen s sl i none) sl b
    else if b.chv ≠ 0xF then s
    else
      -- a line that stays here after PROBE_SH: data that returned is written to it, none leaves it in S (R103)
      let pl := place s b.laddr
      let s := if !b.stay then s
        else match findWay s pl with
          | some w =>
            if b.probeData && b.data.psn != 0 then
              if stateHere s pl = .I then s
              else poisonWb (setLine (pfPut s pl b.laddr 0 false) pl .X) sl b.laddr (tagAt s pl.sl pl.set w).part .M b.data 0 true
            else if b.probeData then queueWrites s pl b.laddr w b.data (BitVec.allOnes 128) false .none (sectorFor s pl w)
            else if b.frm = .E ∧ stateHere s pl = .O then setLine s pl .S else s
          | none => s
      match b.supply with
      | none => if b.kind = .snoop then penFreed (putPen s sl i none) sl b else s
      | some p =>
        let d : Line := if b.poison then { b.data with psn := 0xF } else b.data
        let srck : BitVec 2 := if b.kind = .snoop then (if b.probeData then 3 else 1) else 2
        let s := sendSupply s b.laddr p d srck true
        if p.freeAfter then penFreed (putPen s sl i none) sl b else putPen s sl i (some { b with supply := none })

/-! Probe responses (R99, R101, R102). -/

/-- Data that a port has given up reaches the buffers of the line that still await that port (R101, R104). -/
def penTake (s : State) (sl : SliceId) (l : LineAddr) (p : PortId) (d : Line) : State :=
  (penOf s sl).foldl (fun s e =>
    if e.2.laddr == l && e.2.prb.getLsbD p.toNat && !e.2.probeData then
      putPen s sl e.1 (some { e.2 with data := d, chv := 0xF, dirty := true, poison := d.psn != 0, probeData := true })
    else s) s

/-- A line probed without an owner gets its answer: data is written into the line, which becomes M (R339); the port
    leaves the filter. The probe closes when the last port has answered. A snoop that has passed since, and awaits the port's
    data in a buffer of its own, is given it (R103, R104). -/
def lprobeAnswer (s : State) (x : LProbe) (p : PortId) (d : Option Line) : State :=
  let pl := place s x.laddr
  let s := readStages s pl x.laddr
  let s := match d with
    | some d => penTake s pl.sl x.laddr p d
    | none => s
  let f := pfGet s pl x.laddr
  let s := pfPut s pl x.laddr (f.hold &&& ~~~(BitVec.twoPow 8 p.toNat)) false
  let s : State := match d, findWay s pl with
    | some d, some w =>
      if stateHere s pl = .I then s
      else if d.psn ≠ 0 then
        let part := (tagAt s pl.sl pl.set w).part
        poisonWb (setLine s pl .X) pl.sl x.laddr part .M d 0 true
      else queueWrites (setLine s pl .M) pl x.laddr w d (BitVec.allOnes 128) false .none (sectorFor s pl w)
    | _, _ => s
  let prb := x.prb &&& ~~~(BitVec.twoPow 8 p.toNat)
  if prb ≠ 0 then
    { s with cache := { s.cache with lprobes := s.cache.lprobes.map fun (y : LProbe) => if y.serial == x.serial then { y with prb := prb } else y } }
  else
    let s := { s with cache := { s.cache with lprobes := s.cache.lprobes.filter fun (y : LProbe) => y.serial ≠ x.serial } }
    let s := match x.flushOf with
      | some (q, t) => complete s q t .I false 0 0
      | none => s
    retryFinish s x.slice

/-- The response would make a line X and finds no reserved buffer: it waits, and its data with it (R122). -/
def sinkSlice (s : State) (pb : Probe) (d : Option Line) : Option SliceId :=
  if !(d.any fun x => x.psn != 0) then none
  else
    match pb.owner with
    | .lprobe sl _ => if stateHere s (place s pb.laddr) != .I && poisonShort s sl then some sl else none
    | .pen sl i _ => if (penAt s sl i.toNat).any (·.stay) && poisonShort s sl then some sl else none
    | _ => none
/-- The owner of a probe takes its response; `d` is the data returned, or taken from a crossing WB_D. -/
def probeAnswer (s : State) (pb : Probe) (p : PortId) (d : Option Line) : State :=
  match sinkSlice s pb d with
  | some sl => putSlice s sl { sliceSt s sl with sinks := (sliceSt s sl).sinks ++ [(p, pb, d)] }
  | none =>
  let one : BitVec 8 := BitVec.twoPow 8 p.toNat
  match pb.owner with
  | .none => s
  | .miss sl i id =>
    match missAt s sl i.toNat with
    | none => s
    | some e =>
      if e.serial ≠ id then s
      else
        let e := { e with prb := e.prb &&& ~~~one, prbLine := match d with | some x => some x | none => e.prbLine }
        tryFinish (putMiss s sl i.toNat (some e)) sl i.toNat
  | .pen sl i id =>
    match penAt s sl i.toNat with
    | none => s
    | some b =>
      if b.serial ≠ id then s
      else
        let b := { b with prb := b.prb &&& ~~~one }
        let b := match d with
          | some x => { b with data := x, chv := 0xF, dirty := true, poison := x.psn != 0, probeData := true }
          | none => b
        penSettle (putPen s sl i.toNat (some b)) sl i.toNat
  | .lprobe _ id =>
    match s.cache.lprobes.find? fun x => x.serial == id with
    | some x => lprobeAnswer s x p d
    | none => s

end Sys2Proof.Machine
end

