-- ==== Sys2Proof/Machine/Fill.lean ====
section
/-! DEFINITION. HBM reads and writes completing, repairs, fills, the perform point, penumbra timers and writebacks,
    replays, and the acknowledgements that free buffers (chapters 3 and 4). -/

namespace Sys2Proof.Machine

/-! HBM (R49, R68, R70, R73). -/

/-- An operation in a queue may go: no earlier operation that touches the same chunk, one of the two a write, stands
    before it (R68). -/
def hbmMayGo (q : List HbmOp) (pos : Nat) : Bool :=
  match q[pos]? with
  | none => false
  | some o => !(q.take pos).any fun e =>
      e.set == o.set && e.way == o.way && lineNo e.laddr == lineNo o.laddr && e.chunk == o.chunk && (e.write || o.write)

/-- Whether an operation is performed next, and the round robin after it: one with the beam priority bit before those without, and
    those without by the weights of their partitions, among the operations that may go (R68, R241, R285). -/
def hbmTurn (s : State) (sl : SliceId) (q pos : Nat) : Option Wrr :=
  let ops := hbmq s sl q
  let x := tget wrr0 s.cache.hbmWrr (sl.toNat * 4 + q)
  let go := ((List.range ops.length).filter (hbmMayGo ops)).filterMap fun i => ops[i]?
  match ops[pos]? with
  | none => none
  | some o =>
    if !hbmMayGo ops pos then none
    else if o.beam then some x
    else if go.any (·.beam) then none
    else match wrrPick (weightOf s .hbmQueue) x (go.map (·.part)) with
      | some (p, y) => if p = o.part then some y else none
      | none => none

/-- What the check of a read finds (R49): the outcome of the code, or a LOC that does not match. The check of a chunk that
    nothing has written, of which the spec says nothing, finds no mismatch. DESIGN CHOICE, log entry 109. -/
def hbmCheck (s : State) (sl : SliceId) (o : HbmOp) (err : EccOutcome) : EccOutcome × Bool :=
  let m := tget hbmSide0 s.mem.hbmSide (sideIx sl o)
  let bad := m.written && m.loc != locOf o.set o.way.toNat o.laddr o.chunk.toNat
  let lost := (hbmSt s (sl.toNat / 8)).pcLost.getLsbD (pcOf sl (qOf o.laddr))
  (if err = .uncorrectable ∨ bad ∨ lost then .uncorrectable else err, err != .uncorrectable && !lost && bad)

/-- A chunk reaches a transfer to a port; the last one ends it (R70, R333). -/
def delivChunk (s : State) (id : Nat) (c : Nat) (x : Chunk) (psn : Bool) : State :=
  match s.cache.delivs.find? fun d => d.id == id with
  | none => s
  | some d =>
    let sticky := d.psnSeen || psn
    let d := { d with line := putChunk d.line c x sticky, psnSeen := sticky, got := setBit d.got c true }
    if d.got &&& d.want = d.want then
      let s := { s with cache := { s.cache with delivs := s.cache.delivs.filter fun (y : Deliv) => y.id ≠ id } }
      answerData s d.req d.gst d.line d.oldv
    else { s with cache := { s.cache with delivs := s.cache.delivs.map fun (y : Deliv) => if y.id == id then d else y } }

/-- A chunk reaches a transfer to the ring; the last one sends the DATA (R160). -/
def xferChunk (s : State) (id : Nat) (c : Nat) (x : Chunk) (psn : Bool) : State :=
  match s.cache.xfers.find? fun d => d.id == id with
  | none => s
  | some d =>
    -- once a chunk has left with the poison flag, every later chunk of the transfer does (R49)
    let d := { d with line := putChunk d.line c x (psn || d.line.psn != 0), got := setBit d.got c true }
    if d.got = 0xF then
      sendSupply { s with cache := { s.cache with xfers := s.cache.xfers.filter fun (y : Xfer) => y.id ≠ id } }
        d.laddr d.supply d.line 1 true
    else { s with cache := { s.cache with xfers := s.cache.xfers.map fun (y : Xfer) => if y.id == id then d else y } }

/-- A chunk reaches a penumbra buffer, unless probe data has replaced it (R115). -/
def penChunk (s : State) (sl : SliceId) (i serial c : Nat) (x : Chunk) (psn : Bool) : State :=
  match penAt s sl i with
  | none => s
  | some b =>
    if b.serial ≠ serial ∨ b.probeData then s
    else
      let b := { b with data := putChunk b.data c x psn, chv := setBit b.chv c true, poison := b.poison || psn }
      penSettle (putPen s sl i (some b)) sl i

/-- The target chunk of a near atomic reaches its entry (R220). -/
def entryChunk (s : State) (sl : SliceId) (i serial c : Nat) (x : Chunk) (psn : Bool) : State :=
  match missAt s sl i with
  | none => s
  | some e =>
    if e.serial ≠ serial then s
    else putMiss s sl i (some { e with fill := putChunk e.fill c x psn, fillV := setBit e.fillV c true, rdPend := 0
                                       poisoned := e.poisoned || psn })

/-- Home queue entry i of a slice, conflict queue or far queue. -/
def homeAt (s : State) (sl : SliceId) (far : Bool) (i : Nat) : Option HomeEntry :=
  if far then tget none s.home.farq (sl.toNat * 32 + i) else tget none s.home.homeq (sl.toNat * 64 + i)
/-- The same, written or freed. -/
def putHome (s : State) (sl : SliceId) (far : Bool) (i : Nat) (e : Option HomeEntry) : State :=
  if far then { s with home := { s.home with farq := tset none s.home.farq (sl.toNat * 32 + i) e } }
  else { s with home := { s.home with homeq := tset none s.home.homeq (sl.toNat * 64 + i) e } }

/-- A chunk of a line in A reaches the far atomic that reads it (R223). -/
def homeChunk (s : State) (sl : SliceId) (far : Bool) (i serial c : Nat) (x : Chunk) (psn : Bool) : State :=
  match homeAt s sl far i with
  | none => s
  | some e =>
    if e.serial ≠ serial then s
    else putHome s sl far i (some { e with atomLine := putChunk e.atomLine c x psn, atomGot := setBit e.atomGot c true })

/-- A corrected error found by scrub is laid to a DQ lane, which the spec derives from a syndrome that it does not give; the
    fourth on one lane in a pass is recorded for repair (R403, R552, R562). Log entry 11. -/
def noteLane (s : State) (sl : SliceId) (q : Nat) : State :=
  let k := sl.toNat / 8
  let lane := (Config.freeWord s.free).toNat % 32
  let pc := pcOf sl q
  let x := hbmSt s k
  let n := tget 0 x.laneErrs (pc * 32 + lane) + 1
  let entry : Word := BitVec.ofNat 32 (k + 2 * pc + 64 * (lane / 8) + 256 * (lane % 8))
  putHbmSt { s with free := s.free + 1 } k { x with
    laneErrs := tset 0 x.laneErrs (pc * 32 + lane) n
    noted := if n = 4 ∧ ¬ x.noted.contains entry then x.noted ++ [entry] else x.noted }

/-- The operation at `pos` leaves the queue of pseudo-channel q, a write or a read: a change of direction counts as a TURNAROUND
    (R492). -/
def hbmTake (s : State) (sl : SliceId) (q pos : Nat) (write : Bool) (y : Wrr) : State :=
  let i := sl.toNat * 4 + q
  let was := tget none s.cache.hbmDir i
  let s := putHbmq s sl q ((hbmq s sl q).eraseIdx pos)
  let s := { s with cache := { s.cache with
    hbmDir := tset none s.cache.hbmDir i (some write), hbmWrr := tset wrr0 s.cache.hbmWrr i y } }
  if was == some (!write) then count s (evHbm 5 (sl.toNat / 8)) else s

/-- A chunk read completes with the code's outcome (R49). A late error asks for a repair transaction (R121); a chunk that
    a scrub read corrected is rewritten (R561). -/
def hbmRead (s : State) (sl : SliceId) (q pos : Nat) (err : EccOutcome) (odecc : Bool) : State :=
  let ops := hbmq s sl q
  match ops[pos]?, hbmTurn s sl q pos with
  | some o, some y =>
    if o.write then s
    else
      let s := hbmTake s sl q pos false y
      let s := if odecc then trouble s (blkHbm (sl.toNat / 8)) kHbmHbmOdecc else s
      let x := hbmData s sl o
      let (out, loc) := hbmCheck s sl o err
      let side := tget hbmSide0 s.mem.hbmSide (sideIx sl o)
      let bad := out == .uncorrectable
      let h := sl.toNat / 8
      let s := count s (evHbm 0 h)
      let s := if o.beam then count s (evHbm 2 h) else s
      let s := match out with
        | .single => trouble s (blkSlc sl) kSlcHbmCe
        | .uncorrectable =>
          let x := sliceSt s sl
          let s := putSlice s sl { x with repairs := x.repairs ++ [o.laddr] }
          raiseErr (trouble s (blkSlc sl) (if loc then kSlcHbmLoc else kSlcHbmUe)) (blkSlc sl) 2
        | .none => s
      let psn := bad || side.poison
      let c := o.chunk.toNat
      match o.dest with
      | .deliv id => delivChunk s id c x psn
      | .xfer id => xferChunk s id c x psn
      | .pen i serial => penChunk s sl i.toNat serial c x psn
      | .entry i serial => entryChunk s sl i.toNat serial c x psn
      | .home far i serial => homeChunk s sl far i.toNat serial c x psn
      | .scrub =>
        let again := (hbmq s sl q).any fun e =>
          e.write && e.set == o.set && e.way == o.way && lineNo e.laddr == lineNo o.laddr && e.chunk == o.chunk
        let s := if out = .single then noteLane s sl q else s
        if out = .single ∧ ¬ again then
          pushHbm s sl { o with write := true, data := x, mask := BitVec.allOnes 32, poison := side.poison, dest := .none }
        else s
      | .fill _ | .none => s
  | _, _ => s

/-- The last of a fill's chunk writes accepted frees its buffer (R73, R117). -/
def drainChunk (s : State) (sl : SliceId) (serial c : Nat) : State :=
  match s.cache.drain.find? fun d => d.slice == sl && d.serial == serial with
  | none => s
  | some d =>
    let left := setBit d.left c false
    if left ≠ 0 then
      { s with cache := { s.cache with drain := s.cache.drain.map fun (y : FillDrain) =>
          if y.slice == sl && y.serial == serial then { y with left := left } else y } }
    else
      let s := { s with cache := { s.cache with drain := s.cache.drain.filter fun (y : FillDrain) => !(y.slice == sl && y.serial == serial) } }
      match d.pen with
      | some i => wakeSet (putPen s sl i.toNat none) sl (setOf d.laddr)
      | none => s

/-- A chunk write is accepted by its pseudo-channel queue and performed (R68, R73, R220). -/
def hbmAccept (s : State) (sl : SliceId) (q pos : Nat) : State :=
  let ops := hbmq s sl q
  match ops[pos]?, hbmTurn s sl q pos with
  | some o, some y =>
    if !o.write then s
    else
      let s := hbmWrite (hbmTake s sl q pos true y) sl o
      let s := count s (evHbm 1 (sl.toNat / 8))
      let c := o.chunk.toNat
      match o.dest with
      | .fill serial => drainChunk s sl serial c
      | .entry i serial =>
        match missAt s sl i.toNat with
        | none => s
        | some e =>
          if e.serial ≠ serial then s
          else
            let e := { e with rdPend := setBit e.rdPend c false }
            let s := putMiss s sl i.toNat (some e)
            if e.performed ∧ e.rdPend = 0 ∧ !e.owesCmp then closeEntry s sl i.toNat (place s e.req.laddr) else s
      | .home far i serial =>
        match homeAt s sl far i.toNat with
        | none => s
        | some e =>
          if e.serial ≠ serial then s
          else
            let e := { e with wrPend := setBit e.wrPend c false }
            -- the transaction is open on the line until its result has been accepted (R223)
            putHome s sl far i.toNat (if e.state = .runA ∧ e.wrPend = 0 then none else some e)
      | _ => s
  | _, _ => s

/-- The oldest late read error of a slice is repaired: the line becomes X as R121 gives, when a reserved buffer is free
    where one is needed (R122). -/
def repair (s : State) (sl : SliceId) : State :=
  let x := sliceSt s sl
  match x.repairs with
  | [] => s
  | l :: rest =>
    let pl := place s l
    let t := readStages (putSlice s sl { x with repairs := rest }) pl l
    let st := stateHere t pl
    let need := st.dirty || (pfGet t pl l).exh
    if st = .I ∨ st = .X then t
    else if need ∧ poisonShort t pl.sl then s
    else becomeX t pl l st.dirty

/-! Penumbra timers and writebacks (R115, R119, R134). -/

/-- The hold window of a buffer counts down to 0 (R115). -/
def penHoldEnd (s : State) (sl : SliceId) (i : Nat) : State :=
  match penAt s sl i with
  | some b => if b.mif then s else putPen s sl i (some { b with holdt := 0 })
  | none => s

/-- A request waits for the buffer's data (R119). -/
def penAwaited (s : State) (sl : SliceId) (b : PenBuf) : Bool :=
  (missOf s sl).any fun e => e.2.kind == .waiting && e.2.waitOn == .gathered b.serial

/-- A buffer may issue its writeback (R115, R119): gathered, not held, not awaited, with a credit. -/
def penMayWrite (s : State) (sl : SliceId) (b : PenBuf) : Bool :=
  !b.mif && !b.back && b.kind != .snoop && b.dirty && b.chv == 0xF && b.prb == 0 && b.holdt == 0 && !penAwaited s sl b
    && wbkFree s false b.dest && !homeLost s b.dest

/-- The writeback of buffer i of a slice, as it is sent (R115, R373). -/
def wbMsg (s : State) (sl : SliceId) (i : Nat) (b : PenBuf) : RingMsg :=
  .wbData { src := s.net.ctrlId, dst := b.dest, epoch := myEpoch s, txn := sl ++ (0 : BitVec 1) ++ BitVec.ofNat 7 i
            htag := 0, hkind := 0, laddr := b.laddr }
    ⟨b.part, b.move, b.resent, if b.poison then { b.data with psn := 0xF } else b.data⟩
/-- The writeback noted in its buffer with the ring that it enters first and that ring's epoch (R373). -/
def noteWb (s : State) (b : PenBuf) (m : RingMsg) : PenBuf :=
  let up : Bool := match hop s false m with
    | .cross => true
    | _ => false
  { b with wbUpper := up, wbEpoch := (posOf s up).cur.epoch }

/-- A buffer issues its writeback and enters MI_F (R115). -/
def penWriteback (s : State) (sl : SliceId) (i : Nat) : State :=
  match penAt s sl i with
  | none => s
  | some b =>
    if !penMayWrite s sl b then s
    else
      let s := wbkSpend s false b.dest
      let m := wbMsg s sl i b
      let s := if b.resent then s else onPart s b.part fun x => { x with writebacks := x.writebacks + 1 }
      let s := putPen s sl i (some { noteWb s b m with mif := true, wbStart := s.now, wbTmo := tmoWback s })
      send s m

/-- A writeback acknowledgement frees its buffer (R115); a stray one is counted (R373). -/
def penAcked (s : State) (txn : BitVec 12) : State :=
  let sl : SliceId := txn.extractLsb' 8 4
  let i := (txn.extractLsb' 0 7).toNat
  match penAt s sl i with
  | some b =>
    if b.mif then
      let s := race s (blkSlc sl) (!b.wbFired && due s b.wbStart b.wbTmo)
      penFreed (putPen s sl i none) sl b
    else trouble s (blkSlc sl) kSlcWbackStray
  | none => trouble s (blkSlc sl) kSlcWbackStray

/-! Replays (R51, R54, R56). -/

/-- The ready waiting request of a slice that is oldest (R54). -/
def oldestReady (s : State) (sl : SliceId) : Option (Nat × MissEntry) :=
  ((missOf s sl).filter fun e => e.2.kind == .waiting && waitReady s sl e.2.waitOn).foldl (fun o e =>
    match o with
    | some x => if e.2.serial < (x : Nat × MissEntry).2.serial then some e else o
    | none => some e) none

/-- The oldest ready waiting request replays with its own entry, which its new pass uses again (R56). -/
def replayRequest (s : State) (sl : SliceId) : State :=
  match oldestReady s sl with
  | none => s
  | some (i, e) =>
    let t := putMiss s sl i none
    match pipe t e.req (some e.serial) with
    -- a request that another was placed behind keeps the mark in its new entry (R216)
    | .passed t => if e.behind then (missOf t sl).foldl (fun t y =>
        if y.2.serial = e.serial then putMiss t sl y.1 (some { y.2 with behind := true }) else t) t else t
    | .stalled w => putMiss (bounce t e.req w) sl i (some e)

/-- The head of an input that failed its resource check tries again (R51). -/
def replayInput (s : State) (sl : SliceId) (k : BitVec 4) : State :=
  let x := sliceSt s sl
  match x.stalled.findIdx? fun e => e.1 == k with
  | none => s
  | some j =>
    match x.stalled[j]? with
    | none => s
    | some (_, r) =>
      let t := tookPort (putSlice s sl { x with stalled := x.stalled.eraseIdx j }) sl r
      match pipe t r none with
      | .passed t => t
      | .stalled w =>
        let t := bounce t r w
        putSlice t sl { sliceSt t sl with stalled := x.stalled }

/-- A closing write-combining buffer is performed (R108, R110). -/
def replayWc (s : State) (sl : SliceId) (i : Nat) : State :=
  match wcPerform s sl i with
  | .passed s => s
  | .stalled w => match wcAt s sl i with
    | some b => noteShort s sl b.part w
    | none => s

/-- What waited for a reserved buffer takes one: a poison writeback that a walk owes, else a probe response with poison (R122). -/
def replayOwed (s : State) (sl : SliceId) : State :=
  let x := sliceSt s sl
  if poisonShort s sl then s
  else
    match x.owedPoison, x.sinks with
    | o :: rest, _ => poisonWb (putSlice s sl { x with owedPoison := rest }) sl o.laddr o.part o.frm o.data o.prb o.dirty
    | [], (p, pb, d) :: rest => probeAnswer (putSlice s sl { x with sinks := rest }) pb p d
    | [], [] => s

/-- The window of an open write-combining buffer ends: it closes and performs its bytes (R110). -/
def wcExpire (s : State) (sl : SliceId) (i : Nat) : State := replayWc (wcClose s sl i) sl i

/-- The timeout of a request that waits for an eligible way (R61). -/
def allocTimeout (s : State) (sl : SliceId) (i : Nat) : State :=
  match missAt s sl i with
  | some e =>
    match e.kind, e.waitOn with
    | .waiting, .alloc _ => putMiss s sl i (some { e with waitOn := .ready })
    | _, _ => s
  | none => s

/-- The perform point of the near atomic in entry i, once its target chunk is there (R220, R221). -/
def atomStep (s : State) (sl : SliceId) (i : Nat) : State :=
  match missAt s sl i with
  | none => s
  | some e =>
    let pl := place s e.req.laddr
    let c := (critOf e.req.hdr.addr).toNat
    let bad := chunkPsn e.fill c || e.poisoned
    if e.owesCmp then tryFinish s sl i
    else if e.kind ≠ .bare ∨ e.noInstall ∨ e.performed ∨ e.req.op ≠ .atom ∨ ¬ e.fillV.getLsbD c then s
    else
      match findWay s pl with
      | none => s
      | some w => if bad && (stateHere s pl).dirty && poisonShort s sl then s else atomPerform s pl i w e

end Sys2Proof.Machine
end

