-- ==== Sys2Proof/Machine/Snoop.lean ====
section
/-! DEFINITION. Snoops at a node: screening by the shadow tags and the penumbra (R79, R80), the answer from the line
    state (R96, R97, R103, R158), from the penumbra (R159), and the way on round the ring (R154-R157). -/

namespace Sys2Proof.Machine

/-- What screening decides (R79). -/
inductive Screen where
  | noCopy | shared | referred
  deriving DecidableEq, Repr

/-- The penumbra buffer that a snoop matches (R159). -/
def penMatch (s : State) (sl : SliceId) (l : LineAddr) : Option (Nat × PenBuf) :=
  (penOf s sl).find? fun e => e.2.laddr == l && e.2.kind != .snoop && !e.2.back
    && (e.2.mif || e.2.prb != 0 || e.2.dirty)

/-- Some shadow entry of the set fails its parity (R80). -/
def shadowBad (s : State) (pl : Place) : List Nat := (List.range 16).filter fun w => !(shadowAt s pl.sl pl.set w).ok

/-- Screening of a snoop (R79, R80). -/
def screen (s : State) (pl : Place) (l : LineAddr) (k : SnpKind) : Screen :=
  if !(shadowBad s pl).isEmpty then .referred
  else
    let hit := (waysFor s pl).find? fun w =>
      let e := shadowAt s pl.sl pl.set w
      e.sv && e.tag == pl.tag
    let pen := (penOf s pl.sl).any fun e => e.2.laddr == l && !e.2.back
    let (pres, owng) := match hit with
      | some w =>
        let e := shadowAt s pl.sl pl.set w
        (e.pres.getLsbD pl.line.toNat, e.owng.getLsbD (pl.line.toNat / 4))
      | none => (false, false)
    if pen then .referred
    else if !pres then .noCopy
    else if owng then .referred
    else if k = .sh then .shared else .referred

/-- The entry of this controller that a snoop's RQID and RQTXN name (R196). A line that a far atomic has made dirty here
    since the request left is no copy of the request's own: its data goes out as for any other transaction (R226, R229). -/
def ownEntry (s : State) (b : SnpBody) (l : LineAddr) : Option MissEntry :=
  if b.rqid = s.net.ctrlId then
    match missAt s (b.rqtxn.extractLsb' 8 4) (b.rqtxn.extractLsb' 0 8).toNat with
    | some e =>
      if e.req.laddr = l ∧ e.kind ≠ .waiting ∧ (e.tr = .smW ∨ ¬ (stateHere s (place s l)).dirty) then some e else none
    | none => none
  else none

/-- The outcome of a node's answer. -/
inductive SnpOut where
  /-- answered: the bits to fold into CR -/
  | answered (s : State) (cr : CR)
  /-- it waits: for an entry or a buffer (R56, R97, R159), or for its set to be neither in motion (R33) nor lost (R44) -/
  | waits (s : State) (w : WaitOn)
  /-- its resource check failed: it has written nothing and goes back to the head of its input (R51) -/
  | stalled (s : State)
  deriving DecidableEq, Repr

/-- Where a supplier sends its data (R160, R195); nowhere when the snoop has a supplier already (R154). -/
def supplyOf (h : RingHdr) (b : SnpBody) (freeAfter : Bool) : Option Supply :=
  if b.cr.dsup then none
  else some { dst := if b.ddh then h.dst else b.rqid, txn := b.rqtxn, htag := h.htag, hkind := h.hkind, crit := b.crit
              tohome := b.ddh, freeAfter := freeAfter }

/-- The CR bits of a supplier. -/
def crSupply (s : State) (shr pen : Bool) : CR :=
  { cr0 with shr := shr, dsup := true, dirty := true, pen := pen, supnode := myNode s }

/-- The line's data read from HBM and sent to where the snoop says. -/
def supplyHbm (s : State) (pl : Place) (w : Nat) (l : LineAddr) (p : Option Supply) : State :=
  match p, drainOf s pl.sl l with
  | none, _ => s
  | some p, some d => sendSupply s l p d 1 true
  | some p, none =>
    let s := fresh s
    let s := { s with cache := { s.cache with xfers := s.cache.xfers ++ [⟨s.serial, l, p, 0, line0⟩] } }
    queueReads s pl l w (chunkOrder p.crit) (.xfer s.serial) (sectorFor s pl w)

/-- A supplier whose data may come from a port: a buffer of kind snoop, with the line's chunks read into it (R104). -/
def supplyPort (s : State) (pl : Place) (w : Nat) (l : LineAddr) (p : Option Supply) (kind : ProbeKind) (m : BitVec 8)
    (frm : LState) (stay : Bool) (i : Nat) : State :=
  let s := fresh s
  let id := s.serial
  let part := (tagAt s pl.sl pl.set w).part
  let s := putPen s pl.sl i (some { penNew s l .snoop frm part 0 with
    dirty := false, prb := m, supply := p, stay := stay })
  let s := queueReads s pl l w [0, 1, 2, 3] (.pen (BitVec.ofNat 7 i) id) (sectorFor s pl w)
  sendProbes s kind l true (.pen pl.sl (BitVec.ofNat 7 i) id) m

/-- An SM_W entry on the line loses it: it becomes IM_W and expects data (R96). -/
def loseUpgrade (s : State) (sl : SliceId) (l : LineAddr) : State :=
  (missOf s sl).foldl (fun s e =>
    if e.2.kind == .ring && e.2.tr == .smW && e.2.req.laddr == l then putMiss s sl e.1 (some { e.2 with tr := .imW }) else s) s

/-- A referred snoop against the primary tags (R97, R103, R158). A performed near atomic that is still open is a local entry for
    R97 too (DESIGN CHOICE, log entry 109). -/
def snoopTags (s : State) (pl : Place) (h : RingHdr) (k : SnpKind) (b : SnpBody) : SnpOut :=
  let l := h.laddr
  match ownEntry s b l with
  | some e =>
    -- the node's own snoop (R96, R158)
    if b.upg && e.tr == .smW then
      match stateHere s pl with
      | .S => .answered s { cr0 with upgv := true }
      | .O => .answered s { cr0 with upgv := true, upgo := true }
      | _ => .answered s cr0
    else .answered s cr0
  | none =>
    match (missOf s pl.sl).find? fun e =>
        e.2.req.laddr == l && (e.2.kind == .loc || e.2.kind == .bare && !e.2.noInstall) with
    | some e => .waits s (.closed e.2.serial)
    | none =>
      let s0 := s
      let s := demote s pl
      let st := stateHere s pl
      let f := pfGet s pl l
      match st, findWay s pl with
      | .I, _ | _, none => .answered s cr0
      | _, some w =>
        match k with
        | .sh =>
          if st = .S ∨ st = .X then .answered s { cr0 with shr := true }
          else if st = .E ∧ ¬ f.exh then .answered (setLine s pl .S) { cr0 with shr := true }
          else if f.exh then
            match freePen s pl.sl false with
            | none => .stalled s0
            | some i =>
              let s := setLine (pfPut s pl l f.hold false) pl .O
              .answered (supplyPort s pl w l (supplyOf h b true) .sh f.hold st true i) (crSupply s true false)
          else .answered (supplyHbm (setLine s pl .O) pl w l (supplyOf h b true)) (crSupply s true false)
        | .ex =>
          if st = .S ∨ st = .X ∨ (st = .E ∧ ¬ f.exh) then
            let s := sendProbes (pfPut s pl l 0 false) .inv l false .none f.hold
            .answered (loseUpgrade (setI s pl) pl.sl l) cr0
          else if f.exh then
            match freePen s pl.sl false with
            | none => .stalled s0
            | some i =>
              let s := pfPut s pl l 0 false
              let s := supplyPort s pl w l (supplyOf h b true) .ex f.hold st false i
              .answered (loseUpgrade (setI s pl) pl.sl l) (crSupply s false false)
          else
            let s := sendProbes (pfPut s pl l 0 false) .inv l false .none f.hold
            let s := supplyHbm s pl w l (supplyOf h b true)
            .answered (loseUpgrade (setI s pl) pl.sl l) (crSupply s false false)
        | .inv =>
          let s := sendProbes (pfPut s pl l 0 false) .inv l f.exh .none f.hold
          .answered (loseUpgrade (setI s pl) pl.sl l) cr0

/-- A snoop that matches a penumbra buffer (R159). A second supplier's buffer takes the same course without sending data
    (R154). -/
def snoopPen (s : State) (sl : SliceId) (i : Nat) (pb : PenBuf) (h : RingHdr) (k : SnpKind) (b : SnpBody) : SnpOut :=
  let send (s : State) : State :=
    match supplyOf h b false with
    | some p => sendSupply s h.laddr p (if pb.poison then { pb.data with psn := 0xF } else pb.data) 2 true
    | none => s
  if !pb.mif && pb.prb != 0 then .waits s (.probed pb.serial)
  else if !pb.mif then
    match k, supplyOf h b (k == .ex) with
    | .sh, p =>
      .answered (penSettle (putPen s sl i (some { pb with supplied := true, supply := p })) sl i) (crSupply s true false)
    | .ex, some p =>
      .answered (penSettle (putPen s sl i (some { pb with supplied := true, dirty := false, supply := some p })) sl i)
        (crSupply s false false)
    | .ex, none => .answered (penFreed (putPen s sl i none) sl pb) (crSupply s false false)
    | .inv, _ => .answered (penFreed (putPen s sl i none) sl pb) cr0
  else
    match k with
    | .sh => .answered (send s) (crSupply s true true)
    | .ex => .answered (send s) (crSupply s false true)
    | .inv => .answered s { cr0 with pen := true, supnode := myNode s }

/-- What a referred snoop finds in its pipeline pass (R80, R97, R103, R159); a set found lost in this pass holds it (R44). -/
def snoopPass (s : State) (pl : Place) (h : RingHdr) (k : SnpKind) (b : SnpBody) : SnpOut :=
  let bad := shadowBad s pl
  let s := readStages s pl h.laddr
  if (sliceSt s pl.sl).lostSets.contains pl.set then .waits s (.unheld h.laddr)
  else
    let s := bad.foldl (fun s w => trouble (syncShadow s pl.sl pl.set w) (blkSlc pl.sl) kSlcShadowPar) s
    match penMatch s pl.sl h.laddr with
    | some (i, pb) => if (ownEntry s b h.laddr).isSome then .answered s cr0 else snoopPen s pl.sl i pb h k b
    | none => snoopTags s pl h k b

/-- Who puts a snoop to a slice: a message that the fabric routes, one that was referred before and re-enters (R56), or the
    slice itself as the home that launches it (R149), which a set in motion does not hold (R33, R567). -/
inductive SnpFrom where
  | fabric | again | own
  deriving DecidableEq, Repr

/-- The answer of this node's slice to a snoop (R79, R80, R154, R157). Its referral is counted once. A snoop that is answered has
    passed stage W. -/
def snoopAnswer (s : State) (h : RingHdr) (k : SnpKind) (b : SnpBody) (f : SnpFrom) : SnpOut :=
  let pl := place s h.laddr
  if (pl.held && f != .own) || (sliceSt s pl.sl).lostSets.contains pl.set then .waits s (.unheld h.laddr)
  else
    match screen s pl h.laddr k with
    | .noCopy => .answered s cr0
    | .shared => .answered s { cr0 with shr := true }
    | .referred =>
      let s := if f = .again then s else count s (evSlc 10 pl.sl)
      match snoopPass s pl h k b with
      | .answered t a => .answered (countFor t (evSlc 0 pl.sl) 1 none) a
      | .waits t w => .waits t w
      | .stalled _ => .stalled s

/-- A node's answer folded into the travelling CR (R154). A node that would supply where a supplier stands already sets ERR
    instead, so that SUPNODE and PEN stay the first supplier's. -/
def foldCr (cr a : CR) (node : NodeId) : CR := { cr.or a with seen := setBit cr.seen node.toNat true }

/-- A snoop goes on in its direction, which is that of its launch or away from the port it came by, or turns back where
    that side carries nothing; DIR stays the launch direction (R142, R155, R157). -/
def snoopOn (s : State) (upper : Bool) (transit : Option RingPort) (h : RingHdr) (k : SnpKind) (b : SnpBody) : State :=
  let live := h.epoch == (posOf s upper).cur.epoch || (posOf s upper).old.any fun t => t.epoch == h.epoch
  -- a snoop held past the drain of its epoch is dropped when it moves on (R365)
  if transit.isSome && !live then countEnded (freeRxOf s transit (.snp k h b)) upper h.epoch
  else
  let ahead := match transit with
    | some p => otherPort p
    | none => if b.west then westPort upper else eastPort upper
  if ringPortUp s ahead h.epoch then sendBy s ahead transit (.snp k h b)
  else sendBy (count s (evRing 6 ahead)) (otherPort ahead) transit (.snp k h { b with turns := b.turns + 1 })

/-- A fresh circuit (R149, R193). -/
def circ0 : Circuit := ⟨false, 0, false, 0, cr0, 0, false⟩

/-- The launch direction (R155): west when A[7] = 1; a second launch takes the other direction (R166). -/
def launchWest (l : LineAddr) (retry : Bool) : Bool := (l.getLsbD 0) != retry

/-- The membership mask of the ring on which a circuit runs. -/
def maskOf (s : State) (upper : Bool) : BitVec 16 := (posOf s upper).cur.members

/-- A launch (R149, R155, R193): the launching node answers for its own cache first, except at an upper position; on a
    ring of one node the circuit is complete at once (R11). Without a circuit, its own answer must wait (R97, R159): nothing is
    launched, and the launch is tried again (DESIGN CHOICE, log 113). -/
def launch (s : State) (upper : Bool) (h : RingHdr) (k : SnpKind) (b : SnpBody) (c : Circuit) : State × Option Circuit :=
  let node := (posOf s upper).node
  let own := if upper then SnpOut.answered s cr0 else snoopAnswer s h k { b with cr := cr0 } .own
  match own with
  | .answered s a =>
    let cr := foldCr cr0 a node
    let b := { b with cr := cr, west := launchWest h.laddr b.retry, turns := 0 }
    let alone := maskOf s upper &&& ~~~(BitVec.twoPow 16 node.toNat) == 0
    let c : Circuit := { running := !alone, launches := c.launches + 1, west := b.west, start := s.now, cr := cr, tmo := tmoSnp s
                         relaunch := false }
    (if alone then s else snoopOn s upper none h k b, some c)
  | .waits t _ => (if t.ctrlOut && !s.ctrlOut then t else s, none)
  | .stalled _ => (s, none)

end Sys2Proof.Machine
end

