-- ==== Sys2Proof/Machine/Ddr.lean ====
section
/-! DEFINITION. Home DDR5: local addresses to channels (R386), lines with their poison marks (R389), retired channels
    (R409). -/

namespace Sys2Proof.Machine

/-- The channel of a local address (R386). -/
def ddrChan (s : State) (la : Nat) : BitVec 3 :=
  let a : BitVec 40 := BitVec.ofNat 40 la
  if s.ddrFour then
    let c : BitVec 2 := a.extractLsb' 10 2 ^^^ a.extractLsb' 12 2 ^^^ a.extractLsb' 14 2
    if s.ddrHigh then c.setWidth 3 + 4 else c.setWidth 3
  else a.extractLsb' 10 3 ^^^ a.extractLsb' 13 3 ^^^ a.extractLsb' 16 3
/-- The channel line address of a local address (R386). -/
def ddrCa (s : State) (la : Nat) : Nat :=
  if s.ddrFour then la / 2 ^ 12 * 8 + la / 128 % 8 else la / 2 ^ 13 * 8 + la / 128 % 8
/-- A channel is retired (R409). -/
def ddrRetired (s : State) (c : BitVec 3) : Bool := s.ddrRet.getLsbD c.toNat
/-- The poison mark that a run gives line n: the last run that covers it (R310, R574). -/
def runMark (s : State) (n : Nat) : Bool :=
  s.mem.psnRuns.foldl (fun v r =>
    if r.lo ≤ n ∧ n < r.hi ∧ (r.chan = none ∨ r.chan = some (ddrChan s (128 * n))) then r.mark else v) false
/-- The poison mark of line n (R389). -/
def lineMark (s : State) (n : Nat) : Bool :=
  match s.mem.ddrPsn.find? fun e => e.1 == n with
  | some e => e.2
  | none => runMark s n
/-- The mark of line n written. -/
def putMark (s : State) (n : Nat) (v : Bool) : State :=
  let t := if v = runMark s n then tdel n s.mem.ddrPsn else tins n v (tdel n s.mem.ddrPsn)
  { s with mem := { s.mem with ddrPsn := t } }
/-- The lines of a run all written with or without the mark. -/
def markRun (s : State) (r : PsnRun) : State :=
  { s with mem := { s.mem with
    psnRuns := s.mem.psnRuns ++ [r]
    ddrPsn := s.mem.ddrPsn.filter fun e =>
      !(decide (r.lo ≤ e.1 ∧ e.1 < r.hi) && (r.chan == none || r.chan == some (ddrChan s (128 * e.1)))) } }
/-- The line at a local address, with the mark of R389 on every chunk. -/
def ddrLine (s : State) (la : Nat) : Line :=
  { bytes := BitVec.ofNat 1024 (natOfBytes (mread s.mem.ddr (la / 128 * 128) 128))
    psn := if lineMark s (la / 128) then 0xF else 0 }
/-- The bank of a channel line address: bank group, bank and chip select of R387, numbered from 0. -/
def ddrBank (s : State) (n : Nat) (ca : Nat) : Nat :=
  let x := chanSt s n
  let cs := x.ranks.toNat * x.dimms.toNat
  ca / (if x.x8 then 64 else 128) % (32 * max 1 cs)
/-- An access activates its bank (R394). Log entry 45. -/
def activate (s : State) (n : Nat) (la : Nat) : State :=
  let x := chanSt s n
  let b := ddrBank s n (ddrCa s la)
  count (putChan s n { x with raa := tset 0 x.raa b (tget 0 x.raa b + 1) }) (evDdr 2 (BitVec.ofNat 3 n))
/-- The reads of a line that wait in its channel keep the value that they have entered before (R392). -/
def keepOld (s : State) (la : Nat) : State :=
  { s with ddrq := s.ddrq.map fun r =>
    if r.la / 128 = la / 128 ∧ r.old = none then { r with old := some (ddrLine s la) } else r }
/-- A write of a line (R389, R409): a line with any poisoned chunk carries the mark as a whole; a write to a retired
    channel is discarded. -/
def ddrWrite (s : State) (la : Nat) (d : Line) : State :=
  let c := ddrChan s la
  if ddrRetired s c then trouble s (blkDdr c) kDdrDdrRetiredAcc
  else
    let s := activate s c.toNat la
    -- a patrol-scrub burst is in flight from its calendar tick on (R397)
    let s := if tget 0 s.pwr.scrubAt c.toNat ≤ s.now.toNat then
        putChan s c.toNat { chanSt s c.toNat with sinceScrub := (chanSt s c.toNat).sinceScrub ++ [la / 128] }
      else s
    let s := keepOld s la
    let s := { s with mem := { s.mem with ddr := mwrite s.mem.ddr (la / 128 * 128) (bytesOf d.bytes 128) } }
    count (putMark s (la / 128) (d.psn != 0)) (evDdr 1 c)
/-- The local address of a line at its home, if this controller is the home and the capacity holds it. -/
def homeAddr (s : State) (l : LineAddr) : Option Nat :=
  match homeOf s l with
  | some e => if e.home = s.net.ctrlId ∧ localAddr e l < s.capacity then some (localAddr e l) else none
  | none => none
/-- A line written to home memory. -/
def homeWrite (s : State) (l : LineAddr) (d : Line) : State :=
  match homeAddr s l with
  | some la => ddrWrite s la d
  | none => s
/-- The line of home memory. -/
def homeLine (s : State) (l : LineAddr) : Line :=
  match homeAddr s l with
  | some la => if ddrRetired s (ddrChan s la) then ⟨0, 0xF⟩ else ddrLine s la
  | none => line0

end Sys2Proof.Machine
end

