-- ==== Sys2Proof/Machine/Home.lean ====
section
/-! DEFINITION. The home: arrival of requests (R21, R144, R146, R147), the start of a transaction (R148-R150, R189), its
    response (R161-R163, R190, R225), writebacks (R162, R197), the far directory (R186-R200), and the ends that lose a
    snoop (R166, R205). -/

namespace Sys2Proof.Machine

/-- The entries of a home slice: number, far or not, entry. -/
def homeEntries (s : State) (sl : SliceId) : List (Bool × Nat × HomeEntry) :=
  ((homeqOf s sl).map fun e => (false, e.1, e.2)) ++ ((farqOf s sl).map fun e => (true, e.1, e.2))
/-- Directory evictions of a slice that run. -/
def putEvict (s : State) (sl : SliceId) (i : Nat) (e : Option HomeEntry) : State :=
  { s with home := { s.home with evict := tset none s.home.evict (sl.toNat * 4 + i) e } }

/-- The header of an answer to a home entry: HTAG and HKIND of the entry (R139). -/
def homeHdr (s : State) (sl : SliceId) (far : Bool) (i : Nat) (e : HomeEntry) (dst : CtrlId) : RingHdr :=
  { src := s.net.ctrlId, dst := dst, epoch := myEpoch s, txn := e.hdr.txn, htag := sl ++ BitVec.ofNat 6 i
    hkind := if e.evict then 2 else if far then 1 else 0, laddr := e.hdr.laddr }

/-- A credit that a slow node is to get is withheld while the node would hold more than 2 (R369): its share, what its
    entries occupy, and what is withheld already. -/
def withhold (s : State) (node : NodeId) (k share occ : Nat) : Option State :=
  let w := tget 0 s.home.withheld k
  if s.slow.getLsbD node.toNat ∧ 2 ≤ share - occ - (w + 1) then
    some { s with home := { s.home with withheld := tset 0 s.home.withheld k (w + 1) } }
  else none

/-- The REQ credits of a member node for each slice of this home (R135). -/
def nodeShare (s : State) (n : NodeId) : Nat :=
  let m := memberCount s.net.lower.cur.members
  64 / m + (if n = myNode s then 64 % m else 0)
/-- The far credits of a gate for each slice of this home (R184). -/
def gateShare (s : State) (g : NodeId) : Nat :=
  let gs := s.net.lower.cur.gates
  let k := max 1 gs.length
  32 / k + (if gs.all fun y => decide (g ≤ y.1) then 32 % k else 0)
/-- Requests for a home slice that a node's, or a gate's, credits stand for: in an entry, or waiting for one. -/
def creditsOut (s : State) (own : SliceId) (far : Bool) (n : NodeId) : Nat :=
  let holder (far : Bool) (gate : NodeId) (h : RingHdr) : Bool :=
    sliceOf h.laddr == own && (if far then gate else nodeOf h.src) == n
  let q := if far then s.home.farq else s.home.homeq
  (q.filter fun e => e.2.any fun e => holder far e.gate e.hdr && !(e.state == .runA && e.sent)).length
    + (s.home.arrWait.filter fun w => w.far == far && holder far w.gate w.hdr).length
/-- Credits for a closed entry return to the node or gate that spent them (R134, R151, R184, R369). A return is withheld for good
    while more of its credits are out than its share of a new division allows (R135). Withheld credits of a slow node are indexed
    by kind (256 for far), node and slice. -/
def creditBack (s : State) (far : Bool) (e : HomeEntry) : State :=
  let h (dst : CtrlId) : RingHdr :=
    { src := s.net.ctrlId, dst := dst, epoch := myEpoch s, txn := 0, htag := 0, hkind := 0, laddr := 0 }
  let sl := sliceOf e.hdr.laddr
  let n := if far then e.gate else nodeOf e.hdr.src
  let share := if far then gateShare s n else nodeShare s n
  let occ := creditsOut s sl far n
  if share ≤ occ then s
  else
    match withhold s n ((if far then 256 else 0) + n.toNat * 16 + sl.toNat) share occ with
    | some s => s
    | none =>
      if far then send s (.farAck (h (ctrlAt s false n)) ⟨true, false, false, cr0, 0, sl, 1⟩)
      else send s (.credit (h e.hdr.src) sl 1 0)

/-- Withheld credits returned when the node is slow no longer (R369). -/
def returnWithheld (s : State) : State :=
  let h (dst : CtrlId) : RingHdr :=
    { src := s.net.ctrlId, dst := dst, epoch := myEpoch s, txn := 0, htag := 0, hkind := 0, laddr := 0 }
  s.home.withheld.foldl (fun s e =>
    let n : NodeId := BitVec.ofNat 4 (e.1 / 16)
    let sl : SliceId := BitVec.ofNat 4 e.1
    if s.slow.getLsbD n.toNat then s
    else
      let s := { s with home := { s.home with withheld := tset 0 s.home.withheld e.1 0 } }
      (List.range e.2).foldl (fun s _ =>
        if 256 ≤ e.1 then send s (.farAck (h (ctrlAt s false n)) ⟨true, false, false, cr0, 0, sl, 1⟩)
        else send s (.credit (h (ctrlAt s false n)) sl 1 0)) s) s

/-! Arrival (R21, R24, R25, R144, R146). -/

/-- The ERR status that answers a request at arrival, if one does, with the trouble kind counted (R19, R21, R24, R25,
    R144, R213). PRIVATE goes before UNCACHED: DESIGN CHOICE, log entry 140. -/
def arrivalErr (s : State) (op : ReqOp) (h : RingHdr) (b : ReqBody) : Option (BitVec 8 × Option Nat) :=
  match homeOf s h.laddr with
  | none => some (0x01, some kSlcMisdirected)
  | some he =>
    if he.home ≠ s.net.ctrlId then some (0x01, some kSlcMisdirected)
    else if he.priv ∧ ringOf h.src ≠ myRing s then some (0x02, none)
    else if he.uncached ∧ op ≠ .ncrd ∧ op ≠ .ncwr ∧ op ≠ .atom then some (0x03, none)
    else if (op = .ncrd ∨ op = .ncwr) ∧ ¬ he.uncached then some (0x05, none)
    else if (op = .wr ∨ op = .ncrd ∨ op = .ncwr) ∧ b.bmask = 0 then some (0x05, none)
    else if op = .atom ∧ (¬ atomLegal b.aop b.aw ∨ b.ofs.toNat % awBytes b.aw ≠ 0) then some (0x05, none)
    else if s.capacity ≤ localAddr he h.laddr then some (0x06, some kSlcUnmappedAddr)
    else none

/-- Recalls of a transaction that has none. -/
def rcl0 : Recalls := ⟨[], cr0, none, [], false, 0, 0, 0⟩
/-- The entry of a request that has arrived. -/
def arrivedEntry (serial : Nat) (w : HomeWait) : HomeEntry :=
  { serial := serial, far := w.far, evict := false, op := w.op, hdr := w.hdr, body := w.body, gate := w.gate, state := .waiting
    needWay := false, circ := circ0, rcl := rcl0, ddrAsked := false, ddr := none, toHome := none, held := [], fdBefore := fd0
    cont := false, gackDue := false, penDue := none, atomGot := 0, atomLine := line0, way := 0, wrPend := 0, sent := false
    fdWay := none }
/-- A free entry of the queue that a request goes to (R84, R184). -/
def homeRoom (s : State) (sl : SliceId) (far : Bool) : Option Nat :=
  firstFree ((if far then farqOf s sl else homeqOf s sl).map Prod.fst) (if far then 32 else 64)
/-- A request takes entry i of its home slice, or is answered with an error (R146); the entries of the line that run learn that
    another waits (R217). -/
def homeTake (s : State) (i : Nat) (w : HomeWait) : State :=
  let h := w.hdr
  let sl := (place s h.laddr).sl
  let s := fresh s
  let e := arrivedEntry s.serial w
  match arrivalErr s w.op h w.body with
  | some (st, k) =>
    let s := match k with
      | some k => trouble s (blkSlc sl) k
      | none => s
    let s := send s (.err { homeHdr s sl w.far 0 e h.src with htag := h.htag, hkind := h.hkind } st false)
    creditBack s w.far e
  | none =>
    let s := (homeEntries s sl).foldl (fun s x =>
      if x.2.2.hdr.laddr == h.laddr && x.2.2.op == .atom && x.2.2.state != .waiting && !x.2.2.sent then
        putHome s sl x.1 x.2.1 (some { x.2.2 with cont := true }) else s) s
    putHome s sl w.far i (some e)
/-- Where a request may be taken now: not at a set in motion (R33), and behind an earlier one of its line (R146) only after it. -/
def homeGo (s : State) (w : HomeWait) : Option Nat :=
  let pl := place s w.hdr.laddr
  if pl.held || s.home.arrWait.any (fun x => x.hdr.laddr == w.hdr.laddr) then none else homeRoom s pl.sl w.far
/-- A request arrives at its home slice (R146). With no entry free it waits and its credit stays out (R32, R84, R85). -/
def homeArrive (s : State) (far : Bool) (gate : NodeId) (op : ReqOp) (h : RingHdr) (b : ReqBody) : State :=
  let w : HomeWait := ⟨far, gate, op, h, b⟩
  match homeGo s w with
  | some i => homeTake s i w
  | none =>
    let pl := place s h.laddr
    let s := if (homeRoom s pl.sl far).isNone then count s (evSlc 9 pl.sl) else s
    { s with home := { s.home with arrWait := s.home.arrWait ++ [w] } }
/-- Requests that waited for an entry take one, in the order of their arrival. -/
def homeAdmit (s : State) : State :=
  s.home.arrWait.foldl (fun s w =>
    match homeGo s w with
    | some i => homeTake s i w
    | none => { s with home := { s.home with arrWait := s.home.arrWait ++ [w] } })
    { s with home := { s.home with arrWait := [] } }
/-- The credit of a closed entry is due for return (R151), and the entry is free for a request that waits. -/
def returnCredit (s : State) (far : Bool) (e : HomeEntry) : State := homeAdmit (creditBack s far e)

/-! The far directory (R186-R192, R198). -/

/-- The ways of the directory that a line uses (R187). -/
def fdWays (s : State) (pl : Place) : List Nat :=
  if pl.folded then (List.range 8).map (· + 8) else if carries s pl.sl pl.set then List.range 8 else List.range 16
/-- The way of a line's entry. -/
def fdFind (s : State) (pl : Place) (l : LineAddr) : Option Nat :=
  (fdWays s pl).find? fun w =>
    let e := fdAt s pl.sl (fdSetOf l) w
    e.valid && e.ftag == fdTagOf l
/-- The pointers of an entry that are valid: number and ring. -/
def fdPtrs (e : FdEntry) : List (Nat × BitVec 8) :=
  ([(0, e.ptr0), (1, e.ptr1), (2, e.ptr2), (3, e.ptr3)]).filter fun p => e.pv.getLsbD p.1
/-- The line that a directory entry names (R186). -/
def fdLine (sl : SliceId) (set : BitVec 12) (e : FdEntry) : LineAddr :=
  let ln : BitVec 5 := e.ftag.extractLsb' 0 5
  let mid : BitVec 12 := set ^^^ (ln.setWidth 12 <<< 7)
  let hi : Addr := (e.ftag.extractLsb' 5 20).setWidth 48 <<< 28 ||| mid.setWidth 48 <<< 16
  lineOf (hi ||| (sl ^^^ prism hi).setWidth 48 <<< 12 ||| ln.setWidth 48 <<< 7)
/-- The entry as the machine treats it (R192, R568): an uncorrectable entry, and after a cold retire a folded line
    without an entry, count as broadcast with EXR = 1. -/
def fdSeen (s : State) (pl : Place) (l : LineAddr) : FdEntry :=
  let all : FdEntry := { fd0 with valid := true, ftag := fdTagOf l, bcast := true, exr := true }
  match fdFind s pl l with
  | some w => fdAt s pl.sl (fdSetOf l) w
  | none => if s.home.fdOwed.contains l || (pl.folded && (sliceSt s pl.sl).coldFold) then all else fd0
/-- Ways that running entries have reserved for their grant. -/
def fdReserved (s : State) (sl : SliceId) (set : BitVec 12) : List Nat :=
  (homeEntries s sl).filterMap fun x =>
    if fdSetOf x.2.2.hdr.laddr == set then x.2.2.fdWay.map (·.toNat) else none
/-- A free way of the line's set (R198). -/
def fdFree (s : State) (pl : Place) (l : LineAddr) : Option Nat :=
  (fdWays s pl).find? fun w =>
    !(fdAt s pl.sl (fdSetOf l) w).valid && !(fdReserved s pl.sl (fdSetOf l)).contains w
/-- No entry of the home's queues is open on the line, and no directory eviction runs on it (R198). -/
def fdIdle (s : State) (sl : SliceId) (v : LineAddr) : Bool :=
  !((homeEntries s sl).any fun x => x.2.2.hdr.laddr == v) && !((evictOf s sl).any fun x => x.2.hdr.laddr == v)
/-- Ways eligible as victims (R198). -/
def fdVictims (s : State) (pl : Place) (l : LineAddr) : List Nat :=
  (fdWays s pl).filter fun w =>
    (fdAt s pl.sl (fdSetOf l) w).valid && fdIdle s pl.sl (fdLine pl.own (fdSetOf l) (fdAt s pl.sl (fdSetOf l) w))

/-- The recalls of R189: the gates to ask and whether the recall is a broadcast. -/
def recallsOf (s : State) (op : ReqOp) (src : CtrlId) (fd : FdEntry) : List (BitVec 8 × Bool) × Bool :=
  let q := ringOf src
  let away := q != myRing s
  match op with
  | .sh | .ni =>
    if !fd.valid || !fd.exr then ([], false)
    else if fd.bcast then ([], true)
    else ((fdPtrs fd).filterMap fun p => if p.1 = fd.ownp.toNat then some (p.2, false) else none, false)
  | .ex | .upg | .claim =>
    if !fd.valid then (if op = .upg ∧ away then [(q, true)] else [], false)
    else if fd.bcast then ([], true)
    else
      let named := (fdPtrs fd).map fun p => (p.2, op == .upg && p.2 == q)
      (if op = .upg ∧ away ∧ ¬ named.any (fun x => x.1 == q) then named ++ [(q, true)] else named, false)
  | .wr | .atom =>
    if !fd.valid then ([], false) else if fd.bcast then ([], true) else ((fdPtrs fd).map fun p => (p.2, false), false)
  | .ncrd | .ncwr => ([], false)

/-- An entry with ring q added (R189): a fifth ring makes it broadcast. -/
def fdAdd (fd : FdEntry) (q : BitVec 8) : FdEntry × Bool :=
  if fd.bcast || (fdPtrs fd).any (fun p => p.2 == q) then (fd, false)
  else
    match [0, 1, 2, 3].find? fun k => !fd.pv.getLsbD k with
    | some 0 => ({ fd with pv := setBit fd.pv 0 true, ptr0 := q }, false)
    | some 1 => ({ fd with pv := setBit fd.pv 1 true, ptr1 := q }, false)
    | some 2 => ({ fd with pv := setBit fd.pv 2 true, ptr2 := q }, false)
    | some 3 => ({ fd with pv := setBit fd.pv 3 true, ptr3 := q }, false)
    | _ => ({ fd with bcast := true, pv := 0 }, true)
/-- The pointer that names ring q. -/
def fdPtrOf (fd : FdEntry) (q : BitVec 8) : BitVec 2 :=
  match (fdPtrs fd).find? fun p => p.2 == q with
  | some p => BitVec.ofNat 2 p.1
  | none => 0
/-- The pointers of rings whose recall found nothing cleared; an empty entry is freed (R189). -/
def fdClear (fd : FdEntry) (empty : List (BitVec 8)) : FdEntry :=
  let pv := (fdPtrs fd).foldl (fun pv p => if empty.contains p.2 then setBit pv p.1 false else pv) fd.pv
  if pv = 0 ∧ ¬ fd.bcast then fd0 else { fd with pv := pv }

/-- The entry after the grant (R189), and whether a fifth ring made it broadcast. -/
def fdAfter (s : State) (e : HomeEntry) (gst : LState) : FdEntry × Bool :=
  let q := ringOf e.hdr.src
  let away := q != myRing s
  let fd := e.fdBefore
  let only : FdEntry := { fd0 with valid := true, ftag := fdTagOf e.hdr.laddr, exr := true, pv := 1, ptr0 := q }
  match e.op with
  | .sh | .ni =>
    let add := away && e.op == .sh
    if !fd.valid then
      if add then ({ only with exr := gst == .E }, false) else (fd, false)
    else
      let fd := if fd.exr then { fdClear { fd with exr := e.rcl.cr.dsup } e.rcl.empty with valid := true } else fd
      let fd := if fd.pv = 0 ∧ ¬ fd.bcast ∧ ¬ add then fd0 else fd
      if add then
        let (fd, o) := fdAdd { fd with ftag := fdTagOf e.hdr.laddr } q
        (if gst == .E then { fd with exr := true, ownp := fdPtrOf fd q } else fd, o)
      else (fd, false)
  | .ex | .upg | .claim => (if away then only else fd0, false)
  | .wr | .atom => (fd0, false)
  | .ncrd | .ncwr => (fd, false)

/-- The directory entry of a line written (R189). -/
def writeFd (s : State) (pl : Place) (l : LineAddr) (way : Option Nat) (fd : FdEntry) : State :=
  match fdFind s pl l, way with
  | some w, _ => putFd s pl.sl (fdSetOf l) w fd
  | none, some w => if fd.valid then putFd s pl.sl (fdSetOf l) w fd else s
  | none, none => s

/-- A request that needs a way of the directory and finds no entry (R198). -/
def needsFdWay (s : State) (e : HomeEntry) (pl : Place) : Bool :=
  let he := (homeOf s e.hdr.laddr).getD hmap0
  e.far && !he.priv && ringOf e.hdr.src != myRing s && (e.op == .sh || e.op == .ex || e.op == .upg || e.op == .claim)
    && (fdFind s pl e.hdr.laddr).isNone

/-! Start (R148-R150). -/

/-- The line has a transaction that bars another from starting (R146, R185, R199, R223). -/
def lineRunning (s : State) (sl : SliceId) (l : LineAddr) : Bool :=
  (homeEntries s sl).any (fun x => x.2.2.hdr.laddr == l && x.2.2.state != .waiting && !(x.2.2.state == .runA && x.2.2.sent))
    || (evictOf s sl).any fun x => x.2.hdr.laddr == l
/-- The oldest entry that heads its line's order and whose line has no transaction running (R148). An entry that needs a
    directory way passes only when one is free (R200). -/
def startable (s : State) (sl : SliceId) : Option (Bool × Nat × HomeEntry) :=
  let es := homeEntries s sl
  (es.filter fun x =>
    let e := x.2.2
    e.state == .waiting && !lineRunning s sl e.hdr.laddr
      && !es.any (fun y => y.2.2.hdr.laddr == e.hdr.laddr && y.2.2.state == .waiting && y.2.2.serial < e.serial)
      && !(e.needWay && (fdFree s (place s e.hdr.laddr) e.hdr.laddr).isNone)).foldl (fun o x =>
    match o with
    | some y => if x.2.2.serial < (y : Bool × Nat × HomeEntry).2.2.serial then some x else o
    | none => some x) none

/-- The snoop of a request, and DDH (R150). -/
def snoopFor (op : ReqOp) (b : ReqBody) : SnpKind × Bool :=
  match op with
  | .sh | .ni | .ncrd | .ncwr => (.sh, false)
  | .ex | .upg => (.ex, false)
  | .claim => (.inv, false)
  | .wr => if b.bmask = BitVec.allOnes 128 then (.inv, false) else (.ex, true)
  | .atom => (.ex, true)
/-- Requests that may take data from the home (R149). -/
def mayTakeData (op : ReqOp) (b : ReqBody) : Bool :=
  match op with
  | .claim => false
  | .wr => b.bmask != BitVec.allOnes 128
  | _ => true

/-- A DDR5 read asked of the home's channel (R149); a retired channel answers at once with poison (R409). -/
def askDdr (s : State) (sl : SliceId) (far : Bool) (i : Nat) (e : HomeEntry) : State × HomeEntry :=
  match homeAddr s e.hdr.laddr with
  | none => (s, { e with ddrAsked := true, ddr := some line0 })
  | some la =>
    let c := ddrChan s la
    if ddrRetired s c then
      (trouble s (blkDdr c) kDdrDdrRetiredAcc, { e with ddrAsked := true, ddr := some ⟨0, 0xF⟩ })
    else
      let s := count { s with ddrq := s.ddrq ++ [⟨c, la, sl, far, BitVec.ofNat 6 i, e.serial, e.body.beam, e.body.part, none⟩] } (evDdr 0 c)
      let s := if e.body.beam then count s (evDdr 4 c) else s
      let s := activate s c.toNat la
      (s, { e with ddrAsked := true })

/-- The FAR_RECALL messages of a transaction sent; the recall timer starts (R189, R194, R204). A named recall goes to the gate of
    the ring it names, a broadcast to every bridge position of this ring with UPG = 0 (DESIGN CHOICE, log 115). -/
def sendRecalls (s : State) (h : RingHdr) (k : SnpKind) (ddh : Bool) (rqid : CtrlId) (rqtxn : BitVec 12) (crit : BitVec 2)
    (r : List (BitVec 8 × Bool) × Bool) : State × Recalls :=
  let gs : List (CtrlId × Bool) :=
    if r.2 then s.net.lower.cur.gates.map fun g => (g.2, false)
    else r.1.map fun x => (gateOf s x.1, x.2)
  let s := gs.foldl (fun s x => send s (.farRecall { h with dst := x.1 } ⟨k, ddh, r.2, x.2, rqid, rqtxn, crit⟩)) s
  (s, ⟨gs.map Prod.fst, cr0, none, [], false, 0, s.now, tmoRcl s⟩)

/-! Directory evictions (R192, R198-R200): what starts them. -/

/-- The entry of a way as an eviction takes it: an uncorrectable one counts as broadcast mode with EXR = 1 (R192). -/
def fdEff (e : FdEntry) : FdEntry :=
  if e.err = .uncorrectable then { fd0 with valid := true, ftag := e.ftag, bcast := true, exr := true } else e
/-- The home evicts the entry of a way, where an eviction slot is free and nothing is open on its line (R198, R199); `own` is the
    slice whose line it is. What it tracks is the line that its FTAG names, also where the entry is uncorrectable (R192; DESIGN CHOICE,
    log 114). -/
def startEvict (s : State) (own sl : SliceId) (set : BitVec 12) (w : Nat) : Option State :=
  let e := fdAt s sl set w
  let fd := fdEff e
  let l := fdLine own set fd
  match firstFree ((evictOf s sl).map Prod.fst) 4 with
  | none => none
  | some k =>
    if !fdIdle s sl l then none
    else
      let s := fresh s
      let h : RingHdr := { src := s.net.ctrlId, dst := s.net.ctrlId, epoch := myEpoch s, txn := 0, htag := 0, hkind := 0, laddr := l }
      let ev : HomeEntry :=
        { arrivedEntry s.serial ⟨false, 0, .ex, h, ⟨0, 0, false, 0, line0, 0, 0, 0, 0, 0⟩⟩ with
          evict := true, state := .hqF, fdBefore := fd, fdWay := some (BitVec.ofNat 4 w) }
      let s := if e.err = .uncorrectable then
          raiseErr (trouble (putFd s sl set w fd) (blkSlc sl) kSlcFdUe) (blkSlc sl) 3
        else s
      let (s, r) := sendRecalls s (homeHdr s sl false k ev 0) .ex true s.net.ctrlId 0 0
        (if fd.bcast then ([], true) else ((fdPtrs fd).map fun p => (p.2, false), false))
      -- with no gate left to ask, the way is free at once
      let s := if r.open_.isEmpty then putFd s sl set w fd0 else putEvict s sl k (some { ev with rcl := r })
      some (trouble s (blkSlc sl) kSlcFdEvict)
/-- The directory set of a line read (R192): single-bit errors are corrected, an uncorrectable entry is evicted. The result names the
    ways whose eviction has started now. -/
def readFd (s : State) (pl : Place) (l : LineAddr) : State × List Nat :=
  (fdWays s pl).foldl (fun (r : State × List Nat) w =>
    let e := fdAt r.1 pl.sl (fdSetOf l) w
    match e.err with
    | .none => r
    | .single => (trouble (putFd r.1 pl.sl (fdSetOf l) w { e with err := .none }) (blkSlc pl.sl) kSlcFdCe, r.2)
    | .uncorrectable =>
      match startEvict r.1 pl.own pl.sl (fdSetOf l) w with
      | some s => (s, r.2 ++ [w])
      | none => r) (s, [])
/-- A way of the line's set is freed for it: a victim's eviction starts (R198, R200). -/
def evictFor (s : State) (pl : Place) (l : LineAddr) : Option State :=
  match fdVictims s pl l with
  | [] => none
  | v :: vs =>
    let w := (v :: vs).getD ((Config.freeChoice s.free).toNat % (vs.length + 1)) v
    startEvict { s with free := s.free + 1 } pl.own pl.sl (fdSetOf l) w
/-- A directory entry of the line's set is uncorrectable, and names the line (R192). -/
def fdBroken (s : State) (pl : Place) (l : LineAddr) : Bool :=
  (fdWays s pl).any fun w =>
    let e := fdAt s pl.sl (fdSetOf l) w
    e.err == .uncorrectable && e.ftag == fdTagOf l

/-- An entry that heads its line starts: it takes the far-directory entry, answers for its own cache, launches the snoop, and sends
    the recalls (R149, R189, R217, R223). Its own answer may have to wait, for R97, R159 or R51: then nothing of the start is done but
    the reading of the tags and of the directory, and it is tried again (DESIGN CHOICE, log 113). -/
def homeOpen (s : State) (sl : SliceId) (far : Bool) (i : Nat) (e : HomeEntry) (pl : Place) (fdWay : Option (BitVec 4)) : State :=
  let l := e.hdr.laddr
  let e := { e with fdBefore := fdSeen s pl l, fdWay := fdWay }
  if e.op = .atom ∧ stateHere s pl = .A then
    let w := (findWay s pl).getD 0
    let s := putHome s sl far i (some { e with state := .runA, way := BitVec.ofNat 4 w })
    queueReads s pl l w (chunkOrder e.body.crit) (.home far (BitVec.ofNat 6 i) e.serial) ⟨e.body.part, false⟩
  else
    let (k, ddh) := snoopFor e.op e.body
    let h := homeHdr s sl far i e s.net.ctrlId
    let b : SnpBody := { rqid := e.hdr.src, rqtxn := e.hdr.txn, crit := e.body.crit, ddh := ddh, west := false
                         retry := false, upg := e.op == .upg, turns := 0, cr := cr0 }
    match launch s false h k b circ0 with
    | (s, none) => s
    | (s, some c) =>
      let (s, e) := if mayTakeData e.op e.body then askDdr s sl far i e else (s, e)
      let rr := recallsOf s e.op e.hdr.src e.fdBefore
      let (s, r) := if rr.1.isEmpty && !rr.2 then (s, e.rcl)
        else sendRecalls s h k ddh e.hdr.src e.hdr.txn e.body.crit rr
      putHome s sl far i (some { e with state := if r.open_.isEmpty then .hqS else .hqF, circ := c, rcl := r })

/-- The oldest ready entry of a home slice starts its transaction (R148-R150, R189, R217, R223). -/
def homeStart (s : State) (sl : SliceId) : State :=
  match startable s sl with
  | none => s
  | some (far, i, e) =>
    let l := e.hdr.laddr
    let pl := place s l
    let he := (homeOf s l).getD hmap0
    let e : HomeEntry := { e with cont := (homeEntries s sl).any fun (x : Bool × Nat × HomeEntry) =>
      x.2.2.hdr.laddr == l && x.2.2.serial != e.serial && x.2.2.state == .waiting }
    match e.op with
    | .ncrd =>
      let (s, e) := askDdr s sl far i { e with state := .hqS }
      putHome s sl far i (some e)
    | .ncwr =>
      let old := homeLine s l
      let s := homeWrite s l (mergeLine old e.body.data e.body.bmask)
      let s := send s (.wrAck (homeHdr s sl far i e e.hdr.src))
      returnCredit (putHome s sl far i none) far e
    | op =>
      if op = .atom ∧ he.uncached then
        let (s, e) := askDdr s sl far i { e with state := .hqS }
        putHome s sl far i (some e)
      else
        let (s, _) := readFd (readStages s pl l) pl l
        -- the line's own entry was uncorrectable: its eviction comes first (R192)
        if fdBroken s pl l || (evictOf s sl).any (fun x => x.2.hdr.laddr == l) then s
        else if !needsFdWay s e pl then homeOpen s sl far i e pl none
        else
          match fdFree s pl l with
          | some w => homeOpen s sl far i e pl (some (BitVec.ofNat 4 w))
          | none =>
            -- R200: the eviction that frees a way starts at once; the request waits
            let wait (s : State) : State := putHome s sl far i (some { e with needWay := true })
            match evictFor s pl l with
            | some s => wait s
            | none => if e.needWay then s else trouble (wait s) (blkSlc sl) kSlcFdStall

/-! Response (R161, R163, R190, R217, R225). -/

/-- The combined response of the transaction (R190): circuit and recalls ORed, SHR forced for rings not recalled. -/
def combinedCr (s : State) (e : HomeEntry) : CR :=
  let c := e.circ.cr.or e.rcl.cr
  let fd := e.fdBefore
  let rr := recallsOf s e.op e.hdr.src fd
  let missed := if !fd.valid then false
    else if fd.bcast then !rr.2
    else (fdPtrs fd).any fun p => !rr.1.any (fun x => x.1 == p.2)
  { c with shr := c.shr || missed }
/-- Whether a combined response takes its supplier from the second of two that are ORed (R153, R190). -/
def takesSupplier (a b : CR) : Bool := !a.dsup && (b.dsup || b.pen)
/-- The controller that a combined response names as its supplier (R190): SUPRING is the home's ring where the supplier answered the
    home's own circuit. A supplier that only has its writeback in flight is named in the same way (DEDUCED, log 116). -/
def supplierOf (s : State) (e : HomeEntry) (c : CR) : CtrlId :=
  ctrlOf (if takesSupplier e.circ.cr e.rcl.cr then e.rcl.supring.getD (myRing s) else myRing s) c.supnode

/-- The granted state and where the data comes from (R161): DSRC as R143 codes it. -/
def respond (op : ReqOp) (c : CR) : LState × BitVec 2 :=
  let ex : LState × BitVec 2 := if c.dsup then (.M, 2) else (.E, 1)
  match op with
  | .sh => if c.dsup then (.S, 2) else if c.shr then (.S, 1) else (.E, 1)
  | .ni => (.I, if c.dsup then 2 else 1)
  | .ex => ex
  | .upg => if c.upgv then (if c.upgo || c.dsup then .M else .E, 0) else ex
  | .claim => (.M, 0)
  | _ => (.I, 1)

/-- A response that passes ownership (R162): a PEN supplier's writeback is then discarded. -/
def passesOwnership (op : ReqOp) (g : LState) : Bool :=
  g == .E || g == .M || op == .claim || op == .wr || op == .atom

/-- WB_ACK, and the WBK credit that comes back with it (R134, R162). -/
def answerWb (s : State) (w : HeldWb) (discard : Bool) : State :=
  let h : RingHdr := { src := s.net.ctrlId, dst := w.hdr.src, epoch := myEpoch s, txn := w.hdr.txn, htag := w.hdr.htag
                       hkind := w.hdr.hkind, laddr := w.hdr.laddr }
  let s := send s (.wbAck h discard)
  let hop : CtrlId := if ringOf w.hdr.src = myRing s then w.hdr.src
    else gateCtrl s (ringOf w.hdr.src)
  send { s with home := { s.home with wbkUsed := s.home.wbkUsed - 1 } }
    (.credit { h with dst := hop, txn := 0 } 0 0 1)
/-- A writeback written to home memory and acknowledged, or discarded (R162). The home keeps in mind that it has handled it: until
    WB_ACK arrives, the writer's buffer still answers snoops with PEN (R151). -/
def ackWb (s : State) (w : HeldWb) (discard : Bool) : State :=
  let s := answerWb (if discard then s else homeWrite s w.hdr.laddr w.body.line) w discard
  { s with home := { s.home with wbAcked := (s.home.wbAcked.erase (w.hdr.laddr, w.hdr.src)) ++ [(w.hdr.laddr, w.hdr.src)] } }
/-- The writeback of a PEN supplier is still to come (R151): it has neither been held for this transaction nor handled before. -/
def owesWb (s : State) (e : HomeEntry) (sup : CtrlId) : Bool :=
  !(e.held.any fun w => w.hdr.src == sup) && !s.home.wbAcked.contains (e.hdr.laddr, sup)
/-- A transaction's circuits have shown which buffers of the line there are: a writer that did not answer with PEN has had its WB_ACK,
    and a requester that is granted the line may write it back anew. -/
def wbSeen (s : State) (e : HomeEntry) (c : CR) (sup : CtrlId) (granted : Bool) : State :=
  { s with home := { s.home with wbAcked := s.home.wbAcked.filter fun x =>
      x.1 != e.hdr.laddr || (c.pen && x.2 == sup && !(granted && x.2 == e.hdr.src)) } }
/-- The staged home-map entry that will make this controller the home of a line (R310). -/
def stagedHere (s : State) (l : LineAddr) : Option HomeMapEntry :=
  (s.home.mapStaged.find? fun e =>
    e.2.valid && e.2.home == s.net.ctrlId && decide (e.2.base ≤ granuleOf l) && decide (granuleOf l ≤ e.2.last)).map Prod.snd

/-- The entry closes when its response is sent, GACK has come and the writeback of a PEN supplier is handled (R151). -/
def tryClose (s : State) (sl : SliceId) (far : Bool) (i : Nat) : State :=
  match homeAt s sl far i with
  | none => s
  | some e =>
    if e.sent ∧ ¬ e.gackDue ∧ e.penDue = none then
      if e.wrPend = 0 then returnCredit (putHome s sl far i none) far e
      else if e.state = .runA then s
      else returnCredit (putHome s sl far i (some { e with state := .runA })) far e
    else s

/-- Held writebacks released by the response (R162, R197): the supplier's is discarded where ownership passes. -/
def releaseHeld (s : State) (e : HomeEntry) (sup : CtrlId) (pen passes : Bool) : State :=
  e.held.foldl (fun s w => ackWb s w (pen && passes && w.hdr.src == sup)) s

/-- The far atomic performed on a line in hand (R223, R224, R225, R227): installed in A where a way of partition 0 is
    eligible, else written to home memory. -/
def atomHome (s : State) (sl : SliceId) (far : Bool) (i : Nat) (e : HomeEntry) (d : Line) (fromSup : Bool) : State :=
  let l := e.hdr.laddr
  let pl := place s l
  let he := (homeOf s l).getD hmap0
  let inA := e.state = .runA
  let h := homeHdr s sl far i e e.hdr.src
  let g (psn : Bool) : GrantBody := ⟨.I, 1, 0, psn, true, e.cont⟩
  let respondWith (s : State) (psn : Bool) (srck : BitVec 2) (d : Line) : State :=
    send (send s (.grant h (g psn))) (.data h ⟨e.body.crit, srck, false, false, d⟩)
  if d.psn ≠ 0 then
    let s := trouble s (blkSlc sl) kSlcAtomPoison
    let s := if inA then becomeX s pl l true else if fromSup then homeWrite s l { d with psn := 0xF } else s
    let s := respondWith s true (if inA then 1 else 0) { d with psn := 0xF }
    putHome s sl far i (some { e with sent := true })
  else
    let bytes := awBytes e.body.aw
    let old := lineValue d e.body.ofs.toNat bytes
    let n := putLineValue d e.body.ofs.toNat bytes (atomResult e.body.aop bytes old e.body.opA e.body.opB)
    if inA then
      let w := e.way.toNat
      let c := e.body.ofs.toNat / 32
      let mask : BitVec 128 := BitVec.ofNat 128 (2 ^ 32 - 1) <<< (32 * c)
      let s := queueWrites (useWay s pl w) pl l w n mask false (.home far (BitVec.ofNat 6 i) e.serial) ⟨e.body.part, false⟩
      putHome (respondWith s false 1 d) sl far i (some { e with sent := true, wrPend := chunksOfMask mask })
    else
      let way : Option Nat := if he.uncached then none
        else match findWay s pl with
          | some w => some w
          | none => chooseVictim s pl (wayMask s 0 pl)
      match way with
      | none =>
        let s := if he.uncached then s else trouble s (blkSlc sl) kSlcAtomNoalloc
        putHome (respondWith (homeWrite s l n) false 0 d) sl far i (some { e with sent := true })
      | some w =>
        let s := if (findWay s pl).isSome then s else allocWay s pl w 0
        let s := useWay (setLine s pl .A) pl w
        let s := queueWrites s pl l w n (BitVec.allOnes 128) false (.home far (BitVec.ofNat 6 i) e.serial) ⟨e.body.part, false⟩
        putHome (respondWith s false 1 d) sl far i (some { e with sent := true, wrPend := 0xF, way := BitVec.ofNat 4 w })

/-- The response of a transaction whose circuit and recalls have ended and whose data is at hand (R161). -/
def homeRespond (s : State) (sl : SliceId) (far : Bool) (i : Nat) (e : HomeEntry) (c : CR) : State :=
  let l := e.hdr.laddr
  let pl := place s l
  let h := homeHdr s sl far i e e.hdr.src
  let s := if c.err then trouble s (blkSlc sl) kSlcCrErr else s
  let sup := supplierOf s e c
  let base := e.toHome.getD (e.ddr.getD line0)
  let (gst, dsrc) := respond e.op c
  let passes := passesOwnership e.op gst
  let (fd, five) := fdAfter s e gst
  let s := if five then trouble s (blkSlc sl) kSlcFdOverflow else s
  let s := writeFd s pl l (e.fdWay.map (·.toNat)) fd
  let s := wbSeen s e c sup (gst != .I)
  let e := { e with penDue := if c.pen && owesWb s e sup then some sup else none, fdWay := none }
  match e.op with
  | .wr =>
    let s := homeWrite s l (mergeLine base e.body.data e.body.bmask)
    let s := releaseHeld s e sup c.pen true
    let s := send s (.wrAck h)
    tryClose (putHome s sl far i (some { e with sent := true, held := [] })) sl far i
  | .atom =>
    let s := releaseHeld s e sup c.pen true
    tryClose (atomHome s sl far i { e with held := [] } base e.toHome.isSome) sl far i
  | _ =>
    let s := releaseHeld s e sup c.pen passes
    let noack := gst == .I
    let psn := dsrc == 1 && base.psn != 0
    let s := send s (.grant h ⟨gst, dsrc, c.supnode, psn, noack, false⟩)
    let s := if dsrc = 1 then send s (.data h ⟨e.body.crit, 0, false, false, if base.psn = 0 then base else { base with psn := 0xF }⟩) else s
    tryClose (putHome s sl far i (some { e with sent := true, held := [], gackDue := !noack, state := .answered })) sl far i

/-- The transaction responds if nothing is missing (R161, R189, R197). -/
def homeTry (s : State) (sl : SliceId) (far : Bool) (i : Nat) : State :=
  match homeAt s sl far i with
  | none => s
  | some e =>
    if e.sent then s
    else match e.state with
    | .waiting | .answered => s
    | .runA =>
      if e.atomGot = 0xF then
        let s := atomHome s sl far i e e.atomLine false
        -- the response is out; the transaction stays open on the line until its write is accepted (R223)
        match homeAt s sl far i with
        | some x => if x.wrPend = 0 then tryClose s sl far i else returnCredit s far x
        | none => s
      else s
    | _ =>
      let he := (homeOf s e.hdr.laddr).getD hmap0
      if e.op = .ncrd then
        match e.ddr with
        | none => s
        | some d =>
          let h := homeHdr s sl far i e e.hdr.src
          let s := send s (.grant h ⟨.I, 1, 0, d.psn != 0, true, false⟩)
          let s := send s (.data h ⟨e.body.crit, 0, false, false, d⟩)
          tryClose (putHome s sl far i (some { e with sent := true })) sl far i
      else if e.op = .atom ∧ he.uncached then
        match e.ddr with
        | none => s
        | some d => tryClose (atomHome s sl far i e d false) sl far i
      else if e.circ.running ∨ e.circ.relaunch ∨ ¬ e.rcl.open_.isEmpty then s
      else
        let c := combinedCr s e
        let needDdr : Bool := match e.op with
          | .wr => (snoopFor e.op e.body).2 && !c.dsup && e.toHome.isNone
          | .atom => !c.dsup && e.toHome.isNone
          | op => (respond op c).2 == 1
        let needSup : Bool := (snoopFor e.op e.body).2 && c.dsup && e.toHome.isNone
        if (needDdr && e.ddr.isNone) || needSup then s else homeRespond s sl far i e c

/-- A chunk read completes; a far atomic whose last chunk it was is performed (R49, R223). -/
def hbmReadAt (s : State) (sl : SliceId) (q pos : Nat) (err : EccOutcome) (odecc : Bool) : State :=
  let t := hbmRead s sl q pos err odecc
  match (hbmq s sl q)[pos]? with
  | some o =>
    match o.dest with
    | .home far i _ => homeTry t sl far i.toNat
    | _ => t
  | none => t

/-- The oldest ready entry starts, and responds in the same pass if nothing is missing (R11, R148, R161). -/
def homeBegin (s : State) (sl : SliceId) : State :=
  match startable s sl with
  | none => s
  | some (far, i, _) => homeTry (homeStart s sl) sl far i

/-- Lines of a slice whose entry in broadcast mode waits for a way (R205): each takes its own entry, a free way, or has a victim evicted
    for it (R198). -/
def fdSettle (s : State) (sl : SliceId) : State :=
  s.home.fdOwed.foldl (fun s l =>
    let pl := place s l
    if pl.sl ≠ sl then s
    else
      let all : FdEntry := { fd0 with valid := true, ftag := fdTagOf l, bcast := true, exr := true }
      let way := match fdFind s pl l with
        | some w => some w
        | none => fdFree s pl l
      match way with
      | some w => { putFd s sl (fdSetOf l) w all with home := { s.home with fdOwed := s.home.fdOwed.erase l } }
      | none =>
        if (evictOf s sl).any (fun x => fdSetOf x.2.hdr.laddr == fdSetOf l) then s else (evictFor s pl l).getD s) s

/-- A transaction lost (R166 second expiry, R205): poison, then the held writebacks, ERR, and the entry closes. -/
def homeFail (s : State) (sl : SliceId) (far : Bool) (i : Nat) (byAck : Bool) : State :=
  match homeAt s sl far i with
  | none => s
  | some e =>
    let l := e.hdr.laddr
    let pl := place s l
    let s := homeWrite s l { homeLine s l with psn := 0xF }
    let s := e.held.foldl (fun s w => ackWb s w false) s
    let s := send s (.err (homeHdr s sl far i e e.hdr.src) 0x04 false)
    let s := putHome s sl far i none
    let s := if byAck then
        fdSettle (trouble { s with home := { s.home with fdOwed := s.home.fdOwed.erase l ++ [l] } } (blkSlc pl.sl) kSlcFarRclLost) pl.sl
      else s
    returnCredit s far e

/-! Writebacks at the home (R162, R197). -/

/-- The running transaction of a line, with where it stands. -/
def runningFor (s : State) (sl : SliceId) (l : LineAddr) : Option (Bool × Nat × HomeEntry) :=
  (homeEntries s sl).find? fun x => x.2.2.hdr.laddr == l && (x.2.2.state == .hqS || x.2.2.state == .hqF || x.2.2.state == .answered)

/-- A directory eviction ends when its recalls are answered, its supplier's data has come and its supplier's writeback (R151, R197,
    R199): the data is in home memory, held writebacks follow, the way is free. -/
def evictEnd (s : State) (sl : SliceId) (k : Nat) : State :=
  match tget none s.home.evict (sl.toNat * 4 + k) with
  | none => s
  | some e =>
    let sup := supplierOf s e e.rcl.cr
    let open_ := !e.rcl.open_.isEmpty
      || (!e.rcl.lost && ((e.rcl.cr.dsup && e.toHome.isNone) || (e.rcl.cr.pen && owesWb s e sup)))
    if open_ then s
    else
      let l := e.hdr.laddr
      let s := if e.rcl.lost then homeWrite s l { homeLine s l with psn := 0xF }
        else match e.toHome with
          | some d => homeWrite s l d
          | none => s
      let s := e.held.foldl (fun s w => ackWb s w false) (wbSeen s e e.rcl.cr sup false)
      let s := match e.fdWay with
        | some w =>
          if e.rcl.lost then
            trouble (putFd s sl (fdSetOf l) w.toNat { fd0 with valid := true, ftag := fdTagOf l, bcast := true, exr := true })
              (blkSlc sl) kSlcFarRclLost
          else putFd s sl (fdSetOf l) w.toNat fd0
        | none => s
      fdSettle (putEvict s sl k none) sl

/-- WB_DATA reaches the home: written, held, or discarded (R19, R21, R162). -/
def homeWb (s : State) (w : HeldWb) : State :=
  let l := w.hdr.laddr
  let pl := place s l
  let sl := pl.sl
  let err (s : State) (st : BitVec 8) (k : Nat) : State :=
    let h : RingHdr := { w.hdr with src := s.net.ctrlId, dst := w.hdr.src, epoch := myEpoch s }
    let s := send (trouble s (blkSlc sl) k) (.err h st true)
    send s (.credit { h with txn := 0, htag := 0, hkind := 0, laddr := 0 } 0 0 1)
  let stored (s : State) : State := { s with home := { s.home with wbkUsed := s.home.wbkUsed + 1 } }
  match (if w.body.move then stagedHere s l else none) with
  | some he =>
    -- MOVE: written where the staged entry puts it (R19, R310)
    if s.capacity ≤ localAddr he l then err s 0x06 kSlcUnmappedAddr
    else answerWb (stored (ddrWrite s (localAddr he l) w.body.line)) w false
  | none =>
  match homeOf s l with
  | none => err s 0x01 kSlcMisdirected
  | some he =>
    if he.home ≠ s.net.ctrlId then err s 0x01 kSlcMisdirected
    else if s.capacity ≤ localAddr he l then err s 0x06 kSlcUnmappedAddr
    else
      let s := stored s
      match (evictOf s sl).find? fun x => x.2.hdr.laddr == l with
      | some (k, e) => evictEnd (putEvict s sl k (some { e with held := e.held ++ [w] })) sl k
      | none =>
        match runningFor s sl l with
        | none => ackWb s w false
        | some (far, i, e) =>
          if e.sent then
            match e.penDue with
            | some sup =>
              if sup = w.hdr.src then
                let c := combinedCr s e
                let passes := passesOwnership e.op (respond e.op c).1
                tryClose (putHome (ackWb s w passes) sl far i (some { e with penDue := none })) sl far i
              else ackWb s w false
            | none => ackWb s w false
          else if e.op = .ncrd ∨ e.op = .ncwr then ackWb s w false
          else putHome s sl far i (some { e with held := e.held ++ [w] })

/-- FD_EVICTION: the home starts a directory eviction for the oldest far request that waits for a way of its set, where none was eligible
    before (R198-R200). -/
def evictStart (s : State) (sl : SliceId) : State :=
  match ((farqOf s sl).filter fun x => x.2.needWay && x.2.state == .waiting).foldl (fun o x =>
      match o with
      | some y => if x.2.serial < (y : Nat × HomeEntry).2.serial then some x else o
      | none => some x) none with
  | none => s
  | some (_, e) =>
    let pl := place s e.hdr.laddr
    let (s, ue) := readFd s pl e.hdr.laddr
    if !ue.isEmpty || (fdFree s pl e.hdr.laddr).isSome then s else (evictFor s pl e.hdr.laddr).getD s

end Sys2Proof.Machine
end

