-- ==== Sys2Proof/Machine/Ring.lean ====
section
/-! DEFINITION. Ring messages at the requesting node, at the home and at a gate, and the timers that guard them
    (R96, R134, R144, R151, R154-R168, R189-R205). -/

namespace Sys2Proof.Machine

/-! Arrivals at the requesting node. -/

/-- Slice and entry of a TXN (R139). -/
def txnSlice (t : BitVec 12) : SliceId := t.extractLsb' 8 4
/-- Entry of a TXN. -/
def txnEntry (t : BitVec 12) : Nat := (t.extractLsb' 0 8).toNat

/-- Requests whose chunks are forwarded to their port as they come (R72). -/
def forwards (e : MissEntry) : Bool :=
  match e.req.src with
  | .port _ => !e.req.dead && !e.abandoned && e.req.op != .atom && e.req.op != .claim && e.tr != .smW
  | _ => false

/-- Chunks of the fill that the port has not had are forwarded, in delivery order (R69, R72, R75). -/
def forwardChunks (s : State) (sl : SliceId) (i : Nat) : State :=
  match missAt s sl i with
  | none => s
  | some e =>
    if !forwards e then s
    else
      match e.req.src with
      | .port p =>
        let want := wantOf e.req
        let d := trimLine e.req e.fill
        let r := (chunkOrder (critOf e.req.hdr.addr)).foldl (fun (r : State × Bool × BitVec 4) c =>
          if want.getLsbD c && !r.2.2.getLsbD c && e.fillV.getLsbD c then
            let psn := r.2.1 || chunkPsn e.fill c
            (portData r.1 p e.req.hdr.ptag c (chunkOf d c) psn, psn, setBit r.2.2 c true)
          else r) (s, e.psnSeen, e.fwd)
        putMiss r.1 sl i (some { e with psnSeen := r.2.1, fwd := r.2.2 })
      | _ => s

/-- GRANT (R96, R163, R167, R228): recorded in the entry; a grant without data, and one of an entry that installs
    nothing, ends it when nothing else is missing. -/
def ringGrant (s : State) (h : RingHdr) (g : GrantBody) : State :=
  let sl := txnSlice h.txn
  let i := txnEntry h.txn
  match missAt s sl i with
  | none => trouble s (blkSlc sl) kSlcLateGrant
  | some e =>
    if e.kind = .waiting ∨ ¬ e.reqSent ∨ e.grant.isSome then trouble s (blkSlc sl) kSlcLateGrant
    else
      let s := if e.abandoned then trouble s (blkSlc sl) kSlcLateGrant
        else race s (blkSlc sl) (due s e.start e.tmo)
      let e := { e with grant := some g, grantHdr := some h, grantTick := s.now, dtmo := tmoData s }
      -- an upgrade granted with data is an exclusive read (R161): its chunks go to the port
      let e := if e.tr = .smW ∧ g.dsrc ≠ 0 then { e with tr := .imW } else e
      let s := putMiss s sl i (some e)
      if e.abandoned ∧ e.req.op = .atom ∧ e.noInstall then closeEntry s sl i (place s e.req.laddr)
      else
        let s := if g.dsrc = 0 then s else forwardChunks s sl i
        if e.noInstall ∨ g.dsrc = 0 then tryFinish s sl i else s

/-- DATA for a requesting node (R72, R75, R163). -/
def ringData (s : State) (h : RingHdr) (d : DataBody) : State :=
  let sl := txnSlice h.txn
  let i := txnEntry h.txn
  match missAt s sl i with
  | none => trouble s (blkSlc sl) kSlcLateDat
  | some e =>
    if e.kind = .waiting ∨ ¬ e.reqSent then trouble s (blkSlc sl) kSlcLateDat
    else if e.supData ∧ d.srck = 0 then s
    else
      let dueD := match e.grant with
        | some g => g.dsrc == 2 && due s e.grantTick e.dtmo
        | none => false
      let s := race s (blkSlc sl) dueD
      let s := putMiss s sl i (some { e with
        fill := d.line, fillV := 0xF, fillDirty := d.dirty, supData := e.supData || d.srck != 0 })
      let s := forwardChunks s sl i
      if e.noInstall then tryFinish s sl i else s

/-- With all chunks and the grant, the fill installs its line (R73). -/
def fillInstall (s : State) (sl : SliceId) (i : Nat) : State :=
  match missAt s sl i with
  | none => s
  | some e => if e.kind = .ring ∧ entryReady e then tryFinish s sl i else s

/-- WR_ACK: the combined writes complete (R111). -/
def ringWrAck (s : State) (h : RingHdr) : State :=
  let sl := txnSlice h.txn
  let i := txnEntry h.txn
  match missAt s sl i with
  | none => s
  | some e =>
    if e.kind = .waiting ∨ ¬ e.reqSent then s
    else
      let s := if e.abandoned then s else race s (blkSlc sl) (due s e.start e.tmo)
      let s := closeEntry s sl i (place s e.req.laddr)
      if e.abandoned then s
      else match e.req.src with
        | .wc k =>
          match wcAt s sl k.toNat with
          | some b => putWc (b.ptags.foldl (fun s t => complete s b.port t .I false 0 0) s) sl k.toNat none
          | none => s
        | _ => answer s e.req .I false 0

/-- The completion status of a ring ERR (R334). -/
def errStatus (st : BitVec 8) : BitVec 8 :=
  match st.toNat with
  | 1 => 0x0F | 2 => 0x0E | 3 => 0x02 | 4 => 0x0D | 5 => 0x10 | 6 => 0x01 | _ => 0x10

/-- ERR: the transaction closes without a change of its line, or the penumbra buffer is freed (R144). -/
def ringErr (s : State) (h : RingHdr) (st : BitVec 8) (wba : Bool) : State :=
  if wba then penAcked s h.txn
  else
    let sl := txnSlice h.txn
    let i := txnEntry h.txn
    match missAt s sl i with
    | none => s
    | some e =>
      if e.kind = .waiting ∨ ¬ e.reqSent then s
      else
        let s := if e.abandoned then s else race s (blkSlc sl) (due s e.start e.tmo)
        let s := if e.abandoned then s else answerErr s sl e.req (errStatus st)
        closeEntry s sl i (place s e.req.laddr)

/-- Requests that waited for a credit are sent while credits last (R134). -/
def pumpReq (s : State) : Nat → State
  | 0 => s
  | n + 1 =>
    match s.home.reqWait with
    | [] => s
    | (sl, i) :: rest =>
      let go := match missAt s sl i.toNat with
        | some e => decide (tget 0 s.home.reqSpent (reqCredIx e.home e.req.laddr) < reqShare s e.home)
        | none => true
      if go then pumpReq (sendReq { s with home := { s.home with reqWait := rest } } sl i.toNat) n
      else { pumpReq { s with home := { s.home with reqWait := rest } } n with
             home := let x := (pumpReq { s with home := { s.home with reqWait := rest } } n).home
                     { x with reqWait := (sl, i) :: x.reqWait } }

/-- CREDIT returns (R134, R136). -/
def ringCredit (s : State) (h : RingHdr) (slice : SliceId) (nreq nwbk : BitVec 5) : State :=
  let up := s.net.isBridge && ringOf h.src != myRing s && !(s.net.lower.cur.gates.any fun g => g.2 == h.src)
  let gates := (posOf s up).cur.gates
  let n := ((gates.find? fun g => g.2 == h.src).elim (nodeOf h.src) Prod.fst).toNat
  let k := n * 16 + slice.toNat
  let x := s.home
  let s := if up then s else { s with home := { x with reqSpent := tset 0 x.reqSpent k (tget 0 x.reqSpent k - nreq.toNat) } }
  let s := putWbkSpent s up (tset 0 (wbkSpentOf s up) n (tget 0 (wbkSpentOf s up) n - nwbk.toNat))
  let s := pumpWbk s s.home.wbkTransit.length
  pumpReq s s.home.reqWait.length

/-! Arrivals at the home. -/

/-- Slice and entry of an HTAG (R139). -/
def htagSlice (t : BitVec 10) : SliceId := t.extractLsb' 6 4
/-- Entry of an HTAG. -/
def htagEntry (t : BitVec 10) : Nat := (t.extractLsb' 0 6).toNat

/-- GACK (R151). -/
def ringGack (s : State) (h : RingHdr) : State :=
  let sl := htagSlice h.htag
  let far := h.hkind == 1
  let i := htagEntry h.htag
  match homeAt s sl far i with
  | none => s
  | some e => tryClose (putHome s sl far i (some { e with gackDue := false })) sl far i

/-- A recall-table entry of this gate. -/
def recallAt (s : State) (i : Nat) : Option RecallEntry := tget none s.home.recalls i
/-- The same, written or freed. -/
def putRecall (s : State) (i : Nat) (r : Option RecallEntry) : State :=
  { s with home := { s.home with recalls := tset none s.home.recalls i r } }

/-- DATA with TOHOME: relayed by a gate, or kept by the home entry (R163, R195). -/
def ringDataHome (s : State) (h : RingHdr) (d : DataBody) : State :=
  let sl := htagSlice h.htag
  let i := htagEntry h.htag
  match h.hkind.toNat with
  | 3 =>
    match recallAt s i with
    | some r =>
      -- an entry that has answered stood only for this data
      let s := putRecall s i (if r.acked then none else some { r with relayed := true })
      send s (.data { h with dst := r.hdr.src, htag := r.hdr.htag, hkind := r.hdr.hkind } d)
    | none => trouble s (blkSlc (sliceOf h.laddr)) kSlcLateDat
  | 2 =>
    match tget none s.home.evict (sl.toNat * 4 + i) with
    | some e => evictEnd (putEvict s sl i (some { e with toHome := some d.line })) sl i
    | none => trouble s (blkSlc sl) kSlcLateDat
  | k =>
    match homeAt s sl (k == 1) i with
    | some e =>
      if e.sent ∨ e.state = .waiting then trouble s (blkSlc sl) kSlcLateDat
      else homeTry (putHome s sl (k == 1) i (some { e with toHome := some d.line })) sl (k == 1) i
    | none => trouble s (blkSlc sl) kSlcLateDat

/-- DATA (R163). -/
def ringDataAny (s : State) (h : RingHdr) (d : DataBody) : State :=
  if d.tohome then ringDataHome s h d else ringData s h d

/-! Circuits (R155, R156, R166, R193). -/

/-- The request that a home entry's snoop serves, for a launch. -/
def homeSnoop (e : HomeEntry) (retry : Bool) : SnpKind × SnpBody :=
  let (k, ddh) := snoopFor e.op e.body
  (k, { rqid := e.hdr.src, rqtxn := e.hdr.txn, crit := e.body.crit, ddh := ddh, west := false, retry := retry
        upg := e.op == .upg, turns := 0, cr := cr0 })

/-- The second launch of a home circuit, in the other direction (R166); it is due until the home's own answer can be given. -/
def homeRelaunch (s : State) (sl : SliceId) (far : Bool) (i : Nat) (e : HomeEntry) : State :=
  let (k, b) := homeSnoop e true
  match launch s false (homeHdr s sl far i e s.net.ctrlId) k b { e.circ with launches := 1 } with
  | (s, none) => putHome s sl far i (some { e with circ := { e.circ with running := false, relaunch := true } })
  | (s, some c) => homeTry (putHome s sl far i (some { e with circ := c })) sl far i
/-- The snoop timer of a home circuit expires (R166). Each expiry counts SNP_TMO, the second SNP_LOST too (DEDUCED, log 117). -/
def homeSnoopExpire (s : State) (sl : SliceId) (far : Bool) (i : Nat) : State :=
  match homeAt s sl far i with
  | none => s
  | some e =>
    let s := raiseErr (trouble s (blkSlc sl) kSlcSnpTmo) (blkSlc sl) 4
    if e.circ.launches ≤ 1 then homeRelaunch s sl far i e
    else homeFail (trouble s (blkSlc sl) kSlcSnpLost) sl far i false

/-- The gate answers a recall when its circuit and every copy have been answered (R194). An entry whose supplier's DATA is still to be
    relayed stands until it has been (R195). -/
def recallTry (s : State) (i : Nat) : State :=
  match recallAt s i with
  | none => s
  | some r =>
    if r.acked ∨ r.circ.running ∨ r.circ.relaunch ∨ r.circ.launches = 0 ∨ ¬ r.copies.isEmpty then s
    else
      let ring := (posOf s r.upper).ring
      let cr := { r.circ.cr.or r.cr with seen := 0 }
      let h : RingHdr := { r.hdr with src := s.net.ctrlId, dst := r.hdr.src }
      let sup := if takesSupplier r.circ.cr r.cr then r.supring.getD ring else ring
      let owes := r.body.ddh && cr.dsup && !r.relayed && !r.lost
      send (putRecall s i (if owes then some { r with acked := true } else none)) (.farAck h ⟨false, r.lost, r.body.bcast, cr, sup, 0, 0⟩)

/-- The snoop that a recall runs (R193). -/
def recallSnoop (s : State) (i : Nat) (r : RecallEntry) (retry : Bool) : RingHdr × SnpKind × SnpBody :=
  ({ r.hdr with src := ctrlOf (posOf s r.upper).ring (posOf s r.upper).node, dst := s.net.ctrlId, htag := BitVec.ofNat 10 i, hkind := 3, txn := 0 }, r.body.kind,
   { rqid := r.body.rqid, rqtxn := r.body.rqtxn, crit := r.body.crit, ddh := r.body.ddh, west := false, retry := retry
     upg := r.body.upg, turns := 0, cr := cr0 })

/-- The second launch of a gate's circuit (R166, R204). -/
def gateRelaunch (s : State) (i : Nat) (r : RecallEntry) : State :=
  let (h, k, body) := recallSnoop s i r true
  match launch s r.upper h k body { r.circ with launches := 1 } with
  | (s, none) => putRecall s i (some { r with circ := { r.circ with running := false, relaunch := true } })
  | (s, some c) => recallTry (putRecall s i (some { r with circ := c })) i
/-- The circuit timer of a gate expires (R204). -/
def gateExpire (s : State) (i : Nat) : State :=
  match recallAt s i with
  | none => s
  | some r =>
    let b := blkSlc (sliceOf r.hdr.laddr)
    let s := raiseErr (trouble s b kSlcSnpTmo) b 4
    if r.circ.launches ≤ 1 then gateRelaunch s i r
    else recallTry (putRecall s i (some { r with lost := true, circ := { r.circ with running := false } })) i

/-- The snoop is the one that the circuit waits for: a late snoop of the first launch ends no second circuit (R168). -/
def circuitOf (c : Circuit) (b : SnpBody) : Bool := c.running && b.retry == decide (2 ≤ c.launches)
/-- A snoop is back at the position that launched it: its circuit ends, or counts as an expiry when a node has not
    answered (R155, R156). -/
def circuitEnd (s : State) (upper : Bool) (h : RingHdr) (b : SnpBody) : State :=
  let full := b.cr.seen == maskOf s upper
  if h.hkind = 3 then
    let i := htagEntry h.htag
    match recallAt s i with
    | some r =>
      if !circuitOf r.circ b then trouble s (blkSlc (sliceOf h.laddr)) kSlcLateSnp
      else
        let s := race s (blkRing (eastPort upper)) (due s r.circ.start r.circ.tmo)
        if full then recallTry (putRecall s i (some { r with circ := { r.circ with running := false, cr := b.cr } })) i
        else gateExpire (trouble s (blkSlc (sliceOf h.laddr)) kSlcSnpSeen) i
    | none => trouble s (blkSlc (sliceOf h.laddr)) kSlcLateSnp
  else
    let sl := htagSlice h.htag
    let far := h.hkind == 1
    let i := htagEntry h.htag
    match homeAt s sl far i with
    | some e =>
      if !circuitOf e.circ b then trouble s (blkSlc sl) kSlcLateSnp
      else
        let s := race s (blkSlc sl) (due s e.circ.start e.circ.tmo)
        if full then homeTry (putHome s sl far i (some { e with circ := { e.circ with running := false, cr := b.cr } })) sl far i
        else homeSnoopExpire (trouble s (blkSlc sl) kSlcSnpSeen) sl far i
    | none => trouble s (blkSlc sl) kSlcLateSnp

/-- The position that this snoop returns to is this one. -/
def circuitHere (s : State) (upper : Bool) (h : RingHdr) : Bool :=
  h.dst == s.net.ctrlId &&
    (if h.hkind = 3 then
      match recallAt s (htagEntry h.htag) with
      | some r => r.upper == upper
      | none => !upper
    else !upper)

/-- A snoop put among those of its slice that wait: behind the others, or for R51 at the head of its input. -/
def snoopWait (s : State) (i : Input) (k : SnpKind) (h : RingHdr) (b : SnpBody) (w : WaitOn) (head : Bool) : State :=
  let sl := (place s h.laddr).sl
  let s := fresh s
  let x := sliceSt s sl
  let s := putSlice s sl { x with snps := x.snps ++ [⟨s.serial, i, k, h, b, w⟩] }
  if head then { s with snpReady := s.serial :: s.snpReady } else s
/-- A snoop of the slice that failed its resource check stands at the head of its input (R51). -/
def snoopHead (s : State) (sl : SliceId) : Bool := (sliceSt s sl).snps.any fun w => w.waitOn == .ready
/-- A snoop reaches a node (R154-R157, R170). Its circuit ends at its launcher's position: on its first arrival there, or on a folded
    ring, and where it was turned at a port that has failed since (R371), with SEEN complete or after two turns. -/
def snoopEnter (s : State) (i : Input) (k : SnpKind) (h : RingHdr) (b : SnpBody) (f : SnpFrom) : State :=
  let upper : Bool := match i with
    | .ring .upA | .ring .upB => true
    | _ => false
  let folded := (epSlot s upper h.epoch).folded || b.turns != 0
  let from_ : Option RingPort := match i with
    | .ring p => some p
    | .fabric => none
  if circuitHere s upper h && (!folded || b.cr.seen == maskOf s upper || b.turns == 2) then circuitEnd (countEnded (freeRxOf s from_ (.snp k h b)) upper h.epoch) upper h b
  else
    let node := (posOf s upper).node
    if b.cr.seen.getLsbD node.toNat then snoopOn s upper from_ h k b
    else if upper then snoopOn s upper from_ h k { b with cr := setSeen b.cr node }
    -- behind a snoop at the head of the input that a referred snoop enters by
    else if f != .again && snoopHead s (place s h.laddr).sl && screen s (place s h.laddr) h.laddr k == .referred then
      snoopWait s i k h b .ready false
    else
      match snoopAnswer s h k b f with
      | .answered s a => snoopOn s upper from_ h k { b with cr := foldCr b.cr a node }
      | .waits s w => snoopWait s i k h b w false
      | .stalled s => snoopWait s i k h b .ready true
where
  /-- SEEN of a position set (R154, R170). -/
  setSeen (c : CR) (n : NodeId) : CR := { c with seen := setBit c.seen n.toNat true }

/-- A snoop that a message brings. -/
def snoopArrive (s : State) (i : Input) (k : SnpKind) (h : RingHdr) (b : SnpBody) : State := snoopEnter s i k h b .fabric

/-! Recalls (R189, R193, R194, R204, R205). -/

/-- The copies of a broadcast recall that a gate sends on (R194). -/
def recallCopies (s : State) (r : RecallEntry) : List CtrlId :=
  if !r.body.bcast then []
  else ((posOf s r.upper).cur.gates.map Prod.snd).filter fun x => x != s.net.ctrlId && x != r.hdr.src

/-- A recall's snoop launched, with its copies (R193, R194), unless this node's own answer must wait. -/
def recallLaunch (s : State) (k : Nat) (r : RecallEntry) : State :=
  let (hd, kd, body) := recallSnoop s k r false
  match launch s r.upper hd kd body circ0 with
  | (s, none) => putRecall s k (some r)
  | (s, some c) =>
    let others := recallCopies s r
    let s := others.foldl (fun s x =>
      send s (.farRecall { r.hdr with src := s.net.ctrlId, dst := x, htag := BitVec.ofNat 10 k, hkind := 3 } r.body)) s
    recallTry (putRecall s k (some { r with circ := c, copies := others })) k

/-- A recall takes entry k of the table (R193). The gate snoops its own ring for a recall from outside its subtree, its parent ring for
    one from inside. -/
def recallTake (s : State) (k : Nat) (h : RingHdr) (b : RecallBody) : State :=
  let act := actOf (tget 0 s.net.lower.cur.routes (ringOf h.src).toNat)
  let s := fresh s
  recallLaunch s k ⟨s.serial, h, b, s.net.isBridge && act != 3, circ0, [], cr0, none, false, 0, false, false⟩
/-- The entry that a recall may take: a free one is kept for the recall that was deferred first (R176, R193). -/
def recallRoom (s : State) (h : RingHdr) (b : RecallBody) : Option Nat :=
  let used := (List.range 64).filter fun k => (recallAt s k).isSome
  let before := s.home.rclDefer.takeWhile fun x => !(x.1 == h && x.2.1 == b)
  if used.length + before.length < 64 then firstFree used 64 else none
/-- A recall put among those deferred, or taken from them. -/
def putDefer (s : State) (l : List (RingHdr × RecallBody × Bool)) : State := { s with home := { s.home with rclDefer := l } }
/-- The recalls that no ring port brought, and that were kept while the table was full, take their entries. -/
def admitRecalls (s : State) : State :=
  s.home.rclDefer.foldl (fun s x =>
    if !x.2.2 then s
    else match recallRoom s x.1 x.2.1 with
      | some k => recallTake (putDefer s (s.home.rclDefer.erase x)) k x.1 x.2.1
      | none => s) s
/-- Launches that had to wait for the own answer on a line of this slice are tried again: recalls, and second launches of a home or a
    gate. -/
def launchHeld (s : State) (sl : SliceId) : State :=
  let s := (List.range 64).foldl (fun s k =>
    match recallAt s k with
    | some r =>
      if (place s r.hdr.laddr).sl ≠ sl then s
      else if r.circ.relaunch then gateRelaunch s k r
      else if r.circ.launches = 0 then recallLaunch s k r
      else s
    | none => s) (admitRecalls s)
  (homeEntries s sl).foldl (fun s x => if x.2.2.circ.relaunch then homeRelaunch s sl x.1 x.2.1 x.2.2 else s) s

/-- FAR_RECALL at a gate (R193, R194): with the table full it goes on round the ring, or is kept where it came over the own fabric. -/
def farRecall (s : State) (i : Input) (h : RingHdr) (b : RecallBody) : State :=
  match recallRoom s h b with
  | some k => recallTake (putDefer s (s.home.rclDefer.filter fun x => !(x.1 == h && x.2.1 == b))) k h b
  | none =>
    let kept : Bool := i == .fabric
    let p : RingPort := match i with
      | .ring p => p
      | .fabric => .ringE
    let s := trouble s (blkRing p) kPrlRclDefer
    let s := if s.home.rclDefer.any fun x => x.1 == h && x.2.1 == b then s else putDefer s (s.home.rclDefer ++ [(h, b, kept)])
    if kept then s else sendBy s (otherPort p) (some p) (.farRecall h b)

/-- The ready waiting snoop of a slice that became ready first (R56). -/
def nextSnoop (s : State) (sl : SliceId) : Option WaitSnp :=
  let ready := (sliceSt s sl).snps.filter fun w => waitReady s sl w.waitOn
  match s.snpReady.findSome? fun id => ready.find? fun w => w.serial == id with
  | some w => some w
  | none => ready.head?
/-- The first ready waiting snoop of a slice re-enters (R56). -/
def replaySnoop (s : State) (sl : SliceId) : State :=
  let s := launchHeld s sl
  match nextSnoop s sl with
  | none => s
  | some w =>
    let x := sliceSt s sl
    snoopEnter { putSlice s sl { x with snps := x.snps.erase w } with snpReady := s.snpReady.erase w.serial }
      w.input w.kind w.hdr w.body .again

/-- One recall answered, for a ring (R189, R190, R194). -/
def rclAnswer (r : Recalls) (src : CtrlId) (ring : BitVec 8) (b : FarAckBody) : Recalls :=
  { r with open_ := r.open_.filter (· ≠ src), cr := r.cr.or b.cr
           supring := if takesSupplier r.cr b.cr then some b.supring else r.supring
           empty := if !b.cr.shr && !b.cr.dsup && !b.lost then r.empty ++ [ring] else r.empty
           lost := r.lost || b.lost }

/-- The last answer of a home transaction's recalls ends HQ_F, or loses the transaction (R189, R205). -/
def recallsDone (s : State) (sl : SliceId) (far : Bool) (i : Nat) : State :=
  match homeAt s sl far i with
  | none => s
  | some e =>
    if ¬ e.rcl.open_.isEmpty then s
    else if e.rcl.lost then homeFail s sl far i true
    else homeTry (putHome s sl far i (some { e with state := .hqS })) sl far i

/-- FAR_ACK (R162, R184, R189, R194, R199). -/
def farAck (s : State) (h : RingHdr) (b : FarAckBody) : State :=
  if b.crd then
    let up := ringOf h.src != myRing s
    let k := farIx up h.src b.slice
    let s := { s with home := { s.home with farSpent := tset 0 s.home.farSpent k (tget 0 s.home.farSpent k - b.nfar.toNat) } }
    let w := s.home.farWait
    w.foldl (fun s m => gateInject s m.2 m.1) { s with home := { s.home with farWait := [] } }
  else
    let sl := htagSlice h.htag
    let i := htagEntry h.htag
    let late (s : State) : State := trouble s (blkSlc (sliceOf h.laddr)) kSlcLateFack
    match h.hkind.toNat with
    | 3 =>
      match recallAt s i with
      | none => late s
      | some r =>
        if !r.copies.contains h.src then late s
        else recallTry (putRecall s i (some { r with
          copies := r.copies.filter (· ≠ h.src), cr := r.cr.or b.cr, lost := r.lost || b.lost
          supring := if takesSupplier r.cr b.cr then some b.supring else r.supring })) i
    | 2 =>
      match tget none s.home.evict (sl.toNat * 4 + i) with
      | none => late s
      | some e =>
        if !e.rcl.open_.contains h.src then late s
        else
          let r := rclAnswer e.rcl h.src (gateRing s h.src) b
          let s := race s (blkSlc sl) (r.open_.isEmpty && due s e.rcl.start e.rcl.tmo)
          evictEnd (putEvict s sl i (some { e with rcl := r })) sl i
    | k =>
      match homeAt s sl (k == 1) i with
      | none => late s
      | some e =>
        if !e.rcl.open_.contains h.src then late s
        else
          let r := rclAnswer e.rcl h.src (gateRing s h.src) b
          let s := race s (blkSlc sl) (r.open_.isEmpty && due s e.rcl.start e.rcl.tmo)
          recallsDone (putHome s sl (k == 1) i (some { e with rcl := r })) sl (k == 1) i

/-! The timers of R166 and R204. -/

/-- The snoop timer of a home transaction. -/
def snoopTimer (s : State) (sl : SliceId) (far : Bool) (i : Nat) : State :=
  match homeAt s sl far i with
  | some e => if e.circ.running && due s e.circ.start e.circ.tmo then homeSnoopExpire s sl far i else s
  | none => s

/-- The grant timer of an entry, near or far (R166, R204). -/
def grantTimer (s : State) (sl : SliceId) (i : Nat) (far : Bool) : State :=
  match missAt s sl i with
  | none => s
  | some e =>
    if e.far ≠ far ∨ e.kind = .waiting ∨ ¬ e.reqSent ∨ e.grant.isSome ∨ e.abandoned ∨ ¬ due s e.start e.tmo then s
    else
      let s := raiseErr (trouble s (blkSlc sl) (if far then kSlcFarGrantTmo else kSlcGrantTmo)) (blkSlc sl) 4
      answerErr (putMiss s sl i (some { e with abandoned := true })) sl e.req 0x0A

/-- The data timer of an entry (R166): the line is installed in X, missing chunks leave with the poison flag. -/
def dataTimer (s : State) (sl : SliceId) (i : Nat) : State :=
  match missAt s sl i with
  | none => s
  | some e =>
    match e.grant with
    | none => s
    | some g =>
      if g.dsrc ≠ 2 ∨ e.fillV = 0xF ∨ ¬ due s e.grantTick e.dtmo then s
      else
        let s := raiseErr (trouble s (blkSlc sl) kSlcDataTmo) (blkSlc sl) 4
        let miss (c : Nat) : Bool := !e.fillV.getLsbD c
        let fill := (List.range 4).foldl (fun d c => if miss c then putChunk d c (chunkOf d c) true else d) e.fill
        let s := putMiss s sl i (some { e with fill := fill, fillV := 0xF, psnSeen := true })
        tryFinish (forwardChunks s sl i) sl i

/-- The writeback timer of a buffer (R166): counted once; the writeback is never sent again. -/
def wbackTimer (s : State) (sl : SliceId) (i : Nat) : State :=
  match penAt s sl i with
  | none => s
  | some b =>
    if ¬ b.mif ∨ b.wbFired ∨ ¬ due s b.wbStart b.wbTmo then s
    else raiseErr (trouble (putPen s sl i (some { b with wbFired := true })) (blkSlc sl) kSlcWbackTmo) (blkSlc sl) 4

/-- The recall timer of a home transaction (R204): it restarts once, then every unanswered recall counts as lost. -/
def recallTimer (s : State) (sl : SliceId) (far : Bool) (i : Nat) : State :=
  match homeAt s sl far i with
  | none => s
  | some e =>
    if e.rcl.open_.isEmpty ∨ ¬ due s e.rcl.start e.rcl.tmo then s
    else
      let s := raiseErr (trouble s (blkSlc sl) kSlcFarRclTmo) (blkSlc sl) 4
      if e.rcl.fired = 0 then putHome s sl far i (some { e with rcl := { e.rcl with fired := 1, start := s.now, tmo := tmoRcl s } })
      else recallsDone (putHome s sl far i (some { e with rcl := { e.rcl with open_ := [], lost := true } })) sl far i

/-- The recall timer of a directory eviction (R204). -/
def evictTimer (s : State) (sl : SliceId) (i : Nat) : State :=
  match tget none s.home.evict (sl.toNat * 4 + i) with
  | none => s
  | some e =>
    if e.rcl.open_.isEmpty ∨ ¬ due s e.rcl.start e.rcl.tmo then s
    else
      let s := raiseErr (trouble s (blkSlc sl) kSlcFarRclTmo) (blkSlc sl) 4
      if e.rcl.fired = 0 then putEvict s sl i (some { e with rcl := { e.rcl with fired := 1, start := s.now, tmo := tmoRcl s } })
      else evictEnd (putEvict s sl i (some { e with rcl := { e.rcl with open_ := [], lost := true } })) sl i

/-- The circuit timer of a gate (R204). -/
def gateTimer (s : State) (i : Nat) : State :=
  match recallAt s i with
  | some r => if r.circ.running && due s r.circ.start r.circ.tmo then gateExpire s i else s
  | none => s

end Sys2Proof.Machine
end

