-- ==== Sys2Proof/Machine/RingDecode.lean ====
section
/-! DEFINITION. The header slots of ring messages, bit by bit: which opcodes exist (R140, R178, R179), which bits are
    reserved (R139, R141-R143, R180-R182), and the message that a slot and its data slots spell (R213). -/

namespace Sys2Proof.Machine

/-- A header or data slot of 32 B. -/
abbrev Slot := BitVec 256

/-- Bits [lo+n-1:lo] of a slot. -/
def sf (v : Slot) (lo n : Nat) : BitVec n := v.extractLsb' lo n
/-- One bit of a slot. -/
def sb (v : Slot) (i : Nat) : Bool := v.getLsbD i

/-- The common fields of a header slot (R139). -/
def hdrFields (v : Slot) : RingHdr :=
  { src := sf v 8 12, dst := sf v 20 12, epoch := sf v 32 4, txn := sf v 40 12, htag := sf v 52 10, hkind := sf v 62 2
    laddr := sf v 64 41 }
/-- CLASS and OP of a header slot. -/
def hdrClass (v : Slot) : Nat := (sf v 0 3).toNat
/-- OP of a header slot. -/
def hdrOp (v : Slot) : Nat := (sf v 3 5).toNat
/-- NDATA of a header slot. -/
def hdrNdata (v : Slot) : Nat := (sf v 36 3).toNat

/-- The request that a REQ opcode names (R140). -/
def reqOfCode : Nat → Option ReqOp
  | 0 => some .sh | 1 => some .ni | 2 => some .ex | 3 => some .upg | 4 => some .claim | 5 => some .wr
  | 6 => some .ncrd | 7 => some .ncwr | 8 => some .atom | _ => none
/-- The request that a far opcode and SUB stand for (R178, R179). -/
def farOfCode (op sub : Nat) : Option ReqOp :=
  match op, sub with
  | 0, 0 => some .sh | 0, 1 => some .ni | 0, 2 => some .ncrd
  | 1, 0 => some .ex | 1, 1 => some .upg | 1, 2 => some .claim | 1, 3 => some .wr | 1, 4 => some .ncwr
  | 1, 5 => some .atom | _, _ => none
/-- The combined response of bits [31:0] (R153). -/
def crOf (v : BitVec 32) : CR :=
  { shr := v.getLsbD 0, dsup := v.getLsbD 1, dirty := v.getLsbD 2, pen := v.getLsbD 3, upgv := v.getLsbD 4
    upgo := v.getLsbD 5, err := v.getLsbD 6, supnode := v.extractLsb' 8 4, seen := v.extractLsb' 16 16 }
/-- The snoop of a 2-bit KIND or opcode. -/
def snpOfCode : Nat → Option SnpKind
  | 0 => some .sh | 1 => some .ex | 2 => some .inv | _ => none

/-- Data slots of a message. -/
abbrev Slots := List (BitVec 4 × Slot)

/-- A line from data slots: each slot's kind names its chunk and its poison flag (R345). -/
def lineOfSlots (ds : Slots) : Line :=
  ds.foldl (fun d x => putChunk d (x.1.toNat % 4) x.2 (x.1.getLsbD 3)) line0

/-- The body of a request header with its data slots (R141, R213). -/
def reqBody (v : Slot) (op : ReqOp) (ds : Slots) : ReqBody :=
  let s0 : Slot := (ds.getD 0 (0, 0)).2
  let s1 : Slot := (ds.getD 1 (0, 0)).2
  let at? := op == .atom
  { part := sf v 105 6, crit := sf v 111 2, beam := sb v 113, bmask := sf v 128 128
    data := if at? then line0 else lineOfSlots ds
    aop := if at? then sf s0 0 4 else 0, aw := if at? then sf s0 4 2 else 0, ofs := if at? then sf s0 8 7 else 0
    opA := if at? then sf s1 0 128 else 0, opB := if at? then sf s1 128 128 else 0 }

/-- The class and opcode exist (R140, R178, R179). -/
def opKnown (v : Slot) : Bool :=
  match hdrClass v, hdrOp v with
  | 0, o => (reqOfCode o).isSome
  | 1, 0 => (farOfCode 0 (sf v 114 4).toNat).isSome
  | 1, 1 => (farOfCode 1 (sf v 114 4).toNat).isSome
  | 1, o => o == 2 || o == 3
  | 2, o => decide (o ≤ 2)
  | 3, o | 4, o => o == 0
  | 5, o => decide (o ≤ 5)
  | _, _ => false

/-- How many bits of [255:105] a message of the class and opcode uses, as lists of (first bit, width). -/
def usedBits (c o : Nat) : List (Nat × Nat) :=
  match c, o with
  | 0, _ => [(105, 9), (128, 128)]
  | 1, 0 | 1, 1 => [(105, 17), (128, 128)]
  | 1, 2 => [(105, 31)]
  | 1, _ => [(105, 10), (116, 4), (124, 16), (140, 18)]
  | 2, _ => [(105, 32), (160, 7), (168, 4), (176, 16)]
  | 3, _ => [(105, 12)]
  | 4, _ => [(105, 10)]
  | 5, 0 => [(105, 12)]
  | 5, 2 => [(105, 1)]
  | 5, 4 => [(105, 9)]
  | 5, 5 => [(105, 14)]
  | _, _ => []
/-- The bits of a header slot that may be set. -/
def usedMask (c o : Nat) : Slot :=
  (usedBits c o).foldl (fun m p => m ||| (BitVec.ofNat 256 (2 ^ p.2 - 1) <<< p.1))
    (BitVec.ofNat 256 (2 ^ 105 - 1) &&& ~~~(BitVec.twoPow 256 39))

/-- NDATA that the opcode requires (R139, R141, R213). -/
def ndataFor (v : Slot) : Nat :=
  match hdrClass v with
  | 0 => ((reqOfCode (hdrOp v)).map reqSlots).getD 0
  | 1 => if hdrOp v ≤ 1 then ((farOfCode (hdrOp v) (sf v 114 4).toNat).map reqSlots).getD 0 else 0
  | 3 | 4 => 4
  | _ => 0

/-- The coded fields hold no reserved code: TURNS, KIND, GST, DSRC and STATUS (R366). -/
def codesOk (v : Slot) : Bool :=
  match hdrClass v, hdrOp v with
  | 2, _ => sf v 135 2 != 3
  | 1, 2 => sf v 105 2 != 3
  | 5, 0 =>
    let g := (sf v 105 3).toNat
    (g == 0 || g == 1 || g == 2 || g == 4) && sf v 108 2 != 3
  | 5, 4 => decide (1 ≤ (sf v 105 8).toNat) && decide ((sf v 105 8).toNat ≤ 6)
  | _, _ => true

/-- The fields of a header are as its opcode requires (R366). -/
def fieldsOk (v : Slot) : Bool :=
  v &&& ~~~(usedMask (hdrClass v) (hdrOp v)) == 0 && hdrNdata v == ndataFor v && codesOk v

/-- The message of a header slot and its data slots. -/
def msgOf (v : Slot) (ds : Slots) : Option RingMsg :=
  let h := hdrFields v
  match hdrClass v, hdrOp v with
  | 0, o => (reqOfCode o).map fun op => .req op h (reqBody v op ds)
  | 1, 2 => (snpOfCode (sf v 105 2).toNat).map fun k =>
      .farRecall h ⟨k, sb v 107, sb v 108, sb v 109, sf v 110 12, sf v 122 12, sf v 134 2⟩
  | 1, 3 => some (.farAck h ⟨sb v 105, sb v 106, sb v 107, crOf (sf v 108 32), sf v 140 8, sf v 148 4, sf v 152 6⟩)
  | 1, o => (farOfCode o (sf v 114 4).toNat).map fun op => .farReq op (sf v 118 4) h (reqBody v op ds)
  | 2, o => (snpOfCode o).map fun k => .snp k h
      { rqid := sf v 105 12, rqtxn := sf v 117 12, crit := sf v 129 2, ddh := sb v 131, west := sb v 132
        retry := sb v 133, upg := sb v 134, turns := sf v 135 2, cr := crOf (sf v 160 32) }
  | 3, 0 => some (.wbData h ⟨sf v 105 6, sb v 115, sb v 116, { lineOfSlots ds with psn := sf v 111 4 }⟩)
  | 4, 0 => some (.data h ⟨sf v 105 2, sf v 111 2, sb v 113, sb v 114, { lineOfSlots ds with psn := sf v 107 4 }⟩)
  | 5, 0 => some (.grant h ⟨LState.ofCode (sf v 105 3), sf v 108 2, sf v 110 4, sb v 114, sb v 115, sb v 116⟩)
  | 5, 1 => some (.gack h)
  | 5, 2 => some (.wbAck h (sb v 105))
  | 5, 3 => some (.wrAck h)
  | 5, 4 => some (.err h (sf v 105 8) (sb v 113))
  | 5, 5 => some (.credit h (sf v 105 4) (sf v 109 5) (sf v 114 5))
  | _, _ => none

/-- The management slots whose layout the spec gives: AUTH_CHAL, AUTH_RESP, AUTH_DONE (R355) and a CENSUS of one slot
    (R360). The others are taken by their own commands (log entry 31). -/
def mgmtOf (v : Slot) : Option Mgmt :=
  match (sf v 0 4).toNat with
  | 1 =>
    let n := (sf v 4 3).toNat
    let rec_ (i : Nat) : CensusRec :=
      let r : BitVec 32 := v.extractLsb' (32 + 32 * i) 32
      ⟨r.extractLsb' 0 12, r.getLsbD 12, r.getLsbD 13, r.extractLsb' 14 2, r.extractLsb' 16 2, r.getLsbD 18, 0⟩
    some (.census ⟨sf v 10 12, sf v 8 2, (List.range (min n 7)).map rec_⟩)
  | 2 => some (.authChal (sf v 4 4) (sf v 8 2) (sf v 16 12) (sf v 32 8) (sf v 128 128))
  | 3 => some (.authResp (sf v 128 128))
  | 4 => some (.authDone (sf v 4 4))
  | _ => none

/-- The bytes of a ring frame that its CRC covers (R346). -/
def frameBytes (hdr : BitVec 64) (slots : BitVec 2048) (tlr : BitVec 64) : List Byte :=
  bytesOf hdr 8 ++ bytesOf slots 256 ++ bytesOf tlr 8

end Sys2Proof.Machine
end

