-- ==== Sys2Proof/Machine/RingLink.lean ====
section
/-! DEFINITION. The ring links: frames, retry and screening (R345-R349, R366-R368), lanes (R351, R352), authentication
    (R354-R358), slow partners (R369, R370), and ports that go down (R371, R372). -/

namespace Sys2Proof.Machine

/-! A census starts (R359); its course is in Epoch.lean. -/

/-- The member's record in a ring (R360). -/
def ownRecord (s : State) (upper : Bool) : CensusRec :=
  let st (p : RingPort) : BitVec 2 :=
    let x := ringPort s p
    if x.planned.isSome then 3 else
    match x.state with
    | .active => if x.lanes = 0xFF then 0 else 1
    | .standby => 2
    | _ => 3
  { ctrlId := s.net.ctrlId, upper := upper
    bridge := !upper && s.net.isBridge && (mgmtUp s .upA || mgmtUp s .upB)
    eps := st (eastPort upper), wps := st (westPort upper)
    slow := (ringPort s (eastPort upper)).slow || (ringPort s (westPort upper)).slow
    subtree := if upper then s.net.lower.subtree ||| BitVec.twoPow 256 s.net.lower.ring.toNat else 0 }

/-- The port carries the census: one that a planned fold takes out counts as out of service (R372). -/
def censusUp (s : State) (p : RingPort) : Bool := mgmtUp s p && (ringPort s p).planned.isNone

/-- A census sent out of the east-facing port, or of the west-facing port when the east one carries nothing (R359): the work of
    Lantern-B (R13). -/
def startCensus (s : State) (upper : Bool) : State :=
  if !lanternB s then s else
  let c : Census := ⟨s.net.ctrlId, 0, [ownRecord s upper]⟩
  let s := putPos s upper { posOf s upper with census := [ownRecord s upper], censusRun := true, censusDup := false }
  if censusUp s (eastPort upper) then sendMgmt s (eastPort upper) (.census c)
  else if censusUp s (westPort upper) then sendMgmt s (westPort upper) (.census c)
  else s

/-! Ports that go down (R371, R372). -/

/-- A bridge with no UP port in service has left the tree: OFS and its place are not current any more (R206, R208). -/
def leaveTree (s : State) : State :=
  if mgmtUp s .upA || mgmtUp s .upB then s
  else { s with net := { s.net with treeOfs := 0, treeRoot := 0, treeDepth := 0, treeValid := false } }
/-- The routes of an epoch without the link at a port (R371). -/
def cutSide (t : EpSlot) (p : RingPort) : EpSlot :=
  match p with
  | .ringE | .upA => { t with east := false }
  | .ringW | .upB => { t with west := false }
/-- The link leaves service: the replay buffer and any message partly received are discarded, and messages ready at the
    port leave by the other port of the ring (R371, R372). -/
def linkLeave (s : State) (p : RingPort) (st : RpState) : State :=
  let x := ringPort s p
  let was := x.state = .active ∨ x.state = .standby
  let s := putRing s p { x with
    state := st, unacked := [], part := none, transit := [], inject := [], mgmtq := [], auth := none, laneProp := none
    spent := [], rxUsed := [], t1 := none, starved := [], turn := x.turn || decide was
    partnerValid := false, failedAt := if was then some s.now else x.failedAt }
  let s := { s with net := { s.net with peerAsm := s.net.peerAsm.filter fun a => a.port ≠ p } }
  -- messages of the epochs live at the failure keep their turns (R371, R375)
  let y := posOf s (isUp p)
  let s := putPos s (isUp p) { y with cur := cutSide y.cur p, old := y.old.map fun t => cutSide t p }
  let s := if isUp p then leaveTree s else s
  let s := x.transit.foldl (fun s m => sendBy s p m.2 m.1) s
  let s := x.inject.foldl (fun s m => sendBy s p none m) s
  if was then startCensus s (isUp p) else s

/-- The port goes down as a failed port (R371). -/
def portFail (s : State) (p : RingPort) : State :=
  if (ringPort s p).state = .down then s else linkLeave s p .down

/-- The port enters QUARANTINED (R368). -/
def quarantine (s : State) (p : RingPort) : State :=
  raiseEvt (raiseErr (linkLeave s p .quarantined) (blkRing p) 7) 9

/-! Screening (R366, R367). -/

/-- A windowed count: starts again when the window has changed. -/
def inWindow (win old n : Nat) : Nat := if win = old then n else 0

/-- The first screening failure captured (R367, R381). -/
def captureRing (s : State) (p : RingPort) (f : PrlFrame) (v : Slot) : State :=
  let x := ringPort s p
  if x.captured then s
  else putRing s p { x with
    captured := true
    errCapt := f.hdr.setWidth 384 ||| (f.trailer.extractLsb' 0 64).setWidth 384 <<< 64 ||| v.setWidth 384 <<< 128 }

/-- A screening failure that counts toward quarantine (R368). -/
def countScreen (s : State) (p : RingPort) : State :=
  let x := ringPort s p
  let w := s.now.toNat / 1000000
  let n := inWindow w x.qwin x.qcount + 1
  let s := putRing s p { x with qcount := n, qwin := w }
  if max 1 x.qlimit.toNat ≤ n then quarantine s p else s

/-- The screening windows admit the line for a source ring (R366). -/
def windowOk (x : RingPortSt) (ring : BitVec 8) (l : LineAddr) : Bool :=
  let ws := (x.win.map Prod.snd).filter fun w => w.valid && w.src == ring
  ws.isEmpty || ws.any fun w => decide (w.base ≤ granuleOf l) && decide (granuleOf l ≤ w.last)

/-- The first check that a message fails, by its trouble kind (R366); the credit check stands apart. -/
def screenFail (s : State) (p : RingPort) (v : Slot) : Option Nat :=
  let x := ringPort s p
  let pos := posOf s (isUp p)
  let h := hdrFields v
  let c := hdrClass v
  let far := ringOf h.src != pos.ring
  let live := h.epoch == pos.cur.epoch || (pos.old.map (·.epoch)) == some h.epoch
  let t := epSlot s (isUp p) h.epoch
  let priv := ((homeOf s h.laddr).map (·.priv)).getD false
  let w := s.now.toNat / 10000
  let rateN (k : Nat) : Nat := inWindow w x.rateWin (tget 0 x.rate ((ringOf h.src).toNat * 2 + k))
  let farRq := c == 1 && decide (hdrOp v ≤ 1)
  if !opKnown v then some kPrlScrOp
  else if !fieldsOk v then some kPrlScrField
  else if !live then some kPrlStaleEpoch
  else if (!far && !t.members.getLsbD (nodeOf h.src).toNat) || (far && (c == 0 || c == 2)) then some kPrlScrSrc
  else if (ringOf h.dst == pos.ring && t.gates.any (fun g => g.1 == nodeOf h.dst && g.2 != h.dst))
      || actOf (tget 0 t.routes (ringOf h.dst).toNat) == 0 then some kPrlUnroutable
  else if (c == 0 || c == 1) && far && (priv || !windowOk x (ringOf h.src) h.laddr) then some kPrlScrAddr
  else if (c == 0 && decide (x.reqmax.toNat ≤ rateN 0)) || (farRq && decide (x.farmax.toNat ≤ rateN 1)) then some kPrlScrRate
  else none

/-- A message counted in its source ring's window (R366). -/
def countRate (s : State) (p : RingPort) (v : Slot) : State :=
  let x := ringPort s p
  let w := s.now.toNat / 10000
  let k := (ringOf (hdrFields v).src).toNat * 2 + (if hdrClass v = 0 then 0 else 1)
  let t := if w = x.rateWin then x.rate else []
  if hdrClass v = 0 ∨ (hdrClass v = 1 ∧ hdrOp v ≤ 1) then
    putRing s p { x with rate := tset 0 t k (tget 0 t k + 1), rateWin := w }
  else s

/-! Messages that have passed screening. -/

/-- A message for this controller takes its effect. -/
def ringDeliver (s : State) (i : Input) (m : RingMsg) : State :=
  match m with
  | .req op h b => homeArrive s false 0 op h b
  | .farReq op g h b => homeArrive s true g op h b
  | .farRecall h b => farRecall s i h b
  | .farAck h b => farAck s h b
  | .snp k h b => snoopArrive s i k h b
  | .wbData h b => homeWb s ⟨h, b⟩
  | .data h d => ringDataAny s h d
  | .grant h g => ringGrant s h g
  | .gack h => ringGack s h
  | .wbAck h _ => penAcked s h.txn
  | .wrAck h => ringWrAck s h
  | .err h st w => ringErr s h st w
  | .credit h sl a b => ringCredit s h sl a b

/-- A message arrives at this controller: its receive buffer frees, and it has ended under its epoch (R348, R365). -/
def ringArrive (s : State) (i : Input) (m : RingMsg) : State :=
  match i, m with
  | _, .snp k h b => snoopArrive s i k h b
  | .ring p, m => ringDeliver (countEnded (freeRx s p (creditIx m)) (isUp p) (hdrOf m).epoch) i m
  | .fabric, m => ringDeliver s i m

/-- A message that passed screening is delivered, forwarded, or crosses (R133, R173-R176). -/
def ringRoute (s : State) (p : RingPort) (m : RingMsg) : State :=
  match m with
  | .snp _ _ _ => ringArrive s (.ring p) m
  | m =>
    match hop s (isUp p) m with
    | .here => ringArrive s (.ring p) m
    | .port q => sendBy s q (some p) m
    | .cross => crossTransit s p m
    | .nowhere => countEnded (freeRx (trouble s (blkRing p) kPrlUnroutable) p (creditIx m)) (isUp p) (hdrOf m).epoch

/-- The link credit that a header's class and opcode spend, where the class exists (R183, R348). -/
def creditOfHdr (v : Slot) : Option Nat :=
  match hdrClass v with
  | 0 => some 0
  | 1 => some (if hdrOp v ≤ 1 then 1 else 2)
  | 2 => some 3 | 3 => some 4 | 4 => some 5 | 5 => some 6
  | _ => none
/-- A whole message has come: it is checked for its credit, screened, and takes its way (R366-R368). -/
def ringMessage (s : State) (p : RingPort) (f : PrlFrame) (v : Slot) (ds : Slots) : State :=
  let x := ringPort s p
  if (creditOfHdr v).any fun k => decide (creditCap k ≤ tget 0 x.rxUsed k) then
    quarantine (captureRing (trouble s (blkRing p) kPrlScrCredit) p f v) p
  else
    match msgOf v ds with
    | none => countScreen (countEnded (captureRing (trouble s (blkRing p) kPrlScrOp) p f v) (isUp p) (hdrFields v).epoch) p
    | some m =>
      let k := creditIx m
      match screenFail s p v with
      | some kind =>
        let s := captureRing (trouble s (blkRing p) kind) p f v
        let s := countEnded s (isUp p) (hdrFields v).epoch
        if kind = kPrlStaleEpoch ∨ kind = kPrlUnroutable then s else countScreen s p
      | none => ringRoute (countRate (putRing s p { x with rxUsed := tset 0 x.rxUsed k (tget 0 x.rxUsed k + 1) }) p v) p m

/-! Authentication (R355-R358). -/

/-- The 2-bit code of a ring port (R355). -/
def portCode (p : RingPort) : BitVec 2 := BitVec.ofNat 2 (ringIx p)
/-- The key of a generation (R358). -/
def keyOf (s : State) (gen : BitVec 8) : Option (BitVec 256) :=
  if s.net.key0.valid && s.net.key0.gen == gen then some s.net.key0.key
  else if s.net.key1.valid && s.net.key1.gen == gen then some s.net.key1.key
  else none
/-- The active key slot. -/
def activeKeySlot (s : State) : KeySlot := if s.net.activeKey then s.net.key1 else s.net.key0
/-- The 43 bytes of R356 for the MAC of side X. -/
def macMessage (x : CtrlId) (px : BitVec 2) (y : CtrlId) (py : BitVec 2) (kgen : BitVec 8) (ny nx : BitVec 128) :
    List Byte :=
  [0x50, 0x52, 0x4C, 0x31] ++ bytesOf x 2 ++ bytesOf px 1 ++ bytesOf y 2 ++ bytesOf py 1 ++ [kgen]
    ++ bytesOf ny 16 ++ bytesOf nx 16
/-- A MAC: the first 16 bytes of the HMAC (R356). -/
def macOf (key : BitVec 256) (msg : List Byte) : BitVec 128 :=
  BitVec.ofNat 128 (natOfBytes ((hmac (bytesOf key 32) msg).take 16))

/-- A new exchange with a fresh nonce (R355). -/
def authStart (s : State) (p : RingPort) : State :=
  let n := Config.freeNonce s.free
  let s := { s with free := s.free + 1 }
  let x := ringPort s p
  let s := putRing s p { x with state := .auth, auth := some ⟨s.now, n, (activeKeySlot s).gen, none, false, false, none⟩ }
  sendMgmt s p (.authChal 1 (portCode p) s.net.ctrlId (activeKeySlot s).gen n)

/-- The exchange ends with a result other than PASS (R357, R368). -/
def authFail (s : State) (p : RingPort) (r : BitVec 4) : State :=
  let x := ringPort s p
  match x.auth with
  | none => s
  | some a =>
    let fails := (x.authFails ++ [s.now]).filter fun t => decide (s.now.toNat < t.toNat + 10000000000)
    let s := putRing s p { x with auth := some { a with failed := some s.now }, authResult := r, authFails := fails }
    let s := trouble s (blkRing p) kPrlAuthFail
    if 3 ≤ fails.length then quarantine s p else s

/-- Both sides have passed: the port enters STANDBY and a census starts (R355, R359). -/
def authTry (s : State) (p : RingPort) : State :=
  let x := ringPort s p
  match x.auth with
  | some a =>
    if a.sentDone ∧ a.gotDone ∧ a.failed = none then
      startCensus (putRing s p { x with state := .standby, auth := none, partnerValid := true }) (isUp p)
    else s
  | none => s

/-- AUTH_CHAL (R344, R355-R357). -/
def authChal (s : State) (p : RingPort) (ver : BitVec 4) (port : BitVec 2) (ctrl : CtrlId) (kgen : BitVec 8)
    (nonce : BitVec 128) : State :=
  let x := ringPort s p
  match x.state, x.auth with
  | .auth, some a =>
    if a.failed.isSome then s
    else
      let x := { x with partnerId := ctrl, partnerPort := port, partnerValid := false }
      let s := putRing s p x
      let eastX := p == .ringE || p == .upA
      let eastY := port == 0 || port == 2
      let oneUp := isUp p != (port == 2 || port == 3)
      let same := ringOf ctrl == myRing s
      if ver ≠ 1 then authFail (sendMgmt s p (.authDone 5)) p 5
      else if eastX == eastY then authFail (sendMgmt s p (.authDone 3)) p 3
      else if (oneUp && same) || (!isUp p && !oneUp && !same) then authFail (sendMgmt s p (.authDone 4)) p 4
      else
        match keyOf s kgen with
        | none => authFail (sendMgmt s p (.authDone 2)) p 2
        | some k =>
          let s := putRing s p { x with auth := some { a with chal := some (ctrl, port, kgen, nonce) } }
          sendMgmt s p (.authResp (macOf k (macMessage s.net.ctrlId (portCode p) ctrl port kgen nonce a.nonce)))
  | _, _ => s

/-- AUTH_RESP (R356): the partner answers the generation that this side offered. -/
def authResp (s : State) (p : RingPort) (mac : BitVec 128) : State :=
  let x := ringPort s p
  match x.state, x.auth with
  | .auth, some a =>
    if a.failed.isSome then s
    else
      match a.chal with
      | none => s
      | some (ctrl, port, _, nonce) =>
        match keyOf s a.offered with
        | none => authFail (sendMgmt s p (.authDone 2)) p 2
        | some k =>
          if mac ≠ macOf k (macMessage ctrl port s.net.ctrlId (portCode p) a.offered a.nonce nonce) then
            authFail (sendMgmt s p (.authDone 1)) p 1
          else
            let s := putRing s p { x with auth := some { a with sentDone := true }, authResult := 0, authKgen := a.offered }
            authTry (sendMgmt s p (.authDone 0)) p
  | _, _ => s

/-- AUTH_DONE (R355, R357). -/
def authDone (s : State) (p : RingPort) (r : BitVec 4) : State :=
  let x := ringPort s p
  match x.state, x.auth with
  | .auth, some a =>
    if a.failed.isSome then s
    else if r ≠ 0 then authFail s p r
    else authTry (putRing s p { x with auth := some { a with gotDone := true } }) p
  | _, _ => s

/-- The exchange has not completed within 1 ms (R357). -/
def authTimeout (s : State) (p : RingPort) : State :=
  let x := ringPort s p
  match x.state, x.auth with
  | .auth, some a => if a.failed.isNone && due s a.start 1000 then authFail s p 6 else s
  | _, _ => s
/-- A failed exchange starts again after 100 ms (R357). -/
def authRestart (s : State) (p : RingPort) : State :=
  let x := ringPort s p
  match x.state, x.auth with
  | .auth, some a =>
    match a.failed with
    | some t => if due s t 100000 then authStart s p else s
    | none => s
  | _, _ => s

/-- A ring port completes training, block lock and deskew on a lane set and enters AUTH (R354); a port that sees
    100GBASE-R markers stays in training (R343). -/
def trainDone (s : State) (p : RingPort) (lanes : BitVec 8) (isForeign : Bool) : State :=
  let x := ringPort s p
  if x.state ≠ .training then s
  else if isForeign then trouble s (blkRing p) kPrlPrlForeign
  else
    authStart (putRing s p { x with
      lanes := lanes, spent := [], rxUsed := [], rxNext := 0, ackv := false, nakSent := false, txNext := 0, unacked := []
      replays := 0, part := none, failedLanes := ~~~lanes, turn := false }) p

/-! Retry (R319-R321, R349). -/

/-- Replay timer value in ticks (R341, R381): units of 4 ns, at least 64. -/
def replayNs (t : BitVec 12) : Nat := 4 * max 64 t.toNat
/-- The oldest unacknowledged frame has waited REPLAY_TMO. -/
def replayDue (s : State) (x : RingPortSt) : Bool :=
  match x.unacked with
  | (_, t, _) :: _ => decide (t.toNat + replayNs x.replayTmo ≤ s.now.toNat)
  | [] => false
/-- Every unacknowledged frame is sent again; after REPLAY_MAX replays without progress the port goes down (R349). -/
def ringReplay (s : State) (p : RingPort) : State :=
  let x := ringPort s p
  if x.unacked.isEmpty then s
  else if max 1 x.replayMax.toNat ≤ x.replays then portFail s p
  else
    let s := trouble s (blkRing p) kPrlRingReplay
    let s := putRing s p { x with replays := x.replays + 1, unacked := x.unacked.map fun u => (u.1, s.now, u.2.2) }
    { s with out := s.out ++ x.unacked.map fun u => .frameAgain p u.1 u.2.2 }
/-- An acknowledgement removes every frame up to ACKSEQ (R319). -/
def ringAck (s : State) (p : RingPort) (seq : BitVec 12) : State :=
  let x := ringPort s p
  match x.unacked.findIdx? fun u => u.1 == seq with
  | none => s
  | some j =>
    let s := if replayDue s x then trouble s (blkRing p) kPrlTimeoutRace else s
    putRing s p { x with unacked := x.unacked.drop (j + 1), replays := 0 }
/-- A NAK sent, unless one has been sent since the last accepted frame (R319). -/
def ringNak (s : State) (p : RingPort) : State :=
  let x := ringPort s p
  if x.nakSent then s else { putRing s p { x with nakSent := true } with out := s.out ++ [.frameNak p] }

/-- Credits that a trailer returns, by class (R345). -/
def trailerCredits (t : BitVec 96) : List Nat :=
  [(t.extractLsb' 16 5).toNat, (t.extractLsb' 21 5).toNat, (t.extractLsb' 26 4).toNat, (t.extractLsb' 30 5).toNat
   , (t.extractLsb' 35 5).toNat, (t.extractLsb' 40 5).toNat, (t.extractLsb' 45 5).toNat, (t.extractLsb' 50 4).toNat]
/-- The starvation in µs after which a port goes down (R370, R381). -/
def retireUs (x : RingPortSt) : Nat := if x.retireUs.toNat < x.starve.toNat then max 20 x.starve.toNat else max 100 x.retireUs.toNat
/-- Returned credits taken (R348); a return in the cycle of a starvation timer's expiry goes first (R370). -/
def takeCredits (s : State) (p : RingPort) (t : BitVec 96) : State :=
  let x := ringPort s p
  let cs := trailerCredits t
  let raced := (List.range 7).any fun k =>
    let st := tget 0 x.starved k
    st ≠ 0 && 0 < cs.getD k 0
      && ((!x.slow && decide (st - 1 + 1000 * max 20 x.starve.toNat ≤ s.now.toNat)) || decide (st - 1 + 1000 * retireUs x ≤ s.now.toNat))
  let s := if raced then trouble s (blkRing p) kPrlTimeoutRace else s
  let sp := (List.range 8).foldl (fun sp k => tset 0 sp k (tget 0 sp k - cs.getD k 0)) x.spent
  pump (putRing s p { x with spent := sp }) p

/-! Lanes (R350-R352). -/

/-- The lane sets of R350, largest and lowest-numbered first, with their sizes. -/
def laneSets : List (Nat × BitVec 8) :=
  [(8, 0xFF), (4, 0x0F), (4, 0xF0), (2, 0x03), (2, 0x0C), (2, 0x30), (2, 0xC0)]
/-- The fewest lanes (R381). -/
def minLanes (m : BitVec 2) : Nat := match m.toNat with | 1 => 4 | 2 => 8 | _ => 2
/-- The set that a port proposes (R351). -/
def bestSet (x : RingPortSt) : Option (BitVec 8) :=
  (laneSets.find? fun e => e.2 &&& x.failedLanes == 0 && decide (minLanes x.minlanes ≤ e.1)).map Prod.snd
/-- A port proposes a set after a lane has failed, or goes down when none is left (R351, R352). -/
def proposeLanes (s : State) (p : RingPort) : State :=
  let x := ringPort s p
  match bestSet x with
  | none => portFail s p
  | some b =>
    if b = x.lanes ∨ x.laneProp.isSome then s
    else sendMgmt (putRing s p { x with laneProp := some (b, s.now) }) p (.laneSet b)
/-- An uncorrectable codeword on a lane (R351). -/
def countUcw (s : State) (p : RingPort) (lane : BitVec 3) : State :=
  let x := ringPort s p
  let w := s.now.toNat / 1000000
  let t := if w = x.ucwWin then x.ucw else []
  let n := tget 0 t lane.toNat + 1
  let bad := decide (max 1 x.ucwLimit.toNat ≤ n)
  let s := putRing s p { x with ucw := tset 0 t lane.toNat n, ucwWin := w
                                failedLanes := if bad then setBit x.failedLanes lane.toNat true else x.failedLanes }
  if bad && x.lanes.getLsbD lane.toNat then proposeLanes s p else s
/-- Lanes lose block lock: with none left of its set the port goes down, else it proposes another set (R351, R371). -/
def blockLoss (s : State) (p : RingPort) (lanes : BitVec 8) : State :=
  let x := ringPort s p
  if x.state = .down ∨ x.state = .quarantined ∨ x.state = .retired then s
  else
    let s := putRing s p { x with failedLanes := x.failedLanes ||| lanes }
    if x.lanes &&& ~~~(x.failedLanes ||| lanes) = 0 then portFail s p else proposeLanes s p
/-- LANE_SET: both sides switch to the set; unacknowledged frames follow again (R351). -/
def laneSet (s : State) (p : RingPort) (set : BitVec 8) : State :=
  let x := ringPort s p
  if x.state ≠ .active ∧ x.state ≠ .standby then s
  else if set &&& x.failedLanes ≠ 0 ∨ ¬ laneSets.any (fun e => e.2 == set) then s
  else
    let s := match x.laneProp with
      | some (b, _) => if b = set then s else sendMgmt s p (.laneSet set)
      | none => sendMgmt s p (.laneSet set)
    let x := ringPort s p
    let s := putRing s p { x with lanes := set, laneProp := none }
    let s := trouble { s with out := s.out ++ x.unacked.map fun u => .frameAgain p u.1 u.2.2 } (blkRing p) kPrlLaneDrop
    startCensus s (isUp p)
/-- A LANE_SET exchange that has not completed in 20 µs (R352). -/
def laneSetTimeout (s : State) (p : RingPort) : State :=
  match (ringPort s p).laneProp with
  | some (_, t) => if due s t 20 then portFail s p else s
  | none => s

/-! Slow partners (R369, R370). -/

/-- The longest starvation of a class has lasted `us` µs. -/
def starvedFor (s : State) (x : RingPortSt) (us : Nat) : Bool :=
  x.starved.any fun e => decide (e.2 - 1 + 1000 * us ≤ s.now.toNat)
/-- A slow notice taken: credits to the node are held back, or released (R369). -/
def markSlow (s : State) (node : NodeId) (on : Bool) : State :=
  let s := { s with slow := setBit s.slow node.toNat on }
  if on then s else returnWithheld s
/-- A slow notice sent both ways round the ring of a port. -/
def sendSlow (s : State) (p : RingPort) (on : Bool) : State :=
  let n := nodeOf (ringPort s p).partnerId
  let s := markSlow s n on
  let s := if mgmtUp s p then sendMgmt s p (.slow s.net.ctrlId n on) else s
  if mgmtUp s (otherPort p) then sendMgmt s (otherPort p) (.slow s.net.ctrlId n on) else s
/-- The starvation timer of a port (R369). -/
def starveTimer (s : State) (p : RingPort) : State :=
  let x := ringPort s p
  if x.slow ∨ ¬ starvedFor s x (max 20 x.starve.toNat) then s
  else sendSlow (raiseEvt (raiseErr (putRing s p { x with slow := true }) (blkRing p) 8) 9) p true
/-- Starvation lasts RETIRE µs: the port goes down (R370). -/
def starveRetire (s : State) (p : RingPort) : State :=
  let x := ringPort s p
  if starvedFor s x (retireUs x) then portFail s p else s
/-- 100 ms without starvation (R369). -/
def slowClear (s : State) (p : RingPort) : State :=
  let x := ringPort s p
  if x.slow && x.starved.isEmpty && due s x.unstarved 100000 then sendSlow (putRing s p { x with slow := false }) p false
  else s
/-- A SLOW notice arrives, and goes on until it is back where it began (R369). -/
def slowArrive (s : State) (p : RingPort) (origin : CtrlId) (node : NodeId) (on : Bool) : State :=
  if origin = s.net.ctrlId then s
  else
    let s := markSlow s node on
    if mgmtUp s (otherPort p) then sendMgmt s (otherPort p) (.slow origin node on) else s

/-- A failed port with AUTO_RETURN tries again after 1 s (R375). -/
def autoReturn (s : State) (p : RingPort) : State :=
  let x := ringPort s p
  match x.failedAt with
  | some t =>
    if x.autoReturn && x.en && x.state == .down && due s t 1000000 then
      putRing s p { x with state := .training, failedAt := some s.now }
    else s
  | none => s

/-- LINK_CTL.EN written (R354): a port set in DOWN trains; a port cleared goes down. -/
def ringEnWrite (s : State) (p : RingPort) (en : Bool) : State :=
  let x := ringPort s p
  let s := putRing s p { x with en := en }
  -- a controller with an enabled UP port is a bridge (R11)
  let s := { s with net := { s.net with isBridge := (ringPort s .upA).en || (ringPort s .upB).en } }
  if en then (if x.state = .down ∧ ¬ x.en then putRing s p { x with en := true, state := .training } else s)
  else if x.state = .quarantined ∨ x.state = .retired then s
  else
    let s := portFail s p
    putRing s p { ringPort s p with failedAt := none }

end Sys2Proof.Machine
end

