-- ==== Sys2Proof/Machine/Epoch.lean ====
section
/-! DEFINITION. The shape of the ring: the census (R359-R361), route epochs (R362-R365), the ends that a lost ring or
    home brings (R373, R571, R572), device time over the ring (R376-R378), and ring frames (R345-R349). -/

namespace Sys2Proof.Machine

/-! The tables of an epoch (R172, R173, R361, R362). -/

/-- The node ID of each record, in order: an upper position takes the lowest ID that no other record uses (R361). -/
def nodeIds (recs : List CensusRec) : List NodeId :=
  let taken := recs.filterMap fun r => if r.upper then none else some (nodeOf r.ctrlId).toNat
  (recs.foldl (fun (a : List NodeId × List Nat) r =>
    if r.upper then
      match firstFree a.2 16 with
      | some n => (a.1 ++ [BitVec.ofNat 4 n], n :: a.2)
      | none => (a.1 ++ [0], a.2)
    else (a.1 ++ [nodeOf r.ctrlId], a.2)) ([], taken)).1

/-- The direction from position i to position j of a ring of n positions: the direction of fewer hops, east on a tie;
    on a chain the only one (R362). 1 is east, 2 west. -/
def dirOf (folded : Bool) (n i j : Nat) : BitVec 2 :=
  if i = j then 0
  else if folded then (if i < j then 1 else 2)
  else if (j + n - i) % n ≤ (i + n - j) % n then 1 else 2

/-- The tables of this member for a census result (R362). -/
def buildSlot (s : State) (upper : Bool) (epoch : BitVec 4) (r : EpochResult) : EpSlot :=
  let ids := nodeIds r.recs
  let n := ids.length
  let mine := (r.recs.findIdx? fun x => x.ctrlId == s.net.ctrlId && x.upper == upper).getD 0
  let me := ids.getD mine 0
  let ring : BitVec 8 := ((r.recs.find? fun x => !x.upper).map fun x => ringOf x.ctrlId).getD (posOf s upper).ring
  let dirs : Table (BitVec 2) := (List.range 16).foldl (fun t k =>
    tset 0 t k (match ids.findIdx? fun x => x.toNat == k with
      | some j => dirOf r.folded n mine j
      | none => 3)) []
  let pairs := r.recs.zip ids
  let gates := pairs.filterMap fun x =>
    if x.1.upper || x.1.bridge then some (x.2, x.1.ctrlId) else none
  let entry (g : NodeId) : BitVec 6 := if g = me then 0b110000 else 0b100000 ||| g.setWidth 6
  let routes : Table (BitVec 6) := (List.range 256).foldl (fun t k =>
    tset 0 t k (
      if k = ring.toNat then 0b010000
      else
        match pairs.find? fun x => x.1.upper && x.1.subtree.getLsbD k with
        | some x => entry x.2
        | none =>
          match pairs.find? fun x => !x.1.upper && x.1.bridge with
          | some x => entry x.2
          | none => 0)) []
  { epoch := epoch, dirs := dirs, routes := routes
    members := ids.foldl (fun m i => setBit m i.toNat true) 0
    folded := r.folded, gates := gates, order := ids
    east := decide (1 < n) && (!r.folded || decide (mine + 1 < n))
    west := decide (1 < n) && (!r.folded || decide (0 < mine)) }

/-- The records in eastward order: a census that turned at the east end recorded the western members after it (R359). -/
def ringOrder (recs : List CensusRec) (folded : Bool) : List CensusRec :=
  if !folded then recs
  else
    match recs.findIdx? fun r => r.eps == 3 with
    | some k => (recs.drop (k + 1)).reverse ++ recs.take (k + 1)
    | none => recs

/-! Census (R359, R361). -/

/-- Both ways out of a position that carry management slots. -/
def sendBoth (s : State) (upper : Bool) (m : Mgmt) : State :=
  let s := if mgmtUp s (eastPort upper) then sendMgmt s (eastPort upper) m else s
  if mgmtUp s (westPort upper) ∧ ((posOf s upper).census.any fun r => r.eps == 3) then sendMgmt s (westPort upper) m
  else if mgmtUp s (eastPort upper) then s
  else if mgmtUp s (westPort upper) then sendMgmt s (westPort upper) m
  else s

/-- The initiator sends EPOCH_PREP for the next epoch, or keeps the result while an old epoch is live (R363, R364). -/
def prepEpoch (s : State) (upper : Bool) (r : EpochResult) : State :=
  let x := posOf s upper
  if x.old.isSome then putPos s upper { x with waiting := some r }
  else
    let e := x.cur.epoch + 1
    let slot := buildSlot s upper e r
    let others := (r.recs.map (·.ctrlId)).filter fun c => c != s.net.ctrlId
    let tm : Option Tick := if others.isEmpty then some (s.now + 100000) else none
    let s := putPos s upper { x with next := some slot, nextTm := tm, unacked := others, prepBy := s.net.ctrlId
                                     prepRes := r, waiting := none }
    sendBoth s upper (.epochPrep s.net.ctrlId e r none)

/-- Result word 0 of RING_CENSUS (R437). -/
def censusWord (s : State) (upper : Bool) : Word :=
  let x := posOf s upper
  let chain := x.census.any fun r => r.eps == 3 || r.wps == 3
  BitVec.ofNat 32 (x.census.length % 32) ||| (if chain then 0x20 else 0) ||| (if x.censusDup then 0x40 else 0)
    ||| (if x.censusRefused then 0x80 else 0) ||| x.ring.setWidth 32 <<< 8
/-- The membership mask of the last census: the node IDs that its records take. -/
def censusMask (s : State) (upper : Bool) : Word :=
  ((nodeIds (posOf s upper).census).foldl (fun (v : BitVec 16) n => setBit v n.toNat true) 0).setWidth 32
/-- Lantern-B keeps the UP ports of this bridge out of service: with its ring joined, T would be above 25 µs, or the longest path
    would have more than 64 links (R201, R378). -/
def treeRefused (s : State) : Bool := s.net.isBridge && (decide (25000 < treeT s) || decide (64 < treeLinks s))
/-- The ring whose members a census lists. -/
def ringOfRecs (recs : List CensusRec) (d : BitVec 8) : BitVec 8 := ((recs.find? fun x => !x.upper).map fun x => ringOf x.ctrlId).getD d
/-- The census ends with its records (R359, R361): a node ID that two members use reports CENSUS_DUP and starts no epoch. The
    result reports a refusal of the tree budget (R201, R378). -/
def censusEnd (s : State) (upper : Bool) (c : Census) : State :=
  let x := posOf s upper
  let recs := ringOrder c.recs (c.turns != 0)
  let ids := recs.filterMap fun r => if r.upper then none else some (nodeOf r.ctrlId)
  let dup := ids.any fun i => 1 < (ids.filter (· == i)).length
  let s := putPos s upper { x with ring := ringOfRecs recs x.ring, census := recs, censusRun := false, censusDup := dup }
  let s := putPos s upper { posOf s upper with censusRefused := treeRefused s }
  let s := if upper then s else { s with net := { s.net with ctrlIdValid := true } }
  let s := raiseEvt (count s 0x17B) 9
  let s := logAdd s 0x09 [censusWord s upper, censusMask s upper]
  if dup then s else prepEpoch s upper ⟨recs, c.turns != 0⟩

/-- A CENSUS slot arrives (R359). -/
def censusArrive (s : State) (p : RingPort) (c : Census) : State :=
  let upper := isUp p
  let x := posOf s upper
  let on := otherPort p
  let fwd (s : State) (c : Census) : State :=
    if censusUp s on ∧ censusUp s p then sendMgmt s on (.census c) else sendMgmt s p (.census { c with turns := c.turns + 1 })
  if c.initiator = s.net.ctrlId then
    if ¬ x.censusRun then s
    else if c.turns = 1 ∧ censusUp s on then sendMgmt s on (.census c)
    else censusEnd s upper c
  else if x.censusRun ∧ s.net.ctrlId.toNat < c.initiator.toNat then s
  else
    let s := putPos s upper { x with censusRun := false }
    let me := ownRecord s upper
    let c := if c.recs.any fun r => r.ctrlId == me.ctrlId && r.upper == upper then c else { c with recs := c.recs ++ [me] }
    let s := putPos s upper { posOf s upper with census := c.recs }
    fwd s c

/-! Epochs (R363-R365). -/

/-- EPOCH_PREP at a member: the first stages the tables and is acknowledged, the second carries Tm (R363). -/
def epochPrep (s : State) (p : RingPort) (initiator : CtrlId) (e : BitVec 4) (r : EpochResult) (tm : Option Tick) : State :=
  let upper := isUp p
  if initiator = s.net.ctrlId then s
  else
    let x := posOf s upper
    let s := match tm with
      | none =>
        let s := putPos s upper { x with next := some (buildSlot s upper e r), nextTm := none, prepBy := initiator, prepRes := r }
        sendMgmt s p (.epochAck s.net.ctrlId e)
      | some t => putPos s upper { x with nextTm := some t }
    if mgmtUp s (otherPort p) then sendMgmt s (otherPort p) (.epochPrep initiator e r tm) else s

/-- EPOCH_ACK: the initiator gathers them; after the last it sets Tm (R363). -/
def epochAck (s : State) (p : RingPort) (member : CtrlId) (e : BitVec 4) : State :=
  let upper := isUp p
  let x := posOf s upper
  if x.prepBy ≠ s.net.ctrlId then
    if mgmtUp s (otherPort p) then sendMgmt s (otherPort p) (.epochAck member e) else s
  else if x.nextTm.isSome ∨ ¬ x.unacked.contains member then s
  else
    let left := x.unacked.filter (· ≠ member)
    if left.isEmpty then
      let tm := s.now + 100000
      let s := putPos s upper { x with unacked := [], nextTm := some tm }
      sendBoth s upper (.epochPrep s.net.ctrlId e x.prepRes (some tm))
    else putPos s upper { x with unacked := left }

/-- A home that no route reaches (R571). -/
def unreachable (s : State) (h : CtrlId) : Bool :=
  let t := s.net.lower.cur
  if h = s.net.ctrlId then false
  else if ringOf h = myRing s then !t.members.getLsbD (nodeOf h).toNat
  else actOf (tget 0 t.routes (ringOf h).toNat) == 0

/-- What R571 does for a home that has become unreachable: open ring entries close with status ring timeout, credits for
    it are discarded. -/
def loseHome (s : State) (h : CtrlId) : State :=
  let s := { s with home := { s.home with lostHomes := s.home.lostHomes ++ [(h, s.now)] } }
  let s := (List.range 16).foldl (fun s k =>
    let sl : SliceId := BitVec.ofNat 4 k
    (missOf s sl).foldl (fun s e =>
      if e.2.home = h ∧ e.2.kind ≠ .waiting ∧ e.2.kind ≠ .loc ∧ ¬ e.2.noMsg ∧ e.2.grant.isNone then
        let s := trouble s (blkSlc sl) kSlcHomeGone
        let s := if e.2.abandoned then s else answerErr s sl e.2.req 0x0A
        closeEntry s sl e.1 (place s e.2.req.laddr)
      else s) s) s
  let n := (nodeOf h).toNat
  if ringOf h = myRing s then
    { s with home := { s.home with
      reqSpent := (List.range 16).foldl (fun t k => tset 0 t (n * 16 + k) 0) s.home.reqSpent
      wbkSpent := tset 0 s.home.wbkSpent n 0
      farSpent := (List.range 16).foldl (fun t k => tset 0 t (n * 16 + k) 0) s.home.farSpent
      reqWait := s.home.reqWait.filter fun w => (missAt s w.1 w.2.toNat).isSome } }
  else s

/-- Homes of the live home map judged anew (R571). -/
def judgeHomes (s : State) : State :=
  let hs := ((s.home.mapLive.map Prod.snd).filterMap fun e => if e.valid then some e.home else none).eraseDups
  let s := { s with home := { s.home with lostHomes := s.home.lostHomes.filter fun x => unreachable s x.1 } }
  hs.foldl (fun s h => if unreachable s h ∧ ¬ homeLost s h then loseHome s h else s) s

/-! Whom a node follows in device time (R376), and the registers that show it (R380). -/

/-- The time master of the ring of a position: its bridge, or in a ring that has none the member with the lowest node ID (R376). An
    upper position is no member. -/
def timeMaster (s : State) (upper : Bool) : NodeId :=
  let x := posOf s upper
  let t := x.cur
  match t.gates.find? fun g => ringOf g.2 == x.ring with
  | some g => g.1
  | none => BitVec.ofNat 4 ((t.order.filter fun n => !t.gates.any fun g => g.1 == n).foldl (fun m n => min m n.toNat) 15)
/-- The node position that position n follows, one hop nearer the master (R376). -/
def followsOf (s : State) (upper : Bool) (n : NodeId) : Option NodeId :=
  let t := (posOf s upper).cur
  let k := t.order.length
  match t.order.findIdx? (· == n), t.order.findIdx? (· == timeMaster s upper) with
  | some i, some j =>
    if i = j then none
    else if dirOf t.folded k i j = 1 then t.order[(i + 1) % k]? else t.order[(i + k - 1) % k]?
  | _, _ => none
/-- The neighbour at a ring port. -/
def neighbour (s : State) (p : RingPort) : Option NodeId :=
  let x := posOf s (isUp p)
  let t := x.cur
  let k := t.order.length
  match t.order.findIdx? (· == x.node) with
  | some i => if p == eastPort (isUp p) then t.order[(i + 1) % k]? else t.order[(i + k - 1) % k]?
  | none => none

/-- The registers of R380 brought up to date. A controller that follows no node is LOCKED. Where chains have rejoined (`grew`), a
    node that changes master is not LOCKED until an exchange has shown it within 16 ticks (R378). -/
def syncStatus (s : State) (grew : Bool) : State :=
  let m := timeMaster s false
  let is := m == myNode s
  let alone := is && !(mgmtUp s .upA || mgmtUp s .upB)
  let locked := alone || (s.net.syncLocked && !(grew && m != s.net.syncMaster))
  let t := { s with net := { s.net with
    syncMaster := m, syncIsMaster := is, syncLocked := locked
    syncOffset := if alone then 0 else s.net.syncOffset } }
  if s.net.syncLocked ∧ ¬ locked then raiseEvt t 13 else t

/-- The tables staged by writes of the ring route table and of the screening windows take effect with the epoch
    (R362, R381). -/
def applyStagedRoutes (x : RingPos) (t : EpSlot) : EpSlot :=
  let t := { t with routes := x.staged.foldl (fun r e => tset 0 r e.1 e.2) t.routes }
  let w0 := tget 0 x.stagedWords 0
  let w1 := tget 0 x.stagedWords 1
  let t := if w0 = 0 then t else
    { t with dirs := (List.range 16).foldl (fun d i => tset 0 d i ((w0 - 1).extractLsb' (2 * i) 2)) [] }
  if w1 = 0 then t else
    { t with members := (w1 - 1).extractLsb' 0 16, folded := (w1 - 1).getLsbD 16, epoch := (w1 - 1).extractLsb' 17 4 }

/-- The place of this controller's ring in the tree, as its routes show it (R206, R208): the root ring of a tree has OFS 0; a member
    that is not the bridge takes what the bridge has recorded; a ring that joins no other has no place. -/
def placeRing (s : State) : State :=
  let up := ringChain s (myRing s)
  let n := s.net
  if n.isBridge then s
  else if s.net.lower.cur.gates.isEmpty then
    { s with net := { n with treeOfs := 0, treeRoot := 0, treeDepth := 0, treeValid := false } }
  else
    { s with net := { n with
      treeOfs := if up.length = 1 then 0 else Config.treeOfs (myRing s)
      treeRoot := up.getLastD (myRing s), treeDepth := BitVec.ofNat 4 (up.length - 1), treeValid := true } }
/-- The credits spent are cut to the shares of the new division; the home withholds as many returns (R135, R184, R363). -/
def newShares (s : State) (upper : Bool) : State :=
  let cut (t : Table Nat) (f : Nat → Nat) : Table Nat := t.foldl (fun t e => tset 0 t e.1 (min e.2 (f e.1))) t
  let x := s.home
  { s with home := { x with
    reqSpent := if upper then x.reqSpent else cut x.reqSpent fun k => reqShare s (ctrlOf (myRing s) (BitVec.ofNat 4 (k / 16)))
    farSpent := cut x.farSpent fun k => if (256 ≤ k) = upper then farShare s upper else tget 0 x.farSpent k } }

/-- A writeback of this controller that has still to be injected goes under the new epoch (R363, R373). -/
def noteSent (s : State) (upper : Bool) (m : RingMsg) : State :=
  match m with
  | .wbData h _ =>
    let sl : SliceId := h.txn.extractLsb' 8 4
    let i := (h.txn.extractLsb' 0 7).toNat
    match penAt s sl i with
    | some b =>
      if h.src = s.net.ctrlId ∧ b.mif ∧ b.wbUpper = upper then putPen s sl i (some { b with wbEpoch := (posOf s upper).cur.epoch }) else s
    | none => s
  | _ => s

/-- At Tm the next epoch is current: tables, credit divisions, screening windows (R363); links that it names become
    ACTIVE (R354), but for UP ports that the tree budget keeps out (R201, R378). -/
def epochCommit (s : State) (upper : Bool) : State :=
  let x := posOf s upper
  match x.next, x.nextTm with
  | some t, some tm =>
    if s.now.toNat < tm.toNat then s
    else
      let t := applyStagedRoutes x t
      let s := putPos s upper { x with
        ring := ringOfRecs x.prepRes.recs x.ring, cur := t, old := some x.cur, tm := s.now, next := none, nextTm := none, staged := [], stagedWords := []
        injected := tset 0 x.injected t.epoch.toNat 0, ended := tset 0 x.ended t.epoch.toNat 0
        drainSeen := [], drainInj := 0, drainEnd := 0 }
      let s := if s.net.isBridge then s else { s with regs := { s.regs with pending := setBit s.regs.pending 3 false } }
      let s := if upper then
          let n := ((t.gates.find? fun g => g.2 == s.net.ctrlId).map Prod.fst).getD (posOf s true).node
          putPos s true { posOf s true with node := n }
        else s
      let s := [eastPort upper, westPort upper].foldl (fun s p =>
        let r := ringPort s p
        let on : Bool := match p with
          | .ringE | .upA => t.east
          | .ringW | .upB => t.west
        let s := putRing s p { r with
          win := r.winStaged, state := if on && r.state == .standby && !(isUp p && treeRefused s) then .active else r.state
          turn := if on && (r.state == .standby || r.state == .active) then false else r.turn }
        if r.planned.isSome then s else s) s
      let s := raiseEvt (count s 0x17A) 9
      let s := logAdd s 0x0A [(posOf s upper).cur.epoch.setWidth 32, tm.extractLsb' 0 32, tm.extractLsb' 32 32]
      -- messages that wait to be injected follow the new routes
      let s := [eastPort upper, westPort upper].foldl (fun s p =>
        let l := (ringPort s p).inject
        l.foldl (fun s m => injectIn (noteSent s upper m) upper m) (putRing s p { ringPort s p with inject := [] })) s
      let s := newShares s upper
      let grew := decide (t.members &&& ~~~x.cur.members ≠ 0)
      if upper then s else syncStatus (judgeHomes (placeRing s)) grew
  | _, _ => s

/-- A node's sums for an epoch added to a DRAIN (R365). -/
def drainOwn (s : State) (upper : Bool) (d : DrainSum) : DrainSum :=
  let x := posOf s upper
  { d with injected := d.injected + tget 0 x.injected d.epoch.toNat, ended := d.ended + tget 0 x.ended d.epoch.toNat }

/-- A DRAIN slot: a node adds its counts and passes it on; its origin keeps the sums (R365). -/
def drainArrive (s : State) (p : RingPort) (d : DrainSum) : State :=
  let upper := isUp p
  let x := posOf s upper
  if d.origin = s.net.ctrlId then
    putPos s upper { x with drainInj := d.injected, drainEnd := d.ended, drainSeen := [d.origin] }
  else if mgmtUp s (otherPort p) then sendMgmt s (otherPort p) (.drain (drainOwn s upper d))
  else s
/-- A node starts to gather the counts of its old epoch (R365). -/
def drainSend (s : State) (upper : Bool) : State :=
  match (posOf s upper).old with
  | some o =>
    let d := drainOwn s upper ⟨s.net.ctrlId, o.epoch, 0, 0⟩
    if mgmtUp s (eastPort upper) || mgmtUp s (westPort upper) then sendBoth s upper (.drain d)
    else putPos s upper { posOf s upper with drainInj := d.injected, drainEnd := d.ended, drainSeen := [d.origin] }
  | none => s

/-- Writebacks sent under a drained epoch and not acknowledged go once more (R373). -/
def resendWbs (s : State) (upper : Bool) (epoch : BitVec 4) : State :=
  (List.range 16).foldl (fun s k =>
    let sl : SliceId := BitVec.ofNat 4 k
    (penOf s sl).foldl (fun s e =>
      if e.2.mif ∧ ¬ e.2.resent ∧ e.2.wbUpper = upper ∧ e.2.wbEpoch = epoch ∧ ¬ homeLost s e.2.dest then
        let b := { e.2 with resent := true }
        let m := wbMsg s sl e.1 b
        send (putPen s sl e.1 (some (noteWb s b m))) m
      else s) s) s

/-- The epoch routes over the link at this port. -/
def routesOver (t : EpSlot) (p : RingPort) : Bool :=
  match p with
  | .ringE | .upA => t.east
  | .ringW | .upB => t.west
/-- A ring port taken out by RING_FOLD or PORT_RETIRE goes down when an epoch has taken it out of the routes, its drain has ended and
    its replay buffer is empty (R372). -/
def plannedDown (s : State) (p : RingPort) : State :=
  let x := ringPort s p
  let y := posOf s (isUp p)
  match x.planned with
  | some k =>
    -- RING_FOLD (opcode 0x52) leaves the port DOWN, PORT_RETIRE leaves it RETIRED
    let fold := (s.lan.slots.find? fun e => e.1 == k.toNat).any fun e => e.2.opcode == 0x52
    let st : RpState := if fold then .down else .retired
    if x.unacked.isEmpty && !routesOver y.cur p && y.old.isNone && x.state != .retired && x.state != .down && x.state != .quarantined then
      let s := linkLeave s p st
      putRing s p { ringPort s p with failedAt := none }
    else s
  | none => s

/-- The drain of the old epoch ends: the sums are equal, or 1 ms has passed since Tm; at the limit writebacks are sent
    again (R365, R373); a census result that waited is prepared (R364). -/
def drainEnd (s : State) (upper : Bool) : State :=
  let x := posOf s upper
  match x.old with
  | none => s
  | some o =>
    let balanced := !x.drainSeen.isEmpty && x.drainInj == x.drainEnd
    let late := due s x.tm 1000
    if !balanced && !late then s
    else
      let s := putPos s upper { x with old := none, spare := o, drainSeen := [] }
      let s := if balanced then s else resendWbs s upper o.epoch
      let s := plannedDown (plannedDown s (eastPort upper)) (westPort upper)
      match (posOf s upper).waiting with
      | some r => prepEpoch s upper r
      | none => s

/-- A penumbra buffer whose line's home has been unreachable for 600 s is freed, its data discarded (R572). -/
def lostHome (s : State) (sl : SliceId) (i : Nat) : State :=
  match penAt s sl i with
  | none => s
  | some b =>
    match s.home.lostHomes.find? fun x => x.1 == b.dest with
    | some (_, t) =>
      if b.dirty && due s t 600000000 then
        raiseErr (trouble (penFreed (putPen s sl i none) sl b) (blkSlc sl) kSlcLostWb) (blkSlc sl) 2
      else s
    | none => s

/-! Device time (R376-R378). -/

/-- The exchange period ends: SYNC goes to the neighbours that follow this node, stamped at its departure (R377). -/
def syncPeriod (s : State) : State :=
  if !due s s.net.syncSent (max 16 s.net.syncPeriod.toNat) then s
  else
    let s := syncStatus { s with net := { s.net with syncSent := s.now } } false
    allRing.foldl (fun s p =>
      let me := (posOf s (isUp p)).node
      match neighbour s p with
      | some n =>
        if mgmtUp s p ∧ n ≠ me ∧ followsOf s (isUp p) n = some me then
          sendMgmt (putRing s p { ringPort s p with t1 := some s.now }) p .sync
        else s
      | none => s) s

/-- SYNC arrives: SYNC_RSP carries the arrival and its own departure (R377). -/
def syncArrive (s : State) (p : RingPort) : State :=
  if mgmtUp s p then sendMgmt s p (.syncRsp s.now s.now) else s

/-- A signed number saturated to 16 bits (R380). -/
def sat16 (x : Int) : BitVec 16 := BitVec.ofInt 16 (max (-32768) (min 32767 x))

/-- OFS of the parent ring: 0 where it is the root, else as its own bridge has recorded it (R206). Log entry 107. -/
def parentOfs (s : State) : BitVec 64 :=
  let x := s.net.upper.ring
  if ringAbove s x = x then 0 else Config.treeOfs x
/-- The bridge records the offset of its ring, and its place in the tree (R206, R208). -/
def treeJoin (s : State) (ofs : BitVec 64) : State :=
  let up := ringChain s (myRing s)
  { s with net := { s.net with
    treeOfs := ofs, treeRoot := up.getLastD (myRing s), treeDepth := BitVec.ofNat 4 (up.length - 1), treeValid := true } }

/-- A follower that is `offset` ticks ahead corrects it by trimming its rate, by up to 300 ppm and at a rate that the spec leaves
    open (R376, R378). -/
def syncTrim (s : State) (offset : Int) : State :=
  let mag : Int := ((Config.freeWord s.free).toNat % 30001 : Nat)
  let locked := decide (-16 ≤ offset) && decide (offset ≤ 16)
  let trim : BitVec 16 := if offset = 0 then s.net.trim else if 0 < offset then BitVec.ofInt 16 (-mag) else BitVec.ofInt 16 mag
  let s' := { s with free := s.free + 1, net := { s.net with syncOffset := sat16 offset, syncLocked := locked, trim := trim } }
  if s.net.syncLocked ∧ ¬ locked then raiseEvt s' 13 else s'
/-- The exchange is complete: the four stamps give delay and offset (R377). Before READY the follower steps its time once instead
    (R378). A bridge follows its parent ring: its own ring takes root time where it has not started, and else keeps its count, and
    its offset is recorded once (R206, R376). -/
def syncRsp (s : State) (p : RingPort) (t1 t2 t3 t4 : Tick) (ready : Bool) : State :=
  let a : Int := (t2.toNat : Int) - t1.toNat
  let b : Int := (t4.toNat : Int) - t3.toNat
  let delay := (a + b) / 2
  let offset := (a - b) / 2
  let s := count (putRing s p { ringPort s p with syncDelay := sat16 delay, t1 := none }) 0x17C
  let above : Int := if isUp p then (parentOfs s).toInt else 0
  if ¬ ((neighbour s p).isSome && followsOf s (isUp p) (posOf s (isUp p)).node == neighbour s p) then s
  else if !ready && !s.net.stepped then
    let s := { s with now := BitVec.ofInt 64 ((s.now.toNat : Int) - offset + above), net := { s.net with stepped := true } }
    if isUp p then treeJoin s 0 else s
  else if isUp p then
    let s := if s.net.treeValid then s else treeJoin s (BitVec.ofInt 64 (above - offset))
    syncTrim s (offset + s.net.treeOfs.toInt - above)
  else syncTrim s offset

/-! Ring frames (R345-R349). -/

/-- A management slot whose layout the spec gives takes its effect (R347). -/
def ringMgmt (s : State) (p : RingPort) (v : Slot) : State :=
  if !lanternB s then s else
  match mgmtOf v with
  | some (.census c) => if mgmtUp s p then censusArrive s p c else s
  | some (.authChal ver port c k n) => authChal s p ver port c k n
  | some (.authResp m) => authResp s p m
  | some (.authDone r) => authDone s p r
  | _ => s

/-- One slot of an accepted frame (R345, R347). -/
def ringSlot (f : PrlFrame) (p : RingPort) (s : State) (i : Nat) : State :=
  let x := ringPort s p
  let kind : BitVec 4 := f.hdr.extractLsb' (16 + 4 * i) 4
  let v : Slot := f.slots.extractLsb' (256 * i) 256
  let bad (s : State) (v : Slot) : State :=
    countScreen (captureRing (trouble (putRing s p { ringPort s p with part := none }) (blkRing p) kPrlScrField) p f v) p
  let alive := x.state == .active || x.state == .standby || x.state == .auth
  if !alive then s
  else
    match kind.toNat, x.part with
    | 0, none => s
    | 0, some q => bad s q.hdr
    | 1, some q => bad s q.hdr
    | 1, none =>
      if x.state ≠ .active then s
      else if hdrNdata v = 0 then ringMessage s p f v []
      else putRing s p { x with part := some ⟨v, hdrNdata v, []⟩ }
    | 2, none => ringMgmt s p v
    | 2, some q => bad s q.hdr
    | k, some q =>
      if k = 4 ∨ k = 5 ∨ k = 6 ∨ k = 7 ∨ 12 ≤ k then
        let ds := q.slots ++ [(kind, v)]
        if ds.length = q.need then ringMessage (putRing s p { x with part := none }) p f q.hdr ds
        else putRing s p { x with part := some { q with slots := ds } }
      else bad s q.hdr
    | _, none => bad s v

/-- A ring frame (R349): checked, its acknowledgement and credits taken, then accepted, discarded or NAKed. -/
def ringFrame (s : State) (p : RingPort) (f : PrlFrame) : State :=
  let x := ringPort s p
  if x.state ≠ .active ∧ x.state ≠ .standby ∧ x.state ≠ .auth then s
  else
    let s := match f.ucw with
      | some l => countUcw s p l
      | none => s
    let x := ringPort s p
    if x.state ≠ .active ∧ x.state ≠ .standby ∧ x.state ≠ .auth then s
    else
    let good := f.ucw.isNone
      && crc32c (frameBytes f.hdr f.slots (f.trailer.extractLsb' 0 64)) == f.trailer.extractLsb' 64 32
    if !good then ringNak (trouble s (blkRing p) kPrlRingCrc) p
    else
      let s := if f.trailer.getLsbD 12 then ringAck s p (f.trailer.extractLsb' 0 12) else s
      let s := takeCredits s p f.trailer
      let s := if f.trailer.getLsbD 13 then ringReplay s p else s
      let x := ringPort s p
      let seq : BitVec 12 := f.hdr.extractLsb' 0 12
      if f.hdr.extractLsb' 12 3 ≠ 0 then s
      else if seq = x.rxNext then
        let s := count (putRing s p { x with rxNext := x.rxNext + 1, ackv := true, nakSent := false }) (evRing 1 p)
        pump ((List.range 8).foldl (ringSlot f p) s) p
      else if 2048 ≤ (seq - x.rxNext).toNat then s
      else ringNak s p

/-- The replay timer of a ring port expires (R349). -/
def ringReplayTimer (s : State) (p : RingPort) : State :=
  if replayDue s (ringPort s p) then ringReplay s p else s

end Sys2Proof.Machine
end

