-- ==== Sys2Proof/Machine/Lantern.lean ====
section
/-! DEFINITION. What Lantern's meanings share: operation slots (R423-R426), replies and queues (R414-R419), locks (R421),
    the firmware log (R556), engines (R565) and power domains (R514-R518). -/

namespace Sys2Proof.Machine

/-! Mailboxes. -/

/-- The number of a mailbox (R413). -/
def mbxNo : Mailbox → Nat
  | .host => 0 | .bmc => 1 | .peer => 2 | .debug => 3
/-- The four mailboxes in the order in which they are taken (R420). -/
def mbxOrder : List Mailbox := [.host, .peer, .bmc, .debug]
/-- The number of a master (R451). -/
def masterNo : Master → Nat
  | .mgmt => 0 | .smbus => 1 | .jtag => 2
/-- A mailbox after reset (R414). -/
def mbx0 : MbxSt :=
  { cmds := [], asm := none, rplq := [], held := [], cmdEpoch := 0, rplEpoch := 0, stale := 0, overrun := 0, underrun := 0
    trcEn := false, trcq := [], trcEpoch := 0, trcLost := 0 }
/-- Mailbox m. -/
def mbxSt (s : State) (m : Mailbox) : MbxSt := tget mbx0 s.lan.mbx (mbxNo m)
/-- Mailbox m written. -/
def putMbx (s : State) (m : Mailbox) (x : MbxSt) : State :=
  { s with lan := { s.lan with mbx := tset mbx0 s.lan.mbx (mbxNo m) x } }

/-- CHK of the other seven nibbles of a header (R415). -/
def headerChk (w : Word) : BitVec 4 :=
  0xA ^^^ w.extractLsb' 0 4 ^^^ w.extractLsb' 4 4 ^^^ w.extractLsb' 8 4 ^^^ w.extractLsb' 12 4 ^^^ w.extractLsb' 16 4
    ^^^ w.extractLsb' 20 4 ^^^ w.extractLsb' 24 4
/-- A header from its fields (R415). -/
def mkHeader (code len : BitVec 8) (epoch : BitVec 4) (q : BitVec 8) : Word :=
  let w : Word := code.setWidth 32 ||| len.setWidth 32 <<< 8 ||| epoch.setWidth 32 <<< 16 ||| q.setWidth 32 <<< 20
  w ||| (headerChk w).setWidth 32 <<< 28
/-- Words of an incomplete or waiting command in the queue (R416). -/
def asmWords (c : CmdAsm) : Nat := 1 + c.args.length
/-- Words in the command queue. -/
def cmdWords (x : MbxSt) : Nat := (x.cmds.map asmWords).sum + (x.asm.map asmWords).getD 0

/-- Replies that fit are queued, oldest first; event HOST_RPL or BMC_RPL when the queue becomes non-empty (R419, R440). -/
def pumpReplies (s : State) (m : Mailbox) : Nat → State
  | 0 => s
  | n + 1 =>
    let x := mbxSt s m
    match x.held with
    | r :: rest =>
      if x.rplq.length + r.length ≤ 256 then
        let s' := putMbx s m { x with rplq := x.rplq ++ r, held := rest }
        let s' := if x.rplq = [] ∧ r ≠ [] then (match m with
          | .host => raiseEvt s' 0
          | .bmc => raiseEvt s' 2
          | _ => s') else s'
        pumpReplies s' m n
      else s
    | [] => s

/-- A PEER fragment sent toward a controller, 28 B a slot (R438), or sent on for its sender (R347). -/
def sendPeerFrag (s : State) (src dst : CtrlId) (ws : List Word) (last : Bool) : State :=
  let m : Mgmt := .peer dst src ws last
  let t := s.net.lower.cur
  let n := if ringOf dst = myRing s then nodeOf dst else gateNode s false (ringOf dst)
  match hopTo t false n with
  | .port p => sendMgmt s p m
  | .here => if s.net.isBridge then
      (match hopTo s.net.upper.cur true (gateNode s true (ringOf dst)) with
      | .port p => sendMgmt s (if isUp p then p else .upA) m
      | _ => s) else s
  | _ => s
/-- A PEER command or reply in fragments of seven words. -/
def sendPeer (s : State) (dst : CtrlId) (ws : List Word) : Nat → State
  | 0 => s
  | n + 1 =>
    if ws.length ≤ 7 then sendPeerFrag s s.net.ctrlId dst ws true
    else sendPeer (sendPeerFrag s s.net.ctrlId dst (ws.take 7) false) dst (ws.drop 7) n

/-- One reply (R420): its header and result words. A PEER reply travels back to its sender (R438). -/
def reply (s : State) (m : Mailbox) (src : CtrlId) (status q : BitVec 8) (ws : List Word) : State :=
  let x := mbxSt s m
  let r := mkHeader status (BitVec.ofNat 8 ws.length) x.rplEpoch q :: ws
  match m with
  | .peer => sendPeer s src r (r.length + 1)
  | _ => pumpReplies (putMbx s m { x with held := x.held ++ [r] }) m (x.held.length + 1)

/-! PEER messages that Lantern sends (R438). -/

/-- A PEER command to a controller. -/
def peerCmd (s : State) (dst : CtrlId) (opcode : BitVec 8) (args : List Word) : State :=
  sendPeer s dst (mkHeader opcode (BitVec.ofNat 8 args.length) 0 0 :: args) (args.length + 2)
/-- The controllers that are members of the ring of a position: an upper position names none (R170). -/
def ctrlsOf (s : State) (upper : Bool) : List CtrlId :=
  let x := posOf s upper
  let up (n : Nat) : Bool := x.cur.gates.any fun g => g.1.toNat == n && ringOf g.2 != x.ring
  ((bitsOf x.cur.members).filter fun n => !up n).map fun n => ctrlOf x.ring (BitVec.ofNat 4 n)
/-- The other members of the ring. -/
def otherMembers (s : State) : List CtrlId := (ctrlsOf s false).filter fun c => c != s.net.ctrlId
/-- The other controllers of the tree (R435): those of this ring and of the parent ring as the censuses show them, those of the other
    rings as Config gives them. Log entry 10. -/
def treeMembers (s : State) : List CtrlId :=
  (treeRings s).flatMap fun x =>
    if x = myRing s then otherMembers s
    else if s.net.isBridge && x == s.net.upper.ring then ctrlsOf s true
    else (bitsOf (Config.treeRing x).members).map fun n => ctrlOf x (BitVec.ofNat 4 n)
/-- A PEER command to every other member. -/
def peerAll (s : State) (opcode : BitVec 8) (args : List Word) : State :=
  (otherMembers s).foldl (fun s c => peerCmd s c opcode args) s
/-- PEER_LEDGER: a context's charges added to, or removed from, the ledger of every other member (R246, R438). -/
def peerLedger (s : State) (add : Bool) (c : BitVec 8) (cs : List Charge) : State :=
  let w : Word := (if add then 1 else 0) ||| c.setWidth 32 <<< 8 ||| s.net.ctrlId.setWidth 32 <<< 16
  peerAll s 0xE1 (w :: cs.flatMap fun x => [x.resource, x.rate])

/-! Operation slots. -/

/-- A slot after reset (R423). -/
def opSlot0 : OpSlot :=
  { state := .idle, error := 0, opcode := 0, seq := 0, progress := 0, result := 0, job := .none, objs := [] }
/-- Slot k. -/
def opSlot (s : State) (k : SlotRef) : OpSlot := tget opSlot0 s.lan.slots k.toNat
/-- Slot k written. -/
def putOp (s : State) (k : SlotRef) (x : OpSlot) : State :=
  { s with lan := { s.lan with slots := tset opSlot0 s.lan.slots k.toNat x } }
/-- The slot reference of a mailbox and number. -/
def slotRef (m : Mailbox) (k : BitVec 3) : SlotRef := BitVec.ofNat 2 (mbxNo m) ++ k
/-- The lowest free slot of a mailbox (R424). -/
def freeSlot (s : State) (m : Mailbox) : Option SlotRef :=
  ((List.range 8).map fun i => slotRef m (BitVec.ofNat 3 i)).find? fun k => (opSlot s k).state == .idle
/-- A slot leaves RUNNING: its objects are free again, and its event is set (R421, R424, R440). -/
def endOp (s : State) (k : SlotRef) (st : OpState) (err : BitVec 8) : State :=
  let x := opSlot s k
  if x.state ≠ .running then s
  else
    let s := putOp s k { x with state := st, error := err, job := .none, objs := [] }
    if k.toNat < 8 then raiseEvt s 1 else if k.toNat < 16 then raiseEvt s 3 else s
/-- The progress count, which only rises (R430). -/
def opProgress (s : State) (k : SlotRef) (n : Nat) : State :=
  let x := opSlot s k
  if x.state = .running then putOp s k { x with progress := BitVec.ofNat 32 (max x.progress.toNat n) } else s
/-- Result word i. -/
def opResult (s : State) (k : SlotRef) (i : Nat) (w : Word) : State :=
  let x := opSlot s k
  if x.state = .running then putOp s k { x with result := putBits x.result (32 * i) w } else s
/-- An operation ends DONE. -/
def opDone (s : State) (k : SlotRef) : State := endOp s k .done 0
/-- An operation ends FAILED. -/
def opFail (s : State) (k : SlotRef) (err : BitVec 8) : State := endOp s k .failed err
/-- What an operation is, changed. -/
def opJob (s : State) (k : SlotRef) (j : Job) : State :=
  let x := opSlot s k
  if x.state = .running then putOp s k { x with job := j } else s
/-- The same for an operation that may be Lantern's own, without a slot. -/
def onSlot (s : State) (k : Option SlotRef) (f : State → SlotRef → State) : State :=
  match k with
  | some k => f s k
  | none => s
/-- The running slots. -/
def runningOps (s : State) : List (SlotRef × OpSlot) :=
  s.lan.slots.filterMap fun e => if e.2.state = .running then some (BitVec.ofNat 5 e.1, e.2) else none

/-- Two objects conflict (R421). -/
def conflicts : Obj → Obj → Bool
  | .cache, .part _ => true
  | .part _, .cache => true
  | .bar2 a b, .bar2 c d => decide (a < d) && decide (c < b)
  | x, y => x == y
/-- Some object is locked (R421). -/
def locked (s : State) (os : List Obj) : Bool :=
  (runningOps s).any fun r => r.2.objs.any fun x => os.any (conflicts x)

/-! Beam contexts. -/

/-- A context after reset (R269). -/
def beamCtx0 : BeamCtx :=
  { state := 0, engine := 0, part := 0, degraded := false, dreason := 0, nextRow := 0, lastOpen := 0, rowsDone := 0
    lateLines := 0, lateRows := 0, expired := 0, worstSlack := 0x7FFFFFFF, stageErr := 0, nopin := 0, skipped := 0
    gridFast := 0, lastEdge := 0, staged := 0, desc := 0, start := 0, interval := 0, tlat := 0, allot := [], rows := []
    released := 0, edges := [], edgeCount := 0, lastEdgeNo := 0, lastExpiry := 0, cancelSlot := none, freezeAt := none
    resync := false, resume := 0 }
/-- Context c. -/
def beamCtx (s : State) (c : BitVec 8) : BeamCtx := tget beamCtx0 s.beams.ctx c.toNat
/-- Context c written. -/
def putBeam (s : State) (c : BitVec 8) (x : BeamCtx) : State :=
  { s with beams := { s.beams with ctx := tset beamCtx0 s.beams.ctx c.toNat x } }
/-- The contexts that some beam has used, by number. -/
def beamList (s : State) : List (BitVec 8 × BeamCtx) := s.beams.ctx.map fun e => (BitVec.ofNat 8 e.1, e.2)
/-- Contexts in FREE (R488). -/
def ctxFree (s : State) : Nat := 256 - (s.beams.ctx.filter fun e => e.2.state != 0).length
/-- Contexts of a partition in any state other than FREE (R283). -/
def nbeams (s : State) (p : PartId) : Nat := (s.beams.ctx.filter fun e => e.2.state != 0 && e.2.part == p).length

/-! Power domains (R482, R514). -/

/-- A domain after reset: A0. -/
def dom0 : Dom := ⟨0, none, none, none, none, 0⟩
/-- The domain of a ring port that is not connected (R11). -/
def unwiredDom (s : State) (d : Nat) : Bool := decide (40 ≤ d) && decide (d < 44) && s.unwired.getLsbD (d - 40)
/-- Domain d. That of a ring port that is not connected stays in A3 (R11). -/
def domSt (s : State) (d : Nat) : Dom := if unwiredDom s d then { dom0 with state := 3 } else tget dom0 s.pwr.dom d
/-- Domain d written. -/
def putDom (s : State) (d : Nat) (x : Dom) : State := { s with pwr := { s.pwr with dom := tset dom0 s.pwr.dom d x } }
/-- The domain is in A2 or A3. -/
def asleep (s : State) (d : Nat) : Bool := 2 ≤ (domSt s d).state.toNat
/-- Ticks of a wake from A2 or A3 (R514); A3 is followed by the reinitialisation of R516. -/
def wakeTicks (st : BitVec 2) : Nat := if st.toNat = 3 then 35000 else if st.toNat = 2 then 1500 else 0
/-- Demand reaches the domain no earlier than its alarm, in always-on cycles of 40 ns: it is calendared work (R521). -/
def calendared (s : State) (x : Dom) : Bool := x.alarm.any fun t => decide (t.toNat ≤ (s.now.toNat + 39) / 40 * 40)
/-- A wake of a sleeping domain begins: by demand, or by its alarm (R517, R520, R521). An entry under way is given up. -/
def wakeDom (s : State) (d : Nat) (demand : Bool) : State :=
  let x := domSt s d
  if unwiredDom s d then s
  else if x.entering.isSome then
    trouble (putDom s d { x with entering := none, state := 0, idleFrom := s.now }) 3 kPwrPwrEntryAbort
  else if x.state.toNat < 2 then putDom s d { x with state := 0, idleFrom := s.now }
  else if x.waking.isSome then s
  else putDom s d { x with waking := some s.now, lastDemand := if demand && !calendared s x then some s.now else x.lastDemand }
/-- The power domain whose island counts event e; none for the fabric, Lantern and the always-on island (R490). -/
def eventDomain (e : Nat) : Option Nat :=
  if e < 0xC0 then some (e % 16)
  else if e < 0x100 then some (32 + e % 8)
  else if e < 0x120 then some (40 + e % 4)
  else if e < 0x150 then some (44 + e % 8)
  else if e < 0x160 then some (52 + e % 2)
  else if e < 0x174 then some (54 + (e - 0x160) % 5)
  else none
/-- The counters of a domain that leaves A3 restart from 0 (R498). -/
def restartCounters (s : State) (d : Nat) : State :=
  { s with ctrs := { s.ctrs with fixed := (List.range 0x174).foldl (fun t e =>
      if eventDomain e = some d then tset cnt0 t e ⟨0, false, true⟩ else t) s.ctrs.fixed } }
/-- The domain of a PCP port, ring port, slice (R482). -/
def domPcp (p : PortId) : Nat := 32 + p.toNat
/-- Domain of a ring port. -/
def domRing (p : RingPort) : Nat := 40 + ringIx p

/-- Bits of a word that name a port: 0-7 P0-P7, 8-11 the ring ports. -/
def ringPortOf (n : BitVec 4) : Option RingPort :=
  match n.toNat with
  | 8 => some .ringE | 9 => some .ringW | 10 => some .upA | 11 => some .upB | _ => none

end Sys2Proof.Machine
end

