-- ==== Sys2Proof/Machine/BeamOps.lean ====
section
/-! DEFINITION. Beams (chapter 8): the descriptor, rows and their lines (R232-R238), opening ticks (R234-R236), staging
    and pacing (R255-R260), release and lateness (R265, R270), consumer streams (R261). -/

namespace Sys2Proof.Machine

/-! The descriptor (R238). -/

/-- FORMAT. -/
def dFormat (d : BitVec 512) : BitVec 8 := d.extractLsb' 0 8
/-- PART. -/
def dPart (d : BitVec 512) : PartId := d.extractLsb' 8 6
/-- CPORT. -/
def dPort (d : BitVec 512) : PortId := d.extractLsb' 16 3
/-- CSTREAM. -/
def dStream (d : BitVec 512) : BitVec 8 := d.extractLsb' 20 8
/-- RELM. -/
def dRelm (d : BitVec 512) : BitVec 2 := d.extractLsb' 28 2
/-- XRING. -/
def dXring (d : BitVec 512) : Bool := d.getLsbD 30
/-- FOLDSAFE. -/
def dFoldsafe (d : BitVec 512) : Bool := d.getLsbD 31
/-- BASE, a line address. -/
def dBase (d : BitVec 512) : LineAddr := d.extractLsb' 32 41
/-- SEGS. -/
def dSegs (d : BitVec 512) : Nat := (d.extractLsb' 96 7).toNat
/-- SEG_LINES. -/
def dSegLines (d : BitVec 512) : Nat := (d.extractLsb' 104 10).toNat
/-- SEG_STRIDE, in lines. -/
def dSegStride (d : BitVec 512) : Nat := (d.extractLsb' 128 26).toNat
/-- ROW_STRIDE, in lines. -/
def dRowStride (d : BitVec 512) : Nat := (d.extractLsb' 160 30).toNat
/-- SLOTS. -/
def dSlots (d : BitVec 512) : Nat := (d.extractLsb' 192 17).toNat
/-- EXPIRE. -/
def dExpire (d : BitVec 512) : Nat := (d.extractLsb' 224 17).toNat
/-- TMODE. -/
def dTmode (d : BitVec 512) : BitVec 2 := d.extractLsb' 242 2
/-- The beam follows an encoder. -/
def dEncoder (d : BitVec 512) : Bool := dTmode d == 1
/-- TSRC. -/
def dTsrc (d : BitVec 512) : BitVec 2 := d.extractLsb' 244 2
/-- ROWS, 0 for an unbounded beam. -/
def dRows (d : BitVec 512) : Nat := (d.extractLsb' 256 48).toNat
/-- FIRST_DL. -/
def dFirstDl (d : BitVec 512) : Tick := d.extractLsb' 320 64
/-- PERIOD, in ticks times 65,536. -/
def dPeriod (d : BitVec 512) : Nat := (d.extractLsb' 384 48).toNat
/-- LEAD. -/
def dLead (d : BitVec 512) : Nat := (d.extractLsb' 448 32).toNat
/-- AHEAD. -/
def dAhead (d : BitVec 512) : Nat := (d.extractLsb' 480 16).toNat
/-- p, in whole ticks. -/
def dP (d : BitVec 512) : Nat := dPeriod d / 65536
/-- L, the lines of a row (R232). -/
def dL (d : BitVec 512) : Nat := dSegs d * dSegLines d

/-- The reserved bits of the descriptor (R238). -/
def dReserved (d : BitVec 512) : Bool :=
  d.extractLsb' 14 2 != 0 || d.getLsbD 19 || d.extractLsb' 73 23 != 0 || d.getLsbD 103 || d.extractLsb' 114 14 != 0
    || d.extractLsb' 154 6 != 0 || d.extractLsb' 190 2 != 0 || d.extractLsb' 209 15 != 0 || d.getLsbD 241
    || d.extractLsb' 246 10 != 0 || d.extractLsb' 304 16 != 0 || d.extractLsb' 432 16 != 0 || d.extractLsb' 496 16 != 0

/-- Line number of position i of a row in column order: segment i mod SEGS, line i div SEGS (R232, R256). -/
def beamLineNat (d : BitVec 512) (row i : Nat) : Nat :=
  (dBase d).toNat + row % dSlots d * dRowStride d + i % dSegs d * dSegStride d + i / dSegs d
/-- The line address of a position. -/
def beamLine (d : BitVec 512) (row i : Nat) : LineAddr := BitVec.ofNat 41 (beamLineNat d row i)
/-- The highest line of the beam lies within A[47:0] (R238). -/
def dTop (d : BitVec 512) : Nat :=
  (dBase d).toNat + (dSlots d - 1) * dRowStride d + (dSegs d - 1) * dSegStride d + (dSegLines d - 1)
/-- The format of R238. -/
def descOk (d : BitVec 512) : Bool :=
  dFormat d == 1 && !dReserved d && decide ((dRelm d).toNat ≤ 1) && decide (1 ≤ dSegs d ∧ dSegs d ≤ 64)
    && decide (1 ≤ dSegLines d) && decide (1 ≤ dSlots d ∧ dSlots d ≤ 65536) && decide (1 ≤ dExpire d ∧ dExpire d ≤ 65536)
    && decide ((dTmode d).toNat ≤ 1) && (dEncoder d || dTsrc d == 0) && (!dEncoder d || dFirstDl d == 0)
    && decide (100 * 65536 ≤ dPeriod d) && decide (1 ≤ dLead d)
    && (if dEncoder d then decide (1 ≤ dAhead d) else dAhead d == 0) && decide (dTop d < 2 ^ 41)
/-- All lines of the beam, by slot and position (R232, R233). -/
def beamLines (d : BitVec 512) : List LineAddr :=
  (List.range (dSlots d)).flatMap fun r => (List.range (dL d)).map fun i => beamLine d r i

/-! Openings and deadlines (R234-R236). -/

/-- D(r) of fixed mode. -/
def fixedDeadline (d : BitVec 512) (r : Nat) : Nat := (dFirstDl d).toNat + r * dPeriod d / 65536
/-- The trigger of a row in encoder mode, once it is known: the grid of the pre-roll, or a captured edge (R234). -/
def trigger (x : BeamCtx) (r : Nat) : Option Nat :=
  if r < dAhead x.desc then some (x.start.toNat + r * dP x.desc)
  else (x.edges.find? fun e => e.1 == r).map fun e => e.2.toNat
/-- O(r) of the next row, once it is known, and whether the trigger fell too early (R234, R235). -/
def nextOpen (x : BeamCtx) : Option (Nat × Bool) :=
  let d := x.desc
  let r := x.nextRow.toNat
  if dEncoder d then
    match trigger x r with
    | none => none
    | some t =>
      if r = 0 then some (t, false)
      else
        let c := x.lastOpen.toNat + dP d
        some (max (max t c) x.resume.toNat, decide (t < c))
  else
    -- rows that fell due while the beam was frozen open from the thaw on, one every p ticks (R303)
    let c := if x.resume = 0 then 0 else if x.resume.toNat ≤ x.lastOpen.toNat then x.lastOpen.toNat + dP d else x.resume.toNat
    some (max (fixedDeadline d r - dLead d) c, false)
/-- The beam opens this row: it is not past the last of a finite beam. -/
def rowExists (d : BitVec 512) (r : Nat) : Bool := dRows d == 0 || decide (r < dRows d)
/-- The tick at which the pins of an open row expire, once it is known (R236). -/
def expiryTick (x : BeamCtx) (r : Nat) : Option Nat :=
  let d := x.desc
  let k := r + dExpire d
  if rowExists d k then
    if k = x.nextRow.toNat then (nextOpen x).map Prod.fst
    else if k < x.nextRow.toNat then some 0 else none
  else if dEncoder d then
    (trigger x k).map fun t => max t ((if x.lastExpiry = 0 then x.lastOpen else x.lastExpiry).toNat + dP d)
  else some (fixedDeadline d k - dLead d)

/-! Consumer streams (R261, R262). -/

/-- A beam in RUNNING or FROZEN names the stream. -/
def streamConsumed (s : State) (p : PortId) (st : BitVec 8) : Bool :=
  s.beams.ctx.any fun e => (e.2.state == 2 || e.2.state == 5) && dPort e.2.desc == p && dStream e.2.desc == st
/-- The line is one of the beam's (R232). -/
def beamHas (d : BitVec 512) (l : LineAddr) : Bool :=
  (List.range (dSlots d)).any fun r => (List.range (dSegs d)).any fun k =>
    let lo := (dBase d).toNat + r * dRowStride d + k * dSegStride d
    decide (lo ≤ l.toNat) && decide (l.toNat < lo + dSegLines d)
/-- A consumer read may clear the line's pin: it belongs to no beam in release mode doorbell (R262, R264). -/
def pinReleases (s : State) (l : LineAddr) : Bool :=
  !s.beams.ctx.any fun e =>
    (e.2.state == 2 || e.2.state == 3 || e.2.state == 5) && dRelm e.2.desc == 1 && beamHas e.2.desc l
/-- A stream-table entry after reset: partition 0, VALID (R280). -/
def stream0 : BitVec 8 := 0x40
/-- The CONS mark of a stream made right in both copies of its entry (R261, R280). -/
def markStream (s : State) (p : PortId) (st : BitVec 8) : State :=
  let x := portSt s p
  let on := streamConsumed s p st
  putPort s p { x with
    stream := tset stream0 x.stream st.toNat (setBit (tget stream0 x.stream st.toNat) 7 on)
    streamStaged := tset stream0 x.streamStaged st.toNat (setBit (tget stream0 x.streamStaged st.toNat) 7 on) }
/-- A context enters another state: its consumer mark is made right and the change is logged (R261, R272, R556). -/
def setCtxState (s : State) (c : BitVec 8) (st : BitVec 3) : State :=
  let x := beamCtx s c
  let s := putBeam s c { x with state := st }
  let s := if x.desc ≠ 0 then markStream s (dPort x.desc) (dStream x.desc) else s
  if x.state = st then s
  else logAdd s 0x0C [c.setWidth 32, x.state.setWidth 32 ||| st.setWidth 32 <<< 8, x.dreason.setWidth 32]

/-! Rows: opening, release, lateness (R265, R270). -/

/-- Cluster-event count of an engine's cluster. -/
def clusterOf (e : BitVec 6) : Nat := e.toNat / 8
/-- The open rows of a context with row r changed. -/
def onRow (s : State) (c : BitVec 8) (r : Nat) (f : BeamRow → BeamRow) : State :=
  let x := beamCtx s c
  putBeam s c { x with rows := x.rows.map fun y => if y.row = r then f y else y }
/-- A saturating sum. -/
def satAdd {w : Nat} (v : BitVec w) (n : Nat) : BitVec w := BitVec.ofNat w (min (2 ^ w - 1) (v.toNat + n))
/-- Two's complement minimum of WORST_SLACK and a new slack (R269). -/
def worst (v : Word) (slack : Int) : Word := BitVec.ofInt 32 (min v.toInt (max (-2147483648) (min 2147483647 slack)))
/-- A row whose lines are all accounted for is counted (R270). -/
def countRow (s : State) (c : BitVec 8) (r : Nat) : State :=
  let x := beamCtx s c
  match x.rows.find? fun y => y.row == r with
  | none => s
  | some y =>
    if y.counted ∨ y.got < dL x.desc then s
    else
      let x := { x with
        rowsDone := satInc x.rowsDone, lateRows := if y.late then satInc x.lateRows else x.lateRows
        worstSlack := match y.lastTick with
          | some t => worst x.worstSlack ((y.deadline.toNat : Int) - t.toNat)
          | none => x.worstSlack
        rows := x.rows.map fun z => if z.row = r then { z with counted := true } else z }
      let s := putBeam s c x
      let s := onPart s x.part fun p => { p with
        rowsDone := p.rowsDone + 1, lateRows := if y.late then p.lateRows + 1 else p.lateRows }
      if y.late then raiseEvt s 5 else s
/-- n lines of a row are counted late (R265, R269). -/
def countLate (s : State) (c : BitVec 8) (r n : Nat) : State :=
  if n = 0 then s
  else
    let x := beamCtx s c
    let s := putBeam s c { x with
      lateLines := satAdd x.lateLines n
      rows := x.rows.map fun y => if y.row = r then { y with late := true } else y }
    onPart s x.part fun p => { p with lateLines := p.lateLines + BitVec.ofNat 64 n }
/-- Release steps of a row begin: each line not yet issued is given up (R265). -/
def startRelease (s : State) (c : BitVec 8) (r : Nat) (k : RelKind) : State :=
  let x := beamCtx s c
  match x.rows.find? fun y => y.row == r with
  | none => s
  | some y =>
    if y.rel.isSome then s
    else
      let lost := y.held.length + (dL x.desc - y.next)
      let s := onRow s c r fun y => { y with rel := some k, held := [], next := dL x.desc, got := y.got + lost }
      countRow (countLate s c r lost) c r
/-- Release steps begin for every open row below v (R264), or for all. -/
def releaseBelow (s : State) (c : BitVec 8) (v : Nat) (k : RelKind) : State :=
  (beamCtx s c).rows.foldl (fun s y => if y.row < v then startRelease s c y.row k else s) s
/-- The lowest row not released or expired (R264). -/
def lowestRow (x : BeamCtx) : Nat :=
  match x.rows with
  | y :: _ => y.row
  | [] => x.nextRow.toNat
/-- Rows whose last release step has passed leave; a finite beam with none left and none to open has ended (R265, R272). -/
def sweepRows (s : State) (c : BitVec 8) : State :=
  let x := beamCtx s c
  let gone (y : BeamRow) : Bool :=
    y.rel.isSome && decide (dL x.desc ≤ y.relNext) && y.relHeld.isEmpty && y.reading.isEmpty && y.restage.isEmpty
  let rows := x.rows.filter fun y => !gone y
  let s := putBeam s c { x with rows := rows }
  if x.state = 2 ∧ rows = [] ∧ ¬ rowExists x.desc x.nextRow.toNat then setCtxState s c 4 else s

/-- The expiry of a row (R236). -/
def expireRow (s : State) (c : BitVec 8) (r : Nat) (t : Nat) : State :=
  let x := beamCtx s c
  let s := putBeam s c { x with lastExpiry := if rowExists x.desc (r + dExpire x.desc) then x.lastExpiry else BitVec.ofNat 64 t }
  startRelease s c r .expiry
/-- No row opens or expires from the tick of a freeze on (R294). -/
def frozenAt (x : BeamCtx) (t : Nat) : Bool :=
  match x.freezeAt with
  | some f => decide (f.toNat ≤ t)
  | none => false
/-- The oldest open row of a running beam expires, if its tick has come (R236). -/
def rowExpire (s : State) (c : BitVec 8) : State :=
  let x := beamCtx s c
  if x.state ≠ 2 then s
  else
    match x.rows.find? fun y => y.rel.isNone with
    | none => s
    | some y =>
      match expiryTick x y.row with
      | none => s
      | some t => if t ≤ s.now.toNat ∧ !frozenAt x t then expireRow s c y.row t else s
/-- The first row that a coming opening expires, at the same tick (R236). -/
def expireFor (s : State) (c : BitVec 8) (r t : Nat) : State :=
  let x := beamCtx s c
  if r < dExpire x.desc then s
  else
    match x.rows.find? fun y => y.row == r - dExpire x.desc with
    | some y => if y.rel.isSome then s else expireRow s c y.row t
    | none => s

/-- A row opens: its window, its deadline, and the edge that triggered it (R234, R235, R269). -/
def openRow (s : State) (c : BitVec 8) (o dl : Nat) (fast : Bool) : State :=
  let x := beamCtx s c
  let d := x.desc
  let r := x.nextRow.toNat
  let y : BeamRow :=
    { row := r, open_ := BitVec.ofNat 64 o, deadline := BitVec.ofNat 64 dl, next := 0, held := [], reading := [], got := 0
      late := false, counted := false, lastTick := none, rel := none, relNext := 0, relHeld := [], restage := [] }
  let edge := if dEncoder d && decide (dAhead d ≤ r) then (trigger x r).map fun t => BitVec.ofNat 64 t else none
  count (putBeam s c { x with
    rows := x.rows ++ [y], nextRow := x.nextRow + 1, lastOpen := BitVec.ofNat 64 o
    gridFast := if fast then satInc x.gridFast else x.gridFast
    lastEdge := edge.getD x.lastEdge, lastEdgeNo := if edge.isSome then r - dAhead d else x.lastEdgeNo
    edges := x.edges.filter fun e => decide (r < e.1) }) (evBeam 2 (clusterOf x.engine))
/-- The next row of a running beam opens once its tick has come; the expiry that falls on the same tick goes first
    (R234-R236). A freeze keeps rows from its tick on closed (R294). -/
def rowOpen (s : State) (c : BitVec 8) : State :=
  let x := beamCtx s c
  let d := x.desc
  let r := x.nextRow.toNat
  if x.state ≠ 2 ∨ ¬ rowExists d r ∨ ¬ engineRuns s x.engine.toNat then s
  else
    match nextOpen x with
    | none => s
    | some (o, fast) =>
      if s.now.toNat < o ∨ frozenAt x o then s
      else openRow (expireFor s c r o) c o (if dEncoder d then o + dLead d else fixedDeadline d r) fast

/-! Edges (R234, R279, R480, R481, R583). -/

/-- An edge is numbered for every beam that follows the input. -/
def edgeBeams (s : State) (i : BitVec 2) (t : Tick) : State :=
  (beamList s).foldl (fun s e =>
    let x := beamCtx s e.1
    if (x.state = 2 ∨ x.state = 5) ∧ dEncoder x.desc ∧ dTsrc x.desc = i ∧ x.start.toNat ≤ t.toNat then
      putBeam s e.1 { x with edges := x.edges ++ [(x.edgeCount + dAhead x.desc, t)], edgeCount := x.edgeCount + 1, resync := false }
    else s) s
/-- The hold time that a filter code asks for, in ns (R480). -/
def filterNs (f : BitVec 2) : Nat := match f.toNat with | 0 => 0 | 1 => 20 | 2 => 80 | _ => 320
/-- An edge on TSTAMP_IN[i] at a tick, with how long the levels before and after it last (R480, R583). -/
def tstampEdge (s : State) (i : BitVec 2) (falling : Bool) (before after : Word) (t : Tick) : State :=
  let ctl := s.tim.tsCtl
  let en := ctl.getLsbD (4 * i.toNat)
  let fall := ctl.getLsbD (4 * i.toNat + 1)
  let f := filterNs (ctl.extractLsb' (4 * i.toNat + 2) 2)
  if ¬ en ∨ fall ≠ falling ∨ before.toNat < 5 ∨ after.toNat < max 5 f then s
  else
    let m := s.tim
    let s := { s with tim := { m with
      tsLast := tset 0 m.tsLast i.toNat t, tsCount := tset 0 m.tsCount i.toNat (tget 0 m.tsCount i.toNat + 1)
      hist := tset [] m.hist i.toNat ((t :: tget [] m.hist i.toNat).take 1024) } }
    edgeBeams (count s 0x17D) i t

/-! Staging (R255-R260). -/

/-- The slice that serves a line under the fold map in force. -/
def stageSlice (s : State) (l : LineAddr) : SliceId := (place s l).sl
/-- Staging reads of a beam open in a slice. -/
def openReads (s : State) (x : BeamCtx) (sl : SliceId) : Nat :=
  (x.rows.map fun y => (y.reading.filter fun i => stageSlice s (beamLine x.desc y.row i) == sl).length).sum
/-- a(s): 1 where none is computed (R247). -/
def allotOf (x : BeamCtx) (sl : SliceId) : Nat := max 1 (tget 0 x.allot sl.toNat)
/-- The position's release step has not passed (R265). -/
def relDue (x : BeamCtx) (y : BeamRow) (i : Nat) : Bool :=
  y.rel.isSome && (y.relHeld.contains i || (decide (y.relNext ≤ i) && decide (i < dL x.desc)))
/-- The release of an earlier row's pin on the same line is still to come, so that this row's staging read may not pass it
    (R268). -/
def priorRelease (x : BeamCtx) (y : BeamRow) (i : Nat) : Bool :=
  x.rows.any fun z => decide (z.row < y.row) && z.row % dSlots x.desc == y.row % dSlots x.desc && relDue x z i
/-- The position may not be issued yet: for want of allotment (R257), or behind an earlier row's release (R268). -/
def readHeld (s : State) (x : BeamCtx) (y : BeamRow) (i : Nat) : Bool :=
  let sl := stageSlice s (beamLine x.desc y.row i)
  decide (allotOf x sl ≤ openReads s x sl) || priorRelease x y i
/-- Positions whose pace tick has come (R256). -/
def paceReach (s : State) (x : BeamCtx) (y : BeamRow) : Nat :=
  let l := dL x.desc
  let dt := s.now.toNat - y.open_.toNat
  if s.now.toNat < y.open_.toNat then 0
  else if x.interval = 0 then l
  else min l ((List.range l).findIdx fun i => decide (dt < i * x.interval / l))
/-- The positions of a row that wait to be issued and whose pace tick has come, in order. -/
def readyPos (s : State) (x : BeamCtx) (y : BeamRow) : List Nat :=
  if y.rel.isSome then []
  else
    let m := paceReach s x y
    y.held ++ (List.range (m - y.next)).map (· + y.next)
/-- A candidate of an engine: deadline, context, row, position. -/
structure Candidate where
  dl : Nat
  ctx : BitVec 8
  row : Nat
  pos : Nat
  deriving DecidableEq, Repr
/-- Candidates of one engine with something ready, each row's positions in order. -/
def engineRows (s : State) (e : BitVec 6) : List (Nat × BitVec 8 × Nat × List Nat) :=
  (beamList s).flatMap fun b =>
    if b.2.state = 2 ∧ b.2.engine = e then
      b.2.rows.filterMap fun y =>
        match readyPos s b.2 y with
        | [] => none
        | ps => some (y.deadline.toNat, b.1, y.row, ps)
    else []
/-- The issue that an engine offers: the first position of its order, or one of a row of equal or earlier deadline where
    that is held (R256, R257). -/
def engineOffer (s : State) (e : BitVec 6) : Option Candidate :=
  let rows := engineRows s e
  match rows.foldl (fun m r => match m with
      | some v => if r.1 < v then some r.1 else some v
      | none => some r.1) (none : Option Nat) with
  | none => none
  | some dl =>
    (rows.filter fun r => r.1 == dl).findSome? fun r =>
      let x := beamCtx s r.2.1
      match x.rows.find? fun y => y.row == r.2.2.1 with
      | none => none
      | some y => (r.2.2.2.find? fun i => !readHeld s x y i).map fun i => ⟨dl, r.2.1, r.2.2.1, i⟩
/-- The issue that a cluster takes: the earliest deadline, then the lowest engine (R255). -/
def clusterOffer (s : State) (k : BitVec 3) : Option Candidate :=
  ((List.range 8).filterMap fun j =>
    let e := 8 * k.toNat + j
    if engineRuns s e then engineOffer s (BitVec.ofNat 6 e) else none).foldl (fun m c => match m with
      | some b => if c.dl < b.dl then some c else some b
      | none => some c) none
/-- The home of a line is a member of the current census, or lies on another ring whose route leads there (R260). -/
def homeMember (s : State) (l : LineAddr) : Bool :=
  match homeOf s l with
  | none => false
  | some h =>
    if ringOf h.home = myRing s then s.net.lower.cur.members.getLsbD (nodeOf h.home).toNat
    else actOf (tget 0 s.net.lower.cur.routes (ringOf h.home).toNat) != 0
/-- One position taken out of those that wait. -/
def takePos (y : BeamRow) (i : Nat) : BeamRow :=
  if i < y.next then { y with held := y.held.erase i }
  else { y with held := y.held ++ (List.range (i - y.next)).map (· + y.next), next := i + 1 }
/-- A staging read issued, or a line whose home has left counted in SKIPPED (R256-R260). -/
def issueRead (s : State) (k : BitVec 3) : State :=
  match clusterOffer s k with
  | none => s
  | some c =>
    let x := beamCtx s c.ctx
    if homeMember s (beamLine x.desc c.row c.pos) then
      let s := onRow s c.ctx c.row fun y => let y := takePos y c.pos; { y with reading := y.reading ++ [c.pos] }
      count { s with beams := { s.beams with reads := s.beams.reads ++ [⟨c.ctx, c.row, BitVec.ofNat 16 c.pos, c.dl⟩] } } (evBeam 0 k.toNat)
    else
      let s := onRow s c.ctx c.row fun y => let y := takePos y c.pos; { y with got := y.got + 1 }
      let x := beamCtx s c.ctx
      let s := putBeam s c.ctx { x with skipped := satInc x.skipped }
      countRow (countLate s c.ctx c.row 1) c.ctx c.row

/-- The request of a staging read (R258): critical chunk 0, beam priority, no port. -/
def stageReq (s : State) (r : StagingRead) : Req :=
  let x := beamCtx s r.ctx
  { src := .beam r.ctx r.row r.idx, op := .rdSh
    hdr := { ptag := 0, stream := 0, addr := addrOf (beamLine x.desc r.row r.idx.toNat), size := 0, bmask := 0, data := line0
             aop := 0, aw := 0, place := 0, keep := false, opA := 0, opB := 0 }
    part := x.part, cons := false, rel := false, dead := false }
/-- Of the staging reads on their way to a slice, the one with the earliest deadline, the older of two that are equal (R54). -/
def nextRead (s : State) (sl : SliceId) : Option StagingRead :=
  (s.beams.reads.filter fun r => stageSlice s (lineOf (stageReq s r).hdr.addr) == sl).foldl (fun m r => match m with
    | some b => if r.dl < b.dl then some r else some b
    | none => some r) none
/-- A staging read reaches its slice (R54, R258). -/
def stagingRead (s : State) (sl : SliceId) : State :=
  match nextRead s sl with
  | none => s
  | some r => deliver { s with beams := { s.beams with reads := s.beams.reads.erase r } } (stageReq s r)

/-- A position's first residency tick (R237, R270). -/
def lineResident (s : State) (c : BitVec 8) (y : BeamRow) (t : Tick) : State :=
  let x := beamCtx s c
  let s := putBeam s c { x with staged := x.staged + 1 }
  let s := onRow s c y.row fun y => { y with
    got := y.got + 1
    lastTick := some (match y.lastTick with
      | some u => if u.toNat < t.toNat then t else u
      | none => t) }
  let s := if y.deadline.toNat < t.toNat then countLate s c y.row 1 else s
  countRow s c y.row
/-- A residency report reaches its engine (R259, R270). A line that was refused its pin is not resident, so that it has no
    residency tick (R237, R258): log entry 119. A line staged again by a fold walk was counted before (R267). -/
def residencyReport (s : State) : State :=
  match s.reports with
  | [] => s
  | p :: rest =>
    let s := { s with reports := rest }
    let x := beamCtx s p.ctx
    let i := p.idx.toNat
    match x.rows.find? fun y => y.row == p.row with
    | none => s
    | some y =>
      let again : Bool := !y.reading.contains i
      if again ∧ ¬ y.restage.contains i then s
      else
        let s := onRow s p.ctx p.row fun y =>
          if again then { y with restage := y.restage.erase i } else { y with reading := y.reading.erase i }
        let s :=
          if p.error then
            let s := putBeam s p.ctx { beamCtx s p.ctx with stageErr := satInc x.stageErr }
            if again then s else countRow (onRow s p.ctx p.row fun y => { y with got := y.got + 1 }) p.ctx p.row
          else if !p.pinned then putBeam s p.ctx { beamCtx s p.ctx with nopin := satInc x.nopin }
          else if again then s
          else lineResident s p.ctx y p.tick
        sweepRows s p.ctx

/-! Release steps (R265). -/

/-- The first position whose release step may be issued: not one whose staging read is open. -/
def relPos (x : BeamCtx) (y : BeamRow) : Option Nat :=
  let closed (i : Nat) : Bool := !y.reading.contains i && !y.restage.contains i
  match y.relHeld.find? closed with
  | some i => some i
  | none => ((List.range (dL x.desc - y.relNext)).map (· + y.relNext)).find? closed
/-- That position taken. -/
def takeRel (y : BeamRow) (i : Nat) : BeamRow :=
  if i < y.relNext then { y with relHeld := y.relHeld.erase i }
  else { y with relHeld := y.relHeld ++ (List.range (i - y.relNext)).map (· + y.relNext), relNext := i + 1 }
/-- The next release step of a context. -/
def nextRel (x : BeamCtx) : Option (BeamRow × Nat) :=
  (x.rows.filter fun y => y.rel.isSome).findSome? fun y => (relPos x y).map fun i => (y, i)
/-- The context's engine may run release steps for it. -/
def mayRelease (s : State) (x : BeamCtx) : Bool :=
  (x.state == 2 || x.state == 3 || x.state == 5) && engineRuns s x.engine.toNat
/-- One release step passes the slice: it clears the line's PIN bit if it is set (R265). -/
def releaseStep (s : State) (c : BitVec 8) : State :=
  let x := beamCtx s c
  if !mayRelease s x then s
  else
    match nextRel x with
    | none => sweepRows s c
    | some (y, i) =>
      let l := beamLine x.desc y.row i
      let pl := place s l
      let s := readStages s pl l
      let hit := (findWay s pl).isSome && pinned s pl
      let s := countFor s (evSlc 0 pl.sl) 1 (some x.part)
      let s := if hit then putPin s pl false else s
      let s := count s (evBeam 1 (clusterOf x.engine))
      let x := beamCtx s c
      let s := putBeam s c { x with
        expired := if hit ∧ y.rel = some .expiry then satInc x.expired else x.expired
        released := if hit ∧ y.rel = some .doorbell then x.released + 1 else x.released }
      let s := onRow s c y.row fun z => takeRel z i
      let s := match x.cancelSlot with
        | some k => opProgress s k ((opSlot s k).progress.toNat + 1)
        | none => s
      sweepRows s c
/-- The context whose release step a cluster takes: of the lowest engine that has one, then the lowest (R255, R265). -/
def clusterRel (s : State) (k : BitVec 3) : Option (BitVec 8) :=
  (List.range 8).findSome? fun j =>
    ((beamList s).find? fun b =>
      b.2.engine.toNat == 8 * k.toNat + j && mayRelease s b.2 && (nextRel b.2).isSome).map Prod.fst
/-- A cluster issues once: a release step, which has the earliest deadline, where one is ready, else a staging read (R255,
    R265). -/
def stagingIssue (s : State) (k : BitVec 3) : State :=
  match clusterRel s k with
  | some c => releaseStep s c
  | none => issueRead s k

/-! The end of a cancel (R274). -/

/-- A context's charges leave the ledger: every member is told, and until all have taken it the charges count on here (R246,
    log entry 120). -/
def dropLedger (s : State) (c : BitVec 8) : State :=
  let mine (e : LedgerEntry) : Bool := e.origin == s.net.ctrlId && e.ctx == c && !e.leaving
  if !s.beams.ledger.any mine then s
  else if otherMembers s = [] then { s with beams := { s.beams with ledger := s.beams.ledger.filter fun e => !mine e } }
  else
    let s := peerLedger s false c []
    { s with beams := { s.beams with
      ledger := s.beams.ledger.map fun e => if mine e then { e with leaving := true } else e } }
/-- The members have taken the removals (R246). -/
def ledgerTaken (s : State) : State :=
  { s with beams := { s.beams with ledger := s.beams.ledger.filter fun e => !e.leaving } }
/-- The lines that the beams of a partition may pin (R249, R283). -/
def partPins (s : State) (p : PartId) : Nat :=
  ((beamList s).map fun e =>
    if e.2.part = p ∧ e.2.state ≠ 0 ∧ e.2.state ≠ 6 then dExpire e.2.desc * dL e.2.desc else 0).sum
/-- PART.PINS made right (R283). -/
def setPins (s : State) (p : PartId) : State := onPart s p fun x => { x with pins := BitVec.ofNat 27 (partPins s p) }
/-- A context becomes FREE: its record keeps what it held, its charges go (R274, R275). -/
def freeCtx (s : State) (c : BitVec 8) : State :=
  let x := beamCtx s c
  let s := setCtxState s c 0
  let s := putBeam s c { beamCtx s c with rows := [], edges := [], cancelSlot := none, freezeAt := none }
  let s := { s with cache := { s.cache with
    drains := s.cache.drains.map fun d => { d with cancels := d.cancels.erase c } } }
  setPins (dropLedger s c) x.part
/-- A cancel begins (R274): the context frees at once where nothing is open. -/
def cancelCtx (s : State) (c : BitVec 8) (k : Option SlotRef) : State :=
  let x := beamCtx s c
  match x.state.toNat with
  | 2 | 5 =>
    let s := setCtxState s c 3
    let s := putBeam s c { beamCtx s c with cancelSlot := k, freezeAt := none }
    releaseBelow s c (x.nextRow.toNat + 1) .cancel
  | 1 | 4 | 6 => onSlot (freeCtx s c) k opDone
  | _ => s
/-- The last release step of a cancel has passed (R274). -/
def cancelDone (s : State) (c : BitVec 8) : State :=
  let x := beamCtx s c
  if x.state = 3 ∧ x.rows = [] then onSlot (freeCtx s c) x.cancelSlot opDone else s

end Sys2Proof.Machine
end

