-- ==== Sys2Proof/Machine/Port.lean ====
section
/-! DEFINITION. The processor ports: decoding of requests (R35-R39, R264, R281, R286, R292, R328, R595), probe responses
    (R99), flits and retry (R314-R321, R337), link initialisation (R322), link down (R338), retiring (R339). -/

namespace Sys2Proof.Machine

/-! Protocol errors (R337). -/

/-- The first protocol error captures the flit header, the trailer's first eight bytes and the offending slot. -/
def capturePort (s : State) (p : PortId) (f : PcpFrame) (v : Slot) : State :=
  let x := portSt s p
  if x.captured then s
  else putPort s p { x with captured := true, errCapt := v ++ f.trailer.extractLsb' 0 64 ++ f.hdr }
/-- A protocol error: counted, and reported to Lantern. -/
def protoErr (s : State) (p : PortId) : State := raiseErr (trouble s (blkPcp p) kPcpPcpProto) (blkPcp p) 5
/-- The request expects a completion, so that it carries a PTAG (R327). -/
def usesTag (op : PcpOp) : Bool :=
  match op with
  | .wbD | .wbC | .drop => false
  | _ => true
/-- The tag names an open request (R325). -/
def tagOpen (s : State) (p : PortId) (t : BitVec 10) : Bool := (portSt s p).open_.any fun e => e.1 == t
/-- A request that the port refuses: error response, where a completion is due. -/
def refuse (s : State) (p : PortId) (op : PcpOp) (t : BitVec 10) (status : BitVec 8) : State :=
  if usesTag op then refusePort s p t status else s
/-- The field rules of R328 that the slots do not show. -/
def fieldsBad (op : PcpOp) (h : PcpHdr) : Bool :=
  match op with
  | .rdNc => !rdNcAligned h.addr h.size
  | .wrNc => h.bmask == 0
  | _ => false

/-! The doorbell window (R35-R39, R264, R286). -/

/-- The window decodes the address. -/
def inWindow35 (x : PortSt) (a : Addr) : Bool := x.dbEn && a.extractLsb' 18 30 == x.dbBase
/-- The bytes that an access names: offset in the line and width, for an access of 4 or 8 bytes aligned to its size. -/
def dbShape (op : PcpOp) (h : PcpHdr) : Option (Nat × Nat) :=
  match op with
  | .rdNc =>
    if (h.size = 2 ∨ h.size = 3) ∧ rdNcAligned h.addr h.size then some (h.addr.toNat % 128, 2 ^ h.size.toNat) else none
  | .wrNc =>
    match (bitsOf h.bmask).head? with
    | none => none
    | some lo =>
      if h.bmask = BitVec.ofNat 128 (15 * 2 ^ lo) ∧ lo % 4 = 0 then some (lo, 4)
      else if h.bmask = BitVec.ofNat 128 (255 * 2 ^ lo) ∧ lo % 8 = 0 then some (lo, 8) else none
  | _ => none
/-- The 64-bit value at an offset of a partition's page (R286, R264). -/
def pageValue (s : State) (p : PartId) (ofs : Nat) : BitVec 64 :=
  let x := partSt s p
  match ofs / 8 * 8 with
  | 0x000 => x.state.setWidth 64 ||| p.setWidth 64 <<< 8 ||| (BitVec.ofNat 64 (nbeams s p % 256)) <<< 16
  | 0x008 => s.now
  | 0x010 => x.pins.setWidth 64 ||| x.pinBudget.setWidth 64 <<< 32
  | 0x100 => x.hits
  | 0x108 => x.misses
  | 0x110 => x.writebacks
  | 0x118 => x.qrefused
  | 0x120 => x.lateLines
  | 0x128 => x.lateRows
  | 0x130 => x.consUnpin
  | 0x138 => x.rowsDone
  | o =>
    if o < 0x800 then 0
    else
      let c : BitVec 8 := BitVec.ofNat 8 ((o - 0x800) / 8)
      let b := beamCtx s c
      if b.state ≠ 0 ∧ b.part = p then BitVec.ofNat 64 (lowestRow b) else 0
/-- A write to a page: only the release doorbells take one (R264, R286). -/
def pageWrite (s : State) (q : PortId) (p : PartId) (ofs width : Nat) (v : Nat) : State :=
  if ofs < 0x800 then trouble s (blkPcp q) kPcpDbReject
  else
    let c : BitVec 8 := BitVec.ofNat 8 ((ofs - 0x800) / 8)
    let b := beamCtx s c
    if width = 8 ∧ b.state = 2 ∧ b.part = p then
      sweepRows (releaseBelow s c (min v b.nextRow.toNat) .doorbell) c
    else trouble s (blkPcp q) kPcpBeamDbReject
/-- The data of a doorbell read: the value at its bytes, zeros beside it. -/
def dbLine (lo width : Nat) (v : Nat) : Line := ⟨BitVec.ofNat 1024 (v % 2 ^ (8 * width) * 2 ^ (8 * lo)), 0⟩
/-- The value an accepted read returns: both halves, or the one addressed. -/
def dbValue (v : BitVec 64) (ofs width : Nat) : Nat := if width = 8 then v.toNat else v.toNat / 2 ^ (8 * (ofs % 8)) % 2 ^ 32
/-- A request in the window, which the port answers itself (R36-R38). -/
def doorbell (s : State) (p : PortId) (op : PcpOp) (h : PcpHdr) : State :=
  let x := portSt s p
  if op ≠ .rdNc ∧ op ≠ .wrNc then refuse (trouble s (blkPcp p) kPcpDbReject) p op h.ptag 0x03
  else
    let page : BitVec 6 := h.addr.extractLsb' 12 6
    let en := tget stream0 x.stream h.stream.toNat
    let sh := dbShape op h
    let ok := sh.isSome && en.getLsbD 6 && en.extractLsb' 0 6 == page && (partSt s page).state != 0
    let s := if ok then s else trouble s (blkPcp p) kPcpDbReject
    match op with
    | .rdNc =>
      let lo := h.addr.toNat % 128
      let want := chunksOfMask (rdNcMask h.addr h.size)
      let d : Line := match sh with
        | some (_, w) =>
          let ofs := h.addr.toNat % 4096
          dbLine lo w (if ok then dbValue (pageValue s page ofs) ofs w else 2 ^ (8 * w) - 1)
        | none => ⟨BitVec.ofNat 1024 (byteMask 128 (rdNcMask h.addr h.size)), 0⟩
      completeData s p h.ptag .I false (critOf h.addr) want d 0
    | _ =>
      let s := match ok, sh with
        | true, some (lo, w) =>
          pageWrite s p page (h.addr.toNat % 4096 / 128 * 128 + lo) w (h.data.bytes.toNat / 2 ^ (8 * lo) % 2 ^ (8 * w))
        | _, _ => s
      complete s p h.ptag .I false 0 0

/-! Requests (R281, R292, R595). -/

/-- Request headers in the fabric input of a port (R595). -/
def fabricUsed (s : State) (p : PortId) : Nat :=
  let mine (r : Req) : Bool := r.src == .port p
  (s.cache.slices.map fun e => (e.2.stalled.filter fun q => mine q.2).length).sum
    + (s.cache.folds.map fun w => (w.held.filter mine).length).sum
/-- Data slots of a request (R327, R328). -/
def reqData (op : PcpOp) (h : PcpHdr) : Nat :=
  match op with
  | .wbD => 4
  | .wrNc => popcount (chunksOfMask h.bmask)
  | .atom => 1
  | _ => 0
/-- Credits spent by a request that has arrived (R323). -/
def spendReq (s : State) (p : PortId) (nd : Nat) : State :=
  let x := portSt s p
  putPort s p { x with reqhUsed := x.reqhUsed + 1, reqdUsed := x.reqdUsed + nd }
/-- The same credits returned (R595). -/
def freeReq (s : State) (p : PortId) (nd : Nat) : State :=
  let x := portSt s p
  putPort s p { x with reqhUsed := x.reqhUsed - 1, reqdUsed := x.reqdUsed - nd }
/-- A request moves from the receive buffer into the fabric input, which delivers it to its slice (R595). -/
def toFabric (s : State) (p : PortId) (r : Req) : State :=
  deliver (freeReq (wakeDom s (place s r.laddr).sl.toNat true) p (reqData r.op r.hdr)) r
/-- The requests of a receive buffer that may go next: the oldest of each partition, unless an older one for its line waits
    before it (R285, R336). -/
def rxFirst : List Req → List Req → List Req
  | _, [] => []
  | seen, r :: rest =>
    if seen.any fun x => x.part == r.part || x.laddr == r.laddr then rxFirst (r :: seen) rest
    else r :: rxFirst (r :: seen) rest
/-- Requests that wait in the receive buffer move on while the fabric input has room (R595), by the weights of their
    partitions (R285). -/
def pumpRx (s : State) (p : PortId) : Nat → State
  | 0 => s
  | n + 1 =>
    let x := portSt s p
    let go := rxFirst [] x.rxq
    match wrrPick (weightOf s .portInject) x.wrr (go.map (·.part)) with
    | none => s
    | some (q, y) =>
      match go.find? fun r => r.part == q with
      | some r =>
        if fabricUsed s p < 128 then pumpRx (toFabric (putPort s p { x with rxq := x.rxq.erase r, wrr := y }) p r) p n else s
      | none => s
/-- Every port's receive buffer moves on. -/
def pumpAllRx (s : State) : State :=
  (List.range 8).foldl (fun s p => pumpRx s (BitVec.ofNat 3 p) ((portSt s (BitVec.ofNat 3 p)).rxq.length)) s
/-- Requests of a partition that is quiesced and that are still served (R292). -/
def quiesceServes (s : State) (p : PortId) (part : PartId) (op : PcpOp) (st : BitVec 8) : Bool :=
  match op with
  | .wbD | .wbC | .drop => true
  | .rdSh | .rd1x | .rdNc | .beamRel =>
    s.beams.ctx.any fun e =>
      (e.2.state == 2 || e.2.state == 5) && e.2.part == part && dPort e.2.desc == p && dStream e.2.desc == st
  | _ => false
/-- A request whose partition serves it goes on to the slice (R281, R292). -/
def mapRequest (s : State) (p : PortId) (op : PcpOp) (h : PcpHdr) : State :=
  let x := portSt s p
  let en := tget stream0 x.stream h.stream.toNat
  let part : PartId := en.extractLsb' 0 6
  let st := (partSt s part).state
  let out (s : State) (status : BitVec 8) : State := freeReq (refuse s p op h.ptag status) p (reqData op h)
  if ¬ en.getLsbD 6 then out (trouble s (blkPcp p) kPcpStreamUnmapped) 0x04
  else if st = 0 then out (trouble s (blkPcp p) kPcpStreamUnmapped) 0x05
  else if st = 7 then out (trouble s (blkPcp p) kPcpStreamUnmapped) 0x12
  else if (st = 2 ∨ st = 3 ∨ st = 4) ∧ ¬ quiesceServes s p part op h.stream then
    out (onPart s part fun y => { y with qrefused := y.qrefused + 1 }) 0x06
  else
    let r : Req := { src := .port p, op, hdr := h, part, cons := en.getLsbD 7, rel := pinReleases s (lineOf h.addr), dead := false }
    let s := if usesTag op then putPort s p { x with open_ := x.open_ ++ [(h.ptag, part, lineOf h.addr)] } else s
    let x := portSt s p
    if x.rxq = [] ∧ fabricUsed s p < 128 then toFabric s p r else putPort s p { x with rxq := x.rxq ++ [r] }
/-- The port decodes a request whose header and data slots have come (R36, R281, R292, R328, R337, R339). An access in the
    doorbell window is judged by R37 alone: one that is not aligned, or names no byte, is turned away as R37 turns it away. -/
def decodeReq (s : State) (p : PortId) (op : PcpOp) (h : PcpHdr) : State :=
  let s := count (wakeDom s (domPcp p) true) (evPcp 0 p)
  let x := portSt s p
  let nd := reqData op h
  if usesTag op ∧ tagOpen s p h.ptag then freeReq (protoErr s p) p nd
  else if (x.retiring ∨ s.ctrlOut) ∧ usesTag op then freeReq (refuse s p op h.ptag 0x11) p nd
  else if inWindow35 x h.addr then freeReq (doorbell s p op h) p nd
  else if fieldsBad op h then freeReq (refuse (protoErr s p) p op h.ptag 0x10) p nd
  else mapRequest s p op h
/-- A request arrives at a port, its credits with it. What reaches a port whose link is down is not received (R338). -/
def portRequest (s : State) (p : PortId) (op : PcpOp) (h : PcpHdr) : State :=
  if (portSt s p).down then s else decodeReq (spendReq s p (reqData op h)) p op h

/-! Retiring (R339). -/

/-- Filter entries whose HOLD names the port: table index and entry. -/
def pfOfPort (s : State) (p : PortId) : List (Nat × PfEntry) := s.cache.pf.filter fun e => e.2.hold.getLsbD p.toNat
/-- The retirement of a port ends: electrical idle, RETIRED, and the domain in A3. -/
def retireEnd (s : State) (p : PortId) : State :=
  let x := portSt s p
  match x.retire with
  | none => s
  | some r =>
    if !x.open_.isEmpty || !(pfOfPort s p).isEmpty || !(probesOf s p).isEmpty || !x.probeHold.isEmpty || !x.cmpHold.isEmpty || x.down then s
    else
      let s := putPort s p { x with
        ltssm := .idle, initDone := false, initRx := false, retired := true, retire := none, trainOk := false
        unacked := [], txWait := [], part := none }
      let d := domSt s (domPcp p)
      let s := putDom s (domPcp p) { d with state := 3, entering := none, waking := none }
      onSlot (raiseEvt s 10) r.slot opDone
/-- The filter entries cleared for a retiring port rise to n (R339). -/
def retireCount (s : State) (p : PortId) (n poisoned : Nat) : State :=
  let x := portSt s p
  match x.retire with
  | none => s
  | some r =>
    let r := { r with cleared := r.cleared + n, poisoned := r.poisoned + poisoned, since := s.now }
    onSlot (putPort s p { x with retire := some r }) r.slot fun s k => opProgress s k r.cleared

/-! Probe responses (R99, R101, R330, R337). -/

/-- A probe response, with or without data. -/
def probeResp (s : State) (p : PortId) (tag : BitVec 8) (l : LineAddr) (d : Option Line) : State :=
  match probeAt s p tag.toNat with
  | none => protoErr s p
  | some pb =>
    if pb.laddr ≠ l then protoErr s p
    else
      let n := (pfOfPort s p).length
      let s := putProbe s p tag.toNat none
      let s := probeAnswer s pb p (match d with | some x => some x | none => pb.taken)
      let s := pumpHeld s p
      let s := if (portSt s p).retire.isSome then retireCount s p (n - (pfOfPort s p).length) 0 else s
      retireEnd s p

/-! Link down (R338). -/

/-- A line that a port held with EXH and that is given up as poisoned (R121, last row; R338), where a reserved buffer is free for the
    poison writeback that it may need (R122). -/
def lineLost (s : State) (pl : Place) (l : LineAddr) : State :=
  match findWay s pl with
  | none => s
  | some w =>
    if stateHere s pl = .I then s
    else poisonWb (setLine s pl .X) pl.sl l (tagAt s pl.sl pl.set w).part .M ⟨0, 0xF⟩ 0 true
/-- A request of the port is answered no more. -/
def deadReq (p : PortId) (r : Req) : Req := if r.src == .port p then { r with dead := true } else r
/-- Every open request of the port runs to its end without a completion (R338). -/
def deadenPort (s : State) (p : PortId) : State :=
  let c := s.cache
  { s with cache := { c with
    miss := c.miss.map fun e => (e.1, e.2.map fun m => { m with req := deadReq p m.req })
    slices := c.slices.map fun e => (e.1, { e.2 with stalled := e.2.stalled.map fun q => (q.1, deadReq p q.2) })
    folds := c.folds.map fun w => { w with held := w.held.map (deadReq p) }
    delivs := c.delivs.filter fun d => d.port ≠ p
    wc := c.wc.map fun e => (e.1, e.2.map fun b => if b.port = p then { b with ptags := [] } else b)
    pen := c.pen.map fun e => (e.1, e.2.map fun b => match b.owner with
      | .flushReq q _ => if q = p then { b with owner := .none } else b
      | _ => b)
    lprobes := c.lprobes.map fun x => match x.flushOf with
      | some (q, _) => if q = p then { x with flushOf := none } else x
      | none => x } }
/-- Every probe of the port is answered within the controller (R338). -/
def answerProbes (s : State) (p : PortId) : State :=
  let held := (portSt s p).probeHold
  let sent := probesOf s p
  let s := putPort s p { portSt s p with probeHold := [] }
  let s := sent.foldl (fun s e => putProbe s p e.1 none) s
  (sent.map Prod.snd ++ held).foldl (fun s pb =>
    probeAnswer s pb p (match pb.taken with
      | some d => some d
      | none => if pb.exh then some ⟨0, 0xF⟩ else none)) s
/-- The link goes down. -/
def portDown (s : State) (p : PortId) : State :=
  let x := portSt s p
  let s := putPort s p { x with
    ltssm := .detect, initDone := false, initRx := false, down := true, trainOk := false, unacked := [], txWait := []
    part := none, open_ := [], cmpHold := [], reqhUsed := 0, reqdUsed := 0, rxq := x.rxq.map (deadReq p), recoveries := []
    replays := 0, purge := some 0 }
  raiseErr (answerProbes (deadenPort s p) p) (blkPcp p) 9
/-- The LTSSM enters Detect from any state (R338). -/
def portDetect (s : State) (p : PortId) : State :=
  let x := portSt s p
  match x.ltssm with
  | .l0 | .recovery => portDown s p
  | .polling | .configuration => putPort s p { x with ltssm := .detect }
  | _ => s
/-- One filter entry of a port that is purged: its line is lost where the port held it with EXH (R338). Without a reserved buffer for
    the poison writeback it stays for a later step (R122). -/
def purgeEntry (s : State) (p : PortId) (ix : Nat) : State :=
  let sl : SliceId := BitVec.ofNat 4 (ix / 32768)
  let set : BitVec 11 := BitVec.ofNat 11 (ix / 16 % 2048)
  let w := ix % 16
  let e := pfAt s sl set w
  let l := pfLine sl set e
  if ¬ e.hold.getLsbD p.toNat ∨ (e.exh ∧ poisonShort s (place s l).sl) then s
  else
    let s := putPf s sl set w { e with hold := e.hold &&& ~~~(BitVec.twoPow 8 p.toNat), exh := false }
    if e.exh then lineLost (trouble s (blkPcp p) kPcpPortPurgePoison) (place s l) l else s
/-- The entries of a filter set purged of a port. -/
def purgeSet (s : State) (p : PortId) (set : Nat) : State :=
  (List.range 16).foldl (fun s w => purgeEntry s p (set * 16 + w)) s
/-- One walker step of a purge: the next filter set of the slice that names the port. -/
def purgeStep (s : State) (p : PortId) (sl : SliceId) : State :=
  match (pfOfPort s p).find? fun e => e.1 / 32768 == sl.toNat with
  | none => s
  | some e =>
    let s := purgeSet s p (e.1 / 16)
    let x := portSt s p
    putPort s p { x with purge := x.purge.map (· + 1) }
/-- The purge has ended (R338, step 5): the port may train again. -/
def purgeDone (s : State) (p : PortId) : State :=
  let x := portSt s p
  if x.down ∧ (pfOfPort s p).isEmpty then
    retireEnd (putPort s p { x with
      down := false, purge := none
      trainOk := x.en && !x.held && (x.autoRetrain || x.returning.isSome) }) p
  else s
/-- One walker step for a retiring port: a line of the next filter entry of the slice is probed (R339, step 2). -/
def retireStep (s : State) (p : PortId) (sl : SliceId) : State :=
  let x := portSt s p
  match x.retire with
  | none => s
  | some r =>
    if ¬ x.open_.isEmpty then s
    else
      let s := if r.probing then s else putPort s p { x with retire := some { r with probing := true, since := s.now } }
      match (pfOfPort s p).find? fun e =>
          e.1 / 32768 == sl.toNat && !lineBusy s sl (pfLine sl (BitVec.ofNat 11 (e.1 / 16 % 2048)) e.2)
            && !probeOpen s p (pfLine sl (BitVec.ofNat 11 (e.1 / 16 % 2048)) e.2) with
      | none => retireEnd s p
      | some e =>
        let l := pfLine sl (BitVec.ofNat 11 (e.1 / 16 % 2048)) e.2
        (startLProbe s (place s l) l (BitVec.twoPow 8 p.toNat) e.2.exh none).1
/-- No response has come for 10 ms: the remaining lines are purged (R339). -/
def retireTimeout (s : State) (p : PortId) : State :=
  match (portSt s p).retire with
  | none => s
  | some r =>
    if ¬ r.probing ∨ s.now.toNat < r.since.toNat + 10000000 then s
    else
      let left := pfOfPort s p
      let lost := (left.filter fun e => e.2.exh).length
      let s := left.foldl (fun s e =>
        let now := pfAt s (BitVec.ofNat 4 (e.1 / 32768)) (BitVec.ofNat 11 (e.1 / 16 % 2048)) (e.1 % 16)
        -- an answered probe has taken its entry already
        let s := if e.2.exh && !(now.exh && now.hold.getLsbD p.toNat) then trouble s (blkPcp p) kPcpPortPurgePoison else s
        purgeEntry s p e.1) (answerProbes s p)
      let s := retireCount s p left.length lost
      let total := ((portSt s p).retire.map (·.poisoned)).getD 0
      retireEnd (onSlot s r.slot fun s k => opResult s k 0 (BitVec.ofNat 32 total)) p

/-! Retry (R319-R321). -/

/-- The oldest unacknowledged flit has waited REPLAY_TMO. -/
def flitDue (s : State) (x : PortSt) : Bool :=
  match x.unacked with
  | (_, t, _) :: _ => decide (t.toNat + replayNs x.replayTmo ≤ s.now.toNat)
  | [] => false
/-- Every unacknowledged flit is sent again, in order. -/
def resendFlits (s : State) (p : PortId) : State :=
  let x := portSt s p
  { putPort s p { x with unacked := x.unacked.map fun u => (u.1, s.now, u.2.2) } with
    out := s.out ++ x.unacked.map fun u => .flitAgain p u.1 u.2.2 }
/-- A Recovery begins; the third within 1 ms takes the link down (R320). -/
def portRecovery (s : State) (p : PortId) : State :=
  let x := portSt s p
  let recent := x.recoveries.filter fun t => decide (s.now.toNat < t.toNat + 1000000)
  let s := putPort s p { x with ltssm := .recovery, recoveries := recent ++ [s.now], replays := 0 }
  if 2 ≤ recent.length then portDown s p else s
/-- A NAK, or the replay timer: a replay, or Recovery after REPLAY_MAX of them without progress (R320). -/
def portReplay (s : State) (p : PortId) : State :=
  let x := portSt s p
  if x.ltssm ≠ .l0 ∨ x.unacked.isEmpty then s
  else if max 1 x.replayMax.toNat ≤ x.replays then portRecovery (trouble s (blkPcp p) kPcpPcpRecovery) p
  else resendFlits (trouble (putPort s p { x with replays := x.replays + 1 }) (blkPcp p) kPcpPcpReplay) p
/-- An acknowledgement removes every flit up to ACKSEQ; what waited for room leaves (R319, R321). -/
def portAck (s : State) (p : PortId) (seq : BitVec 12) : State :=
  let x := portSt s p
  match x.unacked.findIdx? fun u => u.1 == seq with
  | none => s
  | some j =>
    let s := if flitDue s x then trouble s (blkPcp p) kPcpTimeoutRace else s
    let s := putPort s p { x with unacked := x.unacked.drop (j + 1), replays := 0 }
    pumpFlits s p x.txWait.length
/-- A NAK sent, unless one has been sent since the last accepted flit. -/
def portNak (s : State) (p : PortId) : State :=
  let x := portSt s p
  if x.nakSent then s else { putPort s p { x with nakSent := true } with out := s.out ++ [.flitNak p] }
/-- The replay timer command: the timer, or a NAK (R320). -/
def portReplayTimer (s : State) (p : PortId) (c : ReplayCause) : State :=
  match c with
  | .timer => if flitDue s (portSt s p) then portReplay s p else s
  | .nak => portReplay s p

/-! Link initialisation (R313, R322, R534). -/

/-- Rate codes rise as rates fall; MAXRATE 0b11 is used as 0b00 (R341). -/
def rateAllowed (maxrate rate : BitVec 2) : Bool := rate != 3 && decide ((if maxrate = 3 then 0 else maxrate.toNat) ≤ rate.toNat)
/-- The port may leave Detect and train. -/
def mayTrain (x : PortSt) : Bool := x.en && x.trainOk && !x.down && !x.retired && !x.held
/-- Training ends in L0. -/
def pcpLinkUp (s : State) (p : PortId) (rate : BitVec 2) (x8 : Bool) : State :=
  let x := portSt s p
  let from_ := x.ltssm == .detect || x.ltssm == .polling || x.ltssm == .configuration
  if !(from_ && mayTrain x && rateAllowed x.maxrate rate && (!x8 || x.x8ok)) then s
  else
    let s := putPort s p { x with
      ltssm := .l0, rate, x8, initDone := false, initRx := false, rxNext := 0, ackv := false, nakSent := false
      txNext := 0, unacked := [], txWait := [], replays := 0, recoveries := [], part := none, prbOffer := 0, prbCred := 0 }
    if s.boot.ready then { s with out := s.out ++ [.flitInit p] } else s
/-- An init flit from the requester (R322). -/
def pcpInit (s : State) (p : PortId) (ver : BitVec 8) (role : Bool) (cred : BitVec 8) : State :=
  let x := portSt s p
  if x.ltssm ≠ .l0 ∨ x.initDone then s
  else if ver ≠ 1 ∨ role ∨ cred.toNat < 8 then protoErr s p
  else if ¬ s.boot.ready then s
  else
    let s := putPort s p { x with initRx := true, initDone := true, prbOffer := cred, prbCred := cred.toNat, returning := none }
    let s := raiseEvt { s with out := s.out ++ [.flitInit p] } 10
    match x.returning with
    | some (k, _) => opDone s k
    | none => s
/-- The LTSSM moves (R312, R313, R320). -/
def ltssmMove (s : State) (p : PortId) (t : LtssmMove) : State :=
  let x := portSt s p
  match t with
  | .polling => if x.ltssm = .detect ∧ mayTrain x then putPort s p { x with ltssm := .polling } else s
  | .foreignTs => if x.ltssm = .polling then trouble s (blkPcp p) kPcpPcpForeign else s
  | .configuration => if x.ltssm = .polling then putPort s p { x with ltssm := .configuration } else s
  | .recovery => if x.ltssm = .l0 then portRecovery s p else s
  | .l0 => if x.ltssm = .recovery then resendFlits (putPort s p { x with ltssm := .l0 }) p else s
  | .detect => portDetect s p

/-! Flits (R314-R319, R323-R330, R337). -/

/-- The request of an opcode (R327). -/
def pcpOfCode : Nat → Option PcpOp
  | 0 => some .rdSh | 1 => some .rdEx | 2 => some .rd1x | 3 => some .upg | 4 => some .claim | 5 => some .wbD
  | 6 => some .wbC | 7 => some .drop | 8 => some .rdNc | 9 => some .wrNc | 10 => some .atom | 11 => some .flushL
  | 12 => some .beamRel | _ => none
/-- CH and OP of a header slot (R326). -/
def slotCh (v : Slot) : Nat := (sf v 0 2).toNat
/-- OP. -/
def slotOp (v : Slot) : Nat := (sf v 2 5).toNat
/-- NDATA. -/
def slotNdata (v : Slot) : Nat := (sf v 7 3).toNat
/-- The chunk that a data-slot kind names, and its poison flag (R315). -/
def kindChunk (k : BitVec 4) : Nat × Bool := ((k.extractLsb' 0 2).toNat, k.getLsbD 3)
/-- A line gathered from data slots. -/
def slotLine (ds : Slots) : Line :=
  ds.foldl (fun d e => putChunk d (kindChunk e.1).1 e.2 (kindChunk e.1).2) line0
/-- The data slots are those of R328. -/
def dataOk (op : PcpOp) (v : Slot) (ds : Slots) : Bool :=
  let cs := ds.map fun e => (kindChunk e.1).1
  match op with
  | .wbD => cs == [0, 1, 2, 3]
  | .wrNc => cs == bitsOf (chunksOfMask (sf v 128 128))
  | .atom => cs == [(sf v 37 2).toNat]
  | _ => cs == []
/-- A request header with its data (R326, R329). -/
def pcpHdrOf (v : Slot) (ds : Slots) : PcpHdr :=
  let d0 : BitVec 256 := match ds with | e :: _ => e.2 | [] => 0
  { ptag := sf v 10 10, stream := sf v 20 8, addr := sf v 32 48, size := sf v 89 3, bmask := sf v 128 128, data := slotLine ds
    aop := sf v 80 4, aw := sf v 84 2, place := sf v 86 2, keep := sb v 88, opA := d0.extractLsb' 0 128
    opB := d0.extractLsb' 128 128 }
/-- A message in error: counted, captured, and completed with STATUS 0x10 where it is a request whose tag can be read and
    is not in use (R337). -/
def badMessage (s : State) (p : PortId) (f : PcpFrame) (hdr v : Slot) : State :=
  let s := capturePort (protoErr s p) p f v
  let t : BitVec 10 := sf hdr 10 10
  let tagged : Bool := match pcpOfCode (slotOp hdr) with
    | some op => usesTag op
    | none => true
  if slotCh hdr = 0 ∧ tagged ∧ ¬ tagOpen s p t then refusePort s p t 0x10 else s
/-- A complete message of a requester. -/
def pcpMessage (s : State) (p : PortId) (f : PcpFrame) (v : Slot) (ds : Slots) : State :=
  match slotCh v with
  | 0 =>
    match pcpOfCode (slotOp v) with
    | none => freeReq (badMessage s p f v v) p 0
    | some op =>
      if ¬ dataOk op v ds then freeReq (badMessage s p f v v) p (if reqData op (pcpHdrOf v ds) = 0 then 0 else ds.length)
      else
        let s' := decodeReq s p op (pcpHdrOf v ds)
        if tget 0 s.ctrs.trouble (64 * blkPcp p + kPcpPcpProto) ≠ tget 0 s'.ctrs.trouble (64 * blkPcp p + kPcpPcpProto) then
          capturePort s' p f v
        else s'
  | 2 =>
    let cs := ds.map fun e => (kindChunk e.1).1
    if slotOp v ≠ 0 ∨ (cs ≠ [] ∧ cs ≠ [0, 1, 2, 3]) then badMessage s p f v v
    else
      let tag : BitVec 8 := sf v 10 8
      let l : LineAddr := sf v 32 41
      let known : Bool := match probeAt s p tag.toNat with
        | some pb => pb.laddr == l
        | none => false
      if ¬ known then badMessage s p f v v
      else probeResp s p tag l (if ds = [] then none else some (slotLine ds))
  | _ => badMessage s p f v v
/-- More slots than the credits allow: the link goes down and the port is held (R337). -/
def creditViolation (s : State) (p : PortId) : State :=
  let s := trouble s (blkPcp p) kPcpPcpCredit
  let s := putPort s p { portSt s p with held := true }
  portDown s p
/-- The data slots of this header spend REQD credits (R323). -/
def spendsData (v : Slot) : Bool := slotCh v == 0 && (slotOp v == 5 || slotOp v == 9 || slotOp v == 10)
/-- One slot of an accepted flit (R318). -/
def pcpSlot (f : PcpFrame) (p : PortId) (s : State) (i : Nat) : State :=
  let x := portSt s p
  let kind : BitVec 4 := f.hdr.extractLsb' (16 + 4 * i) 4
  let v : Slot := f.slots.extractLsb' (256 * i) 256
  let k := kind.toNat
  let isData : Bool := decide (4 ≤ k ∧ k ≤ 7) || decide (12 ≤ k)
  if x.ltssm ≠ .l0 then s
  else
    match x.part with
    | none =>
      if k = 0 then s
      else if k = 1 then
        let s := if slotCh v = 0 then spendReq s p 0 else s
        if 64 < (portSt s p).reqhUsed then creditViolation s p
        else if slotNdata v = 0 then pcpMessage s p f v []
        else putPort s p { portSt s p with part := some ⟨v, slotNdata v, []⟩ }
      else capturePort (protoErr s p) p f v
    | some q =>
      if isData then
        let s := if spendsData q.hdr then putPort s p { x with reqdUsed := x.reqdUsed + 1 } else s
        if 256 < (portSt s p).reqdUsed then creditViolation s p
        else
          let ds := q.slots ++ [(kind, v)]
          if ds.length = q.need then pcpMessage (putPort s p { portSt s p with part := none }) p f q.hdr ds
          else putPort s p { portSt s p with part := some { q with slots := ds } }
      else
        -- the open message is discarded, and a header among its data with it
        let s := putPort s p { x with part := none }
        let s := if slotCh q.hdr = 0 then freeReq s p (if spendsData q.hdr then q.slots.length else 0) else s
        let s := badMessage s p f q.hdr v
        if k = 1 then badMessage s p f v v else s
/-- The bytes under the CRC: header, slots, and the trailer's first eight (R317). -/
def flitBytes (f : PcpFrame) : List Byte := frameBytes f.hdr f.slots (f.trailer.extractLsb' 0 64)
/-- A good CRC (R317). -/
def flitGood (f : PcpFrame) : Bool := crc64 (flitBytes f) == f.trailer.extractLsb' 64 64
/-- Probe credits returned; held probes leave (R324, R330). -/
def takePrb (s : State) (p : PortId) (n : Nat) : State :=
  let x := portSt s p
  pumpHeld (putPort s p { x with prbCred := min x.prbOffer.toNat (x.prbCred + n) }) p
/-- A PCP flit frame arrives (R319). -/
def flitReceive (s : State) (p : PortId) (f : PcpFrame) : State :=
  let x := portSt s p
  if x.ltssm ≠ .l0 then s
  else if ¬ flitGood f then portNak (trouble s (blkPcp p) kPcpPcpCrc) p
  else
    let ftype := (f.hdr.extractLsb' 12 3).toNat
    if ftype = 2 then
      let v : Slot := f.slots.extractLsb' 0 256
      pcpInit s p (sf v 0 8) (sb v 8) (sf v 16 8)
    else
      let s := if f.trailer.getLsbD 12 then portAck s p (f.trailer.extractLsb' 0 12) else s
      let s := takePrb s p (f.trailer.extractLsb' 32 8).toNat
      let s := if f.trailer.getLsbD 13 then portReplay s p else s
      let x := portSt s p
      let seq : BitVec 12 := f.hdr.extractLsb' 0 12
      if ftype = 1 ∨ ¬ x.initDone ∨ x.ltssm ≠ .l0 then s
      else if ftype ≠ 0 then capturePort (protoErr s p) p f (f.slots.extractLsb' 0 256)
      else if seq = x.rxNext then
        let s := count (putPort s p { x with rxNext := x.rxNext + 1, ackv := true, nakSent := false }) (evPcp 3 p)
        (List.range 8).foldl (pcpSlot f p) s
      else if 2048 ≤ (seq - x.rxNext).toNat then s
      else portNak s p

/-! A walk after an uncorrectable filter entry (R558). -/

/-- The k-th of the 256 sets that could have used filter set pf, and the line number in it. -/
def walkSet (pf : BitVec 11) (k : Nat) : BitVec 14 × BitVec 5 :=
  let l : BitVec 5 := BitVec.ofNat 5 (k % 32)
  (BitVec.ofNat 3 (k / 32) ++ (pf ^^^ (l.setWidth 11 <<< 6)), l)
/-- One step of the walk: the line of each way of the next set, present and in a sector with RQH = 1, is probed at every
    port. -/
def filterWalkStep (s : State) (sl : SliceId) : State :=
  let x := sliceSt s sl
  match x.filterWalks with
  | [] => s
  | (pf, k) :: rest =>
    let (set, ln) := walkSet pf k
    let s := readSet (tookWalker s sl) sl set
    let ways := (List.range 16).filter fun w => (tagAt s sl set w).sv
    let s := ways.foldl (fun s w => countRsvdLine s sl set w ln) s
    let mine := ways.filter fun w => (tagAt s sl set w).rqh && (tagAt s sl set w).eff ln != .I
    -- a line with a transaction open since before the entry was lost: the walk waits for it
    if mine.any fun w => lineBusy s sl (wayLine s sl set w ln) then s
    else
      let s := mine.foldl (fun s w =>
        let l := wayLine s sl set w ln
        (startLProbe s (place s l) l 0xFF true none).1) s
      let x := sliceSt s sl
      putSlice s sl { x with filterWalks := if k + 1 < 256 then (pf, k + 1) :: rest else rest }
/-- A walker step on filter entries: a purge, a retiring port, or a walk after a lost entry (R338, R339, R558). -/
def filterStep (s : State) (p : PortId) (sl : SliceId) : State :=
  let x := portSt s p
  if x.purge.isSome then purgeStep s p sl
  else if (sliceSt s sl).filterWalks ≠ [] then filterWalkStep s sl
  else retireStep s p sl

/-- A write of LINK_CTL.EN (R338, R341). -/
def pcpEnWrite (s : State) (p : PortId) (en : Bool) : State :=
  let x := portSt s p
  let s' := putPort s p { x with en := en, trainOk := if en then (x.trainOk || (!x.en && !x.down && !x.held && !x.retired)) else x.trainOk }
  if en then s' else portDetect s' p
/-- A returned PCP port has not reached L0 after 100 ms (R340). -/
def portReturnLate (s : State) (p : PortId) : State :=
  let x := portSt s p
  match x.returning with
  | some (k, t) =>
    if x.ltssm ≠ .l0 ∧ t.toNat + 100000000 ≤ s.now.toNat then opFail (putPort s p { x with returning := none }) k 0x0B else s
  | none => s

end Sys2Proof.Machine
end

