-- ==== Sys2Proof/Machine/Admission.lean ====
section
/-! DEFINITION. Beam admission (R26, R232, R233, R238, R242-R254) and the re-check of R276 and R277. -/

namespace Sys2Proof.Machine

/-! Fractions of two natural numbers: a charge divided by an interval (R245). -/

/-- A fraction. -/
structure Frac where
  num : Nat
  den : Nat
  deriving DecidableEq, Repr

/-- Sum of two fractions. -/
def Frac.add (a b : Frac) : Frac := if a.den = b.den then ⟨a.num + b.num, a.den⟩ else ⟨a.num * b.den + b.num * a.den, a.den * b.den⟩
/-- a ≤ b. -/
def Frac.le (a b : Frac) : Bool := decide (a.num * b.den ≤ b.num * a.den)
/-- Sum of a list. -/
def fracSum (l : List Frac) : Frac := l.foldl Frac.add ⟨0, 1⟩

/-- An instance of a resource (R251): the reason of a refusal on it, RESOURCE, RSET, the demand and the limit. -/
structure Inst where
  kind : BitVec 8
  res : BitVec 16
  rset : BitVec 15
  dem : Frac
  lim : Frac
  deriving DecidableEq, Repr

/-- The demand is within the limit. -/
def Inst.ok (x : Inst) : Bool := Frac.le x.dem x.lim
/-- LOAD in thousandths of the limit, at most 65,535 (R251); log entry 41. -/
def Inst.load (x : Inst) : BitVec 16 :=
  if x.kind = 0x0D then 0
  else BitVec.ofNat 16 (min 65535 (if x.lim.num = 0 then 65535 else x.dem.num * 1000 * x.lim.den / (x.dem.den * x.lim.num)))
/-- a is loaded more than b. -/
def Inst.more (a b : Inst) : Bool :=
  decide (b.dem.num * b.lim.den * (a.dem.den * a.lim.num) < a.dem.num * a.lim.den * (b.dem.den * b.lim.num))
/-- The most loaded instance, the earlier of equals. -/
def mostLoaded : List Inst → Option Inst
  | [] => none
  | x :: xs => match mostLoaded xs with
    | some y => if y.more x then some y else some x
    | none => some x

/-! What a beam puts on the resources (R245, R247, R248). -/

/-- The slice of a line under a fold map, and whether the line is folded (R29). -/
def admSlice (fm : BitVec 16) (l : LineAddr) : SliceId × Bool :=
  let n := sliceOf l
  if fm.getLsbD n.toNat then (n ^^^ 8, true) else (n, false)
/-- The largest charge that any one slot's row puts on an instance; `f` is the charge of a line. -/
def maxRow (d : BitVec 512) (f : LineAddr → Nat) : Nat :=
  ((List.range (dSlots d)).map fun r => ((List.range (dL d)).map fun i => f (beamLine d r i)).sum).foldl max 0
/-- Lines in slice n. -/
def chargeSlice (fm : BitVec 16) (n : SliceId) (l : LineAddr) : Nat := if (admSlice fm l).1 = n then 1 else 0
/-- Bytes on a pseudo-channel of slice n. -/
def chargeHbm (fm : BitVec 16) (n : SliceId) (q : Nat) (l : LineAddr) : Nat :=
  if (admSlice fm l).1 = n ∧ qOf l = q then 256 else 0
/-- Bytes on a DDR5 channel of a home of this ring. -/
def chargeDdr (s : State) (node : NodeId) (ch : BitVec 3) (l : LineAddr) : Nat :=
  match homeOf s l with
  | none => 0
  | some h => if h.home = ctrlOf (myRing s) node ∧ ddrChan s (localAddr h l) = ch then 128 else 0
/-- Bytes on every link direction. -/
def chargeRing (s : State) (l : LineAddr) : Nat :=
  32 + (match homeOf s l with
    | none => 0
    | some h => if h.home = s.net.ctrlId then 0 else 224)

/-- Admitted beams other than `self`: those that hold a context and charges (R272). -/
def admitted (s : State) (self : Option (BitVec 8)) : List BeamCtx :=
  (beamList s).filterMap fun e =>
    if e.2.state = 0 ∨ e.2.state = 6 ∨ some e.1 = self then none else some e.2
/-- The demand of admitted beams and a new one on an instance. -/
def demand (others : List BeamCtx) (d : BitVec 512) (i : Nat) (f : BitVec 512 → Nat) : Frac :=
  Frac.add (fracSum (others.map fun x => ⟨f x.desc, x.interval⟩)) ⟨f d, i⟩
/-- A share in percent, limited as R253 gives. -/
def share (v : BitVec 8) : Nat := max 1 (min 100 v.toNat)

/-- Sectors that the slots of a beam place in a set, or half set, of a slice (R248). -/
def beamSectors (fm : BitVec 16) (d : BitVec 512) (n : SliceId) (set : BitVec 14) (folded : Bool) : List (BitVec 18) :=
  ((beamLines d).filterMap fun l =>
    if admSlice fm l = (n, folded) ∧ setOf l = set then some (tagOf l) else none).dedup
/-- The sets that a beam touches in a slice, with the half: true for folded sectors. -/
def beamSets (fm : BitVec 16) (d : BitVec 512) (n : SliceId) : List (BitVec 14 × Bool) :=
  ((beamLines d).filterMap fun l => if (admSlice fm l).1 = n then some (setOf l, (admSlice fm l).2) else none).dedup
/-- Sets in the order of R248: by set index, ways 0-7 first. -/
def setsInOrder (l : List (BitVec 14 × Bool)) : List (BitVec 14 × Bool) :=
  l.insertionSort fun a b => (decide (a.1 < b.1) || (a.1 == b.1 && (!a.2 || b.2))) = true
/-- RSET of a set, or half set, of a slice (R251). -/
def rsetOf (fm : BitVec 16) (n : SliceId) (set : BitVec 14) (folded : Bool) : BitVec 15 :=
  BitVec.ofBool (folded && fm.getLsbD (n ^^^ 8).toNat) ++ set
/-- The cap of R248 on the sectors of all beams in a set that the beam touches. -/
def capInst (s : State) (fm : BitVec 16) (d : BitVec 512) (others : List BeamCtx) (n : SliceId) (set : BitVec 14)
    (folded : Bool) : Inst :=
  let half := fm.getLsbD (n ^^^ 8).toNat
  let theirs := others.map fun x => (x, beamSectors fm x.desc n set folded)
  let all := (beamSectors fm d n set folded ++ theirs.flatMap Prod.snd).dedup
  let fs := dFoldsafe d || s.beams.foldsafeAll || theirs.any fun e => dFoldsafe e.1.desc && !e.2.isEmpty
  let setcap := max 1 (min 12 s.beams.setcap.toNat)
  let gone := ((sliceSt s n).wayRetire.filter fun e =>
    e.1 == set && (!half || decide (8 ≤ e.2.toNat) == folded)).length
  let cap := (if fs || half then 6 else setcap) - gone
  ⟨0x0B, n.setWidth 16, rsetOf fm n set folded, ⟨all.length, 1⟩, ⟨cap, 1⟩⟩
/-- The two limits of R248 on a set that the beam touches: the cap, and the ways of the beam's partition less one. -/
def setInsts (s : State) (fm : BitVec 16) (d : BitVec 512) (others : List BeamCtx) (n : SliceId) (set : BitVec 14)
    (folded : Bool) : List Inst :=
  let half := fm.getLsbD (n ^^^ 8).toNat
  let theirs := others.flatMap fun x => if x.part = dPart d then beamSectors fm x.desc n set folded else []
  let ofPart := (beamSectors fm d n set folded ++ theirs).dedup
  let m := tget 0 (partSt s (dPart d)).ways (if folded then (n ^^^ 8).toNat else n.toNat)
  let ways := if half then popcount (m.extractLsb' 0 8 ||| m.extractLsb' 8 8) else popcount m
  [capInst s fm d others n set folded, ⟨0x0B, n.setWidth 16, rsetOf fm n set folded, ⟨ofPart.length, 1⟩, ⟨ways - 1, 1⟩⟩]
/-- Every set that the beam touches. -/
def allSetInsts (s : State) (fm : BitVec 16) (d : BitVec 512) (others : List BeamCtx) : List Inst :=
  ((List.range 16).map (BitVec.ofNat 4)).flatMap fun n =>
    (setsInOrder (beamSets fm d n)).flatMap fun e => setInsts s fm d others n e.1 e.2
/-- The pin budget of the partition (R249). -/
def pinInst (s : State) (d : BitVec 512) (others : List BeamCtx) : Inst :=
  let p := dPart d
  let n := ((others.filter fun x => x.part == p).map fun x => dExpire x.desc * dL x.desc).sum + dExpire d * dL d
  ⟨0x0C, p.setWidth 16, 0, ⟨n, 1⟩, ⟨(partSt s p).pinBudget.toNat, 1⟩⟩
/-- Load of an engine or of a cluster by the beams it serves: two issues for each line of a row (R245). -/
def issueLoad (others : List BeamCtx) (serves : BitVec 6 → Bool) : Frac :=
  fracSum ((others.filter fun x => serves x.engine).map fun x => ⟨2 * dL x.desc, x.interval⟩)
/-- The load on engine e and on its cluster with the new beam (R245). -/
def engineInsts (d : BitVec 512) (others : List BeamCtx) (i e : Nat) : List Inst :=
  let new : Frac := ⟨2 * dL d, i⟩
  [⟨0x0D, 0, 0, Frac.add (issueLoad others fun x => x.toNat == e) new, ⟨45, 100⟩⟩,
   ⟨0x0D, 0, 0, Frac.add (issueLoad others fun x => clusterOf x == e / 8) new, ⟨9, 10⟩⟩]
/-- The lowest engine with room (R249, R254). -/
def chooseEngine (s : State) (d : BitVec 512) (others : List BeamCtx) (i : Nat) : Option Nat :=
  (List.range 40).find? fun e =>
    !(engineSt s e).dead && (engineInsts d others i e).all Inst.ok && decide ((others.filter fun x => x.engine.toNat == e).length < 16)
/-- a(s) for every slice (R247). -/
def allotments (fm : BitVec 16) (d : BitVec 512) (tlat i : Nat) : Table Nat :=
  (List.range 16).foldl (fun t n =>
    let k := maxRow d (chargeSlice fm (BitVec.ofNat 4 n))
    tset 0 t n ((k * tlat + i - 1) / i)) []
/-- The miss-table limit of each slice that the beam uses. -/
def missInsts (allot : Table Nat) (others : List BeamCtx) : List Inst :=
  allot.map fun e =>
    ⟨0x0E, BitVec.ofNat 16 e.1, 0, ⟨(others.map fun x => tget 0 x.allot e.1).sum + e.2, 1⟩, ⟨32, 1⟩⟩
/-- The rate of a stack in tenths of Gb/s (R399, R412). -/
def hbmRate (s : State) (n : Nat) : Nat :=
  match (hbmSt s (n / 8)).rate.toNat with
  | 0 => 64
  | 1 => 56
  | _ => 48
/-- HBM pseudo-channels that the beam uses: 4 B x the stack's rate, less 8 % (R245, R399). -/
def hbmInsts (s : State) (fm : BitVec 16) (d : BitVec 512) (others : List BeamCtx) (i : Nat) : List Inst :=
  (List.range 16).flatMap fun n => (List.range 4).filterMap fun q =>
    let f (d : BitVec 512) : Nat := maxRow d (chargeHbm fm (BitVec.ofNat 4 n) q)
    if f d = 0 then none
    else some ⟨0x0F, BitVec.ofNat 16 (n * 256 + q), 0, demand others d i f, ⟨4 * hbmRate s n * 92 * share s.beams.hbmShare, 10 * 100 * 100⟩⟩
/-- Slice pipelines, write paths and read paths (R245). -/
def sliceInsts (s : State) (fm : BitVec 16) (d : BitVec 512) (others : List BeamCtx) (i : Nat) : List Inst :=
  let sh := share s.beams.sliceShare
  (List.range 16).flatMap fun n =>
    let f (d : BitVec 512) : Nat := maxRow d (chargeSlice fm (BitVec.ofNat 4 n))
    if f d = 0 then []
    else
      [⟨0x10, BitVec.ofNat 16 (n * 256), 0, demand others d i (fun d => 3 * f d), ⟨16 * sh, 10 * 100⟩⟩,
       ⟨0x10, BitVec.ofNat 16 (n * 256 + 1), 0, demand others d i (fun d => 128 * f d), ⟨1024 * sh, 10 * 100⟩⟩,
       ⟨0x10, BitVec.ofNat 16 (n * 256 + 2), 0, demand others d i (fun d => 128 * f d), ⟨1024 * sh, 10 * 100⟩⟩]
/-- PCP transmit of the consumer port (R245). -/
def portInst (s : State) (d : BitVec 512) (others : List BeamCtx) (i : Nat) : Inst :=
  ⟨0x11, (dPort d).setWidth 16, 0,
    demand (others.filter fun x => dPort x.desc == dPort d) d i (fun d => 160 * dL d), ⟨57 * share s.beams.portShare, 100⟩⟩

/-- The same at a re-check: a port that trained at a lower rate or at x8 fails its charge (R276, R313; log entry 118). -/
def recheckPort (s : State) (d : BitVec 512) (others : List BeamCtx) (i : Nat) : Inst :=
  let x := portSt s (dPort d)
  let v := portInst s d others i
  if x.ltssm = .l0 ∧ (x.rate ≠ 0 ∨ x.x8) then { v with lim := ⟨0, 1⟩ } else v

/-! The ring ledger (R245, R246, R438). -/

/-- A ledger resource word: the reason code in [31:24], RESOURCE of R251 in [15:0]. Log entry 38. -/
def ledgerRes (kind : BitVec 8) (r : BitVec 16) : Word := kind ++ (0 : BitVec 8) ++ r
/-- A rate in MB/s, rounded up. Log entry 42. -/
def rateMb (charge i : Nat) : Word := BitVec.ofNat 32 ((1000 * charge + i - 1) / i)
/-- The link directions of the ring: node and direction, 0 east, 1 west; a chain's end nodes lack one. -/
def linkDirs (s : State) : List (BitVec 16) :=
  let t := s.net.lower.cur
  let n := t.order.length
  if n ≤ 1 then []
  else (t.order.zip (List.range n)).flatMap fun (e : NodeId × Nat) =>
    let w : BitVec 16 := (BitVec.setWidth 16 e.1) <<< (8 : Nat)
    (if t.folded && decide (e.2 + 1 = n) then [] else [w]) ++ (if t.folded && decide (e.2 = 0) then [] else [w ||| 1])
/-- What the beam adds to the ledger. -/
def beamCharges (s : State) (d : BitVec 512) (i : Nat) : List Charge :=
  let ddr := (List.range 16).flatMap fun n => (List.range 8).filterMap fun c =>
    let k := maxRow d (chargeDdr s (BitVec.ofNat 4 n) (BitVec.ofNat 3 c))
    if k = 0 then none else some (⟨ledgerRes 0x12 (BitVec.ofNat 16 (n * 256 + c)), rateMb k i⟩ : Charge)
  let k := maxRow d (chargeRing s)
  ddr ++ (linkDirs s).map fun r => ⟨ledgerRes 0x13 r, rateMb k i⟩
/-- The rate of a DDR5 channel in MT/s (R384). -/
def ddrMt (s : State) (c : Nat) : Nat :=
  match (chanSt s c).rate.toNat with
  | 0 => 6400
  | 1 => 5600
  | _ => 4800
/-- The slot bandwidth of a lane set in MB/s (R245, R350, R353). Log entry 106. -/
def laneMb (lanes : BitVec 8) : Nat :=
  match ((List.range 8).filter fun i => lanes.getLsbD i).length with
  | 2 => 23200
  | 4 => 46400
  | _ => 93000
/-- The lane set of a link direction as far as this node knows it: of its own links, at either end. Log entry 106. -/
def linkLanes (s : State) (r : Word) : BitVec 8 :=
  let n : NodeId := r.extractLsb' 8 4
  let west := r.getLsbD 0
  if n = myNode s then (ringPort s (if west then .ringW else .ringE)).lanes
  else if west && neighbour s .ringE == some n then (ringPort s .ringE).lanes
  else if !west && neighbour s .ringW == some n then (ringPort s .ringW).lanes
  else 0xFF
/-- The ledger's limit on a resource, in MB/s; a channel of this home that is retired, or that retrains, carries nothing
    (R245, R353, R404, R409). Log entry 43. -/
def ledgerLimit (s : State) (r : Word) : Frac :=
  if r.extractLsb' 24 8 = 0x12 then
    let c := r.toNat % 8
    if r.extractLsb' 8 4 = myNode s ∧ (s.ddrRet.getLsbD c ∨ (chanSt s c).retraining) then ⟨0, 1⟩
    else ⟨ddrMt s c * 8 * 90 * share s.beams.ddrShare, 10000⟩
  else ⟨laneMb (linkLanes s r) * share s.beams.ringShare, 100⟩
/-- The instances of the ledger that the beam charges; its own old charges do not count. -/
def ledgerInsts (s : State) (self : Option (BitVec 8)) (cs : List Charge) : List Inst :=
  let es := s.beams.ledger.filter fun e => e.leaving || !(e.origin == s.net.ctrlId && some e.ctx == self)
  let old (r : Word) : Nat := (es.map fun e => ((e.charges.filter fun c => c.resource == r).map fun c => c.rate.toNat).sum).sum
  cs.map fun c => ⟨c.resource.extractLsb' 24 8, c.resource.extractLsb' 0 16, 0, ⟨old c.resource + c.rate.toNat, 1⟩, ledgerLimit s c.resource⟩

/-! Checks of the geometry and of the consumer (R250). -/

/-- The members of the ring that the census gives. -/
def ringMembers (s : State) : Nat := memberCount s.net.lower.cur.members
/-- The reason that a line's address is refused: 0x07 or 0x08, or 0 (R26, R249). -/
def addressReason (s : State) (d : BitVec 512) (l : LineAddr) : BitVec 8 :=
  if (List.range 8).any (fun n => inWindow35 (portSt s (BitVec.ofNat 3 n)) (addrOf l)) then 0x07
  else match homeOf s l with
    | none => 0x07
    | some h =>
      let other : Bool := ringOf h.home != myRing s
      if h.uncached || (h.priv && other) then 0x07
      else if other && !dXring d then 0x08
      else if homeMember s l then 0 else 0x08
/-- The first reason that the lines give, in slot, segment and line order (R233, R249). -/
def linesReason (s : State) (d : BitVec 512) (others : List LineAddr) : List LineAddr → List LineAddr → BitVec 8
  | _, [] => 0
  | seen, l :: rest =>
    if seen.contains l then 0x05
    else if others.contains l then 0x06
    else if addressReason s d l ≠ 0 then addressReason s d l
    else linesReason s d others (l :: seen) rest
/-- The port's link is up. -/
def pcpUp (s : State) (p : PortId) : Bool := (portSt s p).initDone && !(portSt s p).down
/-- The consumer is bad (R250). -/
def badConsumer (s : State) (d : BitVec 512) : Bool :=
  let e := tget stream0 (portSt s (dPort d)).stream (dStream d).toNat
  !pcpUp s (dPort d) || !(e.getLsbD 6 && e.extractLsb' 0 6 == dPart d)
    || s.beams.ctx.any fun x => (x.2.state == 2 || x.2.state == 5) && x.2.part != dPart d && dPort x.2.desc == dPort d
        && dStream x.2.desc == dStream d
/-- The partition cannot take a beam: not ACTIVE, or its scope or the whole cache draining or off (R249, R295). -/
def badPart (s : State) (p : PartId) (restoring : Bool) : Bool :=
  let st := (partSt s p).state
  !(st == 1 || (restoring && st == 7)) || s.cache.drains.any fun x => x.scope == none || x.scope == some p
/-- T of the tree (R201, R242). Log entry 10. -/
def treeBound (s : State) : Nat := treeT s
/-- t_lat of R242: the largest over the beam's lines. -/
def tLat (s : State) (d : BitVec 512) : Nat :=
  let n := ringMembers s
  let margin := s.beams.refreshMargin.toNat + s.beams.queueMargin.toNat
  let fold := 2 * (n - 1) * 85 + n * 10
  let ring (h : Nat) : Nat := 40 + 2 * h * 85 + 20 + fold + 15 + 10 + margin
  ((beamLines d).map fun l =>
    match homeOf s l with
    | none => ring 0
    | some e =>
      if e.home = s.net.ctrlId then ring 0
      else if ringOf e.home = myRing s then ring (n - 1) else treeBound s + margin).foldl max 0
/-- The relations of R243. -/
def timingOk (d : BitVec 512) : Bool :=
  decide (dExpire d ≤ dSlots d) && decide (dLead d < dExpire d * dP d)
    && (!dEncoder d || (decide (dAhead d < dExpire d) && decide (dLead d ≤ dAhead d * dP d)))
/-- The synchronisation margin (R242). -/
def syncMargin (d : BitVec 512) : Nat := if dXring d then 64 else 16

/-! The procedure. -/

/-- What admission answers (R251). -/
structure Verdict where
  reason : BitVec 8
  ctx : BitVec 8
  engine : BitVec 6
  inst : Option Inst
  tlat : Nat
  interval : Nat
  maxpin : Nat
  allot : Table Nat
  charges : List Charge
  deriving DecidableEq, Repr

/-- A refusal without an instance. -/
def refused0 (r : BitVec 8) : Verdict := ⟨r, 0xFF, 0x3F, none, 0, 0, 0, [], []⟩
/-- The context that an admission takes: the lowest FREE, or else the lowest REFUSED (R272). Log entry 40. -/
def pickCtx (s : State) : Option (BitVec 8) :=
  let cs := (List.range 256).map (BitVec.ofNat 8)
  match cs.find? fun c => (beamCtx s c).state == 0 with
  | some c => some c
  | none => cs.find? fun c => (beamCtx s c).state == 6
/-- The checks in the order of R249; they stop at the first that fails. -/
def admission (s : State) (d : BitVec 512) (restoring peersOk : Bool) : Verdict :=
  let fm := s.home.foldLive
  let others := admitted s none
  if !descOk d then refused0 0x01
  else
    let v := { refused0 0 with maxpin := dExpire d * dL d }
    if badPart s (dPart d) restoring then { v with reason := 0x02 }
    else if badConsumer s d then { v with reason := 0x03 }
    else match pickCtx s with
    | none => { v with reason := 0x04 }
    | some c =>
      let r := linesReason s d (others.flatMap fun x => beamLines x.desc) [] (beamLines d)
      if r ≠ 0 then { v with reason := r }
      else
        let t := tLat s d
        let v := { v with tlat := t }
        if !timingOk d then { v with reason := 0x09 }
        else if dLead d < 2 * t + syncMargin d + 1 then { v with reason := 0x0A }
        else
          let i := min (dP d) (dLead d - 2 * t - syncMargin d)
          let v := { v with interval := i }
          let bad (l : List Inst) : Option Verdict :=
            (l.find? fun x => !x.ok).map fun x => { v with reason := x.kind, inst := some x }
          let sets := allSetInsts s fm d others ++ [pinInst s d others]
          match bad sets with
          | some v => v
          | none =>
            match chooseEngine s d others i with
            | none => { v with reason := 0x0D, inst := some ⟨0x0D, 0, 0, ⟨0, 1⟩, ⟨0, 1⟩⟩ }
            | some e =>
              let allot := allotments fm d t i
              let cs := beamCharges s d i
              let later := missInsts allot others ++ hbmInsts s fm d others i ++ sliceInsts s fm d others i
                ++ [portInst s d others i] ++ ledgerInsts s none cs
              match bad later with
              | some v => v
              | none =>
                if !peersOk then { v with reason := 0x14 }
                else
                  { v with ctx := c, engine := BitVec.ofNat 6 e, allot := allot, charges := cs
                           inst := mostLoaded (sets ++ engineInsts d others i e ++ later) }
/-- The result words of BEAM_ADMIT (R251, R436). -/
def admitWords (v : Verdict) : List Word :=
  let w0 : Word := v.reason.setWidth 32 ||| v.ctx.setWidth 32 <<< 8 ||| v.engine.setWidth 32 <<< 16
  let (w1, w5) : Word × Word := match v.inst with
    | some x => (x.res.setWidth 32 ||| x.load.setWidth 32 <<< 16, x.rset.setWidth 32 ||| x.kind.setWidth 32 <<< 16)
    | none => (0, 0)
  [w0, w1, BitVec.ofNat 32 v.tlat, BitVec.ofNat 32 v.interval, BitVec.ofNat 32 v.maxpin, w5]
/-- A beam admitted takes its context: every field of its record is at its reset value; every member is told its charges
    (R246, R250, R254, R275). -/
def admitBeam (s : State) (d : BitVec 512) (v : Verdict) : State :=
  let s := putBeam s v.ctx { beamCtx0 with
    state := 1, engine := v.engine, part := dPart d, desc := d, interval := v.interval, tlat := v.tlat, allot := v.allot }
  let s := logAdd (peerLedger s true v.ctx v.charges) 0x0C [v.ctx.setWidth 32, (beamCtx s v.ctx).state.setWidth 32 ||| 0x100, 0]
  let s := { s with beams := { s.beams with
    ledger := s.beams.ledger ++ [{ origin := s.net.ctrlId, ctx := v.ctx, charges := v.charges, leaving := false }] } }
  setPins s (dPart d)

/-! The re-check (R276, R277, R531). -/

/-- Slices are held below 1.6 GHz (R527). -/
def throttled (s : State) : Bool := decide (4 ≤ s.pwr.level.toNat)
/-- The allotments that a re-check computes, and whether its limits hold, under a fold map. -/
def recheckLimits (s : State) (fm : BitVec 16) (c : BitVec 8) (x : BeamCtx) : Table Nat × Bool :=
  let d := x.desc
  let t := tLat s d
  if dLead d < 2 * t + syncMargin d + 1 then (x.allot, false)
  else
    let others := admitted s (some c)
    let i := min (dP d) (dLead d - 2 * t - syncMargin d)
    let allot := allotments fm d t i
    let l := allSetInsts s fm d others ++ [pinInst s d others] ++ missInsts allot others ++ hbmInsts s fm d others i
      ++ engineInsts d others i x.engine.toNat ++ sliceInsts s fm d others i ++ [recheckPort s d others i] ++ ledgerInsts s (some c) (beamCharges s d i)
    (allot, l.all Inst.ok)
/-- DREASON of a re-check: 0 where it passes; a retrain of a channel gives RECHECK until it ends (R277, R404). -/
def recheckReason (s : State) (fm : BitVec 16) (c : BitVec 8) (x : BeamCtx) : BitVec 3 :=
  let retraining (l : LineAddr) : Bool := (homeAddr s l).any fun la => (chanSt s (ddrChan s la).toNat).retraining
  if (beamLines x.desc).any fun l => !homeMember s l then 1
  else if (beamLines x.desc).any retraining then 2
  else if throttled s then 4
  else if (recheckLimits s fm c x).2 then 0 else 2
/-- Lantern-A runs admission again for one beam. -/
def recheckBeam (s : State) (c : BitVec 8) : State :=
  let x := beamCtx s c
  if x.state = 0 ∨ x.state = 6 then s
  else
    let fm := s.home.foldLive
    let r := recheckReason s fm c x
    let s' := putBeam s c { x with degraded := r != 0, dreason := r, allot := (recheckLimits s fm c x).1 }
    if r ≠ 0 ∧ ¬ x.degraded then raiseEvt s' 6 else s'
/-- Lantern-A runs admission again for every admitted beam (R276). -/
def recheck (s : State) : State := (beamList s).foldl (fun s e => recheckBeam s e.1) s
/-- Some half set of the partner of a slice would hold more sectors of the admitted beams than its cap with that slice folded out
    (R31, R248). -/
def foldBreaks (s : State) (n : SliceId) : Bool :=
  let fm := s.home.foldLive ||| BitVec.twoPow 16 n.toNat
  let p := n ^^^ 8
  (beamList s).any fun e =>
    decide (e.2.state ≠ 0 ∧ e.2.state ≠ 6)
      && (beamSets fm e.2.desc p).any fun x => !(capInst s fm e.2.desc (admitted s (some e.1)) p x.1 x.2).ok
/-- A beam of a partition would fail its re-check (R290). -/
def partBreaks (s : State) (p : PartId) : Bool :=
  (beamList s).any fun e =>
    decide (e.2.state ≠ 0 ∧ e.2.state ≠ 6 ∧ e.2.part = p) && recheckReason s s.home.foldLive e.1 e.2 != 0

end Sys2Proof.Machine
end

