-- ==== Sys2Proof/Machine/Walker.lean ====
section
/-! DEFINITION. The walkers: drains and flushes (R113, R124-R129), fold walks (R33, R187, R267, R567, R570), scrub (R561). -/

namespace Sys2Proof.Machine

/-! Removal of lines (R112, R125). -/

/-- The place of a line that stands in a way. -/
def wayPlace (s : State) (sl : SliceId) (set : BitVec 14) (w : Nat) (ln : BitVec 5) : Place :=
  let f := carries s sl set && decide (8 ≤ w)
  { own := if f then sl ^^^ 8 else sl, sl, set, tag := (tagAt s sl set w).tag, line := ln, folded := f, held := false }
/-- A line that a walker cannot remove yet: it has an open transaction or stands in a penumbra buffer. -/
def walkBusy (s : State) (sl : SliceId) (l : LineAddr) : Bool :=
  lineBusy s sl l || (penOf s sl).any fun b => b.2.laddr == l
/-- How a walker's removal of a line ends: the line has gone, or it waits for a transaction, or for a penumbra buffer. -/
inductive Removal where
  | gone (s : State)
  | busy
  | short
/-- One line removed as FLUSH_L does. -/
def removeLine (s : State) (sl : SliceId) (set : BitVec 14) (w : Nat) (ln : BitVec 5) : Removal :=
  let l := wayLine s sl set w ln
  let pl := wayPlace s sl set w ln
  if walkBusy s sl l then .busy
  else
    let t := demote s pl
    let st := (tagAt t sl set w).eff ln
    let f := pfGet t pl l
    if st.dirty || f.exh then
      if penFree s sl = 0 then .short else .gone (setI (toPenumbra t pl w l .flush .walker) pl)
    else
      let t := setI t pl
      .gone (if f.hold = 0 then t else (startLProbe (pfPut t pl l 0 false) pl l f.hold false none).1)
/-- Lines of a set that a removal names: way, line number. -/
def setLines (s : State) (sl : SliceId) (set : BitVec 14) (scope : Option PartId) (p : LineAddr → Bool) :
    List (Nat × BitVec 5) :=
  (List.range 16).flatMap fun w =>
    let e := tagAt s sl set w
    if !e.sv || !(scope == none || scope == some e.part) then []
    else ((List.range 32).map (BitVec.ofNat 5)).filterMap fun ln =>
      if e.eff ln != .I && p (wayLine s sl set w ln) then some (w, ln) else none
/-- An entry of the set is open whose fill goes into a sector in scope, so that the fill may still come. -/
def setOpen (s : State) (sl : SliceId) (set : BitVec 14) (scope : Option PartId) : Bool :=
  (missOf s sl).any fun m =>
    m.2.kind != .waiting && m.2.hasWay && setOf m.2.req.laddr == set
      && (scope == none || scope == some (tagAt s sl set m.2.way.toNat).part)
/-- What a walker's pass of a set's lines has come to: how many lines have gone, whether every one has, and the partition of
    the first that found no penumbra buffer. -/
structure WalkPass where
  s : State
  gone : Nat
  all : Bool
  short : Option PartId
/-- The lines of a set removed each by `f`; where one finds no penumbra buffer the walker pauses, and PEN_FULL counts it (R84). -/
def walkLines (f : State → Nat → BitVec 5 → Removal) (s : State) (sl : SliceId) (set : BitVec 14) (ls : List (Nat × BitVec 5)) :
    State × Nat × Bool :=
  let r := ls.foldl (fun (r : WalkPass) x =>
    match f r.s x.1 x.2 with
    | .gone t => { r with s := t, gone := r.gone + 1 }
    | .busy => { r with all := false }
    | .short => { r with all := false, short := some (tagAt r.s sl set x.1).part }) ⟨s, 0, true, none⟩
  (match r.short with
    | some p => noteShort r.s sl p .penBuf
    | none => r.s, r.gone, r.all)
/-- The lines removed, how many, and whether every one could be. A fenced line is left, and counted (R309). -/
def removeLines (s : State) (sl : SliceId) (set : BitVec 14) (ls : List (Nat × BitVec 5)) : State × Nat × Bool :=
  let s := ls.foldl (fun s x => if fenced s (wayLine s sl set x.1 x.2) then trouble s (blkSlc sl) kSlcMoveFence else s) s
  walkLines (fun s w ln => removeLine s sl set w ln) s sl set (ls.filter fun x => !fenced s (wayLine s sl set x.1 x.2))

/-! Drains and flushes (R113, R124-R129). -/

/-- Slice domains asleep in A2 wake for a walk (R518). -/
def wakeWalkers (s : State) : State :=
  (List.range 32).foldl (fun s d => if (domSt s d).state = 2 then wakeDom s d true else s) s
/-- A drain starts: sleeping slices wake (R518), and open write-combining buffers whose lines lie in scope close (R110, R125).
    A drain of the same scope that has ended leaves the list. The walkers start once the contexts named are cancelled (R129). -/
def startDrain (s : State) (scope : Option PartId) (slot : Option SlotRef) (cancels : List (BitVec 8)) : State :=
  let d : Drain := { scope, pos := [], ended := false, count := 0, slot, cancels }
  let s := wakeWalkers s
  let s := { s with cache := { s.cache with drains := s.cache.drains.filter (fun x => x.scope ≠ scope) ++ [d] } }
  (List.range 16).foldl (fun s k =>
    let sl : SliceId := BitVec.ofNat 4 k
    (wcOf s sl).foldl (fun s e =>
      if scope = none ∨ scope = some (scopePart s (place s e.2.laddr) e.2.part) then wcClose s sl e.1 else s) s) s
/-- The drain of a scope, running or off. -/
def drainIn (s : State) (scope : Option PartId) : Option Drain := s.cache.drains.find? fun d => d.scope == scope
/-- The scope is draining. -/
def draining (s : State) (scope : Option PartId) : Bool := (drainIn s scope).any fun d => !d.ended
/-- The scope is off (R127). -/
def scopeOff (s : State) (scope : Option PartId) : Bool := (drainIn s scope).any fun d => d.ended
/-- The scope is on again (R127). -/
def scopeOn (s : State) (scope : Option PartId) : State :=
  { s with cache := { s.cache with drains := s.cache.drains.filter fun x => x.scope ≠ scope } }
/-- Some penumbra buffer of kind flush is in use. -/
def flushOpen (s : State) : Bool := s.cache.pen.any fun e => e.2.any fun b => b.kind == .flush
/-- Every walker has passed every set. -/
def allPassed (pos : Table Nat) : Bool := (List.range 16).all fun k => decide (16384 ≤ tget 0 pos k)
/-- Flushes whose walkers have passed and whose buffers are free end (R434). -/
def flushEnds (s : State) : State :=
  s.cache.flushes.foldl (fun (s : State) (f : FlushWalk) =>
    if allPassed f.pos && !flushOpen s then
      let s := { s with cache := { s.cache with flushes := s.cache.flushes.erase f } }
      onSlot s f.slot fun s k => opDone (opResult (opResult (opProgress s k f.count) k 0 (BitVec.ofNat 32 f.count)) k 1
        (BitVec.ofNat 32 f.gone)) k
    else onSlot s f.slot fun s k => opProgress s k f.count) s
/-- One set of a drain passed by a walker. -/
def drainStep (s : State) (sl : SliceId) (d : Drain) : State :=
  let set : BitVec 14 := BitVec.ofNat 14 (tget 0 d.pos sl.toNat)
  let s := walkSetRead (tookWalker s sl) sl set
  let (s, _, ok) := removeLines s sl set (setLines s sl set d.scope fun _ => true)
  let pass := ok && !setOpen s sl set d.scope
  { s with cache := { s.cache with drains := s.cache.drains.map fun (x : Drain) =>
      if pass && x.scope == d.scope then { x with pos := tset 0 x.pos sl.toNat (tget 0 x.pos sl.toNat + 1) } else x } }
/-- One set of a flush passed by a walker. -/
def flushStep (s : State) (sl : SliceId) (f : FlushWalk) : State :=
  let set : BitVec 14 := BitVec.ofNat 14 (tget 0 f.pos sl.toNat)
  let s := walkSetRead (tookWalker s sl) sl set
  let (s, n, ok) := removeLines s sl set (setLines s sl set f.scope fun l => decide (f.first ≤ l ∧ l ≤ f.last))
  { s with cache := { s.cache with flushes := s.cache.flushes.map fun (x : FlushWalk) =>
      if x.scope == f.scope && x.slot == f.slot then
        { x with gone := x.gone + n, pos := if ok then tset 0 x.pos sl.toNat (tget 0 x.pos sl.toNat + 1) else x.pos }
      else x } }
/-- A walker step of a slice: a drain first, then a flush (R113, R125). -/
def walkerStep (s : State) (sl : SliceId) : State :=
  let left (pos : Table Nat) : Bool := decide (tget 0 pos sl.toNat < 16384)
  let s :=
    match s.cache.drains.find? fun (d : Drain) => !d.ended && d.cancels.isEmpty && left d.pos with
    | some d => drainStep s sl d
    | none =>
      match s.cache.flushes.find? fun (f : FlushWalk) => left f.pos with
      | some f => flushStep s sl f
      | none => s
  let s := s.cache.drains.foldl (fun (s : State) (d : Drain) => if d.ended then s else onSlot s d.slot fun s k => opProgress s k d.count) s
  flushEnds s

/-- A partition ceases to exist: entries that name it lose their binding, its masks, shares and pin budget are as at reset,
    its counters stay (R287, R291, R298). -/
def partGone (s : State) (p : PartId) : State :=
  let s := (List.range 8).foldl (fun s n =>
    let q : PortId := BitVec.ofNat 3 n
    let x := portSt s q
    -- both copies of an entry whose live copy names p; a staged change that is not committed stays otherwise (R597)
    let clr (t : Table (BitVec 8)) : Table (BitVec 8) := (List.range 256).foldl (fun t k =>
      if (tget stream0 x.stream k).extractLsb' 0 6 = p then tset stream0 t k 0 else t) t
    putPort s q { x with stream := clr x.stream, streamStaged := clr x.streamStaged }) s
  let x := partSt s p
  scopeOn (putPart s p { x with
    en := false, state := 0, ways := [], waysStaged := [], share := part0.share, shareStaged := part0.share
    pinBudget := 0, pinBudgetStaged := 0 }) (some p)
/-- The drain of a scope ends: the scope is off (R124, R127, R288, R298). -/
def drainEnds (s : State) (scope : Option PartId) : State :=
  match drainIn s scope with
  | none => s
  | some d =>
    if d.ended || !allPassed d.pos || flushOpen s then s
    else
      let s := { s with cache := { s.cache with drains := s.cache.drains.map fun (x : Drain) =>
        if x.scope == scope then { x with ended := true, slot := none } else x } }
      let removing : Bool := match d.slot with
        | some k => match (opSlot s k).job with
          | .remove _ _ => true
          | _ => false
        | none => false
      let s := match scope with
        | some p =>
          if removing then partGone s p
          else
            let x := partSt s p
            putPart s p { x with en := false, state := if x.state = 5 then 6 else x.state }
        | none => s
      onSlot s d.slot fun s k => opDone (opResult (opProgress s k d.count) k 0 (BitVec.ofNat 32 d.count)) k

/-! Fold walks (R33, R187, R267). -/

/-- The lines of a way that are pinned, with their partition. -/
def pinnedLines (s : State) (sl : SliceId) (set : BitVec 14) (w : Nat) : List (LineAddr × PartId) :=
  let e := tagAt s sl set w
  (bitsOf e.pins).map fun l => (wayLine s sl set w (BitVec.ofNat 5 l), e.part)
/-- Ways that a fold walk empties in a slice: all of Sn and ways 8-15 of the partner on a retire, ways 8-15 of the partner
    on a return (R33). -/
def foldWays (w : FoldWalk) (sl : SliceId) : List Nat :=
  if sl = w.slice then (if w.ret then [] else List.range 16) else (List.range 8).map (· + 8)
/-- A line in A is set to M and removed as R112 gives (R226). -/
def foldAtom (s : State) (sl : SliceId) (set : BitVec 14) (way : Nat) (ln : BitVec 5) : State :=
  let pl := wayPlace s sl set way ln
  if (tagAt s sl set way).eff ln = .A then
    setLine (toPenumbra (demote s pl) pl way (wayLine s sl set way ln) .flush .walker) pl .I
  else s
/-- A sector evicted by the walker: its dirty lines leave through the penumbra, for which it waits where too few buffers are
    free (R84); pinned lines are noted for restaging. -/
def foldEvict (s : State) (w : FoldWalk) (sl : SliceId) (way : Nat) : State :=
  let set : BitVec 14 := BitVec.ofNat 14 w.cursor.toNat
  let e := tagAt s sl set way
  if wayBusy s sl set way || wayAtom s sl set way then s
  else if penFree s sl < e.need then noteShort s sl e.part .penBuf
  else
    let pl := wayPlace s sl set way 0
    let pins := pinnedLines s sl set way
    let s := (List.range 32).foldl (fun s n => foldAtom s sl set way (BitVec.ofNat 5 n)) s
    let s := evictWay s pl way
    let s := syncShadow (putTag s sl set way tag0) sl set way
    let s := { s with cache := { s.cache with folds := s.cache.folds.map fun (x : FoldWalk) =>
      if x.slice == w.slice then { x with restage := x.restage ++ pins } else x } }
    wakeSet s sl set
/-- Directory entries that go with the set: those of the lines of this tag set in the ways concerned (R187). -/
def foldFds (s : State) (w : FoldWalk) (sl : SliceId) : List (BitVec 12 × Nat) :=
  let set : BitVec 14 := BitVec.ofNat 14 w.cursor.toNat
  s.cache.fd.filterMap fun e =>
    let fs : BitVec 12 := BitVec.ofNat 12 (e.1 / 16 % 4096)
    let way := e.1 % 16
    let own : SliceId := if w.ret then w.slice else sl
    if e.1 / 65536 = sl.toNat ∧ (fdEff e.2).valid ∧ (foldWays w sl).contains way ∧ setOf (fdLine own fs e.2) = set then
      some (fs, way) else none
/-- The first of the entries whose directory eviction can start now: a slot is free and no transaction of the line is open (R187,
    R192, R198, R199). -/
def foldEvictFd (s : State) (own sl : SliceId) : List (BitVec 12 × Nat) → State
  | [] => s
  | (fs, way) :: rest =>
    let e := fdAt s sl fs way
    let t := if e.err = .single then trouble (putFd s sl fs way { e with err := .none }) (blkSlc sl) kSlcFdCe else s
    match startEvict t own sl fs way with
    | some t => t
    | none => foldEvictFd t own sl rest
/-- The fold walk that a slice takes part in. -/
def foldOf (s : State) (sl : SliceId) : Option FoldWalk :=
  s.cache.folds.find? fun w => w.slice == sl || w.slice == sl ^^^ 8
/-- A walker step at the fold cursor: a sector, or else a directory entry, of the set in motion (R33, R187). -/
def foldStep (s : State) (sl : SliceId) : State :=
  match foldOf s sl with
  | none => s
  | some w =>
    let set : BitVec 14 := BitVec.ofNat 14 w.cursor.toNat
    if 16384 ≤ w.cursor.toNat then s
    else
      let s := readSet (tookWalker s sl) sl set
      match (foldWays w sl).find? fun way => (tagAt s sl set way).sv with
      | some way => foldEvict s w sl way
      | none => foldEvictFd s (if w.ret then w.slice else sl) sl (foldFds s w sl)
/-- The set in motion is done (R33, R567). -/
def foldSetOk (s : State) (w : FoldWalk) : Bool :=
  let set : BitVec 14 := BitVec.ofNat 14 w.cursor.toNat
  let clear (sl : SliceId) : Bool :=
    (foldWays w sl).all (fun way => !(tagAt s sl set way).sv) && (foldFds s w sl).isEmpty
      && !(evictOf s sl).any fun e => setOf e.2.hdr.laddr == set
  let homeIdle (sl : SliceId) : Bool := !(homeqOf s sl ++ farqOf s sl).any fun e => setOf e.2.hdr.laddr == set
  decide (w.cursor.toNat < 16384) && clear w.slice && clear (w.slice ^^^ 8)
    && homeIdle (if w.ret then w.slice ^^^ 8 else w.slice)
/-- The beam, row and position that a pinned line belongs to: the row has issued it, and its release step is still to come. -/
def beamOfLine (s : State) (l : LineAddr) : Option (BitVec 8 × Nat × Nat) :=
  (beamList s).findSome? fun b =>
    if b.2.state = 2 ∨ b.2.state = 3 ∨ b.2.state = 5 then
      b.2.rows.findSome? fun y =>
        ((List.range (dL b.2.desc)).find? fun i =>
          beamLine b.2.desc y.row i == l && decide (i < y.next) && !y.held.contains i
            && (y.rel.isNone || relDue b.2 y i)).map fun i => (b.1, y.row, i)
    else none
/-- The deadline of the earliest open row of any beam (R267). -/
def earliestDl (s : State) : Nat :=
  let ds := (beamList s).flatMap fun b => (b.2.rows.filter fun y => y.rel.isNone).map fun y => y.deadline.toNat
  ds.foldl min (ds.headD 0)
/-- A pinned line of an evicted sector is staged again where the fold map gives it: a staging read sets out (R267). -/
def restageLine (s : State) (l : LineAddr) : State :=
  match beamOfLine s l with
  | none => s
  | some (c, row, i) =>
    let s := onRow (trouble s (blkSlc (place s l).sl) kSlcBeamRestage) c row fun y => { y with restage := y.restage ++ [i] }
    { s with beams := { s.beams with reads := s.beams.reads ++ [⟨c, row, BitVec.ofNat 16 i, earliestDl s⟩] } }

/-! Scrub (R561). -/

/-- RQH cleared where no filter entry names a line of the sector (R43). -/
def scrubRqh (s : State) (sl : SliceId) (set : BitVec 14) (w : Nat) : State :=
  let e := tagAt s sl set w
  let held := (List.range 32).any fun n => (pfFind s (wayPlace s sl set w (BitVec.ofNat 5 n)) (wayLine s sl set w (BitVec.ofNat 5 n))).isSome
  if held then s else putTag s sl set w { e with rqh := false }
/-- The shadow entry holds at least what R77 requires, and its parity is right. -/
def shadowGood (s : State) (sl : SliceId) (set : BitVec 14) (w : Nat) : Bool :=
  let a := shadowAt s sl set w
  let b := shadowAt (syncShadow s sl set w) sl set w
  a.ok && a.tag == b.tag && a.sv == b.sv && b.pres &&& ~~~a.pres == 0 && b.owng &&& ~~~a.owng == 0
/-- One way of a scrub step. -/
def scrubWay (s : State) (sl : SliceId) (set : BitVec 14) (w : Nat) : State :=
  let e := tagAt s sl set w
  if !e.sv then s
  else
    let s := if shadowGood s sl set w then s
      else
        let s := if (shadowAt s sl set w).ok then s else trouble s (blkSlc sl) kSlcShadowPar
        syncShadow s sl set w
    let s := scrubRqh s sl set w
    (List.range 32).foldl (fun s n =>
      let ln := BitVec.ofNat 5 n
      if e.eff ln = .I then s
      else queueReads s (wayPlace s sl set w ln) (wayLine s sl set w ln) w [0, 1, 2, 3] .scrub (sectorFor s (wayPlace s sl set w ln) w)) s
/-- A scrub step of a slice's walker: one set; the next is a pass's share of 8 hours later (R561; chapter 17, calendar). -/
def scrubStep (s : State) (sl : SliceId) : State :=
  let x := sliceSt s sl
  let set := x.scrubSet
  let s := tookWalker s sl
  -- a pass begins: the corrected errors of the last one are forgotten (R562)
  let s := if set = 0 then
      let h := hbmSt s (sl.toNat / 8)
      putHbmSt s (sl.toNat / 8) { h with laneErrs := h.laneErrs.filter fun e => e.1 / 128 != sl.toNat % 8 }
    else s
  let s := walkSetRead s sl set
  let s := (List.range 16).foldl (fun s w => scrubWay s sl set w) s
  let s := putSlice s sl { sliceSt s sl with scrubSet := set + 1 }
  { s with pwr := { s.pwr with walkAt := tset 0 s.pwr.walkAt sl.toNat (s.now.toNat + 28800000000000 / 16384) } }

end Sys2Proof.Machine
end

