-- ==== Sys2Proof/Machine/Partition.lean ====
section
/-! DEFINITION. Partitions (R280-R310, R597): binding, quiesce, freeze, the partition image, restore, and home actions. -/

namespace Sys2Proof.Machine

/-! Words in memory. -/

/-- A 32-bit word of a memory, least significant byte first. -/
def readWord (m : List Host.Cell) (a : Nat) : Word := BitVec.ofNat 32 (natOfBytes (mread m a 4))
/-- `n` words from byte address a on. -/
def readWords (m : List Host.Cell) (a n : Nat) : List Word := (List.range n).map fun i => readWord m (a + 4 * i)
/-- Words written from byte address a on. -/
def writeWords (m : List Host.Cell) (a : Nat) (ws : List Word) : List Host.Cell := mwrite m a (ws.flatMap fun w => bytesOf w 4)
/-- Word i of a list, 0 beyond its end. -/
def wordAt (ws : List Word) (i : Nat) : Word := ws.getD i 0
/-- A 64-bit value in two words, low word first (R432). -/
def dwordAt (ws : List Word) (i : Nat) : BitVec 64 := wordAt ws (i + 1) ++ wordAt ws i
/-- The two words of a 64-bit value. -/
def words64 (v : BitVec 64) : List Word := [v.extractLsb' 0 32, v.extractLsb' 32 32]

/-! Home-map entries as words (R17). -/

/-- The 128 bits of an entry. -/
def homeBits (e : HomeMapEntry) : BitVec 128 :=
  putBits (putBits (putBits (putBits (putBits (putBits (putBits (0 : BitVec 128) 0 e.base) 31 (BitVec.ofBool e.valid)) 32 e.last)
    64 e.home) 76 (BitVec.ofBool e.priv)) 77 (BitVec.ofBool e.uncached)) 96 e.localBase
/-- The entry that 128 bits spell. -/
def homeOfBits (v : BitVec 128) : HomeMapEntry :=
  { base := v.extractLsb' 0 24, valid := v.getLsbD 31, last := v.extractLsb' 32 24, home := v.extractLsb' 64 12
    priv := v.getLsbD 76, uncached := v.getLsbD 77, localBase := v.extractLsb' 96 16 }
/-- The four words of 128 bits. -/
def words128 (v : BitVec 128) : List Word := (List.range 4).map fun i => v.extractLsb' (32 * i) 32

/-! Fields of a partition, written to both copies (R597). -/

/-- A stream entry bound to a partition, or unbound; CONS stays. -/
def bindStream (s : State) (q : PortId) (st : BitVec 8) (e : BitVec 7) : State :=
  let x := portSt s q
  let f (t : Table (BitVec 8)) : Table (BitVec 8) :=
    tset stream0 t st.toNat ((tget stream0 t st.toNat).extractLsb' 7 1 ++ e)
  putPort s q { x with stream := f x.stream, streamStaged := f x.streamStaged }
/-- A stream is bound elsewhere (R290). -/
def streamTaken (s : State) (q : PortId) (st : BitVec 8) : Bool :=
  let e := tget stream0 (portSt s q).stream st.toNat
  (e.getLsbD 6 && e.extractLsb' 0 6 != 0) || e.getLsbD 7
/-- The way masks of the named slices. -/
def setWays (s : State) (p : PartId) (slices : BitVec 16) (m : BitVec 16) : State :=
  onPart s p fun x =>
    let f (t : Table (BitVec 16)) : Table (BitVec 16) := (bitsOf slices).foldl (fun t n => tset 0 t n m) t
    { x with ways := f x.ways, waysStaged := f x.waysStaged }
/-- The weights and the pin budget. -/
def setShare (s : State) (p : PartId) (share : BitVec 24) (pin : BitVec 27) : State :=
  onPart s p fun x => { x with share := share, shareStaged := share, pinBudget := pin, pinBudgetStaged := pin }

/-! Quiesce (R292, R293) and freeze (R294). -/

/-- A request that quiesce does not wait for: a staging read or a consumer read. -/
def quiesceFree (r : Req) : Bool :=
  match r.src with
  | .beam _ _ _ => true
  | _ => r.cons && (r.op == .rdSh || r.op == .rd1x || r.op == .rdNc)
/-- Open work of a partition that quiesce waits for (R293). -/
def quiesceOpen (s : State) (p : PartId) : Nat :=
  let asked (q : PortId) (t : BitVec 10) : Bool := (portSt s q).open_.any fun e => e.1 == t && e.2.1 == p
  let perSlice (n : Nat) : Nat :=
    let sl : SliceId := BitVec.ofNat 4 n
    ((missOf s sl).filter fun e => e.2.req.part == p && !quiesceFree e.2.req).length
      + ((wcOf s sl).filter fun e => e.2.part == p).length
      + ((penOf s sl).filter fun e => e.2.prb != 0 && match e.2.owner with
        | .flushReq q t => asked q t
        | _ => false).length
  ((List.range 16).map perSlice).sum
    + (s.cache.lprobes.filter fun x => match x.flushOf with
      | some (q, t) => asked q t
      | none => false).length
/-- The operation of a running quiesce, freeze or save of a partition. -/
def jobSlot (s : State) (f : Job → Bool) : Option (SlotRef × OpSlot) := (runningOps s).find? fun r => f r.2.job
/-- A scheduling tick finds no open work: the partition is QUIESCED (R293). -/
def quiesceDone (s : State) (p : PartId) : State :=
  match jobSlot s fun j => match j with
    | .quiesce q _ => q == p
    | _ => false with
  | none => s
  | some (k, x) =>
    let n : Nat := match x.job with
      | .quiesce _ n => n
      | _ => 0
    let open_ := quiesceOpen s p
    let s := opProgress s k (n - open_)
    if open_ = 0 ∧ (partSt s p).state = 2 then opDone (onPart s p fun x => { x with state := 3 }) k else s
/-- Contexts of a partition. -/
def ctxsOf (s : State) (p : PartId) : List (BitVec 8 × BeamCtx) := (beamList s).filter fun e => e.2.part == p && e.2.state != 0
/-- At Tf the running contexts of the partition freeze; the operation ends once their staging reads have completed
    (R294). -/
def freezeStep (s : State) (p : PartId) : State :=
  match jobSlot s fun j => match j with
    | .freeze q => q == p
    | _ => false with
  | none => s
  | some (k, _) =>
    if s.now.toNat < (partSt s p).freezeTick.toNat then s
    else
      let s := (ctxsOf s p).foldl (fun s e =>
        if (beamCtx s e.1).state = 2 then setCtxState s e.1 5 else s) s
      let s := opProgress s k ((ctxsOf s p).filter fun e => e.2.state == 5).length
      if (ctxsOf s p).all fun e => e.2.rows.all fun y => y.reading.isEmpty && y.restage.isEmpty then
        opDone (onPart s p fun x => { x with state := 4 }) k
      else s

/-! The partition image (R299-R301). -/

/-- A partition's stream entries, by port and stream (R300). -/
def imageStreams (s : State) (p : PartId) : List (BitVec 16) :=
  (List.range 8).flatMap fun q => (List.range 256).filterMap fun st =>
    let e := tget stream0 (portSt s (BitVec.ofNat 3 q)).stream st
    if e.getLsbD 6 && e.extractLsb' 0 6 == p then
      some ((0 : BitVec 4) ++ e.extractLsb' 7 1 ++ BitVec.ofNat 3 q ++ BitVec.ofNat 8 st)
    else none
/-- 16-bit entries two to a word. -/
def pairWords : List (BitVec 16) → List Word
  | [] => []
  | [a] => [a.setWidth 32]
  | a :: b :: l => (b ++ a) :: pairWords l
/-- The 32 words of a beam (R300). -/
def beamWords (c : BitVec 8) (x : BeamCtx) : List Word :=
  (List.range 16).map (fun i => x.desc.extractLsb' (32 * i) 32)
    ++ [(0 : BitVec 21) ++ x.state ++ c] ++ words64 (x.nextRow.setWidth 64) ++ words64 x.lastOpen ++ words64 x.lastEdge
    ++ words64 (BitVec.ofNat 64 x.lastEdgeNo) ++ words64 (BitVec.ofNat 64 (lowestRow x))
    ++ [x.rowsDone, x.lateLines, x.lateRows, x.expired, 0]
/-- The eight counters of R286 in offset order. -/
def partCounters (x : PartSt) : List (BitVec 64) :=
  [x.hits, x.misses, x.writebacks, x.qrefused, x.lateLines, x.lateRows, x.consUnpin, x.rowsDone]
/-- Beams that an image carries: not FREE, CANCELLING or REFUSED (R300). -/
def imageBeams (s : State) (p : PartId) : List (BitVec 8 × BeamCtx) :=
  (ctxsOf s p).filter fun e => e.2.state == 1 || e.2.state == 2 || e.2.state == 4 || e.2.state == 5
/-- CRC-32C of words (R301). -/
def wordsCrc (ws : List Word) : Word := crc32c (ws.flatMap fun w => bytesOf w 4)
/-- The image of a partition as it stands (R296-R301). -/
def partImage (s : State) (p : PartId) (homes : List (BitVec 8)) (checkpoint : Bool) (tick : Tick) : List Word :=
  let x := partSt s p
  let streams := imageStreams s p
  let beams := imageBeams s p
  let nh := homes.length
  let len := 41 + (streams.length + 1) / 2 + 32 * beams.length + 4 * nh
  let ofs : BitVec 64 := if s.net.treeValid then s.net.treeOfs else 0
  let ws (k : Nat) : Word := tget 0 x.ways (2 * k + 1) ++ tget 0 x.ways (2 * k)
  let home (i : BitVec 8) : BitVec 128 := putBits (homeBits (tget hmap0 s.home.mapLive i.toNat)) 88 i
  let body := [0x54524150, 0x00100001, BitVec.ofNat 32 len, (if checkpoint then 1 else 0), (0 : BitVec 14) ++ p ++ s.net.ctrlId]
    ++ words64 tick ++ words64 ofs
    ++ [BitVec.ofNat 32 (streams.length + 4096 * beams.length + 2 ^ 21 * nh), x.pinBudget.setWidth 32, x.share.setWidth 32
        , s.home.foldLive.setWidth 32, 0, 0, 0]
    ++ (List.range 8).map ws ++ pairWords streams ++ beams.flatMap (fun e => beamWords e.1 e.2)
    ++ homes.flatMap (fun i => words128 (home i)) ++ (partCounters x).flatMap words64
  body ++ [wordsCrc body]

/-! Fields of an image. -/

/-- NS, NB, NH. -/
def imgNs (w : List Word) : Nat := (wordAt w 9).toNat % 4096
/-- NB. -/
def imgNb (w : List Word) : Nat := (wordAt w 9).toNat / 4096 % 512
/-- NH. -/
def imgNh (w : List Word) : Nat := (wordAt w 9).toNat / 2 ^ 21 % 16
/-- SRC. -/
def imgSrc (w : List Word) : CtrlId := (wordAt w 4).extractLsb' 0 12
/-- PID at the source. -/
def imgPid (w : List Word) : PartId := (wordAt w 4).extractLsb' 12 6
/-- SAVE_TICK. -/
def imgTick (w : List Word) : Tick := dwordAt w 5
/-- CHECKPOINT. -/
def imgCheckpoint (w : List Word) : Bool := (wordAt w 3).getLsbD 0
/-- First word of the streams, beams, homes, counters. -/
def imgStreamBase : Nat := 24
/-- First word of beam b. -/
def imgBeamBase (w : List Word) (b : Nat) : Nat := 24 + (imgNs w + 1) / 2 + 32 * b
/-- First word of home entry h. -/
def imgHomeBase (w : List Word) (h : Nat) : Nat := imgBeamBase w (imgNb w) + 4 * h
/-- First word of the counters. -/
def imgCountBase (w : List Word) : Nat := imgHomeBase w (imgNh w)
/-- Stream entry i. -/
def imgStream (w : List Word) (i : Nat) : BitVec 16 := (wordAt w (imgStreamBase + i / 2)).extractLsb' (16 * (i % 2)) 16
/-- Home entry h. -/
def imgHome (w : List Word) (h : Nat) : BitVec 128 :=
  let b := imgHomeBase w h
  wordAt w (b + 3) ++ wordAt w (b + 2) ++ wordAt w (b + 1) ++ wordAt w b
/-- Way mask n. -/
def imgWays (w : List Word) (n : Nat) : BitVec 16 := (wordAt w (16 + n / 2)).extractLsb' (16 * (n % 2)) 16
/-- The descriptor of beam b. -/
def imgDesc (w : List Word) (b : Nat) : BitVec 512 :=
  (List.range 16).foldl (fun v i => putBits v (32 * i) (wordAt w (imgBeamBase w b + i))) 0
/-- Word k of beam b. -/
def imgBeamWord (w : List Word) (b k : Nat) : Word := wordAt w (imgBeamBase w b + k)
/-- The state of beam b. -/
def imgBeamState (w : List Word) (b : Nat) : BitVec 3 := (imgBeamWord w b 16).extractLsb' 8 3
/-- LENGTH. -/
def imgLength (w : List Word) : Nat := (wordAt w 2).toNat
/-- FORMAT, HWORDS, reserved bits and codes (R302). -/
def imgFormatOk (w : List Word) : Bool :=
  let z (i lo n : Nat) : Bool := (wordAt w i).toNat / 2 ^ lo % 2 ^ n == 0
  wordAt w 1 == 0x00100001 && z 3 1 31 && z 4 18 14 && z 9 25 7 && z 10 27 5 && z 11 24 8 && z 12 16 16 && z 13 0 32 && z 14 0 32
    && z 15 0 32 && decide (imgNs w ≤ 2048) && decide (imgNb w ≤ 256) && decide (imgNh w ≤ 8)
    && (List.range (imgNs w)).all (fun i => (imgStream w i).extractLsb' 12 4 == 0)
    && (imgNs w % 2 == 0 || imgStream w (imgNs w) == 0)
    && (List.range (imgNb w)).all (fun b =>
      (imgBeamWord w b 16).extractLsb' 11 21 == 0 && imgBeamWord w b 31 == 0
        && ([1, 2, 4, 5] : List (BitVec 3)).contains (imgBeamState w b))
    && (List.range (imgNh w)).all (fun h =>
      let v := imgHome w h
      v.extractLsb' 24 7 == 0 && v.extractLsb' 56 8 == 0 && v.extractLsb' 78 10 == 0 && v.extractLsb' 112 16 == 0)
/-- LENGTH agrees with the counts (R299, R302). -/
def imgLengthOk (w : List Word) : Bool :=
  decide (imgLength w = 41 + (imgNs w + 1) / 2 + 32 * imgNb w + 4 * imgNh w) && decide (imgLength w ≤ 9289)
/-- The CRC word matches (R301). -/
def imgCrcOk (w : List Word) : Bool := wordsCrc (w.take (imgLength w - 1)) == wordAt w (imgLength w - 1)

/-! The checks of a restore (R302, R304, R308). -/

/-- PORTMAP of a source port: `none` leaves its streams unbound (R304). -/
def mapPort (portMap : Word) (q : PortId) : Option PortId :=
  let v : BitVec 4 := portMap.extractLsb' (4 * q.toNat) 4
  if v.toNat < 8 then some (v.extractLsb' 0 3) else none
/-- An image stream and its destination. -/
def imgBindings (w : List Word) (portMap : Word) : List (PortId × BitVec 8) :=
  (List.range (imgNs w)).filterMap fun i =>
    (mapPort portMap ((imgStream w i).extractLsb' 8 3)).map fun q => (q, (imgStream w i).extractLsb' 0 8)
/-- The ranges of the image's home section. -/
def imgHomes (w : List Word) : List HomeMapEntry := (List.range (imgNh w)).map fun h => homeOfBits (imgHome w h)
/-- Granules of this controller's DDR5 that a home map uses: first and count. -/
def usedRuns (s : State) : List (Nat × Nat) :=
  ((s.home.mapLive ++ s.home.mapStaged).map Prod.snd).filterMap fun e =>
    if e.valid && e.home == s.net.ctrlId then some (e.localBase.toNat, e.last.toNat - e.base.toNat + 1) else none
/-- The lowest run of n free granules. -/
def freeRun (s : State) (taken : List (Nat × Nat)) (n : Nat) : Option Nat :=
  let cap := s.capacity / 2 ^ 24
  (List.range cap).find? fun b =>
    decide (b + n ≤ cap) && taken.all fun r => decide (b + n ≤ r.1 ∨ r.1 + r.2 ≤ b)
/-- A LOCAL_BASE for each range, the lowest that fits; `none` where one does not fit. -/
def chooseBases (s : State) : List (Nat × Nat) → List HomeMapEntry → Option (List Nat)
  | _, [] => some []
  | taken, e :: es =>
    let n := e.last.toNat - e.base.toNat + 1
    match freeRun s taken n with
    | none => none
    | some b => (chooseBases s ((b, n) :: taken) es).map fun l => b :: l
/-- A home action is refused (R308), but for what members report. -/
def homeMoveBad (s : State) (w : List Word) (act : BitVec 2) : Bool :=
  let es := imgHomes w
  act != 0 && (es.any (fun e => !e.priv || ringOf e.home != myRing s)
    || (chooseBases s (usedRuns s) es).isNone
    || es.any fun e => s.net.lower.cur.members.getLsbD (nodeOf e.home).toNat != (act == 1))
/-- The image thaws a partition (R302). -/
def isThaw (s : State) (w : List Word) (pid : PartId) : Bool :=
  (partSt s pid).state == 4 && imgSrc w == s.net.ctrlId && imgTick w == (partSt s pid).freezeTick && !imgCheckpoint w
/-- The partition that a restore uses (R302). -/
def restorePid (w : List Word) (newPid : PartId) : PartId := if newPid = 0 then imgPid w else newPid
/-- The checks of R302: the status of the first that fails, or 0. -/
def restoreChecks (s : State) (w : List Word) (newPid : PartId) (portMap : Word) (act : BitVec 2) : BitVec 8 :=
  let pid := restorePid w newPid
  if wordAt w 0 ≠ 0x54524150 then 0x46
  else if !imgFormatOk w then 0x47
  else if !imgLengthOk w then 0x48
  else if !imgCrcOk w then 0x49
  else if pid = 0 then 0x42
  else
    let st := (partSt s pid).state
    if isThaw s w pid then 0
    else if st = 4 then 0x08
    else if st ≠ 0 then 0x40
    else if (imgBindings w portMap).any fun b => streamTaken s b.1 b.2 then 0x43
    else if ctxFree s < imgNb w then 0x4A
    else if ringOf (imgSrc w) ≠ myRing s ∧ ¬ s.net.treeValid then 0x4B
    else if homeMoveBad s w act then 0x4C
    else 0

/-- The arguments of PEER_FENCE (R438). -/
def fenceArgs (set : Bool) (rs : List (BitVec 24 × BitVec 24)) : List Word :=
  BitVec.ofNat 32 ((if set then 1 else 0) + 2 * rs.length) :: rs.flatMap fun r => [r.1.setWidth 32, r.2.setWidth 32]

/-- PEER_FENCE to every other member: its count has three bits, so that eight ranges go in two commands (R309, R438). -/
def sendFence (s : State) (set : Bool) (rs : List (BitVec 24 × BitVec 24)) : State :=
  if rs.length ≤ 7 then peerAll s 0xE2 (fenceArgs set rs)
  else peerAll (peerAll s 0xE2 (fenceArgs set (rs.take 7))) 0xE2 (fenceArgs set (rs.drop 7))

/-- The fence as it stands from now on. A request that waits for a credit of its home and now falls in a fenced granule is answered, and
    sends nothing to the ring (R309). -/
def setFence (s : State) (rs : List (BitVec 24 × BitVec 24)) : State :=
  let s := { s with home := { s.home with fence := rs } }
  let stopped (w : SliceId × BitVec 8) : Option MissEntry := (missAt s w.1 w.2.toNat).filter fun e => fenced s e.req.laddr
  let ws := s.home.reqWait.filter fun w => (stopped w).isSome
  ws.foldl (fun t w => match stopped w with
    | some e =>
      closeEntry (answerErr (trouble t (blkSlc w.1) kSlcMoveFence) w.1 e.req 0x09) w.1 w.2.toNat (place t e.req.laddr)
    | none => t) { s with home := { s.home with reqWait := s.home.reqWait.filter fun w => (stopped w).isNone } }

/-! A commit armed at a tick (R435, R468). -/

/-- A commit is armed. -/
def armCommit (s : State) (mask : BitVec 16) (t : Tick) (k : Option SlotRef) : State :=
  { s with regs := { s.regs with armed := true, armMask := mask, armTick := t, armSlot := k } }
/-- A commit is disarmed. -/
def disarm (s : State) : State :=
  { s with regs := { s.regs with armed := false, armMask := 0, armTick := 0, armSlot := none } }
/-- The group bit of the home map in a commit mask (R464). -/
def maskHome : BitVec 16 := 0x0001

/-! Restore (R303-R307). -/

/-- A tick of the image in this ring's time (R207, R306). -/
def imgConv (s : State) (w : List Word) (t : BitVec 64) : BitVec 64 :=
  if ringOf (imgSrc w) = myRing s then t else t + dwordAt w 7 - s.net.treeOfs
/-- The descriptor of beam b as it is admitted here: CPORT mapped, PART the partition in use, FIRST_DL converted. -/
def restoredDesc (s : State) (r : RestoreJob) (b : Nat) : Option (BitVec 512) :=
  let d := imgDesc r.img b
  (mapPort r.portMap (dPort d)).map fun q =>
    let d := putBits (putBits d 16 q) 8 r.pid
    if dEncoder d then d else putBits d 320 (imgConv s r.img (dFirstDl d))
/-- The lowest free context. -/
def freeCtxNo (s : State) : Option (BitVec 8) := ((List.range 256).map (BitVec.ofNat 8)).find? fun c => (beamCtx s c).state == 0
/-- Beam b admitted or refused (R304, R305). -/
def restoreBeam (s : State) (r : RestoreJob) (peersOk : Bool) : State × RestoreJob :=
  let b := r.beam
  let w := r.img
  let refuse (reason : BitVec 8) : State × RestoreJob :=
    let s := match freeCtxNo s with
      | some c => putBeam s c { beamCtx0 with state := 6, part := r.pid, desc := imgDesc w b }
      | none => s
    (s, { r with beam := b + 1, refused := r.refused + 1, firstReason := if r.refused = 0 then reason else r.firstReason })
  match restoredDesc s r b with
  | none => refuse 0x03
  | some d =>
    let v := admission s d true peersOk
    if v.reason ≠ 0 then refuse v.reason
    else
      let s := admitBeam s d v
      let at_ (k : Nat) : BitVec 64 := dwordAt w (imgBeamBase w b + k)
      let s := putBeam s v.ctx { beamCtx s v.ctx with
        state := if imgBeamState w b = 4 then 4 else 1
        nextRow := (at_ 17).setWidth 48, lastOpen := imgConv s w (at_ 19), lastEdge := imgConv s w (at_ 21)
        lastEdgeNo := (at_ 23).toNat, rowsDone := imgBeamWord w b 27, lateLines := imgBeamWord w b 28
        lateRows := imgBeamWord w b 29, expired := imgBeamWord w b 30 }
      (s, { r with beam := b + 1, ctxs := r.ctxs ++ [(b, v.ctx)] })
/-- The latest tick that the trigger of a row can have had (R278). -/
def lateTrigger (x : BeamCtx) (r : Nat) : Nat :=
  ((x.lastEdge.toNat : Int) - ((x.lastEdgeNo : Int) + dAhead x.desc - r) * dP x.desc).toNat
/-- The edges of the input's history numbered from LAST_EDGE's (R279); `none` where no edge matches. -/
def numberEdges (s : State) (x : BeamCtx) : Option (List (Nat × Tick) × Nat) :=
  let h := tget [] s.tim.hist (dTsrc x.desc).toNat
  match h.findIdx? fun t => decide (t.toNat ≤ x.lastEdge.toNat + 64 ∧ x.lastEdge.toNat ≤ t.toNat + 64) with
  | none => none
  | some k =>
    let es := ((h.zip (List.range h.length)).filterMap fun e =>
      let n : Int := (x.lastEdgeNo : Int) + k - e.2
      if n < 0 then none else some (n.toNat + dAhead x.desc, e.1)).reverse
    some (es, x.lastEdgeNo + k + 1)
/-- The deadline of a row that opens at the tick of restore (R278). -/
def restoredDeadline (x : BeamCtx) (r : Nat) : Nat :=
  if dEncoder x.desc then (((x.edges.find? fun e => e.1 == r).map fun e => e.2.toNat).getD (lateTrigger x r)) + dLead x.desc
  else fixedDeadline x.desc r
/-- Rows whose trigger lies before Tr open at Tr, one after another (R278, R307). -/
def reopen (s : State) (c : BitVec 8) (upto : Nat) (tr : Nat) : Nat → State
  | 0 => s
  | n + 1 =>
    let x := beamCtx s c
    let r := x.nextRow.toNat
    let before : Bool := match nextOpen { x with lastOpen := 0, resume := 0 } with
      | some (t, _) => decide (t < tr)
      | none => false
    if !rowExists x.desc r || !(decide (r < upto) || before) then s
    else reopen (openRow (expireFor s c r tr) c tr (restoredDeadline x r) false) c upto tr n
/-- A restored beam runs (R278, R279, R306, R307). -/
def resumeBeam (s : State) (c : BitVec 8) (low : Nat) (tr : Tick) : State :=
  let x := beamCtx s c
  let upto := x.nextRow.toNat
  let x := { x with nextRow := BitVec.ofNat 48 low, start := if dEncoder x.desc then BitVec.ofNat 64 (lateTrigger x 0) else 0 }
  let (x, bad) : BeamCtx × Bool :=
    if !dEncoder x.desc then (x, false)
    else match numberEdges s x with
      | some (es, n) => ({ x with edges := es, edgeCount := n }, false)
      | none => ({ x with edgeCount := x.lastEdgeNo + 1, resync := true, degraded := true, dreason := 3 }, true)
  let s := setCtxState (putBeam s c x) c 2
  let s := if bad then raiseEvt s 6 else s
  let due := if dEncoder x.desc then x.edges.length + dAhead x.desc else (tr.toNat - (dFirstDl x.desc).toNat + dLead x.desc) / dP x.desc
  let s := reopen s c upto tr.toNat (upto - low + due + 2)
  putBeam s c { beamCtx s c with lastEdge := if (beamCtx s c).lastEdge < x.lastEdge then x.lastEdge else (beamCtx s c).lastEdge
                                 lastEdgeNo := max x.lastEdgeNo (beamCtx s c).lastEdgeNo }
/-- The streams, masks, shares, budget and counters of an image (R304, R305, R597). -/
def restoreBind (s : State) (r : RestoreJob) : State :=
  let w := r.img
  let s := (imgBindings w r.portMap).foldl (fun s b => bindStream s b.1 b.2 ((1 : BitVec 1) ++ r.pid)) s
  let s := (List.range 16).foldl (fun s n =>
    setWays s r.pid (BitVec.twoPow 16 n) (if r.maskMode then r.ways else imgWays w n)) s
  let s := setShare s r.pid ((wordAt w 11).setWidth 24) ((wordAt w 10).setWidth 27)
  let c (k : Nat) : BitVec 64 := dwordAt w (imgCountBase w + 2 * k)
  onPart s r.pid fun x =>
    { x with hits := c 0, misses := c 1, writebacks := c 2, qrefused := c 3, lateLines := c 4, lateRows := c 5
             consUnpin := c 6, rowsDone := c 7 }
/-- The result words of a restore (R436). -/
def restoreResult (s : State) (k : SlotRef) (r : RestoreJob) (tr : Tick) : State :=
  let s := opResult s k 0 (BitVec.ofNat 32 r.refused ||| r.firstReason.setWidth 32 <<< 16)
  let s := opResult s k 1 (r.pid.setWidth 32)
  opResult (opResult s k 2 (tr.extractLsb' 0 32)) k 3 (tr.extractLsb' 32 32)
/-- A partition thaws (R303). -/
def thaw (s : State) (k : SlotRef) (r : RestoreJob) : State :=
  let s := (ctxsOf s r.pid).foldl (fun s e =>
    if (beamCtx s e.1).state = 5 then
      let s := setCtxState s e.1 2
      putBeam s e.1 { beamCtx s e.1 with freezeAt := none, resume := s.now }
    else s) s
  opDone (restoreResult (onPart s r.pid fun x => { x with state := 1 }) k r s.now) k

/-! Home actions (R308-R310). -/

/-- The moving ranges. -/
def moveRanges (r : RestoreJob) : List (BitVec 24 × BitVec 24) := (imgHomes r.img).map fun e => (e.base, e.last)
/-- The new entries, at their index in the home map. -/
def newEntries (s : State) (r : RestoreJob) : List (Nat × HomeMapEntry) :=
  ((List.range (imgNh r.img)).zip ((imgHomes r.img).zip r.bases)).map fun e =>
    (((imgHome r.img e.1).extractLsb' 88 8).toNat, { e.2.1 with home := s.net.ctrlId, localBase := BitVec.ofNat 16 e.2.2 })
/-- The new entries staged, and pending (R310, R597). -/
def stageHomes (s : State) (r : RestoreJob) : State :=
  { s with
    home := { s.home with mapStaged := (newEntries s r).foldl (fun t e => tset hmap0 t e.1 e.2) s.home.mapStaged }
    regs := { s.regs with pending := setBit s.regs.pending 0 true } }
/-- A member stages the new home of the fenced ranges, which is the controller that leads the action. The LOCAL_BASE, which only
    that home uses, comes with no message of the spec and is a free value (R310, log entry 121). -/
def stageMember (s : State) (leader : CtrlId) : State :=
  let moved (x : Nat × HomeMapEntry) : Nat × HomeMapEntry :=
    if x.2.valid && s.home.fence.contains (x.2.base, x.2.last) then
      (x.1, { x.2 with home := leader, localBase := Config.freeChoice (s.free + x.1) })
    else x
  { s with
    free := s.free + 256
    home := { s.home with mapStaged := s.home.mapStaged.map moved }
    regs := { s.regs with pending := setBit s.regs.pending 0 true } }
/-- The fill of TAKE_LOST: zeros, or lines marked poisoned (R310). -/
def lostFill (s : State) (r : RestoreJob) : State :=
  ((imgHomes r.img).zip r.bases).foldl (fun s e =>
    let a := e.2 * 2 ^ 24
    let z := a + (e.1.last.toNat - e.1.base.toNat + 1) * 2 ^ 24
    markRun { s with mem := { s.mem with ddr := s.mem.ddr.filter fun x => decide (x.1 < a) || decide (z ≤ x.1) } }
      ⟨a / 128, z / 128, none, r.lostFill⟩) s
/-- A step of a home action that the walkers run here. -/
def startMove (s : State) (stepNo action : BitVec 4) (reply : Option (CtrlId × BitVec 8)) : State :=
  { s with move := some { stepNo := stepNo.toNat, action := action, pos := [], nextLine := 0, reply := reply } }
/-- The arguments of PEER_HOMESTEP (R438). -/
def stepArgs (stepNo action : BitVec 4) : List Word := [stepNo.setWidth 32 ||| action.setWidth 32 <<< 4]
/-- The old homes of the ranges. -/
def oldHomes (r : RestoreJob) : List CtrlId := ((imgHomes r.img).map (·.home)).eraseDups
/-- The fence lifted here (R309). -/
def clearFence (s : State) : State := { s with home := { s.home with fence := [], fenceEnd := false } }
/-- The partition returns to ABSENT, because a home action cannot be done; the members lift the fence and disarm. -/
def restoreFail (s : State) (k : SlotRef) (r : RestoreJob) (st : BitVec 8) : State :=
  let s := if s.regs.armSlot = some k then disarm (peerAll s 0x03 [0, 4, 0, 0]) else s
  let s := if r.homeStep = 0 then s else sendFence s false (moveRanges r)
  opFail (onPart { clearFence s with move := none } r.pid fun x => { x with state := 0 }) k st
/-- A COMMIT_AT that Lantern-A sets on every member, 100 us from now (R310). -/
def tmCommit (s : State) (k : SlotRef) (mask : BitVec 16) : State :=
  let t : Tick := s.now + 100000
  armCommit (peerAll s 0x03 ([mask.setWidth 32, 0] ++ words64 t)) mask t (some k)
/-- The next armed commit that fires lifts the fence with it (R309, R310). -/
def fenceEnds (s : State) : State := { s with home := { s.home with fenceEnd := true } }
/-- Every member of the ring is told to run a step. -/
def stepAll (s : State) (stepNo action : BitVec 4) : State := peerAll s 0xE4 (stepArgs stepNo action)
/-- The steps of MOVE (R310), as the destination leads it. -/
def moveAction (s : State) (k : SlotRef) (r : RestoreJob) : State :=
  match r.homeStep with
  | 0 => sendFence (setFence s (moveRanges r)) true (moveRanges r)
  | 1 => startMove (stepAll (stageHomes s r) 2 1) 2 1 none
  | 2 => (oldHomes r).foldl (fun s c => peerCmd s c 0xE4 (stepArgs 3 1)) s
  | 3 => stepAll s 4 1
  | 4 => tmCommit (fenceEnds s) k maskHome
  | _ => s
/-- The steps of TAKE_LOST (R310), as the destination leads it. -/
def lostAction (s : State) (k : SlotRef) (r : RestoreJob) : State :=
  match r.homeStep with
  | 0 => sendFence (setFence s (moveRanges r)) true (moveRanges r)
  | 1 => stepAll (lostFill (stageHomes s r) r) 3 2
  | 2 => tmCommit s k maskHome
  | 3 => startMove (stepAll s 4 2) 4 2 none
  | 4 => stepAll (fenceEnds s) 5 2
  | 5 => tmCommit s k 0
  | _ => s
/-- A home action advances: `homeStep` counts the steps that are done, the last of them the commit that has fired; `reply` is what the
    members answered for the step before, of which there is none at the first. Log entries 44, 121. -/
def homeAction (s : State) (k : SlotRef) (r : RestoreJob) (reply : BitVec 8) : State :=
  if reply ≠ 0 ∧ r.homeStep ≠ 0 then restoreFail s k r reply
  else if s.regs.armed || s.move.isSome then s
  else opJob (if r.homeAct = 1 then moveAction s k r else lostAction s k r) k (.restore { r with homeStep := r.homeStep + 1 })
/-- Steps that a home action has. -/
def homeSteps (r : RestoreJob) : Nat :=
  if r.homeAct = 0 ∨ imgNh r.img = 0 then 0 else if r.homeAct = 1 then 6 else 7
/-- MOVE asks the members about the partition before anything changes (R302, R308). -/
def asksMembers (s : State) (r : RestoreJob) : Bool :=
  !r.thaw && r.homeAct == 1 && imgNh r.img != 0 && !(otherMembers s).isEmpty
/-- PEER_QUERY to every member: the image's source, and the partition's number there (R308, R438). -/
def queryAll (s : State) (r : RestoreJob) : State :=
  peerAll s 0xE3 [(imgSrc r.img).setWidth 32 ||| (imgPid r.img).setWidth 32 <<< 12]
/-- The restore ends: the beams that ran run again from the tick at which the last was admitted, and the partition is ACTIVE (R305,
    R306). -/
def restoreEnd (s : State) (k : SlotRef) (r : RestoreJob) : State :=
  let tr := s.now
  let s := r.ctxs.foldl (fun s e =>
    if imgBeamState r.img e.1 = 2 ∨ imgBeamState r.img e.1 = 5 then
      resumeBeam s e.2 (dwordAt r.img (imgBeamBase r.img e.1 + 25)).toNat tr
    else s) s
  let s := setPins (onPart s r.pid fun x => { x with state := 1, en := true }) r.pid
  opDone (restoreResult s k r tr) k
/-- A restore advances by one unit (R305). A member that reports the partition in use fails it, with nothing changed (R302, R308). -/
def restoreStep (s : State) (k : SlotRef) (r : RestoreJob) (reply : BitVec 8) : State :=
  if r.thaw then thaw s k r
  else if r.asking then
    if reply ≠ 0 then opFail s k 0x4C
    else opJob (onPart s r.pid fun x => { x with state := 7 }) k (.restore { r with asking := false })
  else if r.homeStep < homeSteps r then homeAction s k r reply
  else if !r.bound then opJob (restoreBind s r) k (.restore { r with bound := true })
  else if r.beam < imgNb r.img then
    let (s, r) := restoreBeam s r (reply == 0)
    let s := opProgress s k r.beam
    if r.beam < imgNb r.img then opJob s k (.restore r) else restoreEnd s k r
  else restoreEnd s k r

/-! Walker steps of a home action (R310). -/

/-- A line under the fence, by its number in the moving ranges. -/
def fenceLine : List (BitVec 24 × BitVec 24) → Nat → Option LineAddr
  | [], _ => none
  | (a, b) :: rs, n =>
    let k := (b.toNat - a.toNat + 1) * 2 ^ 17
    if n < k then some (BitVec.ofNat 41 (a.toNat * 2 ^ 17 + n)) else fenceLine rs (n - k)
/-- The step is done: it is reported where a PEER command asked for it (R438). -/
def moveEnd (s : State) : State :=
  match s.move with
  | none => s
  | some m =>
    let s := { s with move := none }
    match m.reply with
    | some (c, q) => Sys2Proof.Machine.reply s .peer c 0 q []
    | none => s
/-- The old home reads the next line of the ranges and sends it as WB_DATA with MOVE (R310, MOVE step 3). -/
def moveRead (s : State) (m : MoveWalk) (dst : CtrlId) : State :=
  match fenceLine s.home.fence m.nextLine with
  | none => if flushOpen s then s else moveEnd s
  | some l =>
    let pl := place s l
    let skip : Bool := !isHome s l
    if skip then { s with move := some { m with nextLine := m.nextLine + 1 } }
    else match freePen s pl.sl false with
    | none => count s (evSlc 4 pl.sl)
    | some i =>
      let s := fresh s
      let b := penNew s l .flush .M 0 0
      let s := putPen s pl.sl i (some { b with
        chv := 0xF, data := homeLine s l, dest := dst, move := true, owner := .walker })
      { s with move := some { m with nextLine := m.nextLine + 1 } }
/-- A held line goes to the new home whatever its state; its requesters are probed first; X goes with the poison flag
    (R310, TAKE_LOST step 4). -/
def moveLine (s : State) (sl : SliceId) (set : BitVec 14) (w : Nat) (ln : BitVec 5) : Removal :=
  let l := wayLine s sl set w ln
  let pl := wayPlace s sl set w ln
  if walkBusy s sl l then .busy
  else
    let s := demote s pl
    let e := tagAt s sl set w
    let f := pfGet s pl l
    match freePen s sl false with
    | none => .short
    | some i =>
      let s := fresh s
      let id := s.serial
      let poison := e.eff ln == .X
      let b := penNew s l .flush (e.eff ln) e.part 0
      let s := putPen s sl i (some { b with
        dirty := true, poison := poison, prb := f.hold, owner := .walker, chv := if poison then 0xF else 0 })
      let s := pfPut s pl l 0 false
      let s := sendProbes s (if f.exh then .ex else .inv) l f.exh (.pen sl (BitVec.ofNat 7 i) id) f.hold
      let s := if poison then s else queueReads s pl l w [0, 1, 2, 3] (.pen (BitVec.ofNat 7 i) id) (sectorFor s pl w)
      .gone (setI s pl)
/-- One set of a slice passed. -/
def moveSet (s : State) (sl : SliceId) (m : MoveWalk) : State :=
  let n := tget 0 m.pos sl.toNat
  if 16384 ≤ n then (if allPassed m.pos && !flushOpen s then moveEnd s else s)
  else
    let set : BitVec 14 := BitVec.ofNat 14 n
    let s := walkSetRead (tookWalker s sl) sl set
    let (s, _, ok) := walkLines (fun s w ln => if m.action = 2 then moveLine s sl set w ln else removeLine s sl set w ln) s sl set
      (setLines s sl set none (fenced s))
    if ok then { s with move := some { m with pos := tset 0 m.pos sl.toNat (n + 1) } } else s
/-- A walker step of a home action (R310). -/
def moveStep (s : State) (sl : SliceId) : State :=
  match s.move with
  | none => s
  | some m =>
    if m.action = 1 ∧ m.stepNo = 3 then moveRead s m ((m.reply.map Prod.fst).getD 0) else moveSet s sl m

/-! Save (R296, R297). -/

/-- The snapshot tick of a checkpoint: the image is taken (R297). -/
def snapshot (s : State) (k : SlotRef) : State :=
  match (opSlot s k).job with
  | .save pid homes [] ofs dest slot (some tc) =>
    if (opSlot s k).state = .running ∧ tc.toNat ≤ s.now.toNat then
      opJob s k (.save pid homes (partImage s pid homes true tc) ofs dest slot (some tc))
    else s
  | _ => s
/-- The save ends (R296, R436). -/
def saveEnd (s : State) (k : SlotRef) (img : List Word) : State :=
  let n := img.length
  let t := imgTick img
  let s := opResult (opResult s k 0 (BitVec.ofNat 32 n)) k 1 (wordAt img (n - 1))
  opDone (opResult (opResult s k 2 (t.extractLsb' 0 32)) k 3 (t.extractLsb' 32 32)) k
/-- One unit of a save: a word to BAR2, or a PEER_IMG of up to 200 words (R296, R430, R438). -/
def saveStep (s : State) (k : SlotRef) (img : List Word) (ofs : Option Nat) (dest : CtrlId) (slot : BitVec 2)
    (reply : BitVec 8) : State :=
  let n := (opSlot s k).progress.toNat
  if img = [] then s
  else match ofs with
  | some a =>
    let s := { s with mem := { s.mem with bar2 := writeWords s.mem.bar2 (a + 4 * n) [wordAt img n] } }
    let s := opProgress s k (n + 1)
    if n + 1 = img.length then saveEnd s k img else s
  | none =>
    if reply ≠ 0 then opFail s k reply
    else if n = img.length then saveEnd s k img
    else
      let ws := (img.drop n).take 200
      let last := n + ws.length = img.length
      let s := peerCmd s dest 0xE0 ((slot.setWidth 32 ||| (if last then 0x10000 else 0)) :: BitVec.ofNat 32 n :: ws)
      opProgress s k (n + ws.length)

end Sys2Proof.Machine
end

