-- ==== Sys2Proof/Machine/Commit.lean ====
section
/-! DEFINITION. Staged registers and commits (R28, R282, R464-R468), and what follows a change of the fold map or the home
    map (R276, R572). -/

namespace Sys2Proof.Machine

/-- A penumbra buffer whose home was lost sends its writeback to the line's new home, with RESENT (R572). -/
def rehomePen (s : State) (sl : SliceId) (i : Nat) (b : PenBuf) : State :=
  match homeOf s b.laddr with
  | none => s
  | some h =>
    if h.home = b.dest ∨ unreachable s h.home ∨ ¬ b.dirty then s
    else penWriteback (putPen s sl i (some { b with dest := h.home, resent := true, mif := false })) sl i
/-- The home map takes effect (R17, R22, R572). -/
def applyHomeMap (s : State) : State :=
  let s := { s with home := { s.home with mapLive := s.home.mapStaged } }
  let s := (List.range 16).foldl (fun s k =>
    let sl : SliceId := BitVec.ofNat 4 k
    (penOf s sl).foldl (fun s e => if homeLost s e.2.dest then rehomePen s sl e.1 e.2 else s) s) s
  judgeHomes s
/-- A fold map names both slices of a pair (R28). -/
def foldPair (m : BitVec 16) : Bool := (m.extractLsb' 0 8 &&& m.extractLsb' 8 8) != 0
/-- The staged entry of a stream table would change a consumer stream (R282). -/
def streamHeld (live staged : BitVec 8) : Bool :=
  live.getLsbD 7 && (live.extractLsb' 0 6 != staged.extractLsb' 0 6 || (live.getLsbD 6 && !staged.getLsbD 6))
/-- The stream table of a port applied, but for the entries of consumer streams that R282 holds, and whether some were. -/
def applyStreams (s : State) (q : PortId) : State × Bool :=
  let x := portSt s q
  let held := (List.range 256).filter fun k => streamHeld (tget stream0 x.stream k) (tget stream0 x.streamStaged k)
  -- CONS, which Lantern-A marks, is no staged field (R261, R280)
  let staged := (List.range 256).foldl (fun t k =>
    tset stream0 t k (setBit (tget stream0 t k) 7 ((tget stream0 x.stream k).getLsbD 7))) x.streamStaged
  let live := held.foldl (fun t k => tset stream0 t k (tget stream0 x.stream k)) staged
  (putPort s q { x with stream := live }, !held.isEmpty)
/-- The masks, shares and budgets of every partition applied, and the partitions whose masks or budget changed. -/
def applyParts (s : State) : State :=
  let changed := s.parts.any fun e => e.2.ways != e.2.waysStaged || e.2.pinBudget != e.2.pinBudgetStaged
  let s := { s with parts := s.parts.map fun e =>
    (e.1, { e.2 with ways := e.2.waysStaged, share := e.2.shareStaged, pinBudget := e.2.pinBudgetStaged }) }
  if changed then recheck s else s
/-- PENDING of a group clears. -/
def clearPending (s : State) (g : Nat) : State := { s with regs := { s.regs with pending := setBit s.regs.pending g false } }
/-- One group applied (R465-R467). -/
def applyGroup (s : State) (g : Nat) : State :=
  match g with
  | 0 => clearPending (applyHomeMap s) 0
  | 1 =>
    if foldPair s.home.foldStaged then { s with regs := { s.regs with foldPair := true } }
    else clearPending (recheck { s with home := { s.home with foldLive := s.home.foldStaged } }) 1
  | 2 => clearPending (applyParts s) 2
  | 3 =>
    let pos (x : RingPos) : RingPos :=
      let f (t : EpSlot) : EpSlot := applyStagedRoutes x t
      match x.next with
      | some t => { x with next := some (f t), staged := [], stagedWords := [] }
      | none => match x.old with
        | some t => { x with old := some (f t), staged := [], stagedWords := [] }
        | none => { x with spare := f x.spare, staged := [], stagedWords := [] }
    let s := { s with net := { s.net with lower := pos s.net.lower, upper := pos s.net.upper } }
    clearPending (allRing.foldl (fun s p => putRing s p { ringPort s p with win := (ringPort s p).winStaged }) s) 3
  | 4 => clearPending { s with pwr := { s.pwr with policy := s.pwr.policyStaged } } 4
  | n + 5 =>
    if 3 ≤ n ∧ n ≤ 10 then
      let (s, held) := applyStreams s (BitVec.ofNat 3 (n - 3))
      if held then { s with regs := { s.regs with streamCons := true } } else clearPending s (n + 5)
    else s
/-- A commit is applied: BUSY, and event COMMIT (R467, R493). -/
def applyCommit (s : State) (mask : BitVec 16) : State :=
  let s := count { s with regs := { s.regs with busy := some s.now } } 0x179
  (bitsOf mask).foldl applyGroup s
/-- BUSY: the last block applies within 100 ns (R467). -/
def commitBusy (s : State) : Bool :=
  match s.regs.busy with
  | some t => decide (s.now.toNat < t.toNat + 100)
  | none => false
/-- A COMMIT write (R467, R468). -/
def commitWrite (s : State) (mask : BitVec 16) : State :=
  if commitBusy s then { s with regs := { s.regs with overlap := true } }
  else
    let armed : BitVec 16 := if s.regs.armed then s.regs.armMask else 0
    let s := if mask &&& armed ≠ 0 then { s with regs := { s.regs with armedConflict := true } } else s
    applyCommit s (mask &&& ~~~armed)
/-- COMMIT_STATUS (R466). -/
def commitStatus (s : State) : Word :=
  let r := s.regs
  (0 : BitVec 11) ++ BitVec.ofBool r.overlap ++ BitVec.ofBool r.armedConflict ++ BitVec.ofBool r.streamCons
    ++ BitVec.ofBool r.foldPair ++ BitVec.ofBool (commitBusy s) ++ r.pending
/-- The armed commit fires: the operation that armed it goes on (R435, R468, R549). -/
def armedFire (s : State) : State :=
  if !s.regs.armed || decide (s.now.toNat < s.regs.armTick.toNat) then s
  else
    let k := s.regs.armSlot
    let s := applyCommit (disarm s) s.regs.armMask
    -- the commit that ends a home action lifts the fence (R309, R310)
    let s := if s.home.fenceEnd then clearFence s else s
    match k with
    | none => s
    | some k =>
      match (opSlot s k).job with
      | .commitAt _ _ _ armedAt _ =>
        let m : Word := BitVec.ofNat 32 (armedAt.length % 65536)
        opDone (opResult (opResult s k 0 (commitStatus s &&& ~~~0x10000)) k 1 m) k
      | .apply _ => opDone s k
      | _ => s

end Sys2Proof.Machine
end

