-- ==== Sys2Proof/Machine/BeamExec.lean ====
section
/-! DEFINITION. The meanings of the events of beams and of the time-stamp inputs (R234-R236, R256-R265, R274, R583). -/

namespace Sys2Proof.Machine

/-- A freeze that waits for staging reads may end (R294). -/
def freezeWaits (s : State) : State := s.parts.foldl (fun s e => freezeStep s (BitVec.ofNat 6 e.1)) s

/-- TSTAMP_EDGE (R234, R480, R583). -/
def execTstampEdge (i : BitVec 2) (falling : Bool) (before after : Word) (tick : Tick) (s : State) :
    Host.Outcome State Fault Refusal := finish s (tstampEdge s i falling before after tick)
/-- ROW_EXPIRY (R236). -/
def execRowExpiry (c : BitVec 8) (s : State) : Host.Outcome State Fault Refusal := finish s (rowExpire s c)
/-- STAGING_ISSUE (R256, R257). -/
def execStagingIssue (k : BitVec 3) (s : State) : Host.Outcome State Fault Refusal := finish s (stagingIssue s k)
/-- STAGING_READ (R258). -/
def execStagingRead (sl : SliceId) (s : State) : Host.Outcome State Fault Refusal := finish s (stagingRead s sl)
/-- RESIDENCY_REPORT (R259, R270). -/
def execResidencyReport (s : State) : Host.Outcome State Fault Refusal := finish s (freezeWaits (residencyReport s))
/-- RELEASE_STEP (R265). -/
def execReleaseStep (c : BitVec 8) (s : State) : Host.Outcome State Fault Refusal := finish s (releaseStep s c)
/-- CANCEL_DONE (R274). -/
def execCancelDone (c : BitVec 8) (s : State) : Host.Outcome State Fault Refusal := finish s (cancelDone s c)

end Sys2Proof.Machine
end

