-- ==== Sys2Proof/Machine/Fold.lean ====
section
/-! DEFINITION. Retiring and returning a slice: the fold walk's start, the cold retire, the initialisation of a slice
    (R31, R33, R516, R567-R570). -/

namespace Sys2Proof.Machine

/-- Why SLICE_RETIRE of Sn is refused, if it is (R567). -/
def retireRefusal (s : State) (n : SliceId) : Option (BitVec 8) :=
  if s.home.foldLive.getLsbD n.toNat then some 0x08
  else if s.home.foldLive.getLsbD (n ^^^ 8).toNat then some 0x0F
  else if foldBreaks s n then some 0x0E
  else none
/-- The domains of a slice woken for work (R518). -/
def wakeSlice (s : State) (n : SliceId) : State := wakeDom (wakeDom s n.toNat true) (16 + n.toNat) true
/-- A fold walk begins: the fold map is staged, the cursor is at set 0 (R33, R34, R567, R570). -/
def beginFold (s : State) (n : SliceId) (ret : Bool) (slot : Option SlotRef) : State :=
  let s := wakeSlice (wakeSlice s n) (n ^^^ 8)
  { s with
    home := { s.home with foldStaged := setBit s.home.foldStaged n.toNat (!ret) }
    regs := { s.regs with pending := setBit s.regs.pending 1 true }
    cache := { s.cache with folds := s.cache.folds ++ [⟨n, ret, 0, slot, [], []⟩] } }
/-- Every tag, shadow, replacement, port-filter and far-directory entry and the contention predictor of a slice at its
    initial value (R40, R516, R563). -/
def initSlice (s : State) (n : SliceId) : State :=
  let keep {α : Type} (t : Table α) (k : Nat) : Table α := t.filter fun e => e.1 / k ≠ n.toNat
  { s with cache := { s.cache with
    tags := keep s.cache.tags 262144, shadow := keep s.cache.shadow 262144, repl := keep s.cache.repl 16384
    pf := keep s.cache.pf 32768, fd := keep s.cache.fd 65536, pred := keep s.cache.pred 65536 } }
/-- SLICE_RETURN's start: the self-test and the lost pseudo-channels decide (R570). -/
def returnSlice (s : State) (n : SliceId) (selfTestOk : Bool) (k : SlotRef) : State :=
  let lost := (List.range 4).any fun q => (hbmSt s (n.toNat / 8)).pcLost.getLsbD (pcOf n q)
  if !selfTestOk || lost then opFail (wakeSlice s n) k 0x08
  else beginFold (initSlice s n) n true (some k)

/-! A cold retire (R568, R569). -/

/-- The controller takes itself out, and SLICE_TAG_LOST is raised (R569). -/
def goOut (s : State) (n : SliceId) : State := controllerOut (raiseErr s (blkSlc n) 0)
/-- The shadow entries of a slice that its tables list. -/
def shadowsOf (s : State) (n : SliceId) : List (BitVec 14 × ShadowEntry) :=
  s.cache.shadow.filterMap fun e => if e.1 / 262144 = n.toNat then some (BitVec.ofNat 14 (e.1 / 16), e.2) else none
/-- The lines a slice may have held, by its shadow entries: the line, and whether it counts as dirty (R568). -/
def shadowLines (s : State) (n : SliceId) : List (LineAddr × Bool) :=
  (shadowsOf s n).flatMap fun x =>
    if x.2.sv then (bitsOf x.2.pres).map fun l => (lineFrom n x.1 x.2.tag (BitVec.ofNat 5 l), x.2.owng.getLsbD (l / 4)) else []
/-- The ports that the filter names for a line of slice n, or every port where an entry of the set cannot be read. -/
def coldPorts (s : State) (n : SliceId) (l : LineAddr) : BitVec 8 :=
  let bad := (List.range 16).any fun w => (pfAt s n (pfSetOf l) w).err == .uncorrectable
  if bad then 0xFF
  else pfGet s ⟨n, n, setOf l, tagOf l, lineNo l, false, false⟩ l |>.hold
/-- One present line of a cold retire: a poison writeback where it may be dirty, and the probes. -/
def coldLine (s : State) (p : SliceId) (x : LineAddr × Bool × BitVec 8) : State :=
  if x.2.1 then poisonWb s p x.1 0 .M ⟨0, 0xF⟩ x.2.2 true
  else if x.2.2 = 0 then s
  else (startLProbe s (place s x.1) x.1 x.2.2 false none).1
/-- An unwalkable slice is retired cold (R568, R569). -/
def coldRetire (s : State) (n : SliceId) : State :=
  let p := n ^^^ 8
  if s.home.foldLive.getLsbD n.toNat then s
  else if s.home.foldLive.getLsbD p.toNat || !((shadowsOf s n).all fun x => x.2.ok) then goOut s n
  else
    let ls := (shadowLines s n).map fun x => (x.1, x.2, coldPorts s n x.1)
    let gone {α : Type} (t : Table α) (k : Nat) : Table α := t.filter fun e => e.1 / k ≠ n.toNat
    let slot := (s.cache.folds.find? fun (w : FoldWalk) => w.slice == n).bind (·.slot)
    let held := ((s.cache.folds.find? fun (w : FoldWalk) => w.slice == n).map (·.held)).getD []
    let s := { s with
      home := { s.home with
        foldLive := setBit s.home.foldLive n.toNat true, foldStaged := setBit s.home.foldStaged n.toNat true
        homeq := gone s.home.homeq 64, farq := gone s.home.farq 32, evict := gone s.home.evict 4 }
      cache := { s.cache with folds := s.cache.folds.filter fun (w : FoldWalk) => w.slice != n } }
    let s := initSlice s n
    let s := putSlice s p { sliceSt s p with coldFold := true }
    let s := ls.foldl (fun s x => coldLine s p x) s
    let s := recheck (homeAdmit (held.foldl deliver s))
    onSlot s slot fun s k => opDone (opResult s k 0 (s.home.foldLive.setWidth 32)) k
/-- SLICE_RETIRE issued by Lantern-A itself, with no slot (R410). -/
def retireOwn (s : State) (n : SliceId) : State :=
  if (s.cache.folds.any fun w => w.slice == n) || (retireRefusal s n).isSome then s else beginFold s n false none

end Sys2Proof.Machine
end

