-- ==== Sys2Proof/Machine/Memory.lean ====
section
/-! DEFINITION. The memory channels (chapter 12): refresh, retries and retraining, tracking, patrol scrub, DDR5 reads,
    retired and returned channels; and the meanings of their commands. -/

namespace Sys2Proof.Machine

/-- The channel serves commands: it is trained, and neither retired nor being retrained. -/
def chanServes (s : State) (n : BitVec 3) : Bool :=
  (chanSt s n.toNat).trained && !ddrRetired s n && !(chanSt s n.toNat).retraining

/-! DDR5 reads (R390, R392). -/

/-- The line of a DDR5 read reaches its home entry, which goes on (R149). -/
def ddrAnswer (s : State) (r : DdrRead) (d : Line) : State :=
  match homeAt s r.slice r.far r.entry.toNat with
  | none => s
  | some e =>
    if e.serial ≠ r.serial then s
    else homeTry (putHome s r.slice r.far r.entry.toNat (some { e with ddr := some d })) r.slice r.far r.entry.toNat
/-- The first uncorrectable error since CAPT was cleared is captured (R411). -/
def captureLoc (s : State) (n : BitVec 3) (la : Nat) : State :=
  let x := chanSt s n.toNat
  if x.captured then s else putChan s n.toNat { x with errLoc := BitVec.ofNat 40 la, captured := true }
/-- The reads that wait in a channel, oldest first. -/
def chanReads (s : State) (n : BitVec 3) : List DdrRead := s.ddrq.filter fun r => r.chan == n
/-- No read of its line is older (R392). -/
def readReady (q : List DdrRead) (pos : Nat) : Bool :=
  match q[pos]? with
  | some r => !((q.take pos).any fun x => x.la / 128 == r.la / 128)
  | none => false
/-- Whether a read may be performed now, and the round robin after it: no read of its line is older, a beam read that may be goes
    first, and the others go by the weights of their partitions (R241, R285, R392). -/
def readTurn (s : State) (n : BitVec 3) (pos : Nat) (r : DdrRead) : Option Wrr :=
  let q := chanReads s n
  let x := tget wrr0 s.ddrWrr n.toNat
  let go := ((List.range q.length).filter (readReady q)).filterMap fun i => q[i]?
  if !readReady q pos then none
  else if r.beam then some x
  else if go.any (·.beam) then none
  else match wrrPick (weightOf s .ddrQueue) x (go.map (·.part)) with
    | some (p, y) => if p = r.part then some y else none
    | none => none
/-- A home DDR5 read completes (R389, R390). -/
def ddrReadDone (s : State) (n : BitVec 3) (pos : Nat) (err : EccOutcome) : State :=
  match (chanReads s n)[pos]? with
  | none => s
  | some r =>
    match readTurn s n pos r with
    | none => s
    | some y =>
    if !chanServes s n then s
    else
      let s := { s with ddrq := s.ddrq.erase r, ddrWrr := tset wrr0 s.ddrWrr n.toNat y }
      let s := putChan s n.toNat { chanSt s n.toNat with reissues := 0 }
      let d := r.old.getD (ddrLine s r.la)
      if d.psn ≠ 0 then ddrAnswer (trouble s (blkDdr n) kDdrDdrPoisonRd) r d
      else match err with
        | .none => ddrAnswer s r d
        | .single => ddrAnswer (trouble s (blkDdr n) kDdrDdrCe) r d
        | .uncorrectable =>
          let s := raiseErr (trouble (captureLoc s n r.la) (blkDdr n) kDdrDdrUe) (blkDdr n) 2
          ddrAnswer s r ⟨d.bytes, 0xF⟩

/-! Refresh (R393, R394, R401). -/

/-- A refresh of a bank is issued, or postponed while a beam read waits on it and the limit allows (R393). -/
def refreshBank (postponed : Table Nat) (i : Nat) (beam : Bool) (limit : BitVec 4) : Table Nat :=
  let k := tget 0 postponed i
  if beam && decide (k < limit.toNat) then tset 0 postponed i (k + 1) else tset 0 postponed i (k - 1)
/-- A same-bank refresh falls due (R393). -/
def ddrRefresh (s : State) (n : BitVec 3) (bank : BitVec 8) (limit : BitVec 4) : State :=
  let x := chanSt s n.toNat
  let beam := (chanReads s n).any fun r => r.beam && ddrBank s n.toNat (ddrCa s r.la) == bank.toNat
  putChan s n.toNat { x with postponed := refreshBank x.postponed bank.toNat beam limit }
/-- The activate count of a bank has reached RAAIMT: an RFM is issued, and takes RAAIMT off the count (R394). Log
    entry 45. -/
def ddrRfm (s : State) (n : BitVec 3) (bank : BitVec 8) (raaimt : BitVec 16) : State :=
  let x := chanSt s n.toNat
  let k := tget 0 x.raa bank.toNat
  if k < max 1 raaimt.toNat then s
  else
    trouble (putChan s n.toNat { x with raa := tset 0 x.raa bank.toNat (k - max 1 raaimt.toNat) }) (blkDdr n) kDdrDdrRfm
/-- A per-bank refresh of a pseudo-channel falls due (R401); the bank of an access is that of R400. -/
def hbmRefresh (s : State) (sl : SliceId) (q : BitVec 2) (bank limit : BitVec 4) : State :=
  let k := sl.toNat / 8
  let h := hbmSt s k
  let beam := (hbmq s sl q.toNat).any fun o => o.beam && (o.way ^^^ o.set.extractLsb' 0 4) == bank
  putHbmSt s k { h with postponed := refreshBank h.postponed (16 * pcOf sl q.toNat + bank.toNat) beam limit }

/-! Retries, retraining and retired channels (R391, R404, R405, R409, R573, R574). -/

/-- A retrain in place begins: the channel holds every access, and beams are re-checked (R404). -/
def startRetrain (s : State) (n : BitVec 3) : State :=
  let s := putChan s n.toNat { chanSt s n.toNat with retraining := true, reissues := 0, retries := 0 }
  recheck (trouble s (blkDdr n) kDdrDdrRetrain)
/-- ALERT_n: the failed command is issued again, or the channel is retrained (R391). -/
def alertCmd (s : State) (n : BitVec 3) : State :=
  if !chanServes s n then s
  else
    let x := chanSt s n.toNat
    if 3 ≤ x.reissues then startRetrain s n
    else
      let w := s.now.toNat / 1000000
      let k := (if x.retryWin = w then x.retries else 0) + 1
      let s := trouble (putChan s n.toNat { x with reissues := x.reissues + 1, retries := k, retryWin := w }) (blkDdr n) kDdrDdrRetry
      if 16 ≤ k then startRetrain s n else s
/-- A channel is retired: the reads that wait in it are answered with poison, and beams are re-checked (R409, R573). -/
def retireChannel (s : State) (n : BitVec 3) : State :=
  let q := chanReads s n
  let s := { s with ddrRet := setBit s.ddrRet n.toNat true, ddrq := s.ddrq.filter fun r => r.chan != n }
  let s := putChan s n.toNat { chanSt s n.toNat with retraining := false, returning := false }
  let s := q.foldl (fun s r => ddrAnswer (trouble s (blkDdr n) kDdrDdrRetiredAcc) r ⟨0, 0xF⟩) s
  recheck s
/-- A retrain in place ends (R404, R405). -/
def retrainEnd (s : State) (n : BitVec 3) (ok : Bool) : State :=
  let x := chanSt s n.toNat
  if !x.retraining || x.returning || !engineRuns s 60 then s
  else if ok then recheck (putChan s n.toNat { x with retraining := false })
  else retireChannel s n
/-- Writing 1 to EN of a retired channel begins its return (R574). -/
def startReturn (s : State) (n : BitVec 3) : State :=
  if ddrRetired s n then
    putChan (wakeDom s (44 + n.toNat) true) n.toNat { chanSt s n.toNat with returning := true }
  else s
/-- The training and the poison fill of a returning channel end (R574). -/
def returnEnd (s : State) (n : BitVec 3) (ok : Bool) : State :=
  let x := chanSt s n.toNat
  if !x.returning || !engineRuns s 60 then s
  else if ok then
    let s := markRun s ⟨0, s.capacity / 128, some n, true⟩
    let s := putChan s n.toNat { x with returning := false, trained := true, cfgErr := false }
    recheck { s with ddrRet := setBit s.ddrRet n.toNat false }
  else putChan s n.toNat { x with returning := false, cfgErr := true }

/-! Tracking and lost pseudo-channels (R406, R410). -/

/-- The pseudo-channels of a stack that are newly unusable: HBM_PC_LOST, and SLICE_RETIRE by Lantern-A (R405, R410); with
    both slices of a pair concerned the controller goes out (R569). -/
def losePcs (s : State) (k : Nat) (lost : Word) : State :=
  let h := hbmSt s k
  if lost &&& ~~~h.pcLost = 0 then s
  else
    let new := lost &&& ~~~h.pcLost
    let s := raiseErr (putHbmSt s k { h with pcLost := h.pcLost ||| lost }) (blkHbm k) 1
    (List.range 8).foldl (fun s j =>
      let n : SliceId := BitVec.ofNat 4 (8 * k + j)
      if new.extractLsb' (4 * j) 4 = 0 then s
      else if s.home.foldLive.getLsbD (n ^^^ 8).toNat then goOut s n else retireOwn s n) s
/-- The engine has stopped since the last tracking, which makes it skip this one (R565). -/
def trackSkipped (s : State) (e : Nat) : Bool :=
  (engineSt s e).lastStop.any fun t => decide (s.pwr.trackAt.toNat ≤ t.toNat + 200000000)
/-- V4 and V5 track: a pseudo-channel may be found lost (R406). -/
def track (s : State) (lost : BitVec 64) : State :=
  if s.now.toNat < s.pwr.trackAt.toNat then s
  else
    let s := { s with pwr := { s.pwr with trackAt := BitVec.ofNat 64 (s.now.toNat + 100000000) } }
    if engineRuns s 61 && !trackSkipped s 61 then losePcs (losePcs s 0 (lost.extractLsb' 0 32)) 1 (lost.extractLsb' 32 32) else s

/-! Patrol scrub (R396, R397). -/

/-- The local address of a channel line address: R386 inverted. -/
def ddrLa (s : State) (n : BitVec 3) (ca : Nat) : Nat :=
  if s.ddrFour then
    let hi : BitVec 28 := BitVec.ofNat 28 (ca / 8)
    let c : BitVec 2 := n.extractLsb' 0 2 ^^^ hi.extractLsb' 0 2 ^^^ hi.extractLsb' 2 2
    hi.toNat * 4096 + c.toNat * 1024 + ca % 8 * 128
  else
    let hi : BitVec 27 := BitVec.ofNat 27 (ca / 8)
    let c : BitVec 3 := n ^^^ hi.extractLsb' 0 3 ^^^ hi.extractLsb' 3 3
    hi.toNat * 8192 + c.toNat * 1024 + ca % 8 * 128
/-- Lines of a channel within the installed capacity. -/
def chanLines (s : State) : Nat := s.capacity / 128 / (if s.ddrFour then 4 else 8)
/-- One line of a burst whose read found an error. -/
def scrubLine (s : State) (n : BitVec 3) (ca : Nat) (err : EccOutcome) : State :=
  let la := ddrLa s n ca
  let skip := (chanSt s n.toNat).sinceScrub.contains (la / 128)
  if lineMark s (la / 128) then s
  else match err with
    | .none => s
    | .single =>
      let s := trouble s (blkDdr n) kDdrScrubCe
      if skip then trouble s (blkDdr n) kDdrScrubSkip else ddrWrite s la (ddrLine s la)
    | .uncorrectable =>
      let s := trouble (captureLoc s n la) (blkDdr n) kDdrScrubUe
      if skip then trouble s (blkDdr n) kDdrScrubSkip else ddrWrite s la ⟨(ddrLine s la).bytes, 0xF⟩
/-- Ticks from one burst to the next: a pass takes PERIOD hours (R396; R518, event calendar). -/
def scrubPace (s : State) (n : BitVec 3) : Nat :=
  max 1 (chanSt s n.toNat).period.toNat * 3600000000000 / max 1 ((chanLines s + 4095) / 4096)
/-- A burst of 4,096 lines, of which the operand names those whose read found an error. -/
def scrubBurst (s : State) (n : BitVec 3) (outcomes : List (Nat × EccOutcome)) : State :=
  let x := chanSt s n.toNat
  if !x.scrubEn || !chanServes s n || decide (s.now.toNat < tget 0 s.pwr.scrubAt n.toNat) then s
  else
    let top := chanLines s
    let k := min 4096 (top - x.scrubCa)
    let s := outcomes.foldl (fun s o => if o.1 < k then scrubLine s n (x.scrubCa + o.1) o.2 else s) s
    let s := countFor s (evDdr 0 n) k none
    let s := putChan s n.toNat { chanSt s n.toNat with
      scrubCa := if top ≤ x.scrubCa + k then 0 else x.scrubCa + k, sinceScrub := [] }
    { s with pwr := { s.pwr with scrubAt := tset 0 s.pwr.scrubAt n.toNat (s.now.toNat + scrubPace s n) } }

/-- MR4_READ (R393). -/
def execMr4Read (n : BitVec 3) (double : Bool) (s : State) : Host.Outcome State Fault Refusal :=
  finish s (putChan s n.toNat { chanSt s n.toNat with doubleRef := double })
/-- DDR_REFRESH (R393). -/
def execDdrRefresh (n : BitVec 3) (bank : BitVec 8) (limit : BitVec 4) (s : State) : Host.Outcome State Fault Refusal :=
  finish s (ddrRefresh s n bank limit)
/-- DDR_RFM (R394). -/
def execDdrRfm (n : BitVec 3) (bank : BitVec 8) (raaimt : BitVec 16) (s : State) : Host.Outcome State Fault Refusal :=
  finish s (ddrRfm s n bank raaimt)
/-- HBM_REFRESH (R401). -/
def execHbmRefresh (sl : SliceId) (q : BitVec 2) (bank limit : BitVec 4) (s : State) : Host.Outcome State Fault Refusal :=
  finish s (hbmRefresh s sl q bank limit)
/-- ALERT_N (R391, R404). -/
def execAlertN (n : BitVec 3) (s : State) : Host.Outcome State Fault Refusal := finish s (alertCmd s n)
/-- RETRAIN_DONE (R404, R405, R409). -/
def execRetrainDone (n : BitVec 3) (ok : Bool) (s : State) : Host.Outcome State Fault Refusal := finish s (retrainEnd s n ok)
/-- DDR_READ_COMPLETE (R389, R390, R392). -/
def execDdrReadComplete (n : BitVec 3) (pos : Nat) (err : EccOutcome) (s : State) : Host.Outcome State Fault Refusal :=
  finish s (ddrReadDone s n pos err)
/-- CHANNEL_RETURN_DONE (R574). -/
def execChannelReturnDone (n : BitVec 3) (ok : Bool) (s : State) : Host.Outcome State Fault Refusal := finish s (returnEnd s n ok)

end Sys2Proof.Machine
end

