-- ==== Sys2Proof/Machine/WalkerExec.lean ====
section
/-! DEFINITION. The meanings of the walker steps (R33, R113, R124-R129, R267, R310, R561). -/

namespace Sys2Proof.Machine

/-- What a fold walk ends with: the COMMIT of the fold map, and its re-check (R34, R276, R567, R570). -/
def foldEnd (s : State) (w : FoldWalk) : State :=
  let s := { s with cache := { s.cache with folds := s.cache.folds.filter fun x => x.slice != w.slice } }
  let s := homeAdmit (applyCommit s 0x0002)
  onSlot s w.slot fun s k => opDone (opResult s k 0 (s.home.foldLive.setWidth 32)) k
/-- A set of a fold walk is done: the cursor advances, the requests held at it go on, and its pinned lines are staged
    again (R33, R267). -/
def foldSetDone (s : State) (sl : SliceId) : State :=
  match foldOf s sl with
  | none => s
  | some w =>
    if !foldSetOk s w then s
    else
      let w' : FoldWalk := { w with cursor := w.cursor + 1, held := [], restage := [] }
      let s := { s with cache := { s.cache with folds := s.cache.folds.map fun (x : FoldWalk) => if x.slice == w.slice then w' else x } }
      let s := onSlot s w.slot fun s k => opProgress s k w'.cursor.toNat
      let s := if w'.cursor.toNat = 16384 then foldEnd s w' else s
      let s := homeAdmit (w.held.foldl deliver s)
      w.restage.foldl (fun s l => restageLine s l.1) s

/-- Work of a walker: none while it is stopped (R565). -/
def onWalker (s : State) (sl : SliceId) (t : State) : State := if engineRuns s (40 + sl.toNat) then t else s
/-- WALKER_FLUSH_STEP (R113, R125). -/
def execWalkerFlushStep (sl : SliceId) (s : State) : Host.Outcome State Fault Refusal := finish s (onWalker s sl (walkerStep s sl))
/-- FOLD_WALK_STEP (R33, R187). -/
def execFoldWalkStep (sl : SliceId) (s : State) : Host.Outcome State Fault Refusal := finish s (onWalker s sl (foldStep s sl))
/-- FOLD_SET_DONE (R33, R267, R567). -/
def execFoldSetDone (sl : SliceId) (s : State) : Host.Outcome State Fault Refusal := finish s (onWalker s sl (foldSetDone s sl))
/-- DRAIN_END (R124, R127). -/
def execDrainEnd (whole : Bool) (p : PartId) (s : State) : Host.Outcome State Fault Refusal :=
  finish s (drainEnds s (if whole then none else some p))
/-- MOVE_WALK_STEP (R310). -/
def execMoveWalkStep (sl : SliceId) (s : State) : Host.Outcome State Fault Refusal := finish s (onWalker s sl (moveStep s sl))

end Sys2Proof.Machine
end

