-- ==== Sys2Proof/Machine/Power.lean ====
section
/-! DEFINITION. Power and temperature (chapter 17): slice clocks, throttling, power domains with the event calendar; and
    the meanings of their commands. -/

namespace Sys2Proof.Machine

/-! Limits and throttling (R525-R532). -/

/-- The grade's maximum junction temperature in °C (R526). -/
def gradeTj : Nat := if Config.extended then 105 else 95
/-- A reading in two's complement. -/
def celsius (t : BitVec 8) : Int := t.toInt
/-- The limits of HOST, BMC and the overlay (R436, R526). -/
def limitsOf (s : State) : List Limits := [0, 1, 4].map fun k => tget (⟨0, 0⟩ : Limits) s.lan.limits k
/-- TJ_LIMIT: the most restrictive of the three (R526). -/
def tjLimit (s : State) : Nat := (limitsOf s).foldl (fun m l => min m (if l.tj = 0 then gradeTj else l.tj.toNat)) gradeTj
/-- CAP, in units of 0.1 W (R526). -/
def powerCap (s : State) : Nat := (limitsOf s).foldl (fun m l => min m (if l.cap = 0 then 1180 else l.cap.toNat)) 1180
/-- The slice cap of a level in MHz (R527). -/
def capMhz (level : BitVec 3) : Nat :=
  match level.toNat with
  | 0 => 2200 | 1 => 2000 | 2 => 1800 | 3 => 1600 | 4 => 1200 | _ => 800
/-- The choice of R513 for slice n; 2.0 GHz before the first window. -/
def mhzChoice (s : State) (n : SliceId) : Nat := (tget 2000 s.pwr.choice n.toNat).toNat
/-- The clock of slice n in MHz. -/
def mhzOf (s : State) (n : SliceId) : Nat := (tget 2000 s.pwr.mhz n.toNat).toNat
/-- The frequency of a slice follows its choice and the level: down at once, up after the voltage ramp (R512, R528). -/
def setClock (s : State) (n : SliceId) : State :=
  let f := min (mhzChoice s n) (capMhz s.pwr.level)
  let v : BitVec 12 := BitVec.ofNat 12 f
  if f ≤ mhzOf s n then
    { s with pwr := { s.pwr with mhz := tset 2000 s.pwr.mhz n.toNat v, ramp := tset 0 s.pwr.ramp n.toNat 0 } }
  else { s with pwr := { s.pwr with ramp := tset 0 s.pwr.ramp n.toNat v } }
/-- A voltage ramp ends (R512). -/
def rampDone (s : State) (n : SliceId) : State :=
  let v := tget 0 s.pwr.ramp n.toNat
  if v = 0 then s
  else { s with pwr := { s.pwr with mhz := tset 2000 s.pwr.mhz n.toNat v, ramp := tset 0 s.pwr.ramp n.toNat 0 } }
/-- Every slice clock follows the level. -/
def setClocks (s : State) : State := (List.range 16).foldl (fun s n => setClock s (BitVec.ofNat 4 n)) s
/-- The level changes: clocks follow it, and a change that takes slices below 1.6 GHz, or back, runs admission again
    (R528, R531). -/
def setLevel (s : State) (v : BitVec 3) : State :=
  let old := s.pwr.level
  if v = old then s
  else
    let s := setClocks { s with pwr := { s.pwr with level := v, windows := 0 } }
    let s := logAdd s 0x0B [old.setWidth 32, v.setWidth 32]
    if decide (4 ≤ old.toNat) != decide (4 ≤ v.toNat) then recheck s else s
/-- An emergency starts (R529). -/
def emergency (s : State) : State := raiseEvt (setLevel { s with pwr := { s.pwr with emergency := true } } 6) 11
/-- An emergency ends: the ladder resumes at level 5 (R529). -/
def emergencyEnd (s : State) : State :=
  if s.pwr.emergency then raiseEvt (setLevel { s with pwr := { s.pwr with emergency := false } } 5) 11 else s
/-- The greater of two readings. -/
def hotter (a b : BitVec 8) : BitVec 8 := if celsius a < celsius b then b else a
/-- The hottest die sensor read; THERMAL when it reaches the limit (R440, R525, R530). -/
def readDie (s : State) (t : BitVec 8) : State :=
  let was := s.pwr.tj
  let s := { s with pwr := { s.pwr with
    tj := t, tjMax := hotter s.pwr.tjMax t, backstop := s.pwr.backstop && decide ((gradeTj : Int) < celsius t) } }
  if celsius was < tjLimit s ∧ (tjLimit s : Int) ≤ celsius t then raiseEvt s 11 else s
/-- The backstop: at least level 5, without Lantern, from the maximum Tj plus 10 °C on (R530). -/
def backstop (s : State) (t : BitVec 8) : State :=
  if celsius t < gradeTj + 10 then s
  else
    let s := { s with pwr := { s.pwr with tj := t, tjMax := hotter s.pwr.tjMax t, backstop := true } }
    raiseEvt (if s.pwr.level.toNat < 5 then setLevel s 5 else s) 11
/-- The package power of a window (R525). -/
def readPower (s : State) (w : BitVec 16) : State :=
  { s with pwr := { s.pwr with pkg := w, pkgSum := s.pwr.pkgSum + w.toNat, pkgCount := s.pwr.pkgCount + 1 } }
/-- The change of level by the table of R528. -/
def ladder (s : State) : Int :=
  let p := s.pwr
  let lim : Int := tjLimit s
  let cap := powerCap s
  let tj := celsius p.tjMax
  let st := celsius p.stackMax
  let n := max 1 p.pkgCount
  let sum := if p.pkgCount = 0 then p.pkg.toNat else p.pkgSum
  if p.emergency then 0
  else if lim + 5 ≤ tj then 2
  else if lim ≤ tj || decide (cap * n < sum) || decide (95 ≤ st) then 1
  else if tj ≤ lim - 5 ∧ sum * 100 ≤ 95 * cap * n ∧ st ≤ 90 ∧ 10 ≤ p.windows + 1 then -1
  else 0
/-- The end of a throttling window (R528, R530). -/
def throttleWindow (s : State) : State :=
  let d := ladder s
  let low : Int := if s.pwr.backstop then 5 else 0
  let v : Int := max low (min 5 (s.pwr.level.toNat + d))
  let s := { s with pwr := { s.pwr with
    windows := s.pwr.windows + 1, pkgSum := 0, pkgCount := 0, tjMax := s.pwr.tj
    stackMax := hotter (hbmSt s 0).temp (hbmSt s 1).temp } }
  if s.pwr.emergency then s else setLevel s (BitVec.ofInt 3 v)
/-- A running beam has a line in slice n. -/
def beamInSlice (s : State) (n : SliceId) : Bool :=
  s.beams.ctx.any fun e => e.2.state == 2 && (beamLines e.2.desc).any fun l => (admSlice s.home.foldLive l).1 == n
/-- The choice of a slice's frequency for the next window (R513). -/
def dvfs (s : State) (n : SliceId) (lookups cycles : Word) : State :=
  let f : BitVec 12 :=
    if 75 * cycles.toNat < 100 * lookups.toNat then 2200
    else if 100 * lookups.toNat < 10 * cycles.toNat ∧ ¬ beamInSlice s n then 1600 else 2000
  setClock { s with pwr := { s.pwr with choice := tset 2000 s.pwr.choice n.toNat f } } n
/-- A stack's temperature (R402, R528). A sleeping HBM island takes no reading (R412). -/
def hbmTemp (s : State) (k : Nat) (t : BitVec 8) : State :=
  if asleep s (52 + k) then s
  else
    let h := hbmSt s k
    let d := if 85 ≤ celsius t then true else if celsius t < 80 then false else h.doubleRef
    let s := putHbmSt s k { h with temp := t, doubleRef := d }
    let s := { s with pwr := { s.pwr with stackMax := hotter s.pwr.stackMax t } }
    if 100 ≤ celsius t ∧ s.pwr.level.toNat < 5 then setLevel s 5 else s
/-- An RDIMM reading (R525, R532). -/
def rdimmTemp (s : State) (n : BitVec 3) (t : BitVec 8) : State :=
  let s := if asleep s (44 + n.toNat) then s else putChan s n.toNat { chanSt s n.toNat with tempMax := t }
  if 85 ≤ celsius t then raiseEvt s 11 else s

/-! Power domains (R514-R524). -/

/-- A table holds an open object. -/
def someOpen {α : Type} (t : Table (Option α)) (sl : SliceId) (n : Nat) : Bool :=
  t.any fun e => e.1 / n == sl.toNat && e.2.isSome
/-- A slice has work: an open entry or buffer, a queued item, a walk (R517). -/
def sliceWork (s : State) (n : SliceId) : Bool :=
  someOpen s.cache.miss n 256 || someOpen s.cache.pen n 128 || someOpen s.cache.wc n 64 || someOpen s.home.homeq n 64
    || someOpen s.home.farq n 32 || someOpen s.home.evict n 4 || !(sliceSt s n).stalled.isEmpty || !(sliceSt s n).snps.isEmpty
    || !(sliceSt s n).filterWalks.isEmpty || !(sliceSt s n).owedPoison.isEmpty || !(sliceSt s n).sinks.isEmpty
    || (s.cache.drain.any fun d => d.slice == n) || (s.home.arrWait.any fun w => (place s w.hdr.laddr).sl == n) || (s.cache.hbmq.any fun e => e.1 / 4 == n.toNat && !e.2.isEmpty)
    || (s.cache.drains.any fun d => !d.ended) || !s.cache.flushes.isEmpty
    || (s.cache.folds.any fun w => w.slice == n || w.slice == n ^^^ 8)
/-- A cluster has a staging read, a release step or a report outstanding (R515). -/
def clusterWork (s : State) (k : Nat) : Bool :=
  (s.beams.reads.any fun r => clusterOf (beamCtx s r.ctx).engine == k)
    || (s.reports.any fun r => clusterOf (beamCtx s r.ctx).engine == k)
    || (s.beams.ctx.any fun e => e.2.state != 0 && clusterOf e.2.engine == k && e.2.rows.any fun y => y.rel.isSome || !y.reading.isEmpty || !y.restage.isEmpty)
/-- Domain d has work. -/
def domWork (s : State) (d : Nat) : Bool :=
  if d < 32 then sliceWork s (BitVec.ofNat 4 d)
  else if d < 40 then
    let x := portSt s (BitVec.ofNat 3 (d - 32))
    !x.open_.isEmpty || !x.rxq.isEmpty || !x.txWait.isEmpty || !x.unacked.isEmpty || !x.probeHold.isEmpty || !x.cmpHold.isEmpty
  else if d < 44 then
    let x := tget ringPort0 s.net.ports (d - 40)
    !x.transit.isEmpty || !x.inject.isEmpty || !x.mgmtq.isEmpty || !x.unacked.isEmpty
  else if d < 52 then
    !(chanReads s (BitVec.ofNat 3 (d - 44))).isEmpty || (chanSt s (d - 44)).retraining || (chanSt s (d - 44)).returning
  else if d < 54 then s.cache.hbmq.any fun e => e.1 / 32 == d - 52 && !e.2.isEmpty
  else if d < 59 then clusterWork s (d - 54)
  else if d = 59 then !(runningOps s).isEmpty || s.lan.mbx.any fun e => cmdWords e.2 != 0
  else if d = 60 then !s.cache.delivs.isEmpty
  else if d = 63 then
    (allRing.any fun p => (ringPort s p).state == .training && !s.unwired.getLsbD (ringIx p)) || (List.range 8).any fun n => (chanSt s n).retraining || (chanSt s n).returning
  else false
/-- The FW column of R515 with GUARD 8, as POLICY holds it (R483). -/
def policyFw (d : Nat) : BitVec 16 :=
  let p (deepest : Nat) (cal hint : Bool) : BitVec 16 :=
    BitVec.ofNat 16 (deepest + (if cal then 4 else 0) + (if hint then 8 else 0) + 2048)
  if d < 40 then p 3 true true else if d < 44 then p 3 true false else if d < 54 then p 3 true true
  else if d < 59 then p 3 true false else if d = 59 then p 2 true true else if d = 60 then p 1 false false
  else if d = 61 then p 0 false false else if d = 62 then p 2 true true else p 2 true false
/-- POLICY of domain d. -/
def policyOf (s : State) (d : Nat) : BitVec 16 := tget (policyFw d) s.pwr.policy d
/-- Slices whose data lie on stack k. -/
def stackSlices (k : Nat) : List Nat := (List.range 8).map (· + 8 * k)
/-- The deepest state that the table of R515 allows a domain. -/
def tableLimit (s : State) (d : Nat) : Nat :=
  let folded (n : Nat) : Bool := s.home.foldLive.getLsbD n
  if d < 16 then (if folded d then 3 else 2)
  else if d < 32 then (if folded (d - 16) then 3 else if asleep s (d - 16) then 2 else 1)
  else if d < 40 then
    let x := portSt s (BitVec.ofNat 3 (d - 32))
    if !x.en || x.retired then 3 else if x.ltssm = .detect then 2 else 1
  else if d < 44 then
    let x := tget ringPort0 s.net.ports (d - 40)
    match x.state with
    | .down => if x.en then 2 else 3
    | .quarantined | .retired => 3
    | _ => 1
  else if d < 52 then
    let n := d - 44
    if (chanSt s n).dimms = 0 ∨ s.ddrRet.getLsbD n then 3 else 2
  else if d < 54 then
    let l := stackSlices (d - 52)
    if l.all folded then 3 else if l.all (asleep s) then 2 else 1
  else if d < 59 then
    if s.beams.ctx.any fun e => e.2.state != 0 && clusterOf e.2.engine == d - 54 then 2 else 3
  else if d = 59 then 2 else if d = 60 then 1 else if d = 61 then 0
  -- the link's ASPM state is the host's (log entry 50)
  else if d = 62 then 1 else 2
/-- A domain that can receive work that no calendar entry announces (R515). -/
def uncalDemand (d : Nat) : Bool := !((54 ≤ d && d ≤ 58) || d == 61 || d == 63)
/-- The domains of a beam's path (R523). -/
def beamPath (s : State) (x : BeamCtx) (d : Nat) : Bool :=
  let fm := s.home.foldLive
  let uses (n : Nat) : Bool := (beamLines x.desc).any fun l => (admSlice fm l).1.toNat == n
  if d < 16 then uses d
  else if d < 32 then uses (d - 16)
  else if d < 40 then (dPort x.desc).toNat == d - 32
  else if d < 44 then
    (match (tget ringPort0 s.net.ports (d - 40)).state with
    | .active | .standby => true
    | _ => false)
  else if d < 52 then (beamLines x.desc).any fun l => (homeAddr s l).any fun la => (ddrChan s la).toNat == d - 44
  else if d < 54 then (stackSlices (d - 52)).any uses
  else if d < 59 then clusterOf x.engine == d - 54
  else false
/-- Beams whose domains stay at A2 or shallower and are calendared (R523). -/
def calBeams (s : State) : List BeamCtx := (beamList s).filterMap fun e => if e.2.state = 1 ∨ e.2.state = 2 ∨ e.2.state = 5 then some e.2 else none
/-- Some beam's path holds the domain. -/
def onBeamPath (s : State) (d : Nat) : Bool := (calBeams s).any fun x => beamPath s x d
/-- The tick that the calendar has for a beam: its next opening, in encoder mode the earliest that R235 allows (R522). -/
def calOpen (x : BeamCtx) : Option Nat :=
  if x.state = 1 then none
  else if dEncoder x.desc then some (if x.nextRow = 0 then x.start.toNat else x.lastOpen.toNat + dP x.desc)
  else (nextOpen x).map Prod.fst
/-- The ticks of the calendar entries that name a domain (log entry 51). -/
def calendar (s : State) (d : Nat) : List Nat :=
  ((calBeams s).filterMap fun x => if beamPath s x d then calOpen x else none)
    ++ (if d < 32 then [tget 0 s.pwr.walkAt (d % 16)] else [])
    ++ (if 44 ≤ d ∧ d < 52 ∧ (chanSt s (d - 44)).trained then [tget 0 s.pwr.scrubAt (d - 44)] else [])
    ++ (if 52 ≤ d ∧ d < 54 then (stackSlices (d - 52)).map fun n => tget 0 s.pwr.walkAt n else [])
    ++ (if (44 ≤ d ∧ d < 54) ∨ d = 63 then [s.pwr.trackAt.toNat] else [])
    ++ (if d = 59 ∧ s.regs.armed then [s.regs.armTick.toNat] else [])
    ++ (if d = 62 ∧ s.ctrs.dump.en then [s.ctrs.dump.nextTick.toNat] else [])
/-- next_event of R519: the earliest, none where no entry names the domain. -/
def nextEvent (s : State) (d : Nat) : Option Nat :=
  match calendar s d with
  | [] => none
  | t :: l => some (l.foldl min t)
/-- Entry cost of a state in ticks (R514). -/
def entryCost (st : Nat) : Nat := if st = 3 then 2000 else 500
/-- GUARD of a domain in ticks. -/
def guardTicks (s : State) (d : Nat) : Nat := 250 * ((policyOf s d).extractLsb' 8 8).toNat
/-- The deepest of the candidates for which the time to the next event is enough (R519). -/
def fits (avail : Option Nat) (lim : Nat) : Nat :=
  let ok (st : Nat) : Bool := match avail with
    | none => true
    | some a => decide (entryCost st + wakeTicks (BitVec.ofNat 2 st) ≤ a)
  if lim = 3 ∧ ok 3 then 3 else if 2 ≤ lim ∧ ok 2 then 2 else 1
/-- choose of R519. -/
def choose (s : State) (d : Nat) : Nat :=
  let p := policyOf s d
  let cut (c : Bool) (n lim : Nat) : Nat := if c then min lim n else lim
  let x := domSt s d
  let lim := min (tableLimit s d) (p.extractLsb' 0 2).toNat
  let lim := cut (!p.getLsbD 2) 1 lim
  let lim := cut (uncalDemand d && !(p.getLsbD 3 && s.pwr.hint.getLsbD d)) 1 lim
  let lim := cut (x.lastDemand.any fun t => decide (s.now.toNat < t.toNat + 100000)) 1 lim
  let lim := cut (onBeamPath s d) 2 lim
  let avail := (nextEvent s d).map fun t => t - s.now.toNat - guardTicks s d
  if lim = 0 then 0 else fits avail lim
/-- Lantern-A chooses a state for a domain that has no work (R518, R519). -/
def chooseDomain (s : State) (d : Nat) : State :=
  let x := domSt s d
  if domWork s d || asleep s d || x.entering.isSome || x.waking.isSome then s
  else
    let c := if s.pwr.hold.getLsbD d then min 1 (choose s d) else choose s d
    if 2 ≤ c then putDom s d { x with entering := some (BitVec.ofNat 2 c, s.now) }
    else putDom s d { x with state := BitVec.ofNat 2 c }
/-- The choice for every domain. -/
def chooseDomains (s : State) : State := (List.range 64).foldl chooseDomain s
/-- A calendared event has completed, or none was due: Lantern-A chooses a state for each domain without work (R519). -/
def eventDone (s : State) (done : Bool) : State := if done && engineRuns s 62 then chooseDomains s else s
/-- 64 cycles of a domain without work: A1 (R514). The always-on domain stays in A0. -/
def idleEntry (s : State) (d : Nat) : State :=
  let x := domSt s d
  if d = 61 || domWork s d || x.state != 0 || x.entering.isSome then s else putDom s d { x with state := 1 }
/-- What a domain loses that enters A3 (R514, R516): a slice its tags, a cluster its engines' memories, which Lantern-A
    loads again as it wakes. -/
def loseDomain (s : State) (d : Nat) : State := if d < 16 then initSlice s (BitVec.ofNat 4 d) else s
/-- The tick at which the wake alarm of a domain in a state is set (R520). -/
def alarmOf (s : State) (d : Nat) (st : BitVec 2) : Option Tick :=
  (nextEvent s d).map fun t => BitVec.ofNat 64 (t - guardTicks s d - wakeTicks st)
/-- An entry to A2 or A3 is complete, or abandoned because work has come (R517, R520). -/
def entryDone (s : State) (d : Nat) : State :=
  let x := domSt s d
  match x.entering with
  | none => s
  | some (st, t) =>
    if domWork s d then wakeDom s d true
    else if s.now.toNat < t.toNat + entryCost st.toNat then s
    else
      let s := putDom s d { x with state := st, entering := none, alarm := alarmOf s d st }
      if st = 3 then loseDomain s d else s
/-- The wake alarm of a sleeping domain fires (R520). -/
def wakeAlarm (s : State) (d : Nat) : State :=
  match (domSt s d).alarm with
  | some t => if asleep s d && decide (t.toNat ≤ s.now.toNat) then wakeDom s d false else s
  | none => s
/-- A calendar entry that is added or brought forward sets the alarm of its sleeping domain earlier; one whose tick has passed wakes
    the domain at once (R520). -/
def rearmDom (s : State) (d : Nat) : State :=
  let x := domSt s d
  if !asleep s d || x.waking.isSome then s
  else
    match alarmOf s d x.state with
    | none => s
    | some t =>
      if x.alarm.any fun o => decide (o.toNat ≤ t.toNat) then s
      else
        let s := putDom s d { x with alarm := some t }
        if t.toNat ≤ s.now.toNat then wakeDom s d false else s
/-- Every sleeping domain's alarm follows the calendar. -/
def rearm (s : State) : State := (List.range 64).foldl rearmDom s
/-- A domain is in A0 (R514, R516); a slice logic domain that fails to wake makes its slice unwalkable (R568). -/
def wakeDone (s : State) (d : Nat) (ok : Bool) : State :=
  let x := domSt s d
  match x.waking with
  | none => s
  | some t =>
    if s.now.toNat < t.toNat + wakeTicks x.state then s
    else if !ok && decide (d < 16) then coldRetire (putDom s d { x with waking := none }) (BitVec.ofNat 4 d)
    else
      let s' := putDom s d { x with state := 0, waking := none, alarm := none, idleFrom := s.now }
      let s' := if x.state = 3 then restartCounters s' d else s'
      if x.state = 3 ∧ d < 16 then initSlice s' (BitVec.ofNat 4 d) else s'
/-- IDLE_HINT written: a bit that falls wakes its domain, unless it is in A3 under a condition that holds (R524). -/
def writeHints (s : State) (v : BitVec 64) : State :=
  let fell := s.pwr.hint &&& ~~~v
  let s := { s with pwr := { s.pwr with hint := v } }
  (bitsOf fell).foldl (fun s d =>
    if asleep s d && !((domSt s d).state == 3 && tableLimit s d == 3) then wakeDom s d false else s) s

/-- ROW_OPEN (R234-R236, R519). -/
def execRowOpen (c : BitVec 8) (s : State) : Host.Outcome State Fault Refusal :=
  let t := rowOpen s c
  finish s (eventDone t ((beamCtx t c).nextRow != (beamCtx s c).nextRow))
/-- SCRUB_STEP (R519, R561). -/
def execScrubStep (sl : SliceId) (s : State) : Host.Outcome State Fault Refusal :=
  let t := onWalker s sl (scrubStep s sl)
  finish s (eventDone t (tget 0 t.pwr.walkAt sl.toNat != tget 0 s.pwr.walkAt sl.toNat))
/-- TRACKING (R406, R410, R519). -/
def execTracking (lost : BitVec 64) (s : State) : Host.Outcome State Fault Refusal :=
  let t := track s lost
  finish s (eventDone t (t.pwr.trackAt != s.pwr.trackAt))
/-- PATROL_SCRUB_BURST (R396, R397, R519). -/
def execPatrolScrubBurst (n : BitVec 3) (outcomes : List (Nat × EccOutcome)) (s : State) : Host.Outcome State Fault Refusal :=
  let t := scrubBurst s n outcomes
  finish s (eventDone t (tget 0 t.pwr.scrubAt n.toNat != tget 0 s.pwr.scrubAt n.toNat))
/-- DIE_SENSOR_READ (R525). -/
def execDieSensorRead (tj : BitVec 8) (s : State) : Host.Outcome State Fault Refusal := finish s (readDie s tj)
/-- POWER_ESTIMATE (R525). -/
def execPowerEstimate (pkg : BitVec 16) (s : State) : Host.Outcome State Fault Refusal := finish s (readPower s pkg)
/-- THROTTLE_WINDOW (R527, R528, R530, R531). -/
def execThrottleWindow (s : State) : Host.Outcome State Fault Refusal := finish s (throttleWindow s)
/-- DVFS_WINDOW (R513). -/
def execDvfsWindow (n : SliceId) (lookups cycles : Word) (s : State) : Host.Outcome State Fault Refusal :=
  finish s (dvfs s n lookups cycles)
/-- VOLTAGE_RAMP_DONE (R512). -/
def execVoltageRampDone (n : SliceId) (s : State) : Host.Outcome State Fault Refusal := finish s (rampDone s n)
/-- HBM_TEMP_READ (R402, R528). -/
def execHbmTempRead (k : Bool) (temp : BitVec 8) (s : State) : Host.Outcome State Fault Refusal :=
  finish s (hbmTemp s (if k then 1 else 0) temp)
/-- RDIMM_TEMP_READ (R525, R532). -/
def execRdimmTempRead (n : BitVec 3) (temp : BitVec 8) (s : State) : Host.Outcome State Fault Refusal := finish s (rdimmTemp s n temp)
/-- A1_IDLE_ENTRY (R514). -/
def execA1IdleEntry (d : BitVec 6) (s : State) : Host.Outcome State Fault Refusal := finish s (idleEntry s d.toNat)
/-- DOMAIN_ENTRY_DONE (R514, R517). -/
def execDomainEntryDone (d : BitVec 6) (s : State) : Host.Outcome State Fault Refusal := finish s (entryDone s d.toNat)
/-- WAKE_ALARM (R520, R521). -/
def execWakeAlarm (d : BitVec 6) (s : State) : Host.Outcome State Fault Refusal := finish s (wakeAlarm s d.toNat)
/-- DOMAIN_WAKE_DONE (R514, R516, R568). -/
def execDomainWakeDone (d : BitVec 6) (ok : Bool) (s : State) : Host.Outcome State Fault Refusal := finish s (wakeDone s d.toNat ok)

end Sys2Proof.Machine
end

