-- ==== Sys2Proof/Machine/Images.lean ====
section
/-! DEFINITION. The SPI NOR and what it holds (R540-R546, R552, R553): firmware images, configuration images, the records that
    the controller keeps; and the phases of FW_UPDATE (R554). -/

namespace Sys2Proof.Machine

/-! The NOR (R540, R541). -/

/-- Area of firmware A or B. -/
def norFw (b : Bool) : Nat := if b then 0xC00000 else 0
/-- Bytes of a firmware area. -/
def norFwSize : Nat := 0xC00000
/-- Copy k of the base image. -/
def norBase (k : Nat) : Nat := 0x1800000 + 0x80000 * k
/-- Overlay k. -/
def norOverlay (k : Nat) : Nat := 0x1900000 + 0x40000 * k
/-- Copy k of the memory repair record. -/
def norRepair (k : Nat) : Nat := 0x1B00000 + 0x10000 * k
/-- Copy k of the ring key record. -/
def norKey (k : Nat) : Nat := 0x1B20000 + 0x10000 * k
/-- Bytes of an erase sector. -/
def norSector : Nat := 65536
/-- A word of the NOR. -/
def norWord (s : State) (a i : Nat) : Word := readWord s.mem.nor (a + 4 * i)
/-- A sector erased: every byte reads 0xFF. -/
def norErase (s : State) (a : Nat) : State :=
  { s with mem := { s.mem with nor := mwrite s.mem.nor (a / norSector * norSector) (List.replicate norSector 0xFF) } }
/-- Bytes written. -/
def norWrite (s : State) (a : Nat) (bs : List Byte) : State := { s with mem := { s.mem with nor := mwrite s.mem.nor a bs } }
/-- Sequence a is newer than b, modulo 2^32 (R541). -/
def newer (a b : Word) : Bool := a != b && !(a - b).getLsbD 31

/-! Records that the controller keeps (R541, R552, R553). -/

/-- SEQ of a copy that is valid: its MAGIC and its CRC word match. -/
def recSeq (s : State) (a : Nat) (magic : Word) (len : Nat) : Option Word :=
  let ws := readWords s.mem.nor a len
  if wordAt ws 0 = magic ∧ 0 < len ∧ wordsCrc (ws.take (len - 1)) = wordAt ws (len - 1) then some (wordAt ws 1) else none
/-- The copy that a new record replaces, and its SEQ: the older, or one that is not valid. -/
def recTarget (c0 c1 : Option Word) : Nat × Word :=
  match c0, c1 with
  | some a, some b => if newer a b then (1, a + 1) else (0, b + 1)
  | some a, none => (1, a + 1)
  | none, some b => (0, b + 1)
  | none, none => (0, 0)
/-- The copy in force, by its SEQ. -/
def recBest (c0 c1 : Option Word) : Option Nat :=
  match c0, c1 with
  | some a, some b => some (if newer b a then 1 else 0)
  | some _, none => some 0
  | none, some _ => some 1
  | none, none => none
/-- A record written to its older copy: `body` gives the words after SEQ. -/
def recWrite (s : State) (copy : Nat → Nat) (magic : Word) (c0 c1 : Option Word) (body : List Word) : State :=
  let (k, q) := recTarget c0 c1
  let ws := magic :: q :: body
  let s := norErase s (copy k)
  norWrite s (copy k) ((ws ++ [wordsCrc ws]).flatMap fun w => bytesOf w 4)
/-- The ring key record written (R358, R553); the wrapped words are free values, because the device's fuses make the key
    that wraps them (log entry 17). -/
def keyRecord (s : State) : State :=
  let len := 26
  let seq (k : Nat) : Option Word := recSeq s (norKey k) 0x594B4752 len
  let slot (x : KeySlot) (f : Nat) : List Word :=
    (x.gen.setWidth 32 ||| (if x.valid then 0x100 else 0)) :: (List.range 10).map fun i => Config.freeWord (f + i)
  let s' := recWrite s norKey 0x594B4752 (seq 0) (seq 1)
    ((if s.net.activeKey then 1 else 0) :: slot s.net.key0 s.free ++ slot s.net.key1 (s.free + 10))
  { s' with free := s.free + 20 }
/-- Words of a copy of the repair record: its N entries and four words more. -/
def repairLen (s : State) (k : Nat) : Nat := min 260 ((norWord s (norRepair k) 2).toNat + 4)
/-- SEQ of a valid copy of the repair record. -/
def repairSeq (s : State) (k : Nat) : Option Word := recSeq s (norRepair k) 0x50524D48 (repairLen s k)
/-- The entries in force. -/
def repairEntries (s : State) : List Word :=
  match recBest (repairSeq s 0) (repairSeq s 1) with
  | some k => readWords s.mem.nor (norRepair k + 12) (repairLen s k - 4)
  | none => []
/-- A training adds lane repairs: the record is written, and each is logged (R541, R552, R556). -/
def addRepairs (s : State) (new : List Word) : State :=
  let new := new.filter fun e => !(repairEntries s).contains e
  if new.isEmpty then s
  else
    let es := (repairEntries s ++ new).take 256
    let s := recWrite s norRepair 0x50524D48 (repairSeq s 0) (repairSeq s 1) (BitVec.ofNat 32 es.length :: es)
    new.foldl (fun s e => logAdd s 0x0E [e]) s

/-! Firmware images (R542-R544). -/

/-- MAGIC of a firmware image. -/
def fwMagic : Word := 0x57464E4C
/-- DIGEST of the header at a. -/
def fwDigest (s : State) (a : Nat) : BitVec 384 :=
  (List.range 12).foldl (fun (d : BitVec 384) i => putBits d (32 * i) (norWord s a (6 + i))) 0
/-- Bytes of an engine's or of Lantern's memory, by TARGET (R12, R458, R543). -/
def targetBytes (t : Word) : Nat := if t = 1 then 4 * 2 ^ 20 else if t.toNat ≤ 6 then 32768 else 0
/-- Section k: TARGET, source offset, length, load offset. -/
def fwSection (s : State) (a k : Nat) : Word × Nat × Nat × Nat :=
  (norWord s a (19 + 4 * k), (norWord s a (20 + 4 * k)).toNat, (norWord s a (21 + 4 * k)).toNat, (norWord s a (22 + 4 * k)).toNat)
/-- Sections in use. -/
def fwNsect (s : State) (a : Nat) : Nat := ((norWord s a 18).extractLsb' 0 8).toNat
/-- The six checks of R544, each as it stands. -/
def fwChecks (s : State) (a : Nat) : List Bool :=
  let w := norWord s a
  let len := (w 2).toNat
  let keyid : BitVec 2 := (w 5).extractLsb' 9 2
  let one := w 0 == fwMagic && w 1 == 0x02000001 && w 4 == 0x03B10960 && (w 5).extractLsb' 12 20 == 0
    && (w 18).extractLsb' 8 24 == 0 && w 103 == 0 && len % 256 == 0 && decide (512 ≤ len) && decide (len ≤ norFwSize)
  if !one then [false]
  else
    [true, !(w 5).getLsbD 11 && !s.boot.revoked.getLsbD keyid.toNat, decide (s.boot.svnFloor ≤ (w 5).extractLsb' 0 8),
     Config.signatureOk keyid (mread s.mem.nor a 416) (mread s.mem.nor (a + 416) 96),
     Config.sha384 (mread s.mem.nor (a + 512) (len - 512)) == fwDigest s a,
     decide (1 ≤ fwNsect s a) && decide (fwNsect s a ≤ 21) && (List.range (fwNsect s a)).all fun k =>
       let (t, src, n, dst) := fwSection s a k
       decide (1 ≤ t.toNat) && decide (t.toNat ≤ 6) && decide (512 ≤ src) && decide (src + n ≤ len) && decide (dst + n ≤ targetBytes t)]
/-- The image passes its checks (R544). -/
def fwOk (s : State) (a : Nat) : Bool := let l := fwChecks s a; l.length == 6 && l.all id
/-- The result of the checks as a bit mask (R556). -/
def fwMask (s : State) (a : Nat) : Word :=
  ((fwChecks s a).zip (List.range 6)).foldl (fun (v : Word) e => setBit v e.2 e.1) 0
/-- Engines of a TARGET (R543). -/
def targetEngines (t : Word) : List Nat :=
  match t.toNat with
  | 2 => List.range 40
  | 3 => (List.range 16).map (· + 40)
  | 4 => (List.range 4).map (· + 56)
  | 5 => [60]
  | 6 => [61]
  | _ => []
/-- The sections of an image loaded into the engines' memories (R535, R543). -/
def fwLoad (s : State) (a : Nat) : State :=
  (List.range (fwNsect s a)).foldl (fun (s : State) k =>
    let (t, src, n, dst) := fwSection s a k
    let ws := readWords s.mem.nor (a + src) (n / 4)
    let s := if t = 1 then { s with mem := { s.mem with lantern := writeWords s.mem.lantern dst ws } } else s
    (targetEngines t).foldl (fun (s : State) e =>
      { s with engMem := (ws.zip (List.range ws.length)).foldl (fun m x => tset 0 m (8192 * e + dst / 4 + x.2) x.1) s.engMem }) s) s

/-! Configuration images (R546). -/

/-- A configuration image taken apart. -/
structure CfgImage where
  kind : BitVec 2
  serial : Word
  ctrlId : CtrlId
  index : BitVec 4
  recs : List (List Word)
  deriving DecidableEq, Repr
/-- MAGIC of a configuration image. -/
def cfgMagic : Word := 0x47464352
/-- The words after word 0 that a record type takes; the type is known (R547). -/
def recLenOk (t n : Nat) : Bool :=
  match t with
  | 0 => true
  | 1 => n == 3
  | 2 => n == 3
  | 3 => decide (2 ≤ n)
  | 4 => decide (1 ≤ n)
  | 5 => n == 1
  | 6 => n == 4
  | 7 => n == 1
  | _ => false
/-- NREC records, which fill the words exactly. -/
def cfgRecs : Nat → List Word → Option (List (List Word))
  | 0, ws => if ws.isEmpty then some [] else none
  | _ + 1, [] => none
  | k + 1, h :: ws =>
    let n := (h.extractLsb' 8 8).toNat
    if !recLenOk (h.extractLsb' 0 8).toNat n || h.extractLsb' 16 16 != 0 || decide (ws.length < n) then none
    else (cfgRecs k (ws.drop n)).map fun l => (h :: ws.take n) :: l
/-- The image at byte a of a memory, of at most `cap` words, where it passes the checks of R546. -/
def cfgAt (m : List Host.Cell) (a cap : Nat) : Option CfgImage :=
  let len := (readWord m (a + 8)).toNat
  if readWord m a ≠ cfgMagic ∨ len < 17 ∨ cap < len then none
  else
    let ws := readWords m a len
    let w := wordAt ws
    let body := (ws.take (len - 1)).drop 16
    let kind : BitVec 2 := (w 1).extractLsb' 16 2
    if (w 1).extractLsb' 0 16 ≠ 1 ∨ (w 1).extractLsb' 18 14 ≠ 0 ∨ kind.toNat ≥ 2 ∨ (w 4).extractLsb' 16 16 ≠ 0
        ∨ (List.range 6).any (fun i => w (10 + i) != 0) ∨ wordsCrc (ws.take (len - 1)) ≠ w (len - 1)
        ∨ body.length < (w 9).toNat then none
    else (cfgRecs (w 9).toNat body).map fun l =>
      { kind := kind, serial := w 3, ctrlId := (w 4).extractLsb' 0 12, index := (w 4).extractLsb' 12 4, recs := l }
/-- The base image's copies that pass (R548). -/
def baseCopy (s : State) (k : Nat) : Option CfgImage := (cfgAt s.mem.nor (norBase k) 131072).filter fun x => x.kind == 0
/-- The base image in force: the valid copy with the higher SERIAL (R541, R548). -/
def baseImage (s : State) : Option CfgImage :=
  match recBest ((baseCopy s 0).map (·.serial)) ((baseCopy s 1).map (·.serial)) with
  | some k => baseCopy s k
  | none => none
/-- An overlay of the NOR, or of BAR2 (R549). -/
def overlayAt (s : State) (source : BitVec 4) (ofs : Nat) : Option CfgImage :=
  let x := if source = 0xF then cfgAt s.mem.bar2 ofs (min 65536 ((0x80000 - ofs) / 4)) else cfgAt s.mem.nor (norOverlay source.toNat) 65536
  x.filter fun y => y.kind == 1

/-! FW_UPDATE (R554). -/

/-- The first sector of every area that the update has written is erased, and the update closes. -/
def updCancel (s : State) : State :=
  match s.boot.upd with
  | none => s
  | some u =>
    let s := u.areas.foldl (fun s a => norErase s a.1) s
    { s with boot := { s.boot with upd := none } }
/-- A phase ends: the record of R556. -/
def updLog (s : State) (phase : Nat) (status : BitVec 8) : State :=
  logAdd s 0x06 [BitVec.ofNat 32 phase, status.setWidth 32, s.boot.version]
/-- Bytes that BEGIN copies from A to B: 0 where A is not the running image, or B is the same (R554). -/
def updCopy (s : State) : Nat :=
  if norWord s (norFw false) 0 = fwMagic ∧ fwDigest s (norFw false) = s.boot.runDigest ∧ fwDigest s (norFw true) ≠ fwDigest s (norFw false) then
    min norFwSize (norWord s (norFw false) 2).toNat
  else 0
/-- BEGIN starts: an open update is cancelled first. -/
def updBegin (s : State) (k : SlotRef) (len : Nat) : State :=
  let s := updCancel s
  opJob s k (.fwBegin (updCopy s) len)
/-- The update is open. -/
def updOpen (s : State) (len : Nat) : State := { s with boot := { s.boot with upd := some ⟨len, 0, [], []⟩ } }
/-- One page of BEGIN's copy; at its end the copy is verified and the update opens. -/
def updBeginStep (s : State) (k : SlotRef) (copy len : Nat) : State :=
  let n := (opSlot s k).progress.toNat
  if copy ≤ n then opDone (updLog (updOpen s len) 0 0) k
  else
    let s := if n % norSector = 0 then norErase s (norFw true + n) else s
    let s := norWrite s (norFw true + n) (mread s.mem.nor (norFw false + n) (min 256 (copy - n)))
    let s := opProgress s k (n + min 256 (copy - n))
    if copy ≤ n + 256 then opDone (updLog (updOpen s len) 0 0) k else s
/-- The image that begins with these words: where it goes and its bytes; none where it is not known or a second of its kind
    (R554). -/
def updPlace (s : State) (u : FwUpd) (ws : List Word) : Option (Nat × Nat) :=
  let w := wordAt ws
  let round (n : Nat) : Nat := (n + 255) / 256 * 256
  let new (a : Nat) : Bool := !(u.areas.any fun x => x.1 == a)
  let p : Option (Nat × Nat × Nat) :=
    if w 0 = fwMagic then some (norFw false, round (w 2).toNat, norFwSize)
    else if w 0 ≠ cfgMagic then none
    else if (w 1).extractLsb' 16 2 = (0 : BitVec 2) then
      if u.areas.any fun x => x.1 == norBase 0 || x.1 == norBase 1 then none
      else
        let k := (recTarget ((baseCopy s 0).map (·.serial)) ((baseCopy s 1).map (·.serial))).1
        some (norBase k, round (4 * (w 2).toNat), 524288)
    else some (norOverlay ((w 4).extractLsb' 12 3).toNat, round (4 * (w 2).toNat), 262144)
  match p with
  | some (a, n, cap) => if new a && decide (0 < n) && decide (n ≤ cap) then some (a, n) else none
  | none => none
/-- One page of a WRITE (R554). -/
def updWriteStep (s : State) (k : SlotRef) (ofs len : Nat) : State :=
  match s.boot.upd with
  | none => opFail s k 0x08
  | some u =>
    let n := (opSlot s k).progress.toNat
    let p := u.written
    let bs := mread s.mem.bar2 (ofs + n) 256
    let cur := u.images.find? fun x => decide (x.1 ≤ p) && decide (p < x.1 + x.2.2)
    let cur : Option (Nat × Nat × Nat) := match cur with
      | some x => some x
      | none => (updPlace s u (readWords s.mem.bar2 (ofs + n) 64)).map fun a => (p, a.1, a.2)
    match cur with
    | none => opFail (updLog s 1 0x14) k 0x14
    | some (po, a, il) =>
      let d := a + (p - po)
      let s := if d % norSector = 0 then norErase s d else s
      let s := norWrite s d bs
      let u := if p = po then { u with areas := u.areas ++ [(a, il)], images := u.images ++ [(po, a, il)] } else u
      let s := { s with boot := { s.boot with upd := some { u with written := p + 256 } } }
      let s := opProgress s k (n + 256)
      if len ≤ n + 256 then opDone (updLog s 1 0) k else s
/-- An image of the package passes the checks that COMMIT makes; a configuration image is 0x14, firmware 0x13. -/
def updCheck (s : State) (u : FwUpd) (x : Nat × Nat × Nat) : BitVec 8 :=
  let a := x.2.1
  if decide (u.written < x.1 + x.2.2) then (if a = norFw false then 0x13 else 0x14)
  else if a = norFw false then (if fwOk s a then 0 else 0x13)
  else if a = norBase 0 ∨ a = norBase 1 then (if (cfgAt s.mem.nor a 131072).any fun y => y.kind == 0 then 0 else 0x14)
  else if (cfgAt s.mem.nor a 65536).any fun y => y.kind == 1 then 0 else 0x14
/-- COMMIT. -/
def updCommit (s : State) (k : SlotRef) : State :=
  match s.boot.upd with
  | none => opFail s k 0x08
  | some u =>
    let rs := u.images.map (updCheck s u)
    match (rs.find? fun r => r == 0x13), (rs.find? fun r => r == 0x14) with
    | some r, _ => opFail (updLog (updCancel s) 2 r) k r
    | none, some r => opFail (updLog (updCancel s) 2 r) k r
    | none, none =>
      let v : Word := if u.areas.any fun x => x.1 == norFw false then norWord s (norFw false) 3 else 0
      let s := opProgress s k u.written
      let s := logAdd { s with boot := { s.boot with upd := none } } 0x06 [2, 0, v]
      opDone (opResult s k 0 v) k
/-- CANCEL. -/
def updCancelStep (s : State) (k : SlotRef) : State := opDone (updLog (updCancel s) 3 0) k
/-- ABORT of BEGIN or WRITE: the inactive image is marked invalid (R426). -/
def updAbort (s : State) (copying : Bool) : State := updCancel (if copying then norErase s (norFw true) else s)

end Sys2Proof.Machine
end

