-- ==== Sys2Proof/Machine/Mailbox.lean ====
section
/-! DEFINITION. Access violations (R443, R451, R452), the mailbox registers (R413-R419), the operation slots (R423-R426) and
    the bulk window (R427, R428); and the meanings of their commands. -/

namespace Sys2Proof.Machine

/-! Access status (R451, R452). -/

/-- The access registers of a block after reset. -/
def acc0 : AccBlk := ⟨0, 0, 0⟩
/-- The access registers of block b. -/
def accSt (s : State) (b : Nat) : AccBlk := tget acc0 s.regs.acc b
/-- The same, written. -/
def putAcc (s : State) (b : Nat) (x : AccBlk) : State := { s with regs := { s.regs with acc := tset acc0 s.regs.acc b x } }
/-- A flag of ACC_STATUS is set, and the access captured where R452 says so. -/
def flagAcc (s : State) (b kind : Nat) (a : Master) (ofs : BitVec 16) (write : Bool) : State :=
  let x := accSt s b
  let cap : BitVec 22 := BitVec.ofBool write ++ BitVec.ofNat 2 (masterNo a) ++ BitVec.ofNat 3 kind ++ ofs
  let st := setBit x.status kind true
  if kind = 1 then putAcc s b { x with status := st, cfgReject := if x.status.getLsbD 1 then x.cfgReject else cap }
  else putAcc s b { x with status := st, violation := if x.status &&& 0x3D = 0 then cap else x.violation }
/-- The value that a master's read returns. -/
def setRead (s : State) (a : Master) (v : BitVec 64) : State :=
  { s with regs := { s.regs with readData := tset 0 s.regs.readData (masterNo a) v } }

/-! Mailbox queues. -/

/-- The master of a mailbox (R413). -/
def ownsMbx (m : Mailbox) (a : Master) : Bool :=
  match m, a with
  | .host, .mgmt => true
  | .bmc, .smbus => true
  | .debug, .jtag => true
  | _, _ => false
/-- The master may write the CTL of a mailbox: MGMT also that of BMC (R413). -/
def mayCtl (m : Mailbox) (a : Master) : Bool := ownsMbx m a || (m == .bmc && a == .mgmt)
/-- A master reads the window: JTAG only that of DEBUG (R443). -/
def mayReadMbx (m : Mailbox) (a : Master) : Bool := a != .jtag || m == .debug
/-- The base of a mailbox window in MBX (R413). -/
def mbxBase (m : Mailbox) : Nat :=
  match m with
  | .host => 0 | .bmc => 0x1000 | .peer => 0x2000 | .debug => 0x3000
/-- A write by a master that the table does not allow (R413). -/
def mbxViolation (s : State) (m : Mailbox) (a : Master) (ofs : Nat) : State :=
  flagAcc s blkMbx 0 a (BitVec.ofNat 16 (mbxBase m + ofs)) true
/-- CMD_FLUSH (R418). -/
def flushCmd (s : State) (m : Mailbox) : State :=
  let x := mbxSt s m
  let s := putMbx s m { x with cmds := [], asm := none, cmdEpoch := x.cmdEpoch + 1 }
  if m = .peer then { s with lan := { s.lan with peerSrc := [] } } else s
/-- RPL_FLUSH: held replies go too (R418). -/
def flushRpl (s : State) (m : Mailbox) : State :=
  let x := mbxSt s m
  putMbx s m { x with rplq := [], held := [], rplEpoch := x.rplEpoch + 1 }
/-- The trace queue flushed (R418). -/
def flushTrc (s : State) : State :=
  let x := mbxSt s .debug
  putMbx s .debug { x with trcq := [], trcEpoch := x.trcEpoch + 1 }
/-- LENGTH of a header (R415). -/
def headerLen (w : Word) : Nat := (w.extractLsb' 8 8).toNat
/-- A word enters a command queue (R416, R417, R419). -/
def cmdWord (s : State) (m : Mailbox) (w : Word) : State :=
  let s := wakeDom s 59 true
  let x := mbxSt s m
  if 256 ≤ cmdWords x then flushCmd (putMbx s m { x with overrun := satInc x.overrun }) m
  else
    match x.asm with
    | none =>
      if headerChk w ≠ w.extractLsb' 28 4 ∨ w.extractLsb' 16 4 ≠ x.cmdEpoch then putMbx s m { x with stale := satInc x.stale }
      else if headerLen w = 0 then putMbx s m { x with cmds := x.cmds ++ [⟨w, []⟩] }
      else putMbx s m { x with asm := some ⟨w, []⟩ }
    | some c =>
      let c : CmdAsm := { c with args := c.args ++ [w] }
      if headerLen c.header ≤ c.args.length then putMbx s m { x with cmds := x.cmds ++ [c], asm := none }
      else putMbx s m { x with asm := some c }
/-- A write of CMD_DATA (R413, R443). -/
def cmdDataWrite (s : State) (m : Mailbox) (a : Master) (w : Word) : State :=
  if ownsMbx m a then cmdWord s m w else mbxViolation s m a 0
/-- A read of RPL_DATA: the oldest word, or 0 and UNDERRUN (R414). -/
def rplRead (s : State) (m : Mailbox) (a : Master) : State :=
  if !mayReadMbx m a then setRead s a 0
  else
    let s := wakeDom s 59 true
    let x := mbxSt s m
    match x.rplq with
    | [] => setRead (putMbx s m { x with underrun := satInc x.underrun }) a 0
    | w :: l => pumpReplies (setRead (putMbx s m { x with rplq := l }) a (w.setWidth 64)) m (x.held.length + 1)
/-- A read of TRC_DATA (R414). -/
def trcRead (s : State) (a : Master) : State :=
  let s := wakeDom s 59 true
  let x := mbxSt s .debug
  match x.trcq with
  | [] => setRead s a 0
  | w :: l => setRead (putMbx s .debug { x with trcq := l }) a (w.setWidth 64)
/-- The strobes of CTL (R414, R418). -/
def ctlStrobe (s : State) (m : Mailbox) (a : Master) (f : State → State) : State :=
  if mayCtl m a then f (wakeDom s 59 true) else mbxViolation s m a 0xC

/-! Operation slots (R423-R426). -/

/-- The code of a slot's state (R423). -/
def opCode : OpState → BitVec 3
  | .idle => 0 | .running => 1 | .done => 2 | .failed => 3 | .aborted => 4
/-- MBX.OP_STATUS (R423). -/
def opStatus (x : OpSlot) : Word := x.seq ++ x.opcode ++ x.error ++ (0 : BitVec 5) ++ opCode x.state
/-- The latch of a slot for a master (R425). -/
def latchIx (a : Master) (k : SlotRef) : Nat := 32 * masterNo a + k.toNat
/-- A read of OP_STATUS latches progress and results (R425). -/
def opStatusRead (s : State) (m : Mailbox) (k : BitVec 3) (a : Master) : State :=
  if !mayReadMbx m a then setRead s a 0
  else
    let s := wakeDom s 59 true
    let r := slotRef m k
    let x := opSlot s r
    let s := { s with lan := { s.lan with latches := tset none s.lan.latches (latchIx a r) (some ⟨x.progress, x.result⟩) } }
    setRead s a ((opStatus x).setWidth 64)
/-- RELEASE (R423, R424). -/
def opRelease (s : State) (r : SlotRef) : State :=
  let x := opSlot s r
  if x.state = .idle ∨ x.state = .running then s else putOp s r opSlot0
/-- An operation ends ABORTED, with its effects so far (R426). -/
def opEndAbort (s : State) (r : SlotRef) : State := endOp s r .aborted 0
/-- The PCP port that this operation returns and that has not completed its exchange. -/
def returningPcp (s : State) (r : SlotRef) : Option PortId :=
  ((List.range 8).map (BitVec.ofNat 3)).find? fun p =>
    ((portSt s p).returning.any fun e => e.1 == r) && !(portSt s p).initDone
/-- The ring port that this operation returns and that is not yet in STANDBY. -/
def returningRing (s : State) (r : SlotRef) : Option RingPort :=
  allRing.find? fun p => ((ringPort s p).returning.any fun e => e.1 == r)
    && (ringPort s p).state != .standby && (ringPort s p).state != .active
/-- ABORT acts on the operations of R426 alone. -/
def opAbort (s : State) (r : SlotRef) : State :=
  let x := opSlot s r
  if x.state ≠ .running then s
  else match x.job with
    | .log .. | .save .. => opEndAbort s r
    | .fwBegin copy _ => opEndAbort (updAbort s (decide (copy ≠ 0))) r
    | .fwWrite .. => opEndAbort (updAbort s false) r
    | .census _ =>
      opEndAbort { s with net := { s.net with lower := { s.net.lower with censusRun := false } } } r
    | .commitAt _ scope tick armed todo =>
      if s.now.toNat + 20000 ≤ tick.toNat then
        let s := disarm s
        let s := if scope = 0 then s else (armed ++ todo).foldl (fun s c =>
          if c = s.net.ctrlId then s else peerCmd s c 0x03 [0, 4, 0, 0]) s
        opEndAbort s r
      else s
    | .hw =>
      if x.opcode = 0x10 then
        opEndAbort { s with cache := { s.cache with flushes := s.cache.flushes.filter fun f => f.slot != some r } } r
      else if x.opcode = 0x43 ∨ x.opcode = 0x53 then
        match returningPcp s r with
        | some p =>
          let y := portSt s p
          let s := putPort s p { y with
            returning := none, trainOk := false, ltssm := .idle, held := y.wasHeld, retired := !y.wasHeld }
          let s := if y.wasHeld then s else putDom s (domPcp p) { domSt s (domPcp p) with state := 3, entering := none, waking := none }
          opEndAbort s r
        | none =>
          match returningRing s r with
          | some p =>
            let y := ringPort s p
            -- a retired port's domain is in A3 (R354)
            let s := if x.opcode = 0x43 then putDom s (domRing p) { domSt s (domRing p) with state := 3, entering := none, waking := none } else s
            opEndAbort (putRing s p { y with returning := none, auth := none, state := if x.opcode = 0x43 then .retired else .down }) r
          | none => s
      else s
    | _ => s

/-! The bulk window (R427, R428). -/

/-- The bytes of BAR2 are held by a running operation. -/
def bar2Held (s : State) (lo hi : Nat) : Bool :=
  (runningOps s).any fun r => r.2.objs.any fun o => match o with
    | .bar2 a b => decide (a < hi) && decide (lo < b)
    | _ => false
/-- A host write to BAR2. -/
def bar2Write (s : State) (ofs : Nat) (bytes : List Byte) : State :=
  let bs := bytes.take (0x80000 - ofs)
  if bar2Held s ofs (ofs + bs.length) then { s with regs := { s.regs with bar2Reject := satInc s.regs.bar2Reject } }
  else { s with mem := { s.mem with bar2 := mwrite s.mem.bar2 ofs bs } }

/-- CMD_DATA_WRITE (R413, R416, R417, R419). -/
def execCmdDataWrite (m : Mailbox) (a : Master) (w : Word) (s : State) : Host.Outcome State Fault Refusal :=
  finishAt s a (cmdDataWrite s m a w)
/-- RPL_DATA_READ (R414). -/
def execRplDataRead (m : Mailbox) (a : Master) (s : State) : Host.Outcome State Fault Refusal := finishAt s a (rplRead s m a)
/-- TRC_DATA_READ (R414). -/
def execTrcDataRead (a : Master) (s : State) : Host.Outcome State Fault Refusal := finishAt s a (trcRead s a)
/-- CMD_FLUSH (R418). -/
def execCmdFlush (m : Mailbox) (a : Master) (s : State) : Host.Outcome State Fault Refusal :=
  finishAt s a (ctlStrobe s m a fun s => flushCmd s m)
/-- RPL_FLUSH (R418). -/
def execRplFlush (m : Mailbox) (a : Master) (s : State) : Host.Outcome State Fault Refusal :=
  finishAt s a (ctlStrobe s m a fun s => flushRpl s m)
/-- TRC_FLUSH (R418). -/
def execTrcFlush (a : Master) (s : State) : Host.Outcome State Fault Refusal := finishAt s a (ctlStrobe s .debug a flushTrc)
/-- OP_STATUS_READ (R425). -/
def execOpStatusRead (m : Mailbox) (k : BitVec 3) (a : Master) (s : State) : Host.Outcome State Fault Refusal :=
  finishAt s a (opStatusRead s m k a)
/-- OP_RELEASE (R424). -/
def execOpRelease (m : Mailbox) (k : BitVec 3) (a : Master) (s : State) : Host.Outcome State Fault Refusal :=
  finishAt s a (if ownsMbx m a then opRelease (wakeDom s 59 true) (slotRef m k) else mbxViolation s m a (0x11C + 0x20 * k.toNat))
/-- OP_ABORT (R426). -/
def execOpAbort (m : Mailbox) (k : BitVec 3) (a : Master) (s : State) : Host.Outcome State Fault Refusal :=
  finishAt s a (if ownsMbx m a then opAbort (wakeDom s 59 true) (slotRef m k) else mbxViolation s m a (0x11C + 0x20 * k.toNat))
/-- BAR2_WRITE (R427, R428). -/
def execBar2Write (ofs : BitVec 22) (bytes : List Byte) (s : State) : Host.Outcome State Fault Refusal :=
  finishAt s .mgmt (bar2Write s ofs.toNat bytes)

end Sys2Proof.Machine
end

