-- ==== Sys2Proof/Machine/LciOps.lean ====
section
/-! DEFINITION. The Lantern Command Interface (R420-R438): which commands a mailbox may send, their words, arguments, objects
    and state checks. -/

namespace Sys2Proof.Machine

/-! The words of a command (R432-R438). -/

/-- The opcode of a command (R433, R438). -/
def lciOpcode : LciCmd → BitVec 8
  | .sysInfo => 0x01
  | .applyOverlay .. => 0x02
  | .commitAt .. => 0x03
  | .logRead .. => 0x04
  | .fwBegin _ | .fwWrite .. | .fwCommit | .fwCancel => 0x05
  | .thermal .. => 0x06
  | .cacheFlush .. => 0x10
  | .cacheDisable .. => 0x11
  | .cacheEnable .. => 0x12
  | .partCreate .. => 0x20
  | .partSetWays .. => 0x21
  | .partSetShare .. => 0x22
  | .partQuiesce .. => 0x23
  | .partFreeze _ => 0x24
  | .partSave .. => 0x25
  | .partRestore .. => 0x26
  | .partRemove _ => 0x27
  | .beamAdmit .. => 0x30
  | .beamStart .. => 0x31
  | .beamCancel _ => 0x32
  | .beamStatus _ => 0x33
  | .sliceRetire _ => 0x40
  | .sliceReturn _ => 0x41
  | .portRetire .. => 0x42
  | .portReturn _ => 0x43
  | .ringCensus .. => 0x50
  | .ringKeySet .. => 0x51
  | .ringFold _ => 0x52
  | .ringUnfold _ => 0x53
  | .peerImg .. => 0xE0
  | .peerLedger .. => 0xE1
  | .peerFence .. => 0xE2
  | .peerQuery .. => 0xE3
  | .peerHomestep .. => 0xE4

/-- The argument words of an opcode, where it is defined (R434-R438). -/
def lciLength (op : BitVec 8) (a : List Word) : Option Nat :=
  let w1 := wordAt a 0
  let field (lo n : Nat) : Nat := w1.toNat / 2 ^ lo % 2 ^ n
  match op.toNat with
  | 0x01 => some 0
  | 0x02 => some 4
  | 0x03 => some 4
  | 0x04 => some 3
  | 0x05 => some (match field 0 2 with | 0 => 2 | 1 => 4 | _ => 1)
  | 0x06 => some 2
  | 0x10 => some 5
  | 0x11 => some 1
  | 0x12 => some 1
  | 0x20 => some (4 + (field 16 9 + 1) / 2)
  | 0x21 => some 2
  | 0x22 => some 3
  | 0x23 => some 1
  | 0x24 => some 1
  | 0x25 => some (3 + (field 12 4 + 3) / 4)
  | 0x26 => some 4
  | 0x27 => some 1
  | 0x30 => some 17
  | 0x31 => some 3
  | 0x32 => some 1
  | 0x33 => some 1
  | 0x40 => some 1
  | 0x41 => some 1
  | 0x42 => some 1
  | 0x43 => some 1
  | 0x50 => some (if field 0 1 = 1 then 1 else 2)
  | 0x51 => some (if field 17 1 = 1 then 1 else 9)
  | 0x52 => some 1
  | 0x53 => some 1
  | 0xE0 => some (max 2 (min 202 a.length))
  | 0xE1 => some (1 + (a.length - 1) / 2 * 2)
  | 0xE2 => some (1 + 2 * field 1 3)
  | 0xE3 => some 1
  | 0xE4 => some 1
  | _ => none
/-- The bits of argument word i that an opcode names (R432, R434). -/
def lciMask (op : BitVec 8) (i : Nat) : Word :=
  let m : List Word := match op.toNat with
    | 0x02 => [0x10F]
    | 0x03 => [0xFFFF, 0x7]
    | 0x04 => [0xFFFF0001]
    | 0x05 => [0x3]
    | 0x06 => [0x7]
    | 0x10 => [0x7F, 0xFFFFFFFF, 0x1FF, 0xFFFFFFFF, 0x1FF]
    | 0x11 => [0x7F]
    | 0x12 => [0x7F]
    | 0x20 => [0x01FF003F, 0xFFFF, 0x7FFFFFF, 0xFFFFFF]
    | 0x21 => [0x13F]
    | 0x22 => [0x3F, 0xFFFFFF, 0x7FFFFFF]
    | 0x23 => [0x13F]
    | 0x24 => [0x3F]
    | 0x25 => [0xF33F, 0xFFFFFFFF, 0x30FFF]
    | 0x26 => [0x1F3F31, 0xFFFFFFFF, 0xFFFFFFFF, 0xFFFF]
    | 0x27 => [0x3F]
    | 0x30 => [0x1]
    | 0x31 => [0xFF]
    | 0x32 => [0xFF]
    | 0x33 => [0xFF]
    | 0x40 => [0xF]
    | 0x41 => [0xF]
    | 0x42 => [0x10F]
    | 0x43 => [0xF]
    | 0x50 => [0x1]
    | 0x51 => [0x3FF01]
    | 0x52 => [0xF]
    | 0x53 => [0xF]
    | 0xE0 => [0x10003]
    | 0xE1 => [0x0FFFFF01]
    | 0xE2 => [0xF]
    | 0xE3 => [0x3FFFF]
    | 0xE4 => [0xFFFF]
    | _ => []
  -- PART_CREATE: the stream entries name bits [10:0] of each half-word; PEER_FENCE: granules
  if op = 0x20 ∧ 4 ≤ i then 0x07FF07FF
  else if op = 0xE2 ∧ 1 ≤ i then 0x00FFFFFF
  else m.getD i 0xFFFFFFFF
/-- No argument word sets a reserved bit (R432). -/
def lciBitsOk (op : BitVec 8) (a : List Word) : Bool :=
  (a.zip (List.range a.length)).all fun e => e.1 &&& ~~~(lciMask op e.2) == 0
/-- The entries of two half-words a word. -/
def halves (ws : List Word) : List (BitVec 16) := ws.flatMap fun w => [w.extractLsb' 0 16, w.extractLsb' 16 16]
/-- Words in pairs. -/
def wordPairs : List Word → List (Word × Word)
  | a :: b :: l => (a, b) :: wordPairs l
  | _ => []
/-- A line address from its two words (R436). -/
def lineArg (a : List Word) (i : Nat) : LineAddr := (wordAt a (i + 1) ++ wordAt a i).setWidth 41
/-- A command from its opcode and argument words, of the right length (R434-R438). -/
def lciParse (op : BitVec 8) (a : List Word) : Option LciCmd :=
  let w (i : Nat) : Word := wordAt a (i - 1)
  let pid : PartId := (w 1).extractLsb' 0 6
  let whole := (w 1).getLsbD 6
  if !lciBitsOk op a then none
  else match op.toNat with
  | 0x01 => some .sysInfo
  | 0x02 => some (.applyOverlay ((w 1).extractLsb' 0 4) ((w 1).getLsbD 8) (w 2) (dwordAt a 2))
  | 0x03 => some (.commitAt ((w 1).extractLsb' 0 16) ((w 2).extractLsb' 0 2) ((w 2).getLsbD 2) (dwordAt a 2))
  | 0x04 => some (.logRead ((w 1).getLsbD 0) ((w 1).extractLsb' 16 16) (w 2) (w 3))
  | 0x05 => some (match (w 1).toNat with
      | 0 => .fwBegin (w 2)
      | 1 => .fwWrite (w 2) (w 3) (w 4)
      | 2 => .fwCommit
      | _ => .fwCancel)
  | 0x06 => some (.thermal ((w 1).extractLsb' 0 3) (w 2))
  | 0x10 => some (.cacheFlush whole pid (lineArg a 1) (lineArg a 3))
  | 0x11 => some (.cacheDisable whole pid)
  | 0x12 => some (.cacheEnable whole pid)
  | 0x20 =>
    let n := ((w 1).extractLsb' 16 9).toNat
    let es := halves (a.drop 4)
    if (es.drop n).any (· != 0) then none
    else some (.partCreate pid ((w 2).extractLsb' 0 16) ((w 3).extractLsb' 0 27) ((w 4).extractLsb' 0 24)
      ((es.take n).map fun e => (e.extractLsb' 0 8, e.extractLsb' 8 3)))
  | 0x21 => some (.partSetWays pid ((w 1).getLsbD 8) ((w 2).extractLsb' 0 16) ((w 2).extractLsb' 16 16))
  | 0x22 => some (.partSetShare pid ((w 2).extractLsb' 0 24) ((w 3).extractLsb' 0 27))
  | 0x23 => some (.partQuiesce pid ((w 1).getLsbD 8))
  | 0x24 => some (.partFreeze pid)
  | 0x25 =>
    let bs : List (BitVec 8) := (a.drop 3).flatMap fun x => (List.range 4).map fun i => x.extractLsb' (8 * i) 8
    let n := ((w 1).extractLsb' 12 4).toNat
    if (bs.drop n).any (· != 0) then none
    else some (.partSave pid ((w 1).getLsbD 8) ((w 1).getLsbD 9) (w 2) ((w 3).extractLsb' 0 12) ((w 3).extractLsb' 16 2)
      (bs.take n))
  | 0x26 => some (.partRestore ((w 1).getLsbD 0) ((w 1).extractLsb' 4 2) ((w 1).extractLsb' 8 6) ((w 1).getLsbD 16)
      ((w 1).extractLsb' 18 2) ((w 1).getLsbD 20) (w 2) (w 3) ((w 4).extractLsb' 0 16))
  | 0x27 => some (.partRemove pid)
  | 0x30 => some (.beamAdmit ((w 1).getLsbD 0)
      ((List.range 16).foldl (fun (d : BitVec 512) i => putBits d (32 * i) (wordAt a (i + 1))) 0))
  | 0x31 => some (.beamStart ((w 1).extractLsb' 0 8) (dwordAt a 1))
  | 0x32 => some (.beamCancel ((w 1).extractLsb' 0 8))
  | 0x33 => some (.beamStatus ((w 1).extractLsb' 0 8))
  | 0x40 => some (.sliceRetire ((w 1).extractLsb' 0 4))
  | 0x41 => some (.sliceReturn ((w 1).extractLsb' 0 4))
  | 0x42 => some (.portRetire ((w 1).extractLsb' 0 4) ((w 1).getLsbD 8))
  | 0x43 => some (.portReturn ((w 1).extractLsb' 0 4))
  | 0x50 => some (.ringCensus ((w 1).getLsbD 0) (w 2))
  | 0x51 => some (.ringKeySet ((w 1).getLsbD 0) ((w 1).extractLsb' 8 8) ((w 1).getLsbD 16) ((w 1).getLsbD 17)
      ((List.range 8).foldl (fun (d : BitVec 256) i => putBits d (32 * i) (wordAt a (i + 1))) 0))
  | 0x52 => some (.ringFold ((w 1).extractLsb' 0 4))
  | 0x53 => some (.ringUnfold ((w 1).extractLsb' 0 4))
  | 0xE0 => some (.peerImg ((w 1).extractLsb' 0 2) ((w 1).getLsbD 16) (w 2) (a.drop 2))
  | 0xE1 => some (.peerLedger ((w 1).getLsbD 0) ((w 1).extractLsb' 8 8) ((w 1).extractLsb' 16 12) (wordPairs (a.drop 1)))
  | 0xE2 => some (.peerFence ((w 1).getLsbD 0)
      ((wordPairs (a.drop 1)).map fun p => (p.1.extractLsb' 0 24, p.2.extractLsb' 0 24)))
  | 0xE3 => some (.peerQuery ((w 1).extractLsb' 0 12) ((w 1).extractLsb' 12 6))
  | 0xE4 => some (.peerHomestep ((w 1).extractLsb' 0 4) ((w 1).extractLsb' 4 4) ((w 1).extractLsb' 8 8))
  | _ => none

/-! Permissions (R413, R433, R436). -/

/-- The mailboxes of an opcode, with what its first words say (R433-R436). -/
def lciPermitted (m : Mailbox) (op : BitVec 8) (report disarm : Bool) (mode : BitVec 3) : Bool :=
  let hd := m == .host || m == .debug
  match op.toNat with
  | 0x01 => true
  | 0x03 => (hd || m == .peer) && (!disarm || m == .peer)
  | 0x04 => hd || m == .bmc
  | 0x05 => m == .host
  | 0x06 => (hd || m == .bmc) && (mode != 3 || m == .bmc)
  | 0x33 => hd || m == .bmc
  | 0x50 => hd || (m == .bmc && report)
  | 0x51 => m == .host
  | 0xE0 => m == .peer
  | 0xE1 => m == .peer
  | 0xE2 => m == .peer
  | 0xE3 => m == .peer
  | 0xE4 => m == .peer
  | _ => hd
/-- The same for a command taken apart. -/
def cmdPermitted (m : Mailbox) (c : LciCmd) : Bool :=
  lciPermitted m (lciOpcode c)
    (match c with | .ringCensus r _ => r | _ => false) (match c with | .commitAt _ _ d _ => d | _ => false)
    (match c with | .thermal md _ => md | _ => 0)
/-- The commands that are taken before READY (R420). -/
def preReady (op : BitVec 8) : Bool := op == 0x01 || op == 0x04 || op == 0x05
/-- An emergency command (R422). -/
def emergencyCmd (m : Mailbox) (c : LciCmd) : Bool :=
  match c with
  | .thermal md _ => m == .bmc && (md == 2 || md == 3)
  | _ => false
/-- Commands that run in the background (R433). A DISARM is done at once (log entry 15). -/
def background : LciCmd → Bool
  | .applyOverlay .. | .fwBegin _ | .fwWrite .. | .fwCommit | .fwCancel | .cacheFlush .. | .cacheDisable .. | .partFreeze _
  | .partSave .. | .partRestore .. | .partRemove _ | .beamCancel _ | .sliceRetire _ | .sliceReturn _ | .portRetire ..
  | .portReturn _ | .ringFold _ | .ringUnfold _ => true
  | .commitAt _ _ disarm _ => !disarm
  | .logRead toBar2 .. => toBar2
  | .partQuiesce _ resume => !resume
  | .ringCensus report _ => !report
  | _ => false

/-! Arguments (R427, R434-R438). -/

/-- A range of the bulk buffer, aligned and within it (R427). -/
def bar2Ok (ofs : Word) (n : Nat) : Bool := ofs.toNat % 4 == 0 && decide (ofs.toNat < 0x80000) && decide (ofs.toNat + n ≤ 0x80000)
/-- The words of a partition image that stands in BAR2 or in a receive slot (R296, R299). -/
def imageAt (s : State) (fromSlot : Bool) (slot : BitVec 2) (ofs : Word) : List Word :=
  let m := if fromSlot then s.mem.slots else s.mem.bar2
  let a := if fromSlot then 65536 * slot.toNat else ofs.toNat
  let n := (readWord m (a + 8)).toNat
  readWords m a (if 41 ≤ n ∧ n ≤ 9289 then n else 41)
/-- Words of the image that a PART_SAVE taken now writes (R298). -/
def saveLength (s : State) (p : PartId) (homes : List (BitVec 8)) : Nat := (partImage s p homes false 0).length
/-- Words that a census written to BAR2 can have (R437). -/
def censusWords : Nat := 1 + 16 * 9
/-- Words of the overlay in BAR2, within the bulk buffer (R546). -/
def overlayWords (s : State) (ofs : Word) : Nat :=
  min (readWord s.mem.bar2 (ofs.toNat + 8)).toNat ((0x80000 - ofs.toNat) / 4)
/-- The status of a check of arguments: 0 where they pass. -/
def lciArgs (s : State) (c : LciCmd) : BitVec 8 :=
  let arg (ok : Bool) : BitVec 8 := if ok then 0 else 0x04
  let pid (p : PartId) : BitVec 8 := if p = 0 then 0x42 else 0
  let both (a b : BitVec 8) : BitVec 8 := if a = 0 then b else a
  match c with
  | .applyOverlay source _ ofs _ => arg (decide (source.toNat ≤ 7) || (source == 0xF && bar2Ok ofs 64))
  | .commitAt _ scope _ _ => arg (scope != 3)
  | .logRead toBar2 n _ ofs => arg (if toBar2 then bar2Ok ofs (4 * n.toNat) else decide (n.toNat ≤ 240))
  | .fwBegin len => arg (len.toNat % 256 == 0 && decide (len.toNat ≤ 15 * 2 ^ 20))
  | .fwWrite ofs img len =>
    arg (len.toNat % 256 == 0 && decide (len.toNat ≤ 0x80000) && bar2Ok ofs len.toNat
      && (s.boot.upd.all fun u => u.written == img.toNat && decide (img.toNat + len.toNat ≤ u.len)))
  | .thermal md v =>
    arg (match md.toNat with
      | 0 => decide (60 ≤ v.toNat ∧ v.toNat ≤ gradeTj)
      | 1 => decide (300 ≤ v.toNat ∧ v.toNat ≤ 1180)
      | n => decide (n ≤ 4))
  | .cacheFlush _ _ first last => arg (decide (first ≤ last))
  | .partCreate p _ _ _ streams => both (pid p) (arg (decide (streams.length ≤ 500)))
  | .partQuiesce p _ | .partFreeze p | .partRemove p => pid p
  | .partSave p target _ ofs _ _ homes =>
    both (pid p) (arg (decide (homes.length ≤ 8) && (target || bar2Ok ofs (4 * saveLength s p homes))))
  | .partRestore fromSlot slot _ _ act _ ofs _ _ =>
    arg (act != 3 && (fromSlot || bar2Ok ofs (4 * (imageAt s fromSlot slot ofs).length)))
  | .portRetire n _ | .portReturn n => arg (decide (n.toNat ≤ 11))
  | .ringFold n | .ringUnfold n => arg (decide (8 ≤ n.toNat ∧ n.toNat ≤ 11))
  | .ringCensus report ofs => arg (report || bar2Ok ofs (4 * censusWords))
  | .peerImg _ _ first ws => arg (decide (ws.length ≤ 200) && decide (first.toNat + ws.length ≤ 16384))
  | .peerFence _ rs => arg (decide (rs.length ≤ 7))
  | .peerHomestep n act _ => arg (decide (1 ≤ n.toNat ∧ n.toNat ≤ 5) && (act == 1 || act == 2))
  | _ => 0

/-! Objects and locks (R421, R433, R438). -/

/-- The object of a scope. -/
def scopeObj (whole : Bool) (p : PartId) : Obj := if whole then .cache else .part p
/-- The scope of a cache command. -/
def scopeOf (whole : Bool) (p : PartId) : Option PartId := if whole then none else some p
/-- A range of BAR2 as an object (R428). -/
def bar2Obj (ofs : Word) (n : Nat) : Obj := .bar2 ofs.toNat (ofs.toNat + n)
/-- The objects of a command. -/
def lciObjs (s : State) (c : LciCmd) : List Obj :=
  match c with
  | .applyOverlay source _ ofs _ => .config :: (if source = 0xF then [bar2Obj ofs (4 * overlayWords s ofs)] else [])
  | .commitAt _ _ disarm _ => if disarm then [] else [.config]
  | .logRead toBar2 n _ ofs => if toBar2 then [bar2Obj ofs (4 * n.toNat)] else []
  | .fwBegin _ | .fwCommit | .fwCancel => [.fw]
  | .fwWrite ofs _ len => [.fw, bar2Obj ofs len.toNat]
  | .thermal _ _ => [.thermal]
  | .cacheFlush whole p _ _ | .cacheDisable whole p | .cacheEnable whole p => [scopeObj whole p]
  | .partCreate p _ _ _ _ | .partSetWays p _ _ _ | .partSetShare p _ _ | .partQuiesce p _ | .partFreeze p | .partRemove p => [.part p]
  | .partSave p target _ ofs _ _ homes => .part p :: (if target then [] else [bar2Obj ofs (4 * saveLength s p homes)])
  | .partRestore fromSlot slot newPid _ _ _ ofs _ _ =>
    let w := imageAt s fromSlot slot ofs
    [.part (restorePid w newPid), if fromSlot then .slot slot else bar2Obj ofs (4 * w.length)]
  | .beamAdmit _ d => [.part (dPart d)]
  | .beamStart ctx _ | .beamCancel ctx => [.beam ctx]
  | .sliceRetire n | .sliceReturn n => [.slice n, .slice (n ^^^ 8)]
  | .portRetire n _ | .portReturn n => [.port n]
  | .ringCensus report ofs => if report then [] else [.ring, bar2Obj ofs (4 * censusWords)]
  | .ringKeySet .. => [.key]
  | .ringFold n | .ringUnfold n => [.port n, .ring]
  | .peerImg slot _ _ _ => [.slot slot]
  | .peerLedger .. | .peerFence .. | .peerHomestep .. => [.ring]
  | .sysInfo | .beamStatus _ | .peerQuery .. => []
/-- Some object is locked; an armed commit holds CONFIG, and a PEER_HOMESTEP whose reply has not been queued holds RING (R421, R435,
    R438). -/
def lciLocked (s : State) (os : List Obj) : Bool :=
  locked s os || (s.regs.armed && os.contains .config) || ((s.move.any fun m => m.reply.isSome) && os.contains .ring)

/-! Checks of state (R420). -/

/-- A beam has a staging line in scope (R129). -/
def beamInScope (s : State) (scope : Option PartId) (x : BeamCtx) : Bool :=
  (x.state == 2 || x.state == 5) && (match scope with
    | none => true
    | some p => x.part == p || (beamLines x.desc).any fun l =>
        let pl := place s l
        match findWay s pl with
        | some w => (tagAt s pl.sl pl.set w).part == p && (tagAt s pl.sl pl.set w).pin.getLsbD pl.line.toNat
        | none => false)
/-- The contexts of such beams. -/
def beamsInScope (s : State) (scope : Option PartId) : List (BitVec 8) :=
  (beamList s).filterMap fun e => if beamInScope s scope e.2 then some e.1 else none
/-- The scope names an ABSENT partition (R290, R436). -/
def scopeAbsent (s : State) (whole : Bool) (p : PartId) : Bool := !whole && (partSt s p).state == 0
/-- The status of a check of state: 0 where it passes (R129, R273, R274, R289, R290, R302, R308, R339, R340, R434, R554,
    R567, R570). -/
def lciState (s : State) (c : LciCmd) : BitVec 8 :=
  let bad (ok : Bool) : BitVec 8 := if ok then 0 else 0x08
  let st (p : PartId) : BitVec 3 := (partSt s p).state
  match c with
  | .fwWrite .. | .fwCancel => bad s.boot.upd.isSome
  | .fwCommit => bad (s.boot.upd.any fun u => u.written == u.len)
  | .cacheFlush whole p _ _ => if scopeAbsent s whole p then 0x41 else 0
  | .cacheDisable whole p =>
    let sc := scopeOf whole p
    if scopeAbsent s whole p then 0x41 else if draining s sc then 0x06 else if scopeOff s sc then 0x08
    else if (beamsInScope s sc).isEmpty then 0 else 0x09
  | .cacheEnable whole p =>
    let sc := scopeOf whole p
    if scopeAbsent s whole p then 0x41 else if draining s sc then 0x06 else bad (scopeOff s sc)
  | .partCreate p _ _ _ streams =>
    if st p ≠ 0 then 0x40 else if streams.any fun e => streamTaken s e.2 e.1 then 0x43 else 0
  | .partSetWays p force slices ways =>
    if st p = 0 then 0x41 else if st p = 7 then 0x08
    else if !force && partBreaks (setWays s p slices ways) p then 0x44 else 0
  | .partSetShare p _ pin =>
    if st p = 0 then 0x41 else if st p = 7 then 0x08 else if pin < (partSt s p).pins then 0x45 else 0
  | .partQuiesce p resume => bad (st p == if resume then 3 else 1)
  | .partFreeze p => bad (st p == 3)
  | .partSave p _ chk _ _ _ homes =>
    if !(st p == 4 || (chk && (st p == 1 || st p == 3))) then 0x08
    else if homes.all fun h => (tget hmap0 s.home.mapLive h.toNat).valid then 0 else 0x4C
  | .partRestore fromSlot slot newPid _ act _ ofs portMap _ => restoreChecks s (imageAt s fromSlot slot ofs) newPid portMap act
  | .partRemove p => bad (st p == 3 || st p == 4 || st p == 6)
  | .beamStart ctx start =>
    let x := beamCtx s ctx
    let d := x.desc
    let ps := st x.part
    if x.state ≠ 1 || ps == 2 || ps == 3 || ps == 4 then 0x08
    else
      let e := tget stream0 (portSt s (dPort d)).stream (dStream d).toNat
      let other := s.beams.ctx.any fun y => (y.2.state == 2 || y.2.state == 5) && y.2.part != x.part
        && dPort y.2.desc == dPort d && dStream y.2.desc == dStream d
      if !(e.getLsbD 6 && e.extractLsb' 0 6 == x.part) || other then 0x08
      else if dEncoder d then (if start ≠ 0 ∧ start.toNat < s.now.toNat + 10000 then 0x0A else 0)
      else if fixedDeadline d 0 < s.now.toNat + 10000 + dLead d then 0x0A else 0
  | .beamCancel ctx => bad ((beamCtx s ctx).state != 0 && (beamCtx s ctx).state != 3)
  | .sliceRetire n =>
    if s.cache.folds.any fun w => w.slice == n || w.slice == n ^^^ 8 then 0x06 else (retireRefusal s n).getD 0
  | .sliceReturn n =>
    if s.cache.folds.any fun w => w.slice == n || w.slice == n ^^^ 8 then 0x06 else bad (s.home.foldLive.getLsbD n.toNat)
  | .portRetire n force =>
    match ringPortOf n with
    | some p => bad ((ringPort s p).state != .retired)
    | none =>
      let p : PortId := n.setWidth 3
      if (portSt s p).retired then 0x08
      else if !force && s.beams.ctx.any fun e => (e.2.state == 2 || e.2.state == 5) && dPort e.2.desc == p then 0x09
      else 0
  | .portReturn n =>
    match ringPortOf n with
    | some p => bad ((ringPort s p).state == .retired || (ringPort s p).state == .quarantined)
    | none => bad ((portSt s (n.setWidth 3)).retired || (portSt s (n.setWidth 3)).held)
  | .ringFold n => bad ((ringPortOf n).any fun p => (ringPort s p).state == .active || (ringPort s p).state == .standby)
  | .ringUnfold n =>
    bad ((ringPortOf n).any fun p => match (ringPort s p).state with
      | .down | .training | .auth => true
      | _ => false)
  | .ringKeySet slot _ _ clear _ => bad !(clear && slot == s.net.activeKey)
  | .peerHomestep .. => if s.move.isSome then 0x06 else 0
  | _ => 0

end Sys2Proof.Machine
end

