-- ==== Sys2Proof/Machine/Counter.lean ====
section
/-! DEFINITION. Fixed counters, sample counters and the periodic dump (R494-R507), and the meanings of their events. -/

namespace Sys2Proof.Machine

/-! Fixed counters (R494-R498). -/

/-- Event e is a condition (R490-R493). -/
def isCond (e : Nat) : Bool :=
  if e < 0xC0 then false
  else if e < 0x100 then decide (6 ≤ (e - 0xC0) / 8)
  else if e < 0x120 then (e - 0x100) / 4 == 3
  else if e < 0x150 then (e - 0x120) / 8 == 3 || (e - 0x120) / 8 == 5
  else if e < 0x160 then (e - 0x150) / 2 == 3 || (e - 0x150) / 2 == 4 || decide (6 ≤ (e - 0x150) / 2)
  else if e < 0x174 then (e - 0x160) / 5 == 3
  else e == 0x176 || e == 0x178 || e == 0x17E || e == 0x17F
/-- CNT.EVT of event e (R495). -/
def cntWord (s : State) (e : Nat) : BitVec 64 :=
  let c := tget cnt0 s.ctrs.fixed e
  (0 : BitVec 13) ++ BitVec.ofBool (s.ctrs.mode.getLsbD e) ++ BitVec.ofBool c.restart ++ BitVec.ofBool c.ovf ++ c.count
/-- A write of CNT.EVT (R495, R496). -/
def cntWrite (s : State) (e : Nat) (v : BitVec 64) : State :=
  let c := tget cnt0 s.ctrs.fixed e
  let c : Cnt := { count := v.extractLsb' 0 48, ovf := c.ovf && !v.getLsbD 48, restart := c.restart && !v.getLsbD 49 }
  { s with ctrs := { s.ctrs with fixed := tset cnt0 s.ctrs.fixed e c } }
/-- A write of PMU.CNT_MODE (R497). -/
def cntMode (s : State) (j : Nat) (w : Word) : State :=
  if j < 12 then { s with ctrs := { s.ctrs with mode := putBits s.ctrs.mode (32 * j) w } } else s
/-- A fixed counter passes its maximum when its event occurs n times (R496). -/
def cntWrap (s : State) (e n : Nat) : State :=
  let k := if s.ctrs.mode.getLsbD e then min 1 n else n
  if e < 0x180 ∧ 2 ^ 48 ≤ (tget cnt0 s.ctrs.fixed e).count.toNat + k then countFor s e n none else s
/-- A condition event in one cycle of its island (R494): it counts its start in edge mode, and the cycle in level mode. -/
def condFor (s : State) (e : Nat) (holds : Bool) : State :=
  let was := s.ctrs.cond.getLsbD e
  let s := { s with ctrs := { s.ctrs with cond := setBit s.ctrs.cond e holds } }
  let level := s.ctrs.mode.getLsbD e
  let s := if holds && (level || !was) then
      { s with ctrs := { s.ctrs with fixed := tset cnt0 s.ctrs.fixed e (cntAdd (tget cnt0 s.ctrs.fixed e) 1) } }
    else s
  if s.ctrs.smp.isEmpty then s
  else (List.range 8).foldl (fun s i =>
    let m := tget smp0 s.ctrs.smp i
    if smpSees s e none i && holds && (m.takenMode || !was) then smpCount s i 1 else s) s

/-! Sample counters (R500-R503). -/

/-- Sample counter i. -/
def smpSt (s : State) (i : Nat) : Smp := tget smp0 s.ctrs.smp i
/-- Sample counter i written. -/
def putSmp (s : State) (i : Nat) (m : Smp) : State := { s with ctrs := { s.ctrs with smp := tset smp0 s.ctrs.smp i m } }
/-- A write of SMP_CTL: EVENT and MODE are taken when EN is set (R501). -/
def smpCtl (s : State) (i : Nat) (event : BitVec 9) (en mode pfilt : Bool) (part : PartId) : State :=
  let m := smpSt s i
  let take := en && !m.en
  putSmp s i { m with
    event := event, en := en, mode := mode, pfilt := pfilt, part := part
    takenEvent := if take then event else m.takenEvent, takenMode := if take then mode else m.takenMode }
/-- A sample counter that sees n increments and passes its maximum (R502). -/
def smpOverflow (s : State) (i n : Nat) : State :=
  let m := smpSt s i
  if m.en && decide (2 ^ 48 ≤ m.count.toNat + n) then smpCount s i n else s
/-- An armed capture takes a transaction (R502). -/
def smpCapture (s : State) (i : Nat) (r : SmpRec) : State :=
  let m := smpSt s i
  if m.armed && !m.recValid && (!m.pfilt || r.part == m.part) && decide (r.skid.toNat ≤ 32) then
    let skid : BitVec 6 := if m.takenMode || isCond m.takenEvent.toNat then 0 else r.skid
    putSmp s i { m with armed := false, recValid := true, record := { r with skid := skid, tick := s.now } }
  else s
/-- REC_VALID is written 1 (R503). -/
def smpFree (s : State) (i : Nat) : State := putSmp s i { smpSt s i with recValid := false }

/-! The periodic dump (R504-R507). -/

/-- The first snapshot tick after now, from T0 (R505). -/
def firstTick (now t0 period : Nat) : Nat := if now < t0 then t0 else t0 + ((now - t0) / period + 1) * period
/-- A write of DUMP_CTL: the parameters are taken when EN is set (R505). -/
def dumpCtl (s : State) (en ext : Bool) (nbuf : BitVec 8) : State :=
  let d := s.ctrs.dump
  let d' : Dump := { d with en := en, ext := ext, nbuf := nbuf }
  let p := max 100000 d.period.toNat
  let d' : Dump := if en && !d.en then
      { d' with tExt := ext, tNbuf := nbuf, tPeriod := p, tBase := d.base &&& ~~~0xFFF
                nextTick := BitVec.ofNat 64 (firstTick s.now.toNat d.t0.toNat p) }
    else d'
  { s with ctrs := { s.ctrs with dump := d' } }
/-- A write of DUMP_ACK (R506). -/
def dumpAck (s : State) (v : BitVec 8) : State := { s with ctrs := { s.ctrs with dump := { s.ctrs.dump with done := v } } }
/-- An entry of a record: a domain in A3 contributes COUNT 0 and RESTART 1 (R507). -/
def dumpEntry (s : State) (e : Nat) : List Word :=
  let off : Bool := (eventDomain e).any fun d => (domSt s d).state == 3
  let v := cntWord s e
  words64 (if off then (0 : BitVec 13) ++ v.extractLsb' 50 1 ++ (1 : BitVec 1) ++ (0 : BitVec 49) else v)
/-- A record, without header word 3 (R507). -/
def dumpRecord (s : State) (ext : Bool) (t : Tick) : List Word × List Word :=
  let n : Nat := if ext then 98 else 33
  ((BitVec.ofNat 32 (0x0410 + n * 65536)) :: words64 t,
   [0, 0, 0, 0] ++ (List.range 128).flatMap (dumpEntry s)
     ++ (if ext then [0x01000960, 0x80, 0, 0, 0, 0, 0, 0] ++ (List.range 256).flatMap (fun e => dumpEntry s (128 + e)) else []))
/-- A snapshot tick (R505, R506). Without Bus Master Enable the record is not written (R504). -/
def dumpSnap (s : State) (busMaster : Bool) : State :=
  let d := s.ctrs.dump
  if !d.en || decide (s.now.toNat < d.nextTick.toNat) then s
  else
    let d' : Dump := { d with nextTick := d.nextTick + BitVec.ofNat 64 d.tPeriod }
    let bufs := (max 1 d.tNbuf.toNat) + 1
    if d.next = d.done ∨ ¬ busMaster then
      { s with ctrs := { s.ctrs with dump := { d' with skipped := satInc d.skipped, lost := true } } }
    else
      let q := d.seq + 1
      let a := d.tBase + BitVec.ofNat 64 (4096 * d.next.toNat)
      let (h, rest) := dumpRecord s d.tExt d.nextTick
      let w3 : Word := (0 : BitVec 14) ++ BitVec.ofBool d.lost ++ BitVec.ofBool d.tExt ++ q
      let s := { s with
        out := s.out ++ [.hostWrite a h, .hostWrite (a + 16) rest, .hostWrite (a + 12) [w3]]
        ctrs := { s.ctrs with dump := { d' with seq := q, lost := false, next := BitVec.ofNat 8 ((d.next.toNat + 1) % bufs) } } }
      raiseEvt s 15

/-- COUNTER_WRAP (R496). -/
def execCounterWrap (e : BitVec 9) (n : BitVec 8) (s : State) : Host.Outcome State Fault Refusal :=
  finish s (cntWrap s e.toNat n.toNat)
/-- SAMPLE_OVERFLOW (R502). -/
def execSampleOverflow (i : BitVec 3) (n : BitVec 8) (s : State) : Host.Outcome State Fault Refusal :=
  finish s (smpOverflow s i.toNat n.toNat)
/-- SAMPLE_CAPTURE (R502, R503). -/
def execSampleCapture (i : BitVec 3) (a : Addr) (port : PortId) (portv : Bool) (part : PartId) (cls : BitVec 3) (op : BitVec 8)
    (slice : SliceId) (skid : BitVec 6) (s : State) : Host.Outcome State Fault Refusal :=
  finish s (smpCapture s i.toNat
    { addr := a, port := port, portv := portv, part := part, cls := cls, op := op, skid := skid, slice := slice, tick := 0 })
/-- DUMP_SNAPSHOT (R505, R506, R507). -/
def execDumpSnapshot (busMaster : Bool) (s : State) : Host.Outcome State Fault Refusal := 
  let t := dumpSnap s busMaster
  finish s (eventDone t (t.ctrs.dump.nextTick != s.ctrs.dump.nextTick))

end Sys2Proof.Machine
end

