-- ==== Sys2Proof/Machine/Idx.lean ====
section
/-! DEFINITION. The indirect pair (R457-R461): the spaces, their entries, and the accesses of IDX_DATA. -/

namespace Sys2Proof.Machine

/-! Entries as numbers (R40, R76, R81, R114, R186, R269, R458). -/

/-- SECDED check bits over a content: 0 for the entry that initialisation writes (log entry 6). -/
def checkBits (isReset : Bool) (content : Nat) (err : EccOutcome) (w : Nat) : Nat :=
  if isReset then 0
  else (Config.freeCheckBits (4 * content + (match err with | .none => 0 | .single => 1 | .uncorrectable => 2))).toNat % 2 ^ w
/-- A primary tag entry (R40). -/
def tagNat (e : TagEntry) : Nat :=
  let c := e.tag.toNat + (if e.sv then 2 ^ 18 else 0) + 2 ^ 19 * e.part.toNat + (if e.rqh then 2 ^ 25 else 0) + 2 ^ 31 * e.pin.toNat
    + 2 ^ 63 * e.st.toNat
  c + 2 ^ 159 * checkBits (e == tag0) c e.err 9
/-- A shadow tag entry (R76). -/
def shadowNat (e : ShadowEntry) : Nat :=
  e.tag.toNat + (if e.sv then 2 ^ 18 else 0) + 2 ^ 19 * e.pres.toNat + 2 ^ 51 * e.owng.toNat + 2 ^ 60 * e.par.toNat
/-- A port-filter entry (R81). -/
def pfNat (e : PfEntry) : Nat :=
  let c := e.ptag.toNat + 2 ^ 26 * e.hold.toNat + (if e.exh then 2 ^ 34 else 0) + (if e.fsl then 2 ^ 35 else 0)
  c + 2 ^ 41 * checkBits (e == pf0) c e.err 7
/-- A far-directory entry (R186). -/
def fdNat (e : FdEntry) : Nat :=
  let c := e.ftag.toNat + (if e.valid then 2 ^ 25 else 0) + (if e.bcast then 2 ^ 26 else 0) + (if e.exr then 2 ^ 27 else 0)
    + 2 ^ 28 * e.ownp.toNat + 2 ^ 30 * e.pv.toNat + 2 ^ 34 * e.ptr0.toNat + 2 ^ 42 * e.ptr1.toNat + 2 ^ 50 * e.ptr2.toNat
    + 2 ^ 58 * e.ptr3.toNat
  c + 2 ^ 72 * checkBits (e == fd0) c e.err 8
/-- A penumbra buffer: its control word, and its data from word 4 on (R114). -/
def penNat (b : Option PenBuf) : Nat :=
  match b with
  | none => 0
  | some b =>
    let kind : Nat := match b.kind with | .victim => 0 | .flush => 1 | .poison => 2 | .snoop => 3
    b.laddr.toNat + 2 ^ 41 * (if b.mif then 2 else 1) + 2 ^ 43 * kind + 2 ^ 46 * b.frm.code.toNat + (if b.dirty then 2 ^ 49 else 0)
      + (if b.poison then 2 ^ 50 else 0) + 2 ^ 51 * b.chv.toNat + 2 ^ 55 * b.prb.toNat + 2 ^ 63 * b.part.toNat + 2 ^ 69 * b.holdt.toNat
      + (if b.supplied then 2 ^ 77 else 0) + 2 ^ 128 * b.data.bytes.toNat
/-- A beam record (R269). -/
def beamNat (x : BeamCtx) : Nat :=
  x.state.toNat + 2 ^ 8 * x.engine.toNat + 2 ^ 16 * x.part.toNat + (if x.degraded then 2 ^ 24 else 0) + 2 ^ 25 * x.dreason.toNat
    + 2 ^ 32 * x.nextRow.toNat + 2 ^ 96 * x.lastOpen.toNat + 2 ^ 160 * x.rowsDone.toNat + 2 ^ 192 * x.lateLines.toNat
    + 2 ^ 224 * x.lateRows.toNat + 2 ^ 256 * x.expired.toNat + 2 ^ 288 * x.worstSlack.toNat + 2 ^ 320 * x.stageErr.toNat
    + 2 ^ 336 * x.nopin.toNat + 2 ^ 352 * x.skipped.toNat + 2 ^ 368 * x.gridFast.toNat + 2 ^ 384 * x.lastEdge.toNat
    + 2 ^ 448 * x.staged.toNat
/-- Word i of a number. -/
def natWord (n i : Nat) : Word := BitVec.ofNat 32 (n / 2 ^ (32 * i))
/-- The 16 words of a beam record (R269, R275). -/
def beamRecord (x : BeamCtx) : List Word := (List.range 16).map (natWord (beamNat x))
/-- A read of WORST_SLACK resets it (R269). -/
def resetSlack (s : State) (c : BitVec 8) : State := putBeam s c { beamCtx s c with worstSlack := 0x7FFFFFFF }
/-- A contention-predictor word: sixteen counters (R458). -/
def predWord (s : State) (e : Nat) : Word :=
  (List.range 16).foldl (fun (v : Word) i => putBits v (2 * i) (tget pred0 s.cache.pred (e / 4096 * 65536 + e % 4096 * 16 + i))) 0

/-! Epoch slots (R362, R458). -/

/-- The slot of the current epoch is its number modulo 2; the other slot holds the epoch being prepared, or else the old
    one. -/
def slotOf (x : RingPos) (live : Bool) (k : Nat) : EpSlot :=
  if k = x.cur.epoch.toNat % 2 then x.cur
  else
    let t := match x.next with
      | some t => t
      | none => x.old.getD x.spare
    if live then t else applyStagedRoutes x t
/-- Word 0 or 1 of an epoch slot. -/
def slotWord (t : EpSlot) (i : Nat) : Word :=
  if i = 0 then (List.range 16).foldl (fun (v : Word) n => putBits v (2 * n) (tget 0 t.dirs n)) 0
  else (0 : BitVec 11) ++ t.epoch ++ BitVec.ofBool t.folded ++ t.members

/-! Spaces (R458). -/

/-- Words of an entry, and words of the space; none for a code that is not listed. -/
def idxShape (sp : Nat) : Option (Nat × Nat) :=
  match sp with
  | 0x01 => some (6, 25165824)
  | 0x02 => some (2, 8388608)
  | 0x03 => some (2, 1048576)
  | 0x04 => some (3, 3145728)
  | 0x05 => some (36, 73728)
  | 0x06 => some (1, 262144)
  | 0x07 => some (1, 65536)
  | 0x10 => some (4, 1024)
  | 0x11 => some (1, 1024)
  | 0x12 => some (2, 4)
  | 0x20 => some (16, 4096)
  | 0x30 => some (1, 507904)
  | 0x40 => some (2, 768)
  | 0x50 => some (1, 65536)
  | _ => none
/-- The word lies beyond the end of the space; words of table 1 do so on a controller that is no bridge. -/
def idxBeyond (s : State) (sp w : Nat) : Bool :=
  match idxShape sp with
  | none => true
  | some (_, n) => decide (n ≤ w) || (sp == 0x11 && w / 256 % 2 == 1 && !s.net.isBridge)
/-- The domain that holds the structure (R456, R460). -/
def idxDomain (s : State) (sp w : Nat) : Option Nat :=
  match sp with
  | 0x01 => some (w / 6 / 262144)
  | 0x02 => some (w / 2 / 262144)
  | 0x03 => some (w / 2 / 32768)
  | 0x04 => some (w / 3 / 65536)
  | 0x05 => some (w / 36 / 128)
  | 0x06 => some (w / 16384)
  | 0x07 => some (w / 4096)
  | 0x20 => some (54 + clusterOf (beamCtx s (BitVec.ofNat 8 (w / 16))).engine)
  | 0x30 => let e := w / 8192; if e < 40 then some (54 + e / 8) else if e < 56 then some (e - 40) else some 63
  | 0x40 => eventDomain (w / 2)
  | 0x50 => some 59
  | _ => none
/-- Entry e of a space as a number. -/
def idxEntry (s : State) (live : Bool) (sp e : Nat) : Nat :=
  match sp with
  | 0x01 => tagNat (tget tag0 s.cache.tags e)
  | 0x02 => shadowNat (tget shadow0 s.cache.shadow e)
  | 0x03 => pfNat (tget pf0 s.cache.pf e)
  | 0x04 => fdNat (tget fd0 s.cache.fd e)
  | 0x05 => penNat (tget none s.cache.pen e)
  | 0x06 => (tget 0 s.cache.repl e).toNat
  | 0x07 => (predWord s e).toNat
  | 0x10 => (homeBits (tget hmap0 (if live then s.home.mapLive else s.home.mapStaged) e)).toNat
  | 0x11 => (tget 0 (slotOf (posOf s (e / 256 % 2 == 1)) live (e / 512)).routes (e % 256)).toNat
  | 0x12 => (slotWord (slotOf s.net.lower live e) 0).toNat + 2 ^ 32 * (slotWord (slotOf s.net.lower live e) 1).toNat
  | 0x20 => beamNat (beamCtx s (BitVec.ofNat 8 e))
  | 0x30 => (tget 0 s.engMem e).toNat
  | 0x40 => (cntWord s e).toNat
  | 0x50 => (tget 0 s.boot.log e).toNat
  | _ => 0

/-! Channels (R457, R459). -/

/-- A channel after reset. -/
def chan0Idx : IdxChan := ⟨0, true, 0, false, false, false, none⟩
/-- Channel k. -/
def idxCh (s : State) (k : Nat) : IdxChan := tget chan0Idx s.regs.idx k
/-- Channel k written. -/
def putIdx (s : State) (k : Nat) (x : IdxChan) : State := { s with regs := { s.regs with idx := tset chan0Idx s.regs.idx k x } }
/-- WORD advances; the snapshot stays while WORD stays within its entry (R459). -/
def idxAdvance (s : State) (k : Nat) : State :=
  let x := idxCh s k
  let w : Word := if x.autoInc then x.word + 1 else x.word
  let snap := x.snap.filter fun p => decide (p.1 ≤ w.toNat) && decide (w.toNat < p.1 + p.2.length)
  putIdx s k { x with word := w, snap := snap }
/-- The effect of a domain's state on an access (R456, R460): whether the access is performed. -/
def idxWake (s : State) (k : Nat) : State × Bool :=
  let x := idxCh s k
  match idxDomain s x.space.toNat x.word.toNat with
  | none => (s, true)
  | some d =>
    if (domSt s d).state = 3 then (putIdx s k { x with noAccess := true }, false)
    else (if asleep s d then wakeDom s d true else s, true)
/-- A read of IDX_DATA (R458-R461). `live` is the reading master's view (R464). -/
def idxRead (s : State) (k : Nat) (live : Bool) : State × Word :=
  let x := idxCh s k
  let sp := x.space.toNat
  let w := x.word.toNat
  if idxBeyond s sp w then (idxAdvance (putIdx s k { x with range := true }) k, 0xFFFFFFFF)
  else
    let (s, ok) := idxWake s k
    let x := idxCh s k
    if !ok then (idxAdvance s k, 0xFFFFFFFF)
    else
      let n := ((idxShape sp).map Prod.fst).getD 1
      let base := w / n * n
      let now (i : Nat) : Word := natWord (idxEntry s live sp (w / n)) i
      let snap : Option (Nat × List Word) := if w = base then some (base, (List.range n).map now) else x.snap
      let v : Word := match snap with
        | some (b, ws) => if b = base then wordAt ws (w - base) else now (w - base)
        | none => now (w - base)
      let s := putIdx s k { x with snap := snap }
      let s := if sp = 0x20 ∧ w - base = 9 then resetSlack s (BitVec.ofNat 8 (w / 16)) else s
      (idxAdvance s k, v)
/-- SAT fields of a beam record cleared by a write of zeros (R461). -/
def beamClear (x : BeamCtx) (i : Nat) (w : Word) : BeamCtx :=
  let lo : Bool := w.extractLsb' 0 16 == 0
  let hi : Bool := w.extractLsb' 16 16 == 0
  match i with
  | 5 => if w = 0 then { x with rowsDone := 0 } else x
  | 6 => if w = 0 then { x with lateLines := 0 } else x
  | 7 => if w = 0 then { x with lateRows := 0 } else x
  | 8 => if w = 0 then { x with expired := 0 } else x
  | 10 => { x with stageErr := if lo then 0 else x.stageErr, nopin := if hi then 0 else x.nopin }
  | 11 => { x with skipped := if lo then 0 else x.skipped, gridFast := if hi then 0 else x.gridFast }
  | _ => x
/-- A section of the running image loads the word of an engine's memory (R458, R543). -/
def sectLoads (s : State) (e w : Nat) : Bool :=
  s.boot.runSect.any fun x => (targetEngines x.1).contains e && decide (x.2.1.toNat ≤ 4 * w + 3) && decide (4 * w < x.2.1.toNat + x.2.2.toNat)
/-- A group is armed for a commit (R468). -/
def groupArmed (s : State) (g : Nat) : Bool := s.regs.armed && s.regs.armMask.getLsbD g
/-- A group has been written (R466). -/
def setPending (s : State) (g : Nat) : State := { s with regs := { s.regs with pending := setBit s.regs.pending g true } }
/-- A word of a space written; `none` where it is not writable (R458, R461). -/
def idxPut (s : State) (k : Nat) (sp w : Nat) (v : Word) : Option State :=
  match sp with
  | 0x10 =>
    let e := homeBits (tget hmap0 s.home.mapStaged (w / 4))
    some (setPending { s with home := { s.home with
      mapStaged := tset hmap0 s.home.mapStaged (w / 4) (homeOfBits (putBits e (32 * (w % 4)) v)) } } 0)
  | 0x11 =>
    let up := w / 256 % 2 == 1
    let x := posOf s up
    if w / 512 = x.cur.epoch.toNat % 2 then none
    else some (setPending (putPos s up { x with staged := tins (w % 256) (v.extractLsb' 0 6) x.staged }) 3)
  | 0x12 =>
    let x := s.net.lower
    if w / 2 = x.cur.epoch.toNat % 2 then none
    else some (setPending (putPos s false { x with stagedWords := tset 0 x.stagedWords (w % 2) (v.setWidth 33 + 1) }) 3)
  | 0x20 =>
    let c : BitVec 8 := BitVec.ofNat 8 (w / 16)
    some (putBeam s c (beamClear (beamCtx s c) (w % 16) v))
  | 0x30 =>
    if k = 2 && (engineSt s (w / 8192)).halted && !sectLoads s (w / 8192) (w % 8192) then
      some { s with engMem := tset 0 s.engMem w v }
    else none
  | _ => none
/-- A write of IDX_DATA; `a` and `ofs` tell a violation's capture (R458, R460, R468). -/
def idxWrite (s : State) (k : Nat) (a : Master) (ofs : BitVec 16) (v : Word) : State :=
  let x := idxCh s k
  let sp := x.space.toNat
  let w := x.word.toNat
  if idxBeyond s sp w then idxAdvance (putIdx s k { x with range := true }) k
  else
    let (s, ok) := idxWake s k
    if !ok then idxAdvance s k
    else if (sp = 0x10 ∧ groupArmed s 0) ∨ ((sp = 0x11 ∨ sp = 0x12) ∧ groupArmed s 3) then idxAdvance (flagAcc s 6 0 a ofs true) k
    else match idxPut s k sp w v with
      | some s => idxAdvance s k
      | none => idxAdvance (putIdx s k { idxCh s k with roWrite := true }) k

end Sys2Proof.Machine
end

