-- ==== Sys2Proof/Machine/RegMap.lean ====
section
/-! DEFINITION. The register map (chapter 15): how an address is decoded, what every register reads, which master reaches it,
    which island holds it, and when its block is disabled. -/

namespace Sys2Proof.Machine

/-! Decoding (R448, R449, R472-R475). -/

/-- The block number (R453) of a 64 KiB window. -/
def blockOf (win : Nat) : Nat :=
  if win < 7 then win
  else if 0x10 ≤ win ∧ win < 0x20 then win - 0x10 + 7
  else if 0x20 ≤ win ∧ win < 0x28 then win - 0x20 + 23
  else if 0x28 ≤ win ∧ win < 0x2C then win - 0x28 + 31
  else if 0x30 ≤ win ∧ win < 0x38 then win - 0x30 + 35
  else if 0x38 ≤ win ∧ win < 0x3A then win - 0x38 + 43
  else if win = 0x40 then 45
  else if 0x50 ≤ win ∧ win < 0x54 then 46
  else if win = 0x60 then 47
  else 0
/-- The offset bits that a block decodes; bits [1:0] name the bytes of a word. -/
def decodeMask (b : Nat) : Nat :=
  if b = 1 then 0xBFFC else if b = 5 then 0x3FFC else if 23 ≤ b ∧ b ≤ 30 then 0x1FFC else 0x0FFC
/-- A decoded address: block, partition page (0 outside PART), canonical offset of the word. -/
def decodeAddr (a : BitVec 25) : Nat × Nat × Nat :=
  let b := if a.extractLsb' 23 2 = 0 then blockOf (a.extractLsb' 16 7).toNat else 0
  (b, if b = 46 then (a.extractLsb' 12 6).toNat else 0, (a.extractLsb' 0 16 &&& BitVec.ofNat 16 (decodeMask b)).toNat)
/-- The base address of a block (R472). -/
def blockBase (b : Nat) : Nat :=
  0x10000 * (if b < 7 then b else if b < 23 then 0x10 + b - 7 else if b < 31 then 0x20 + b - 23 else if b < 35 then 0x28 + b - 31
    else if b < 43 then 0x30 + b - 35 else if b < 45 then 0x38 + b - 43 else if b = 45 then 0x40 else if b = 46 then 0x50 else 0x60)
/-- The canonical address of a register. -/
def regAddr (b pg o : Nat) : BitVec 25 := BitVec.ofNat 25 (blockBase b + 4096 * pg + o)

/-! Words. -/

/-- A flag as a word at bit i. -/
def flagAt (b : Bool) (i : Nat) : Word := if b then BitVec.ofNat 32 (2 ^ i) else 0
/-- A field as a word at bit i. -/
def fieldAt {w : Nat} (v : BitVec w) (i : Nat) : Word := BitVec.ofNat 32 (v.toNat * 2 ^ i)
/-- A half of a 64-bit pair. -/
def halfOf (v : BitVec 64) (hi : Bool) : Word := if hi then v.extractLsb' 32 32 else v.extractLsb' 0 32
/-- Code of a ring port's state (R354). -/
def RpState.code : RpState → BitVec 4
  | .down => 0 | .training => 1 | .auth => 2 | .standby => 3 | .active => 4 | .quarantined => 5 | .retired => 6
/-- Code of an LTSSM state (R341). -/
def Ltssm.code : Ltssm → BitVec 3
  | .detect => 0 | .polling => 1 | .configuration => 2 | .l0 => 3 | .recovery => 4 | .idle => 5
/-- The ring port of a block. -/
def ringOfBlk (b : Nat) : RingPort := match b with | 31 => .ringE | 32 => .ringW | 33 => .upA | _ => .upB

/-! Reflected registers (R454, R455, R477). -/

/-- The walker of slice n runs a walk (R487). -/
def walking (s : State) (n : SliceId) : Bool :=
  let left (pos : Table Nat) : Bool := decide (tget 0 pos n.toNat < 16384)
  (s.cache.drains.any fun d => !d.ended && left d.pos) || (s.cache.flushes.any fun f => left f.pos)
    || (s.cache.folds.any fun w => w.slice == n || w.slice == n ^^^ 8) || !(sliceSt s n).filterWalks.isEmpty || s.move.isSome
/-- Slices of a stack with an unusable pseudo-channel (R412). -/
def sliceLost (lost : Word) : BitVec 8 :=
  (List.range 8).foldl (fun (v : BitVec 8) j => setBit v j (lost.extractLsb' (4 * j) 4 != 0)) 0
/-- Engines of a cluster with a property. -/
def clusterMask (k : Nat) (p : Nat → Bool) : BitVec 8 := (List.range 8).foldl (fun (v : BitVec 8) i => setBit v i (p (8 * k + i))) 0
/-- The state that a reflected register copies, its STALE bit left out; `none` for any other register. -/
def reflLive (s : State) (b o : Nat) : Option Word :=
  if 7 ≤ b ∧ b ≤ 22 then
    let n : SliceId := BitVec.ofNat 4 (b - 7)
    if o = 0 then
      some (fieldAt (sliceSt s n).rrPtr 0 ||| flagAt (s.home.foldLive.getLsbD n.toNat) 4
        ||| flagAt (s.home.foldLive.getLsbD (n ^^^ 8).toNat) 5 ||| flagAt (walking s n) 6
        ||| BitVec.ofNat 32 (256 * (sliceSt s n).wayRetire.length))
    else none
  else if 23 ≤ b ∧ b ≤ 30 then
    let x := portSt s (BitVec.ofNat 3 (b - 23))
    if o = 4 then
      some (fieldAt x.ltssm.code 0 ||| fieldAt x.rate 3 ||| flagAt x.x8 5 ||| flagAt x.initDone 6 ||| flagAt x.down 7
        ||| flagAt x.retired 8 ||| flagAt x.held 10)
    else none
  else if 31 ≤ b ∧ b ≤ 34 then
    let p := ringOfBlk b
    let x := ringPort s p
    match o with
    | 0x4 =>
      let y := posOf s (isUp p)
      some (fieldAt x.state.code 0 ||| fieldAt x.lanes 4 ||| flagAt x.slow 12 ||| flagAt x.turn 13 ||| fieldAt y.cur.epoch 14
        ||| flagAt y.old.isSome 18)
    | 0x8 => some (fieldAt x.partnerId 0 ||| fieldAt x.partnerPort 12 ||| flagAt x.partnerValid 14)
    | 0xC =>
      let n := (x.authFails.filter fun t => decide (s.now.toNat < t.toNat + 10000000000)).length
      some (fieldAt x.authResult 0 ||| fieldAt x.authKgen 4 ||| BitVec.ofNat 32 (65536 * min 15 n))
    | _ => none
  else if 35 ≤ b ∧ b ≤ 42 then
    let n := b - 35
    let x := chanSt s n
    match o with
    | 0x8 =>
      some (flagAt x.trained 0 ||| flagAt x.cfgErr 1 ||| flagAt (s.ddrRet.getLsbD n) 2 ||| flagAt x.retraining 3
        ||| flagAt (asleep s (44 + n)) 4 ||| flagAt x.doubleRef 5)
    | 0xC => some (fieldAt x.tempMax 0)
    | _ => none
  else if b = 43 ∨ b = 44 then
    let k := b - 43
    let x := hbmSt s k
    match o with
    | 0x0 => some (flagAt x.trained 0 ||| fieldAt x.rate 1 ||| flagAt x.doubleRef 3 ||| flagAt (asleep s (52 + k)) 4 ||| fieldAt (sliceLost x.pcLost) 16)
    | 0x4 => some (fieldAt x.temp 0)
    | 0x8 => some x.pcLost
    | 0xC => some (fieldAt x.used 0 ||| fieldAt x.new 8)
    | _ => none
  else if b = 45 ∧ 0x20 ≤ o ∧ o < 0x34 then
    let k := (o - 0x20) / 4
    some (fieldAt (clusterMask k fun e => s.beams.ctx.any fun x => x.2.state != 0 && x.2.engine.toNat == e) 0
      ||| fieldAt (clusterMask k fun e => (engineSt s e).halted) 8)
  else none
/-- The STALE bit of a reflected register. -/
def staleBit (b o : Nat) : Option Nat :=
  if b ≤ 22 then some 14 else if b ≤ 30 then some 9
  else if b ≤ 34 then (if o = 4 then some 19 else none)
  else if b ≤ 42 then (if o = 8 then some 6 else some 8)
  else if b ≤ 44 then (match o with | 0 => some 5 | 4 => some 8 | _ => none)
  else some 16
/-- The domain of a reflected register's source island. -/
def reflDomain (b o : Nat) : Nat :=
  if b ≤ 22 then b - 7 else if b ≤ 30 then 32 + (b - 23) else if b ≤ 34 then 40 + (b - 31) else if b ≤ 42 then 44 + (b - 35)
  else if b ≤ 44 then 52 + (b - 43) else 54 + (o - 0x20) / 4
/-- The reflected registers. -/
def reflected : List (Nat × Nat) :=
  ((List.range 16).map fun n => (7 + n, 0)) ++ ((List.range 8).map fun n => (23 + n, 4))
    ++ ((List.range 4).flatMap fun n => [(31 + n, 4), (31 + n, 8), (31 + n, 0xC)])
    ++ ((List.range 8).flatMap fun n => [(35 + n, 8), (35 + n, 0xC)])
    ++ ((List.range 2).flatMap fun n => [(43 + n, 0), (43 + n, 4), (43 + n, 8), (43 + n, 0xC)])
    ++ ((List.range 5).map fun k => (45, 0x20 + 4 * k))
/-- The copy of one reflected register at an edge of the always-on clock. -/
def reflCopy (s : State) (b o : Nat) : Word :=
  let old := tget 0 s.refl (65536 * b + o)
  -- a port that retires reports RETIRED as its domain enters A3 (R339, R354)
  let gone := (23 ≤ b && b ≤ 30 && (portSt s (BitVec.ofNat 3 (b - 23))).retired) || (31 ≤ b && b ≤ 34 && (ringPort s (ringOfBlk b)).state == .retired)
  let old := if gone then (reflLive s b o).getD 0 else old
  if asleep s (reflDomain b o) then (match staleBit b o with | some i => old ||| flagAt true i | none => old)
  else (reflLive s b o).getD 0
/-- Every copy refreshed (R454, R455). -/
def refreshCopies (s : State) : State :=
  { s with refl := reflected.foldl (fun t r => tset 0 t (65536 * r.1 + r.2) (reflCopy s r.1 r.2)) s.refl }

/-! 64-bit pairs (R447, R478). -/

/-- The low words of the declared pairs. -/
def isPair (b o : Nat) : Bool :=
  match b with
  | 0 => o == 0x30
  | 2 => o == 0 || o == 0x68 || o == 0x80 || (decide (0x20 ≤ o) && decide (o < 0x40) && o % 8 == 0)
  | 3 => o == 0x10 || o == 0x18
  | 4 => o == 0x408 || o == 0x410
    || (decide (0x100 ≤ o) && decide (o < 0x300) && (o % 0x40 == 0x08 || o % 0x40 == 0x10 || o % 0x40 == 0x30))
  | 5 => o == 0
  | 46 => o == 0x90
  | 47 => decide (o < 0xC00) && o % 8 == 0
  | _ => (decide (23 ≤ b) && decide (b ≤ 30) && o == 0x10) || (decide (35 ≤ b) && decide (b ≤ 42) && o == 0x18)
/-- Tick of edge NUM of the selected input, all-ones where the history does not hold it (R481). -/
def histTick (s : State) : BitVec 64 :=
  let i := s.tim.histSel.toNat
  let age := (tget (0 : Word) s.tim.tsCount i - s.tim.histNum).toNat
  (tget ([] : List Tick) s.tim.hist i).getD age 0xFFFFFFFFFFFFFFFF
/-- ERR.ACC_SUM (R453). -/
def accSum (s : State) : BitVec 64 := (List.range 48).foldl (fun (v : BitVec 64) b => setBit v b ((accSt s b).status != 0)) 0
/-- Both words of a pair. -/
def pairGet (s : State) (b pg o : Nat) : BitVec 64 :=
  let smp := smpSt s ((o - 0x100) / 0x40)
  match b with
  | 0 => s.regs.armTick
  | 2 => if o = 0 then s.now else if o = 0x68 then histTick s else if o = 0x80 then s.net.treeOfs
    else tget (0 : Tick) s.tim.tsLast ((o - 0x20) / 8)
  | 3 => if o = 0x10 then s.pwr.hint else s.pwr.hold
  | 4 =>
    if o = 0x408 then s.ctrs.dump.base else if o = 0x410 then s.ctrs.dump.t0
    else if o % 0x40 = 0x08 then smp.count.setWidth 64 else if o % 0x40 = 0x10 then smp.reload.setWidth 64 else smp.record.tick
  | 5 => accSum s
  | 46 => (partSt s (BitVec.ofNat 6 pg)).freezeTick
  | 47 => cntWord s (o / 8)
  | _ =>
    if b ≤ 30 then
      let x := portSt s (BitVec.ofNat 3 (b - 23))
      BitVec.ofNat 64 (x.dbBase.toNat * 2 ^ 18 + (if x.dbEn then 1 else 0))
    else (chanSt s (b - 35)).errLoc.setWidth 64

/-! What each register reads. -/

/-- Words 0-11 of a capture. -/
def captWord (v : BitVec 384) (o : Nat) : Word := v.extractLsb' (8 * (o - 0x40)) 32
/-- GLB (R27, R164, R202, R464, R466, R479). -/
def glbGet (s : State) (live : Bool) (o : Nat) : Option Word :=
  let r := s.regs
  match o with
  | 0x00 => some 0x00B10960
  | 0x04 => some (fieldAt s.net.ctrlId 0 ||| flagAt s.net.ctrlIdValid 12)
  | 0x08 =>
    let b := s.boot
    some (flagAt b.ready 0 ||| flagAt b.ddrDegraded 1 ||| flagAt b.fwB 2 ||| fieldAt b.stage 4 ||| fieldAt b.bootErr 8)
  | 0x10 => some (flagAt (!scopeOff s none) 0 ||| flagAt (draining s none) 1)
  | 0x14 => some (fieldAt (if live then s.home.foldLive else s.home.foldStaged) 0)
  | 0x18 => some (flagAt r.viewMgmt 0 ||| flagAt r.viewSmb 1)
  | 0x20 => some 0
  | 0x24 => some (commitStatus s)
  | 0x28 => some (if r.armed then fieldAt r.armMask 0 else 0)
  | 0x40 => some s.tmo.snp
  | 0x44 => some s.tmo.grant
  | 0x48 => some s.tmo.data
  | 0x4C => some s.tmo.wback
  | 0x50 => some s.tmo.rcl
  | 0x54 => some s.tmo.farGrant
  | 0x60 => some (fieldAt r.bar2Reject 0)
  | 0x70 => some r.scratch
  | _ => none
/-- The mailbox of a window. -/
def mbxOf (n : Nat) : Mailbox := match n with | 0 => .host | 1 => .bmc | 2 => .peer | _ => .debug
/-- A mailbox window (R414, R423). Reads with an effect are done elsewhere; here they read as their next value. -/
def mbxWinGet (s : State) (m : Mailbox) (o : Nat) : Option Word :=
  let x := mbxSt s m
  let dbg := m == .debug
  let k : SlotRef := slotRef m (BitVec.ofNat 3 ((o - 0x100) / 0x20))
  if 0x100 ≤ o ∧ o < 0x200 then
    let y := opSlot s k
    match o % 0x20 with
    | 0x00 => some (opStatus y)
    | 0x04 => some y.progress
    | 0x08 => some (y.result.extractLsb' 0 32)
    | 0x0C => some (y.result.extractLsb' 32 32)
    | 0x10 => some (y.result.extractLsb' 64 32)
    | 0x14 => some (y.result.extractLsb' 96 32)
    | 0x1C => some 0
    | _ => none
  else match o with
  | 0x00 => some 0
  | 0x04 => some (wordAt x.rplq 0)
  | 0x08 => some (BitVec.ofNat 32 (256 - cmdWords x) ||| fieldAt x.cmdEpoch 12 ||| BitVec.ofNat 32 (65536 * x.rplq.length)
      ||| fieldAt x.rplEpoch 28)
  | 0x0C => some (flagAt (dbg && x.trcEn) 3)
  | 0x10 => some (fieldAt x.stale 0)
  | 0x14 => some (fieldAt x.overrun 0)
  | 0x18 => some (fieldAt x.underrun 0)
  | 0x20 => if dbg then some (wordAt x.trcq 0) else none
  | 0x24 => if dbg then some (BitVec.ofNat 32 x.trcq.length ||| fieldAt x.trcEpoch 12 ||| fieldAt x.trcLost 16) else none
  | _ => none
/-- MBX (R439, R474). -/
def mbxGet (s : State) (o : Nat) : Option Word :=
  if o < 0x4000 then mbxWinGet s (mbxOf (o / 0x1000)) (o % 0x1000)
  else match o with
  | 0x8000 => some s.ctrs.evt
  | 0x8004 => some s.ctrs.evtEn
  | 0x8008 => some s.ctrs.intStatus
  | 0x800C => some s.ctrs.intEn
  | _ => none
/-- TIM (R208, R380, R480). -/
def timGet (s : State) (o : Nat) : Option Word :=
  if 0x40 ≤ o ∧ o < 0x50 then some (tget (0 : Word) s.tim.tsCount ((o - 0x40) / 4))
  else match o with
  | 0x10 => some (fieldAt s.tim.tsCtl 0)
  | 0x60 => some (fieldAt s.tim.histSel 0)
  | 0x64 => some s.tim.histNum
  | 0x88 => some (fieldAt s.net.treeRoot 0 ||| fieldAt s.net.treeDepth 8 ||| flagAt s.net.treeValid 12)
  | 0x90 => some (fieldAt s.net.syncPeriod 0)
  | 0x94 => some (fieldAt s.net.syncMaster 0 ||| flagAt s.net.syncIsMaster 4 ||| flagAt s.net.syncLocked 5 ||| fieldAt s.net.syncOffset 16)
  | 0x98 => some (fieldAt s.net.trim 0)
  | _ => none
/-- Staged and live POLICY of a domain. -/
def policyGet (s : State) (live : Bool) (d : Nat) : BitVec 16 := tget (policyFw d) (if live then s.pwr.policy else s.pwr.policyStaged) d
/-- PWR (R483). -/
def pwrGet (s : State) (live : Bool) (o : Nat) : Option Word :=
  if o < 0x10 then some ((List.range 16).foldl (fun (v : Word) j => putBits v (2 * j) (domSt s (4 * o + j)).state) 0)
  else if 0x40 ≤ o ∧ o < 0x80 then some (BitVec.ofNat 32 (mhzOf s (BitVec.ofNat 4 ((o - 0x40) / 4))))
  else if 0x100 ≤ o ∧ o < 0x200 then some (fieldAt (policyGet s live ((o - 0x100) / 4)) 0)
  else match o with
  | 0x80 => some (fieldAt s.pwr.tj 0 ||| BitVec.ofNat 32 (256 * (tjLimit s % 256)) ||| flagAt (s.pwr.level != 0) 16 ||| flagAt s.pwr.emergency 17)
  | 0x84 => some (fieldAt s.pwr.pkg 0 ||| BitVec.ofNat 32 (65536 * powerCap s))
  | _ => none
/-- PMU (R497, R500, R504). -/
def pmuGet (s : State) (o : Nat) : Option Word :=
  let d := s.ctrs.dump
  if o < 0x30 then some (s.ctrs.mode.extractLsb' (8 * o) 32)
  else if 0x100 ≤ o ∧ o < 0x300 then
    let m := smpSt s ((o - 0x100) / 0x40)
    let r := m.record
    match o % 0x40 with
    | 0x00 => some (fieldAt m.event 0 ||| flagAt m.en 9 ||| flagAt m.mode 10 ||| flagAt m.pfilt 11 ||| fieldAt m.part 12)
    | 0x18 => some (flagAt m.ovf 0 ||| flagAt m.recValid 1 ||| fieldAt m.missed 8)
    | 0x20 => some (r.addr.extractLsb' 0 32)
    | 0x24 => some (fieldAt (r.addr.extractLsb' 32 16) 0 ||| fieldAt r.port 16 ||| flagAt r.portv 19 ||| fieldAt r.part 20 ||| fieldAt r.cls 26)
    | 0x28 => some (fieldAt r.op 0 ||| fieldAt r.skid 8 ||| fieldAt r.slice 14)
    | _ => none
  else match o with
  | 0x400 => some (flagAt d.en 0 ||| flagAt d.ext 1 ||| fieldAt d.nbuf 4)
  | 0x404 => some d.period
  | 0x418 => some (fieldAt d.done 0)
  | 0x41C => some (fieldAt d.next 0 ||| fieldAt d.skipped 8 ||| fieldAt d.seq 16)
  | _ => none
/-- ERR (R484). -/
def errGet (s : State) (o : Nat) : Option Word :=
  let c := s.ctrs
  if 0x1000 ≤ o then some (fieldAt (tget 0 c.trouble ((o - 0x1000) / 4)) 0)
  else match o with
  | 0x10 => some (fieldAt c.errEvent 0)
  | 0x14 => some (fieldAt c.captBlock 0 ||| fieldAt c.captEvent 8 ||| flagAt c.captValid 12)
  | 0x18 => some (fieldAt c.ceThresh 0)
  | _ => none
/-- IDX (R457). -/
def idxGet (s : State) (o : Nat) : Option Word :=
  let x := idxCh s (o / 0x100)
  if 0x300 ≤ o then none
  else match o % 0x100 with
  | 0x0 => some (fieldAt x.space 0 ||| flagAt x.autoInc 8)
  | 0x4 => some x.word
  | 0x8 => some 0
  | 0xC => some (flagAt x.range 0 ||| flagAt x.roWrite 1 ||| flagAt x.noAccess 2 ||| flagAt x.snap.isSome 3)
  | _ => none
/-- A slice block (R218, R487). -/
def slcGet (s : State) (n : SliceId) (o : Nat) : Option Word :=
  let x := sliceSt s n
  if 0x100 ≤ o ∧ o < 0x180 then
    match x.wayRetire[(o - 0x100) / 4]? with
    | some e => some (fieldAt e.1 0 ||| fieldAt e.2 14 ||| flagAt true 31)
    | none => some 0
  else match o with
  | 0x10 => some x.wcWindow
  | 0x14 => some x.penHold
  | 0x18 => some (fieldAt x.thresh 0 ||| fieldAt x.mode 2 ||| flagAt x.hintEn 4 ||| flagAt x.clrBusy 6)
  | 0x20 => some (flagAt x.tagLost 0 ||| flagAt x.tagLostOvf 1)
  | _ => none
/-- A PCP block (R280, R341). -/
def pcpGet (s : State) (live : Bool) (p : PortId) (o : Nat) : Option Word :=
  let x := portSt s p
  if 0x1000 ≤ o then
    let k := (o - 0x1000) / 4
    if o < 0x1400 then
      let e := tget stream0 (if live then x.stream else x.streamStaged) k
      some (fieldAt (e.extractLsb' 0 7) 0 ||| flagAt ((tget stream0 x.stream k).getLsbD 7) 7)
    else none
  else if 0x40 ≤ o ∧ o < 0x70 then some (captWord x.errCapt o)
  else match o with
  | 0x00 => some (flagAt x.en 0 ||| fieldAt x.maxrate 1 ||| flagAt x.x8ok 3 ||| flagAt x.autoRetrain 4)
  | 0x08 => some (fieldAt x.replayTmo 0 ||| fieldAt x.replayMax 12 ||| fieldAt x.prbOffer 16)
  | 0x70 => some (flagAt x.captured 0)
  | _ => none
/-- A ring-port block (R381). -/
def ringGet (s : State) (live : Bool) (p : RingPort) (o : Nat) : Option Word :=
  let x := ringPort s p
  if 0x100 ≤ o ∧ o < 0x180 then
    let w := tget (⟨0, 0, 0, false⟩ : ScreenWin) (if live then x.win else x.winStaged) ((o - 0x100) / 8)
    some (if o % 8 = 0 then fieldAt w.base 0 ||| fieldAt w.src 24 else fieldAt w.last 0 ||| flagAt w.valid 24)
  else if 0x40 ≤ o ∧ o < 0x70 then some (captWord x.errCapt o)
  else match o with
  | 0x00 => some (flagAt x.en 0 ||| fieldAt x.minlanes 1 ||| flagAt x.autoReturn 3)
  | 0x10 => some (fieldAt x.replayTmo 0 ||| fieldAt x.replayMax 12)
  | 0x14 => some (fieldAt x.ucwLimit 0)
  | 0x18 => some (fieldAt x.starve 0 ||| fieldAt x.retireUs 16)
  | 0x1C => some (fieldAt x.qlimit 0)
  | 0x20 => some (fieldAt x.reqmax 0 ||| fieldAt x.farmax 16)
  | 0x24 => some (fieldAt x.syncDelay 0)
  | 0x70 => some (flagAt x.captured 0)
  | _ => none
/-- A DDR block (R411). -/
def ddrGet (s : State) (n o : Nat) : Option Word :=
  let x := chanSt s n
  match o with
  | 0x00 => some (flagAt x.en 0 ||| flagAt x.scrubEn 1)
  | 0x04 => some (fieldAt x.dimms 0 ||| fieldAt x.ranks 2 ||| flagAt x.x8 4 ||| flagAt x.d32 5 ||| fieldAt x.rate 6)
  | 0x10 => some (fieldAt x.period 0)
  | 0x20 => some (flagAt x.captured 0)
  | _ => none
/-- BEAM (R253, R488). -/
def beamGet (s : State) (o : Nat) : Option Word :=
  let b := s.beams
  match o with
  | 0x00 => some (fieldAt b.setcap 0 ||| flagAt b.foldsafeAll 4 ||| fieldAt b.ddrShare 8)
  | 0x04 => some (fieldAt b.queueMargin 0 ||| fieldAt b.refreshMargin 16)
  | 0x08 => some (fieldAt b.hbmShare 0 ||| fieldAt b.sliceShare 8 ||| fieldAt b.portShare 16 ||| fieldAt b.ringShare 24)
  | 0x10 => some (BitVec.ofNat 32 (ctxFree s))
  | _ => none
/-- A partition page (R283). -/
def partGet (s : State) (live : Bool) (p : PartId) (o : Nat) : Option Word :=
  let x := partSt s p
  if 0x40 ≤ o ∧ o < 0x80 then some (fieldAt (tget 0 (if live then x.ways else x.waysStaged) ((o - 0x40) / 4)) 0)
  else match o with
  | 0x00 => some (flagAt x.en 0 ||| flagAt (draining s (some p)) 1)
  | 0x04 => some (fieldAt x.state 0 ||| BitVec.ofNat 32 (256 * (nbeams s p % 256))
      ||| flagAt ((runningOps s).any fun r => r.2.objs.contains (.part p)) 16)
  | 0x80 => some (fieldAt (if live then x.share else x.shareStaged) 0)
  | 0x84 => some (fieldAt (if live then x.pinBudget else x.pinBudgetStaged) 0)
  | 0x88 => some (fieldAt x.pins 0)
  | _ => none
/-- Where the access registers of a block are decoded (R451). -/
def accOffset (b o : Nat) : Bool := decide (b ≠ 1 ∨ o < 0x1000) && decide (b ≠ 5 ∨ o < 0x1000) && decide (b < 23 ∨ 30 < b ∨ o < 0x1000)
  && (o % 0x1000 == 0xFF0 || o % 0x1000 == 0xFF4 || o % 0x1000 == 0xFF8)
/-- The access registers (R451). -/
def accGet (s : State) (b o : Nat) : Word :=
  let x := accSt s b
  match o % 0x10 with
  | 0 => fieldAt x.status 0
  | 4 => fieldAt x.violation 0
  | _ => fieldAt x.cfgReject 0
/-- A register's value, without the effects of reading it; `none` where the offset names no register (R449). -/
def regGet (s : State) (live : Bool) (b pg o : Nat) : Option Word :=
  if accOffset b o then some (accGet s b o)
  else if isPair b (o / 8 * 8) then some (halfOf (pairGet s b pg (o / 8 * 8)) (o % 8 == 4))
  else if (reflLive s b o).isSome then some (tget 0 s.refl (65536 * b + o))
  else match b with
  | 0 => glbGet s live o
  | 1 => mbxGet s o
  | 2 => timGet s o
  | 3 => pwrGet s live o
  | 4 => pmuGet s o
  | 5 => errGet s o
  | 6 => idxGet s o
  | 43 => none
  | 44 => none
  | 45 => beamGet s o
  | 46 => partGet s live (BitVec.ofNat 6 pg) o
  | 47 => none
  | n + 7 =>
    if n < 16 then slcGet s (BitVec.ofNat 4 n) o
    else if n < 24 then pcpGet s live (BitVec.ofNat 3 (n - 16)) o
    else if n < 28 then ringGet s live (ringOfBlk (n + 7)) o
    else ddrGet s (n - 28) o

/-! Reach (R413, R443). -/

/-- The IDX channel of a master (R457). -/
def idxChan (a : Master) : Nat := masterNo a
/-- The master may read the register. -/
def mayRead (a : Master) (b o : Nat) : Bool :=
  let idxData := b == 6 && (o == 0x008 || o == 0x108 || o == 0x208)
  match a with
  | .jtag => (b == 1 && decide (0x3000 ≤ o) && decide (o < 0x4000)) || (b == 6 && decide (0x200 ≤ o) && decide (o < 0x300))
  | _ => !idxData || o / 0x100 == idxChan a
/-- The master may write the register. -/
def mayWrite (a : Master) (b o : Nat) : Bool :=
  match a with
  | .mgmt =>
    if b = 1 then decide (o < 0x1000) || o == 0x100C || o == 0x8000 || o == 0x8004
    else b != 6 || decide (o < 0x100) || decide (0x300 ≤ o)
  | .smbus =>
    (b == 1 && ((decide (0x1000 ≤ o) && decide (o < 0x2000)) || o == 0x8008 || o == 0x800C)) || (b == 0 && o == 0x18)
      || (b == 6 && decide (0x100 ≤ o) && decide (o < 0x200) && o != 0x108)
  | .jtag => mayRead .jtag b o
/-- The reading master has the live view (R464). -/
def liveView (s : State) (a : Master) : Bool :=
  match a with
  | .mgmt => s.regs.viewMgmt | .smbus => s.regs.viewSmb | .jtag => false

/-! Islands and disabled blocks (R456, R462, R472). -/

/-- The domain of the island in which a register that is not reflected is read and written; `none` for always-on. -/
def regDomain (b o : Nat) : Option Nat :=
  if b = 1 then (if o < 0x8000 then some 59 else none)
  else if b < 7 then none
  else if b < 23 then some (b - 7)
  else if b < 31 then some (32 + (b - 23))
  else if b < 35 then some (40 + (b - 31))
  else if b < 43 then some (44 + (b - 35))
  else if b < 45 then some (52 + (b - 43))
  else if b = 45 then some 59
  else if b = 46 then some 60
  else match eventDomain (o / 8) with
    | some d => some d
    | none => match o / 8 with
      | 0x174 => some 60
      | 0x175 => some 60
      | 0x176 => some 60
      | 0x177 => some 59
      | 0x178 => some 59
      | 0x17B => some 59
      | _ => none
/-- A domain in A2 is woken by the access; in A3 the access is not performed (R456). -/
def regWake (s : State) (b o : Nat) (isRefl : Bool) : State × Bool :=
  if isRefl then (s, true)
  else match regDomain b o with
    | none => (s, true)
    | some d => if (domSt s d).state = 3 then (s, false) else if (domSt s d).state = 2 then (wakeDom s d true, true) else (s, true)
/-- The block is disabled, so that its RWD fields may be written (R462). -/
def blockDisabled (s : State) (b : Nat) : Bool :=
  if b < 23 then scopeOff s none || s.home.foldLive.getLsbD (b - 7)
  else if b < 31 then
    let x := portSt s (BitVec.ofNat 3 (b - 23))
    (!x.en && x.ltssm == .detect && !x.down) || x.retired || x.held
  else if b < 35 then
    let x := ringPort s (ringOfBlk b)
    (!x.en && x.state == .down) || x.state == .retired
  else (!(chanSt s (b - 35)).en && !(chanSt s (b - 35)).trained) || s.ddrRet.getLsbD (b - 35)
/-- A register with a W1C, W1S, WO, SAT, RWL or command field, which takes no narrow write (R446). -/
def noNarrow (b o : Nat) : Bool :=
  accOffset b o || (match b with
  | 0 => o == 0x20 || o == 0x24 || o == 0x60
  | 1 => if o < 0x4000 then
      let w := o % 0x1000
      w == 0x00 || w == 0x0C || w == 0x10 || w == 0x14 || w == 0x18 || w == 0x24 || (decide (0x100 ≤ w) && w % 0x20 == 0x1C)
    else o == 0x8000 || o == 0x8008
  | 4 => (decide (0x100 ≤ o) && decide (o < 0x300) && o % 0x40 == 0x18) || o == 0x41C
  | 5 => o == 0x10 || decide (0x1000 ≤ o)
  | 6 => o % 0x100 == 0x8 || o % 0x100 == 0xC
  | 47 => true
  | _ => (decide (7 ≤ b) && decide (b ≤ 22) && (o == 0x18 || o == 0x20)) || (decide (23 ≤ b) && decide (b ≤ 34) && o == 0x70)
      || (decide (35 ≤ b) && decide (b ≤ 42) && o == 0x20))

end Sys2Proof.Machine
end

