-- ==== Sys2Proof/Machine/Access.lean ====
section
/-! DEFINITION. Register accesses (chapter 14): what a write of each register does, reads with their effects, pairs, widths,
    reach, sleeping domains, SMBus; and the meanings of the access commands. -/

namespace Sys2Proof.Machine

/-! Field types (R7, R463). -/

/-- A field of a written word. -/
def fld (w : Word) (lo n : Nat) : BitVec n := w.extractLsb' lo n
/-- A SAT field after a write of its bits. -/
def satWrite {n : Nat} (old new : BitVec n) : BitVec n := if new = 0 then 0 else old
/-- The value that RWD fields of `mask` keep while the block is not disabled; a changed field sets CFG_REJECT (R463). -/
def rwd (s : State) (a : Master) (b : Nat) (raw : BitVec 16) (mask cur w : Word) : State × Word :=
  if blockDisabled s b then (s, w)
  else (if (w ^^^ cur) &&& mask ≠ 0 then flagAcc s b 1 a raw true else s, (w &&& ~~~mask) ||| (cur &&& mask))
/-- The same for a 64-bit pair. -/
def rwd64 (s : State) (a : Master) (b : Nat) (raw : BitVec 16) (mask cur w : BitVec 64) : State × BitVec 64 :=
  if blockDisabled s b then (s, w)
  else (if (w ^^^ cur) &&& mask ≠ 0 then flagAcc s b 1 a raw true else s, (w &&& ~~~mask) ||| (cur &&& mask))
/-- A write of a staged register: dropped while its group is armed (R468), else the group is pending (R466). -/
def stageWrite (s : State) (a : Master) (b g : Nat) (raw : BitVec 16) (f : State → State) : State :=
  if groupArmed s g then flagAcc s b 0 a raw true else setPending (f s) g

/-! Enables (R128, R129, R338, R354, R573, R574). -/

/-- A write of the EN bit of a cache scope: clearing it cancels the beams in scope and starts a drain. -/
def scopeEnWrite (s : State) (scope : Option PartId) (en : Bool) : State :=
  if draining s scope then s
  else if en then
    let s := scopeOn s scope
    match scope with
    | none => s
    | some p => let x := partSt s p; putPart s p { x with en := true, state := if x.state = 6 then 1 else x.state }
  else if scopeOff s scope then s
  else
    let cs := beamsInScope s scope
    let s := cs.foldl (fun s c => cancelCtx s c none) s
    let s := startDrain s scope none (cs.filter fun c => (beamCtx s c).state != 0)
    match scope with
    | none => s
    | some p => let x := partSt s p; putPart s p { x with state := if x.state = 1 then 5 else x.state }
/-- A write of PART.CTL.EN. A scope that no EN has ever turned on stays without a drain. -/
def partEnWrite (s : State) (p : PartId) (en : Bool) : State :=
  if en || (partSt s p).en then scopeEnWrite s (some p) en else s
/-- A write of DDR CTL.EN (R573, R574). -/
def ddrEnWrite (s : State) (n : BitVec 3) (en : Bool) : State :=
  let x := chanSt s n.toNat
  let s := putChan s n.toNat { x with en := en }
  if en && !x.en then startReturn s n
  else if !en && x.en && x.trained && !ddrRetired s n then retireChannel s n
  else s

/-- A write of PWR.HOLD: a held domain is kept at A1 or shallower, so that a sleeping one is woken (R483, R518). -/
def writeHold (s : State) (v : BitVec 64) : State :=
  let s := { s with pwr := { s.pwr with hold := v } }
  (bitsOf v).foldl (fun s d => if asleep s d then wakeDom s d false else s) s

/-! Writes of whole words. -/

/-- GLB. -/
def glbPut (s : State) (a : Master) (raw : BitVec 16) (o : Nat) (w : Word) : State :=
  let r := s.regs
  let v : Word := w &&& 0xFFFFF
  match o with
  | 0x10 => scopeEnWrite s none (w.getLsbD 0)
  | 0x14 => stageWrite s a 0 1 raw fun s => { s with home := { s.home with foldStaged := fld w 0 16 } }
  | 0x18 =>
    match a with
    | .mgmt => { s with regs := { r with viewMgmt := w.getLsbD 0 } }
    | .smbus => { s with regs := { r with viewSmb := w.getLsbD 1 } }
    | .jtag => s
  | 0x20 => commitWrite s (fld w 0 16)
  | 0x24 =>
    { s with regs := { r with
      foldPair := r.foldPair && !w.getLsbD 17, streamCons := r.streamCons && !w.getLsbD 18
      armedConflict := r.armedConflict && !w.getLsbD 19, overlap := r.overlap && !w.getLsbD 20 } }
  | 0x40 => { s with tmo := { s.tmo with snp := v } }
  | 0x44 => { s with tmo := { s.tmo with grant := v } }
  | 0x48 => { s with tmo := { s.tmo with data := v } }
  | 0x4C => { s with tmo := { s.tmo with wback := v } }
  | 0x50 => { s with tmo := { s.tmo with rcl := v } }
  | 0x54 => { s with tmo := { s.tmo with farGrant := v } }
  | 0x60 => { s with regs := { r with bar2Reject := satWrite r.bar2Reject (fld w 0 16) } }
  | 0x70 => { s with regs := { r with scratch := w } }
  | _ => s
/-- A mailbox window (R414, R418, R423). -/
def mbxWinPut (s : State) (m : Mailbox) (o : Nat) (w : Word) : State :=
  let x := mbxSt s m
  if 0x100 ≤ o ∧ o < 0x200 then
    if o % 0x20 = 0x1C then
      let k := slotRef m (BitVec.ofNat 3 ((o - 0x100) / 0x20))
      let s := if w.getLsbD 0 then opRelease s k else s
      if w.getLsbD 1 then opAbort s k else s
    else s
  else match o with
  | 0x00 => cmdWord s m w
  | 0x0C =>
    let s := if w.getLsbD 0 then flushCmd s m else s
    let s := if w.getLsbD 1 then flushRpl s m else s
    if m = .debug then
      let s := if w.getLsbD 2 then flushTrc s else s
      putMbx s m { mbxSt s m with trcEn := w.getLsbD 3 }
    else s
  | 0x10 => putMbx s m { x with stale := satWrite x.stale (fld w 0 16) }
  | 0x14 => putMbx s m { x with overrun := satWrite x.overrun (fld w 0 16) }
  | 0x18 => putMbx s m { x with underrun := satWrite x.underrun (fld w 0 16) }
  | 0x24 => if m = .debug then putMbx s m { x with trcLost := satWrite x.trcLost (fld w 16 16) } else s
  | _ => s
/-- MBX. -/
def mbxPut (s : State) (o : Nat) (w : Word) : State :=
  let c := s.ctrs
  if o < 0x4000 then mbxWinPut s (mbxOf (o / 0x1000)) (o % 0x1000) w
  else match o with
  | 0x8000 => { s with ctrs := { c with evt := c.evt &&& ~~~w } }
  | 0x8004 => { s with ctrs := { c with evtEn := w } }
  | 0x8008 => { s with ctrs := { c with intStatus := c.intStatus &&& ~~~w } }
  | 0x800C => { s with ctrs := { c with intEn := w } }
  | _ => s
/-- TIM. -/
def timPut (s : State) (o : Nat) (w : Word) : State :=
  match o with
  | 0x10 => { s with tim := { s.tim with tsCtl := fld w 0 16 } }
  | 0x60 => { s with tim := { s.tim with histSel := fld w 0 2 } }
  | 0x64 => { s with tim := { s.tim with histNum := w } }
  | 0x90 => { s with net := { s.net with syncPeriod := fld w 0 12 } }
  | _ => s
/-- PWR. -/
def pwrPut (s : State) (a : Master) (raw : BitVec 16) (o : Nat) (w : Word) : State :=
  if 0x100 ≤ o ∧ o < 0x200 then
    let d := (o - 0x100) / 4
    stageWrite s a 3 4 raw fun s =>
      { s with pwr := { s.pwr with policyStaged := tset (policyFw d) s.pwr.policyStaged d (fld w 0 16 &&& 0xFF0F) } }
  else s
/-- PMU (R497, R501, R503, R505, R506). -/
def pmuPut (s : State) (o : Nat) (w : Word) : State :=
  let d := s.ctrs.dump
  if o < 0x30 then cntMode s (o / 4) w
  else if 0x100 ≤ o ∧ o < 0x300 then
    let i := (o - 0x100) / 0x40
    match o % 0x40 with
    | 0x00 => smpCtl s i (fld w 0 9) (w.getLsbD 9) (w.getLsbD 10) (w.getLsbD 11) (fld w 12 6)
    | 0x18 =>
      let m := smpSt s i
      let s := if w.getLsbD 1 then smpFree s i else s
      putSmp s i { smpSt s i with ovf := m.ovf && !w.getLsbD 0, missed := satWrite m.missed (fld w 8 8) }
    | _ => s
  else match o with
  | 0x400 => dumpCtl s (w.getLsbD 0) (w.getLsbD 1) (fld w 4 8)
  | 0x404 => { s with ctrs := { s.ctrs with dump := { d with period := w } } }
  | 0x418 => dumpAck s (fld w 0 8)
  | 0x41C => { s with ctrs := { s.ctrs with dump := { d with skipped := satWrite d.skipped (fld w 8 8) } } }
  | _ => s
/-- ERR (R484, R486). -/
def errPut (s : State) (o : Nat) (w : Word) : State :=
  let c := s.ctrs
  if 0x1000 ≤ o then
    let i := (o - 0x1000) / 4
    { s with ctrs := { c with trouble := tset 0 c.trouble i (satWrite (tget 0 c.trouble i) (fld w 0 16)) } }
  else match o with
  | 0x10 =>
    let e := c.errEvent &&& ~~~(fld w 0 10)
    { s with ctrs := { c with errEvent := e, captValid := c.captValid && e != 0 } }
  | 0x18 => { s with ctrs := { c with ceThresh := fld w 0 16 } }
  | _ => s
/-- IDX (R457, R459). -/
def idxPutReg (s : State) (a : Master) (raw : BitVec 16) (o : Nat) (w : Word) : State :=
  let k := o / 0x100
  let x := idxCh s k
  match o % 0x100 with
  | 0x0 => putIdx s k { x with space := fld w 0 8, autoInc := w.getLsbD 8, snap := none }
  | 0x4 => putIdx s k { x with word := w, snap := none }
  | 0x8 => idxWrite s k a raw w
  | 0xC => putIdx s k { x with
      range := x.range && !w.getLsbD 0, roWrite := x.roWrite && !w.getLsbD 1, noAccess := x.noAccess && !w.getLsbD 2 }
  | _ => s
/-- A slice block. -/
def slcPut (s : State) (a : Master) (raw : BitVec 16) (n : SliceId) (o : Nat) (w : Word) : State :=
  let x := sliceSt s n
  let b := blkSlc n
  match o with
  | 0x10 =>
    let (s, w) := rwd s a b raw 0x7FF x.wcWindow w
    putSlice s n { sliceSt s n with wcWindow := w &&& 0x7FF }
  | 0x14 =>
    let (s, w) := rwd s a b raw 0xFF x.penHold w
    putSlice s n { sliceSt s n with penHold := w &&& 0xFF }
  | 0x18 =>
    putSlice s n { x with thresh := fld w 0 2, mode := fld w 2 2, hintEn := w.getLsbD 4, clrBusy := x.clrBusy || w.getLsbD 5 }
  | 0x20 => putSlice s n { x with tagLost := x.tagLost && !w.getLsbD 0, tagLostOvf := x.tagLostOvf && !w.getLsbD 1 }
  | _ => s
/-- A PCP block. -/
def pcpPut (s : State) (a : Master) (raw : BitVec 16) (p : PortId) (o : Nat) (w : Word) : State :=
  let x := portSt s p
  let b := blkPcp p
  let cur := (pcpGet s false p o).getD 0
  if 0x1000 ≤ o then
    stageWrite s a b (8 + p.toNat) raw fun s =>
      putPort s p { portSt s p with streamStaged := tset stream0 x.streamStaged ((o - 0x1000) / 4) ((fld w 0 7).setWidth 8) }
  else match o with
  | 0x00 =>
    let (s, w) := rwd s a b raw 0xE cur w
    pcpEnWrite (putPort s p { portSt s p with maxrate := fld w 1 2, x8ok := w.getLsbD 3, autoRetrain := w.getLsbD 4 }) p (w.getLsbD 0)
  | 0x08 =>
    let (s, w) := rwd s a b raw 0xFFFF cur w
    putPort s p { portSt s p with replayTmo := fld w 0 12, replayMax := fld w 12 4 }
  | 0x70 => putPort s p { x with captured := x.captured && !w.getLsbD 0 }
  | _ => s
/-- A ring-port block. -/
def ringPut (s : State) (a : Master) (raw : BitVec 16) (p : RingPort) (o : Nat) (w : Word) : State :=
  let x := ringPort s p
  let b := blkRing p
  let cur := (ringGet s false p o).getD 0
  if 0x100 ≤ o then
    stageWrite s a b 3 raw fun s =>
      let x := ringPort s p
      let k := (o - 0x100) / 8
      let e := tget (⟨0, 0, 0, false⟩ : ScreenWin) x.winStaged k
      let e : ScreenWin := if o % 8 = 0 then { e with base := fld w 0 24, src := fld w 24 8 }
        else { e with last := fld w 0 24, valid := w.getLsbD 24 }
      putRing s p { x with winStaged := tset ⟨0, 0, 0, false⟩ x.winStaged k e }
  else match o with
  | 0x00 =>
    let (s, w) := rwd s a b raw 0x6 cur w
    ringEnWrite (putRing s p { ringPort s p with minlanes := fld w 1 2, autoReturn := w.getLsbD 3 }) p (w.getLsbD 0)
  | 0x10 =>
    let (s, w) := rwd s a b raw 0xFFFF cur w
    putRing s p { ringPort s p with replayTmo := fld w 0 12, replayMax := fld w 12 4 }
  | 0x14 => putRing s p { x with ucwLimit := fld w 0 8 }
  | 0x18 => putRing s p { x with starve := fld w 0 16, retireUs := fld w 16 16 }
  | 0x1C => putRing s p { x with qlimit := fld w 0 8 }
  | 0x20 => putRing s p { x with reqmax := fld w 0 16, farmax := fld w 16 16 }
  | 0x70 => putRing s p { x with captured := x.captured && !w.getLsbD 0 }
  | _ => s
/-- A DDR block. -/
def ddrPut (s : State) (n : BitVec 3) (o : Nat) (w : Word) : State :=
  let x := chanSt s n.toNat
  match o with
  | 0x00 => ddrEnWrite (putChan s n.toNat { x with scrubEn := w.getLsbD 1 }) n (w.getLsbD 0)
  | 0x10 => putChan s n.toNat { x with period := fld w 0 8 }
  | 0x20 => putChan s n.toNat { x with captured := x.captured && !w.getLsbD 0 }
  | _ => s
/-- BEAM (R253). -/
def beamPut (s : State) (o : Nat) (w : Word) : State :=
  let b := s.beams
  match o with
  | 0x00 => { s with beams := { b with setcap := fld w 0 4, foldsafeAll := w.getLsbD 4, ddrShare := fld w 8 8 } }
  | 0x04 => { s with beams := { b with queueMargin := fld w 0 16, refreshMargin := fld w 16 16 } }
  | 0x08 => { s with beams := { b with hbmShare := fld w 0 8, sliceShare := fld w 8 8, portShare := fld w 16 8, ringShare := fld w 24 8 } }
  | _ => s
/-- A partition page (R128, R283). -/
def partPut (s : State) (a : Master) (raw : BitVec 16) (p : PartId) (o : Nat) (w : Word) : State :=
  if 0x40 ≤ o ∧ o < 0x80 then
    stageWrite s a 46 2 raw fun s =>
      let x := partSt s p
      putPart s p { x with waysStaged := tset 0 x.waysStaged ((o - 0x40) / 4) (fld w 0 16) }
  else match o with
  | 0x00 => partEnWrite s p (w.getLsbD 0)
  | 0x80 => stageWrite s a 46 2 raw fun s => putPart s p { partSt s p with shareStaged := fld w 0 24 }
  | 0x84 => stageWrite s a 46 2 raw fun s => putPart s p { partSt s p with pinBudgetStaged := fld w 0 27 }
  | _ => s
/-- A write of a whole pair (R35, R447, R483, R495, R500, R504). -/
def pairPut (s : State) (a : Master) (raw : BitVec 16) (b o : Nat) (v : BitVec 64) : State :=
  match b with
  | 3 => if o = 0x10 then writeHints s v else if o = 0x18 then writeHold s v else s
  | 4 =>
    let d := s.ctrs.dump
    let i := (o - 0x100) / 0x40
    if o = 0x408 then { s with ctrs := { s.ctrs with dump := { d with base := v } } }
    else if o = 0x410 then { s with ctrs := { s.ctrs with dump := { d with t0 := v } } }
    else if o % 0x40 = 0x08 then putSmp s i { smpSt s i with count := v.extractLsb' 0 48 }
    else if o % 0x40 = 0x10 then putSmp s i { smpSt s i with reload := v.extractLsb' 0 48 }
    else s
  | 47 => cntWrite s (o / 8) v
  | _ =>
    if 23 ≤ b ∧ b ≤ 30 then
      let p : PortId := BitVec.ofNat 3 (b - 23)
      let (s, v) := rwd64 s a b raw 0xFFFFFFFC0001 (pairGet s b 0 o) v
      putPort s p { portSt s p with dbEn := v.getLsbD 0, dbBase := v.extractLsb' 18 30 }
    else s
/-- A write of ACC_STATUS (R451, R452). -/
def accPut (s : State) (b o : Nat) (w : Word) : State :=
  let x := accSt s b
  if o % 0x10 = 0 then putAcc s b { x with status := x.status &&& ~~~(fld w 0 6) } else s
/-- A write of a whole word at a register that is no half of a pair. -/
def wordPut (s : State) (a : Master) (b pg o : Nat) (raw : BitVec 16) (w : Word) : State :=
  if accOffset b o then accPut s b o w
  else if (reflLive s b o).isSome then s
  else match b with
  | 0 => glbPut s a raw o w
  | 1 => mbxPut s o w
  | 2 => timPut s o w
  | 3 => pwrPut s a raw o w
  | 4 => pmuPut s o w
  | 5 => errPut s o w
  | 6 => idxPutReg s a raw o w
  | 43 => s
  | 44 => s
  | 45 => beamPut s o w
  | 46 => partPut s a raw (BitVec.ofNat 6 pg) o w
  | 47 => s
  | n + 7 =>
    if n < 16 then slcPut s a raw (BitVec.ofNat 4 n) o w
    else if n < 24 then pcpPut s a raw (BitVec.ofNat 3 (n - 16)) o w
    else if n < 28 then ringPut s a raw (ringOfBlk (n + 7)) o w
    else ddrPut s (BitVec.ofNat 3 (n - 28)) o w

/-! Pairs (R447). -/

/-- A master's pair latch in a block. -/
def pairLatch (s : State) (a : Master) (b : Nat) : PairLatch := tget (⟨none, none⟩ : PairLatch) s.regs.latch (64 * masterNo a + b)
/-- The same, written. -/
def putLatch (s : State) (a : Master) (b : Nat) (x : PairLatch) : State :=
  { s with regs := { s.regs with latch := tset ⟨none, none⟩ s.regs.latch (64 * masterNo a + b) x } }
/-- Which pair of a block a latch serves: its offset, and its page in PART. -/
def latchTag (pg o : Nat) : BitVec 16 := BitVec.ofNat 16 (4096 * (pg % 16) + o + 16 * (pg / 16))
/-- A 4-byte write of a half of a pair. -/
def pairHalfPut (s : State) (a : Master) (b pg o : Nat) (raw : BitVec 16) (w : Word) : State :=
  let lo := o / 8 * 8
  let t := latchTag pg lo
  let l := pairLatch s a b
  if o % 8 = 0 then putLatch s a b { l with wr := some (t, w) }
  else
    let low : Word := match l.wr with
      | some (t', v) => if t' = t then v else halfOf (pairGet s b pg lo) false
      | none => halfOf (pairGet s b pg lo) false
    pairPut (putLatch s a b { l with wr := none }) a raw b lo (w ++ low)
/-- The bytes that a narrow write does not address (R447, R464): of a low word, those held in the latch. -/
def narrowBase (s : State) (a : Master) (b pg o : Nat) : Word :=
  let cur := (regGet s false b pg o).getD 0
  if isPair b (o / 8 * 8) ∧ o % 8 = 0 then
    match (pairLatch s a b).wr with
    | some (t, v) => if t = latchTag pg o then v else cur
    | none => cur
  else cur
/-- A 32-bit write of a register. -/
def regPut (s : State) (a : Master) (b pg o : Nat) (raw : BitVec 16) (w : Word) : State :=
  if !accOffset b o && isPair b (o / 8 * 8) then pairHalfPut s a b pg o raw w else wordPut s a b pg o raw w

/-! Reads with effects (R414, R425, R447, R459). -/

/-- A read of progress or results: the master's latch, the present value where it has none (R425). -/
def opWordRead (s : State) (a : Master) (k : SlotRef) (o : Nat) (cur : Word) : Word :=
  match tget (none : Option OpLatch) s.lan.latches (latchIx a k) with
  | none => cur
  | some l => if o = 0x04 then l.progress else l.result.extractLsb' (8 * (o - 8)) 32
/-- A 4-byte read, within reach and in an island that answers. -/
def wordRead (s : State) (a : Master) (b pg o : Nat) : State :=
  let cur : Word := (regGet s (liveView s a) b pg o).getD 0
  let lo := o / 8 * 8
  if !accOffset b o && isPair b lo then
    let l := pairLatch s a b
    let t := latchTag pg lo
    if o % 8 = 0 then
      setRead (putLatch s a b { l with rd := some (t, halfOf (pairGet s b pg lo) true) }) a (cur.setWidth 64)
    else match l.rd with
      | some (t', v) =>
        if t' = t then setRead (putLatch s a b { l with rd := none }) a (v.setWidth 64) else setRead s a (cur.setWidth 64)
      | none => setRead s a (cur.setWidth 64)
  else if b = 6 ∧ o % 0x100 = 0x8 ∧ o < 0x300 then
    let (s, v) := idxRead s (o / 0x100) (liveView s a)
    setRead s a (v.setWidth 64)
  else if b = 1 ∧ o < 0x4000 ∧ ¬ accOffset b o then
    let m := mbxOf (o / 0x1000)
    let w := o % 0x1000
    if w = 0x04 then rplRead s m a
    else if w = 0x20 ∧ m = .debug then trcRead s a
    else if 0x100 ≤ w ∧ w < 0x200 then
      let k : BitVec 3 := BitVec.ofNat 3 ((w - 0x100) / 0x20)
      let f := w % 0x20
      if f = 0 then opStatusRead s m k a
      else if 0x04 ≤ f ∧ f ≤ 0x14 then setRead s a ((opWordRead s a (slotRef m k) f cur).setWidth 64)
      else setRead s a (cur.setWidth 64)
    else setRead s a (cur.setWidth 64)
  else setRead s a (cur.setWidth 64)

/-! Accesses (R443, R446, R448, R449, R451, R456). -/

/-- All-ones. -/
def allOnes64 : BitVec 64 := 0xFFFFFFFFFFFFFFFF
/-- The low bytes of a value. -/
def lowBytes (v : BitVec 64) (n : Nat) : BitVec 64 := BitVec.ofNat 64 (v.toNat % 2 ^ (8 * n))
/-- Whether an access of this length at this address is well formed, as far as its shape goes. -/
inductive Shape where
  | word | narrow | pair | width | unaligned
  deriving DecidableEq, Repr
/-- The row of R446 that an access falls under. -/
def accessShape (addr : BitVec 25) (len : Nat) (b o : Nat) : Shape :=
  let at_ := addr.toNat
  if 8 < len then .width
  else if len = 8 then (if at_ % 8 = 0 ∧ isPair b o ∧ ¬ accOffset b o then .pair else .width)
  else if len = 4 then (if at_ % 4 = 0 then .word else .unaligned)
  else if len = 1 ∨ (len = 2 ∧ at_ % 2 = 0) then .narrow
  else .unaligned
/-- A read by a master: the value is left in `readData`. -/
def regRead (s : State) (a : Master) (addr : BitVec 25) (len : Nat) : State :=
  let (b, pg, o) := decodeAddr addr
  let raw := addr.extractLsb' 0 16
  let flagged (k : Nat) : State := setRead (flagAcc s b k a raw false) a (lowBytes allOnes64 (min 8 len))
  if len = 0 ∨ !mayRead a b o then setRead s a 0
  else match accessShape addr len b o with
    | .width => flagged 2
    | .unaligned => flagged 3
    | sh =>
      if (regGet s false b pg o).isNone then setRead s a 0
      else
        let (s, ok) := regWake s b o ((reflLive s b o).isSome && !accOffset b o)
        if !ok then setRead (flagAcc s b 5 a raw false) a (lowBytes allOnes64 len)
        else match sh with
          | .pair => setRead s a (pairGet s b pg o)
          | .narrow =>
            let s := wordRead s a b pg o
            setRead s a (lowBytes ((tget (0 : BitVec 64) s.regs.readData (masterNo a)) >>> (8 * (addr.toNat % 4))) len)
          | _ => wordRead s a b pg o
/-- A write by a master. -/
def regWrite (s : State) (a : Master) (addr : BitVec 25) (len : Nat) (v : BitVec 64) : State :=
  let (b, pg, o) := decodeAddr addr
  let raw := addr.extractLsb' 0 16
  if len = 0 then s
  else if !mayWrite a b o then (if (regGet s false b pg o).isSome then flagAcc s b 0 a raw true else s)
  else match accessShape addr len b o with
    | .width => flagAcc s b 2 a raw true
    | .unaligned => flagAcc s b 3 a raw true
    | sh =>
      if (regGet s false b pg o).isNone then s
      else if sh = .narrow ∧ noNarrow b o then flagAcc s b 2 a raw true
      else
        let (s, ok) := regWake s b o ((reflLive s b o).isSome && !accOffset b o)
        if !ok then flagAcc s b 5 a raw true
        else match sh with
          | .pair => pairPut s a raw b o v
          | .narrow =>
            let k := 8 * (addr.toNat % 4)
            let m : Word := BitVec.ofNat 32 ((2 ^ (8 * len) - 1) * 2 ^ k)
            regPut s a b pg o raw ((narrowBase s a b pg o &&& ~~~m) ||| ((v.setWidth 32 <<< k) &&& m))
          | _ => regPut s a b pg o raw (v.setWidth 32)
/-- A 32-bit write at a block's register. -/
def writeAt (s : State) (a : Master) (b pg o : Nat) (w : Word) : State := regWrite s a (regAddr b pg o) 4 (w.setWidth 64)
/-- The word that a register holds now, of its staging copy where it has one. -/
def curWord (s : State) (b pg o : Nat) : Word := (regGet s false b pg o).getD 0

/-! SMBus (R445). -/

/-- A transaction whose PEC fails touches no register. -/
def smbus (s : State) (pecOk : Bool) (f : State → State) : State := if pecOk then f s else trouble s blkGlb kGlbSmbPec
/-- BAR0 offset of an SMBus access: A[24:0]. -/
def smbAddr (ofs : Word) : BitVec 25 := ofs.extractLsb' 0 25

/-- COMMIT (R466, R467). -/
def execCommit (a : Master) (mask : BitVec 16) (s : State) : Host.Outcome State Fault Refusal :=
  finishAt s a (writeAt s a 0 0 0x20 (mask.setWidth 32))
/-- ARMED_COMMIT_FIRE (R468). -/
def execArmedCommitFire (s : State) : Host.Outcome State Fault Refusal :=
  let t := armedFire s
  finish s (eventDone t (s.regs.armed && !t.regs.armed))
/-- CACHE_CTL_EN_CLEAR (R128, R129). -/
def execCacheCtlEnClear (a : Master) (s : State) : Host.Outcome State Fault Refusal := finishAt s a (writeAt s a 0 0 0x10 0)
/-- PART_CTL_EN_CLEAR (R128, R129). -/
def execPartCtlEnClear (a : Master) (p : PartId) (s : State) : Host.Outcome State Fault Refusal :=
  finishAt s a (writeAt s a 46 p.toNat 0 0)
/-- VIEW_CTL_WRITE (R464). -/
def execViewCtlWrite (a : Master) (w : Word) (s : State) : Host.Outcome State Fault Refusal := finishAt s a (writeAt s a 0 0 0x18 w)
/-- PCP_LINK_EN_WRITE (R338, R341). -/
def execPcpLinkEnWrite (a : Master) (p : PortId) (en : Bool) (s : State) : Host.Outcome State Fault Refusal :=
  finishAt s a (writeAt s a (blkPcp p) 0 0 (setBit (curWord s (blkPcp p) 0 0) 0 en))
/-- RING_LINK_EN_WRITE (R354). -/
def execRingLinkEnWrite (a : Master) (p : RingPort) (en : Bool) (s : State) : Host.Outcome State Fault Refusal :=
  finishAt s a (writeAt s a (blkRing p) 0 0 (setBit (curWord s (blkRing p) 0 0) 0 en))
/-- DDR_CTL_EN_CLEAR (R573). -/
def execDdrCtlEnClear (a : Master) (n : BitVec 3) (s : State) : Host.Outcome State Fault Refusal :=
  finishAt s a (writeAt s a (blkDdr n) 0 0 (setBit (curWord s (blkDdr n) 0 0) 0 false))
/-- DDR_CTL_EN_SET (R574). -/
def execDdrCtlEnSet (a : Master) (n : BitVec 3) (s : State) : Host.Outcome State Fault Refusal :=
  finishAt s a (writeAt s a (blkDdr n) 0 0 (setBit (curWord s (blkDdr n) 0 0) 0 true))
/-- ATOM_CTL_CLR (R218). -/
def execAtomCtlClr (a : Master) (n : SliceId) (s : State) : Host.Outcome State Fault Refusal :=
  finishAt s a (writeAt s a (blkSlc n) 0 0x18 (setBit (curWord s (blkSlc n) 0 0x18) 5 true))
/-- IDX_DATA_READ (R457-R461). -/
def execIdxDataRead (a : Master) (s : State) : Host.Outcome State Fault Refusal :=
  finishAt s a (regRead s a (regAddr 6 0 (0x100 * idxChan a + 8)) 4)
/-- IDX_DATA_WRITE (R443, R458-R461). -/
def execIdxDataWrite (a : Master) (w : Word) (s : State) : Host.Outcome State Fault Refusal :=
  finishAt s a (writeAt s a 6 0 (0x100 * idxChan a + 8) w)
/-- HIST_LO_READ (R481). -/
def execHistLoRead (a : Master) (s : State) : Host.Outcome State Fault Refusal := finishAt s a (regRead s a (regAddr 2 0 0x68) 4)
/-- PAIR_READ (R447). -/
def execPairRead (a : Master) (addr : BitVec 25) (s : State) : Host.Outcome State Fault Refusal := finishAt s a (regRead s a addr 4)
/-- READ_CLEAR (R7, R446). -/
def execReadClear (a : Master) (addr : BitVec 25) (len : BitVec 4) (s : State) : Host.Outcome State Fault Refusal :=
  finishAt s a (regRead s a addr len.toNat)
/-- CNT_EVT_WRITE (R495, R496). -/
def execCntEvtWrite (a : Master) (e : BitVec 9) (v : BitVec 64) (s : State) : Host.Outcome State Fault Refusal :=
  finishAt s a (regWrite s a (regAddr 47 0 (8 * e.toNat)) 8 v)
/-- CNT_MODE_WRITE (R497). -/
def execCntModeWrite (a : Master) (j : BitVec 4) (w : Word) (s : State) : Host.Outcome State Fault Refusal :=
  finishAt s a (writeAt s a 4 0 (4 * j.toNat) w)
/-- SMP_ENABLE (R501). -/
def execSmpEnable (a : Master) (i : BitVec 3) (event : BitVec 9) (mode pfilt : Bool) (part : PartId) (s : State) :
    Host.Outcome State Fault Refusal :=
  finishAt s a (writeAt s a 4 0 (0x100 + 0x40 * i.toNat)
    (fieldAt event 0 ||| flagAt true 9 ||| flagAt mode 10 ||| flagAt pfilt 11 ||| fieldAt part 12))
/-- SMP_REC_FREE (R503): a write that leaves the other fields of SMP_STATUS as they are. -/
def execSmpRecFree (a : Master) (i : BitVec 3) (s : State) : Host.Outcome State Fault Refusal :=
  finishAt s a (writeAt s a 4 0 (0x118 + 0x40 * i.toNat) 0xFF02)
/-- DUMP_ENABLE (R505). -/
def execDumpEnable (a : Master) (ext : Bool) (nbuf : BitVec 8) (s : State) : Host.Outcome State Fault Refusal :=
  finishAt s a (writeAt s a 4 0 0x400 (flagAt true 0 ||| flagAt ext 1 ||| fieldAt nbuf 4))
/-- DUMP_ACK_WRITE (R506). -/
def execDumpAckWrite (a : Master) (v : BitVec 8) (s : State) : Host.Outcome State Fault Refusal :=
  finishAt s a (writeAt s a 4 0 0x418 (v.setWidth 32))
/-- IDLE_HINT_WRITE (R524). -/
def execIdleHintWrite (a : Master) (v : BitVec 64) (s : State) : Host.Outcome State Fault Refusal :=
  finishAt s a (regWrite s a (regAddr 3 0 0x10) 8 v)
/-- REGISTER_WRITE (R443-R471). -/
def execRegisterWrite (a : Master) (addr : BitVec 25) (len : BitVec 4) (v : BitVec 64) (s : State) :
    Host.Outcome State Fault Refusal :=
  finishAt s a (regWrite s a addr len.toNat v)
/-- SMB_BLOCK_WRITE (R445). -/
def execSmbBlockWrite (pecOk : Bool) (ofs w : Word) (s : State) : Host.Outcome State Fault Refusal :=
  finish s (smbus s pecOk fun s => regWrite s .smbus (smbAddr ofs) 4 (w.setWidth 64))
/-- SMB_READ_OFFSET (R445). -/
def execSmbReadOffset (pecOk : Bool) (ofs : Word) (s : State) : Host.Outcome State Fault Refusal :=
  finish s (smbus s pecOk fun s => { s with regs := { s.regs with smbOfs := ofs } })
/-- SMB_BLOCK_READ (R445). -/
def execSmbBlockRead (pecOk : Bool) (s : State) : Host.Outcome State Fault Refusal :=
  finish s (smbus s pecOk fun s => regRead s .smbus (smbAddr s.regs.smbOfs) 4)
/-- REGISTER_READ (R443-R464). -/
def execRegisterRead (a : Master) (addr : BitVec 25) (len : BitVec 4) (s : State) : Host.Outcome State Fault Refusal :=
  finishAt s a (regRead s a addr len.toNat)

end Sys2Proof.Machine
end

