-- ==== Sys2Proof/Machine/LinkOps.lean ====
section
/-! DEFINITION. Operations that wait for ring ports: RING_FOLD and PORT_RETIRE end when the planned drain has taken the
    port down (R372); RING_UNFOLD and PORT_RETURN end when the drain after the epoch that routes over the link has ended
    (R375, R430, R434). -/

namespace Sys2Proof.Machine

/-- The last census names the link at this port: an epoch that routes over it is being prepared. -/
def censusNames (s : State) (p : RingPort) : Bool :=
  ((posOf s (isUp p)).next.any fun t => routesOver t p) || routesOver (posOf s (isUp p)).cur p
/-- How far a returning port has come (R375, R430): 1 trained, 2 authenticated, 3 census, 4 epoch committed, 5 drained. -/
def returnStage (s : State) (p : RingPort) : Nat :=
  let x := ringPort s p
  match x.state with
  | .auth => 1
  | .standby => if censusNames s p then 3 else 2
  | .active => if routesOver (posOf s (isUp p)).cur p then (if (posOf s (isUp p)).old.isSome then 4 else 5) else 3
  | _ => 0
/-- The operation of a returning or planned port advances. -/
def linkOp (s : State) (p : RingPort) : State :=
  let s := plannedDown s p
  let x := ringPort s p
  let s := match x.returning with
    | some (k, _) =>
      let n := returnStage s p
      let s := opProgress s k (min n 4)
      if n = 5 then
        let s := opResult (putRing s p { x with returning := none }) k 0 ((posOf s (isUp p)).cur.epoch.setWidth 32)
        opDone s k
      else s
    | none => s
  match (ringPort s p).planned with
  | some k =>
    let y := posOf s (isUp p)
    let fold : Bool := (opSlot s k).opcode == 0x52
    if x.state = .retired ∨ x.state = .down ∨ x.state = .quarantined then
      -- a retired port's domain is in A3 (R354)
      let s := if x.state = .retired then putDom s (domRing p) { domSt s (domRing p) with state := 3, entering := none, waking := none }
        else s
      opDone (opResult (opProgress (putRing s p { ringPort s p with planned := none }) k (if fold then 5 else y.drainEnd)) k 0
        (y.cur.epoch.setWidth 32)) k
    else if ¬ fold then opProgress s k y.drainEnd
    else if ¬ routesOver y.cur p then opProgress s k 4
    else if y.next.isSome then opProgress s k 3 else s
  | none => s
/-- Every ring port's operation. -/
def linkOps (s : State) : State := allRing.foldl linkOp s
/-- A returning ring port has not reached STANDBY after 100 ms (R375). -/
def ringReturnLate (s : State) (p : RingPort) : State :=
  let x := ringPort s p
  match x.returning with
  | some (k, t) =>
    if x.state ≠ .standby ∧ x.state ≠ .active ∧ t.toNat + 100000000 ≤ s.now.toNat then
      opFail (putRing s p { x with returning := none }) k 0x0B
    else s
  | none => s

end Sys2Proof.Machine
end

