-- ==== Sys2Proof/Machine/LinkExec.lean ====
section
/-! DEFINITION. The meanings of the events of the ring links, of epochs, of the PEER mailbox and of device time
    (chapter 11). -/

namespace Sys2Proof.Machine

/-! RING_CENSUS (R359-R361, R437). -/

/-- A census record as a word (R360). -/
def recWord (r : CensusRec) : Word :=
  (0 : BitVec 13) ++ BitVec.ofBool r.slow ++ r.wps ++ r.eps ++ BitVec.ofBool r.bridge ++ BitVec.ofBool r.upper ++ r.ctrlId
/-- A record, followed by its mask where it is an upper position. -/
def recWords (r : CensusRec) : List Word :=
  recWord r :: (if r.upper then (List.range 8).map fun i => r.subtree.extractLsb' (32 * i) 32 else [])
/-- The three result words. -/
def censusResult (s : State) (upper : Bool) : List Word :=
  [censusWord s upper, censusMask s upper, (posOf s upper).cur.epoch.setWidth 32]
/-- The running RING_CENSUS advances, and ends when its census has ended, FAILED with CENSUS_DUP where two records share a node ID (R361,
    R430, R437). -/
def censusOp (s : State) : State :=
  match jobSlot s fun j => match j with
    | .census _ => true
    | _ => false with
  | none => s
  | some (k, x) =>
    let ofs : Nat := match x.job with
      | .census o => o
      | _ => 0
    let recs := s.net.lower.census
    let s := opProgress s k recs.length
    if s.net.lower.censusRun then s
    else
      let ws := censusWord s false :: recs.flatMap recWords
      let s := { s with mem := { s.mem with bar2 := writeWords s.mem.bar2 ofs ws } }
      let s := ((censusResult s false).zip (List.range 3)).foldl (fun s e => opResult s k e.2 e.1) s
      if s.net.lower.censusDup then opFail s k 0x10 else opDone s k
/-- A census of a node whose ports carry nothing has turned at both ends: the node is a ring of one (R359, R535). -/
def censusAlone (s : State) (upper : Bool) : State :=
  if (posOf s upper).censusRun && !censusUp s (eastPort upper) && !censusUp s (westPort upper) then
    censusEnd s upper ⟨s.net.ctrlId, 2, [ownRecord s upper]⟩
  else s
/-- After an event of the links: operations that wait for it advance. -/
def linkEvent (s : State) : State := censusOp (linkOps (censusAlone s false))
/-- A change of the members of the ring runs admission again (R276). -/
def memberEvent (before after : State) : State :=
  if before.net.lower.cur.members = after.net.lower.cur.members then after else recheck after
/-- A change of the lane set of a port runs admission again (R353). -/
def laneEvent (before after : State) (p : RingPort) : State :=
  if (ringPort before p).lanes = (ringPort after p).lanes then after else recheck after
/-- What arrives in a management slot of a port that carries them, and Lantern-B consumes (R13, R347). -/
def ifMgmt (s : State) (p : RingPort) (t : State) : State := if mgmtUp s p && lanternB s then linkEvent t else s
/-- Other work of Lantern-B (R13). -/
def byB (s t : State) : State := if lanternB s then t else s

/-! The PEER mailbox (R438). -/

/-- The controller is a member of the current census, or of the tree (R438). -/
def peerMember (s : State) (c : CtrlId) : Bool := !unreachable s c
/-- A complete PEER command enters the queue (R416, R419, R438). -/
def peerQueue (s : State) (src : CtrlId) (ws : List Word) : State :=
  let x := mbxSt s .peer
  match ws with
  | [] => s
  | h :: args =>
    if headerChk h ≠ h.extractLsb' 28 4 then putMbx s .peer { x with stale := satInc x.stale }
    else if 256 < cmdWords x + ws.length then
      let s := putMbx s .peer { x with cmds := [], cmdEpoch := x.cmdEpoch + 1, overrun := satInc x.overrun }
      { s with lan := { s.lan with peerSrc := [] } }
    else
      let s := wakeDom (putMbx s .peer { x with cmds := x.cmds ++ [⟨h, args⟩] }) 59 true
      { s with lan := { s.lan with peerSrc := s.lan.peerSrc ++ [src] } }
/-- A PEER fragment arrives (R347, R438). -/
def peerFragment (s : State) (p : RingPort) (dst src : CtrlId) (ws : List Word) (last : Bool) : State :=
  if dst ≠ s.net.ctrlId then sendPeerFrag s src dst ws last
  else
    let old := ((s.net.peerAsm.find? fun a => a.src == src).map fun a => a.words).getD []
    let rest := s.net.peerAsm.filter fun a => a.src != src
    let put (l : List PeerAsm) : State := { s with net := { s.net with peerAsm := l } }
    if last then
      if peerMember s src then peerQueue (put rest) src (old ++ ws) else trouble (put rest) blkMbx kMbxPeerReject
    else put (rest ++ [{ src := src, port := p, words := old ++ ws, last := s.now }])
/-- A sender's fragments have stopped for 1 ms (R438). -/
def peerLate (s : State) (src : CtrlId) : State :=
  { s with net := { s.net with peerAsm := s.net.peerAsm.filter fun a =>
      !(a.src == src && decide (a.last.toNat + 1000000 ≤ s.now.toNat)) } }

/-- RING_TRAIN_DONE (R344, R354): V0-V3 train the ring ports (R13); one that is not connected has no partner to train with
    (R11). -/
def execRingTrainDone (p : RingPort) (lanes : BitVec 8) (isForeign : Bool) (s : State) : Host.Outcome State Fault Refusal :=
  finish s (if engineRuns s (56 + ringIx p) && !s.unwired.getLsbD (ringIx p) then linkEvent (trainDone s p lanes isForeign) else s)
/-- PRL_FRAME (R349). -/
def execPrlFrame (p : RingPort) (f : PrlFrame) (s : State) : Host.Outcome State Fault Refusal :=
  finish s (linkEvent (ringFrame s p f))
/-- RING_REPLAY_TIMER (R349). -/
def execRingReplayTimer (p : RingPort) (s : State) : Host.Outcome State Fault Refusal :=
  finish s (linkEvent (ringReplayTimer s p))
/-- BLOCK_LOCK_LOSS (R350, R371). -/
def execBlockLockLoss (p : RingPort) (lanes : BitVec 8) (s : State) : Host.Outcome State Fault Refusal :=
  finish s (linkEvent (blockLoss s p lanes))
/-- LANE_SET (R351, R353). -/
def execLaneSet (p : RingPort) (set : BitVec 8) (s : State) : Host.Outcome State Fault Refusal :=
  finish s (ifMgmt s p (laneEvent s (laneSet s p set) p))
/-- LANE_SET_TIMEOUT (R352). -/
def execLaneSetTimeout (p : RingPort) (s : State) : Host.Outcome State Fault Refusal :=
  finish s (linkEvent (laneSetTimeout s p))
/-- AUTH_CHAL (R355). -/
def execAuthChal (p : RingPort) (ver : BitVec 4) (port : BitVec 2) (ctrl : CtrlId) (kgen : BitVec 8) (nonce : BitVec 128)
    (s : State) : Host.Outcome State Fault Refusal := finish s (byB s (linkEvent (authChal s p ver port ctrl kgen nonce)))
/-- AUTH_RESP (R356). -/
def execAuthResp (p : RingPort) (mac : BitVec 128) (s : State) : Host.Outcome State Fault Refusal :=
  finish s (byB s (linkEvent (authResp s p mac)))
/-- AUTH_DONE (R355). -/
def execAuthDone (p : RingPort) (r : BitVec 4) (s : State) : Host.Outcome State Fault Refusal :=
  finish s (byB s (linkEvent (authDone s p r)))
/-- AUTH_TIMEOUT (R357). -/
def execAuthTimeout (p : RingPort) (s : State) : Host.Outcome State Fault Refusal := finish s (byB s (linkEvent (authTimeout s p)))
/-- AUTH_RESTART (R357). -/
def execAuthRestart (p : RingPort) (s : State) : Host.Outcome State Fault Refusal := finish s (byB s (linkEvent (authRestart s p)))
/-- CENSUS (R359). -/
def execCensus (p : RingPort) (c : Census) (s : State) : Host.Outcome State Fault Refusal :=
  finish s (ifMgmt s p (censusArrive s p c))
/-- EPOCH_PREP (R363). -/
def execEpochPrep (p : RingPort) (initiator : CtrlId) (epoch : BitVec 4) (r : EpochResult) (tm : Option Tick) (s : State) :
    Host.Outcome State Fault Refusal := finish s (ifMgmt s p (epochPrep s p initiator epoch r tm))
/-- EPOCH_ACK (R363). -/
def execEpochAck (p : RingPort) (member : CtrlId) (epoch : BitVec 4) (s : State) : Host.Outcome State Fault Refusal :=
  finish s (ifMgmt s p (epochAck s p member epoch))
/-- EPOCH_COMMIT (R363, R276). -/
def execEpochCommit (upper : Bool) (s : State) : Host.Outcome State Fault Refusal :=
  finish s (linkEvent (memberEvent s (epochCommit s upper)))
/-- DRAIN (R365). -/
def execDrain (p : RingPort) (d : DrainSum) (s : State) : Host.Outcome State Fault Refusal :=
  finish s (ifMgmt s p (drainArrive s p d))
/-- EPOCH_DRAIN_END (R365, R372, R373). -/
def execEpochDrainEnd (upper : Bool) (s : State) : Host.Outcome State Fault Refusal := finish s (byB s (linkEvent (drainEnd s upper)))
/-- PEER (R438). -/
def execPeer (p : RingPort) (dst src : CtrlId) (words : List Word) (last : Bool) (s : State) :
    Host.Outcome State Fault Refusal := finish s (ifMgmt s p (peerFragment s p dst src words last))
/-- PEER_ASSEMBLY_TIMEOUT (R438). -/
def execPeerAssemblyTimeout (src : CtrlId) (s : State) : Host.Outcome State Fault Refusal := finish s (byB s (peerLate s src))
/-- SLOW (R369). -/
def execSlow (p : RingPort) (origin : CtrlId) (node : NodeId) (on : Bool) (s : State) : Host.Outcome State Fault Refusal :=
  finish s (ifMgmt s p (slowArrive s p origin node on))
/-- STARVE_TIMER (R369). -/
def execStarveTimer (p : RingPort) (s : State) : Host.Outcome State Fault Refusal := finish s (byB s (starveTimer s p))
/-- STARVE_RETIRE_TIMER (R370). -/
def execStarveRetireTimer (p : RingPort) (s : State) : Host.Outcome State Fault Refusal :=
  finish s (linkEvent (starveRetire s p))
/-- SLOW_CLEAR (R369). -/
def execSlowClear (p : RingPort) (s : State) : Host.Outcome State Fault Refusal := finish s (byB s (slowClear s p))
/-- AUTO_RETURN_TIMER (R375). -/
def execAutoReturnTimer (p : RingPort) (s : State) : Host.Outcome State Fault Refusal := finish s (autoReturn s p)
/-- SYNC_PERIOD (R377). -/
def execSyncPeriod (s : State) : Host.Outcome State Fault Refusal := finish s (byB s (syncPeriod s))
/-- SYNC (R377). -/
def execSync (p : RingPort) (s : State) : Host.Outcome State Fault Refusal := finish s (ifMgmt s p (syncArrive s p))
/-- SYNC_RSP (R377, R378). -/
def execSyncRsp (p : RingPort) (t1 t2 t3 t4 : Tick) (s : State) : Host.Outcome State Fault Refusal :=
  finish s (ifMgmt s p (syncRsp s p t1 t2 t3 t4 s.boot.ready))
/-- LOST_HOME_TIMEOUT (R572). -/
def execLostHomeTimeout (sl : SliceId) (i : BitVec 7) (s : State) : Host.Outcome State Fault Refusal :=
  finish s (lostHome s sl i.toNat)

end Sys2Proof.Machine
end

