-- ==== Sys2Proof/Machine/Lci.lean ====
section
/-! DEFINITION. The Lantern Command Interface (R413-R438): taking a command, the commands that are carried out at once, the
    start of those that run in the background; and the meanings of the LCI commands. -/

namespace Sys2Proof.Machine

/-! Results (R434, R436, R437). -/

/-- The result of SYS_INFO (R434). -/
def sysInfoWords (s : State) : List Word :=
  let b := s.boot
  let pcp : BitVec 8 := (List.range 8).foldl (fun (v : BitVec 8) n => setBit v n (pcpUp s (BitVec.ofNat 3 n))) 0
  let ring : BitVec 4 := allRing.foldl (fun (v : BitVec 4) p => setBit v (ringIx p) (mgmtUp s p)) 0
  let parts := ((List.range 64).filter fun p => (partSt s (BitVec.ofNat 6 p)).state != 0).length
  [0x03B10960, b.version, fieldAt s.net.ctrlId 0 ||| flagAt b.ready 12 ||| flagAt b.ddrDegraded 13 ||| flagAt b.fwB 14,
    fieldAt s.home.foldLive 0 ||| fieldAt pcp 16 ||| fieldAt ring 24, BitVec.ofNat 32 (s.capacity / 2 ^ 30 % 2 ^ 11),
    BitVec.ofNat 32 (ctxFree s) ||| BitVec.ofNat 32 (65536 * parts)] ++ words64 s.now
/-- The records of a LOG_READ from sequence number `start` of at most `cap` words: next sequence number, records lost, words;
    records are returned whole. -/
def logSelect (s : State) (start : Word) (cap : Nat) : Word × Word × List Word :=
  let oldest := match s.boot.logRecs with
    | [] => s.boot.logSeq
    | r :: _ => r.1
  let r := (s.boot.logRecs.filter fun r => decide (start.toNat ≤ r.1)).foldl
    (fun (acc : List Word × Nat × Bool) r =>
      if acc.2.2 && decide (acc.1.length + r.2.2 ≤ cap) then (acc.1 ++ logWords s r, r.1 + 1, true) else (acc.1, acc.2.1, false))
    (([] : List Word), max oldest (min start.toNat s.boot.logSeq), true)
  (BitVec.ofNat 32 r.2.1, BitVec.ofNat 32 (oldest - start.toNat), r.1)
/-- What has been returned counts as read (R434). -/
def logMark (s : State) (next : Word) : State :=
  let left := ((s.boot.logRecs.filter fun r => decide (next.toNat ≤ r.1)).map fun r => r.2.2).sum
  { s with boot := { s.boot with logUnread := min s.boot.logUnread left } }
/-- Words that 200 bytes of a receive slot hold. -/
def slotBytes : Nat := 65536

/-! Commands carried out at once (R433). -/

/-- THERMAL_LIMIT (R436, R529). -/
def thermalLimit (s : State) (m : Mailbox) (mode : BitVec 3) (v : Word) : State :=
  let l := tget (⟨0, 0⟩ : Limits) s.lan.limits (mbxNo m)
  let put (x : Limits) : State := { s with lan := { s.lan with limits := tset (⟨0, 0⟩ : Limits) s.lan.limits (mbxNo m) x } }
  let s' := match mode.toNat with
    | 0 => put { l with tj := fld v 0 8 }
    | 1 => put { l with cap := fld v 0 16 }
    | 2 => emergency s
    | 3 => emergencyEnd s
    | _ => put ⟨0, 0⟩
  let reached (x : State) : Bool := decide ((tjLimit x : Int) ≤ celsius x.pwr.tj)
  if reached s' && !reached s then raiseEvt s' 11 else s'
/-- The effective limits (R434). -/
def limitWords (s : State) : List Word := [BitVec.ofNat 32 (tjLimit s), BitVec.ofNat 32 (powerCap s)]
/-- PART_CREATE (R287, R289, R291, R597). -/
def partCreate (s : State) (p : PartId) (ways : BitVec 16) (pin : BitVec 27) (share : BitVec 24)
    (streams : List (BitVec 8 × PortId)) : State :=
  let s := setShare (setWays s p 0xFFFF ways) p share pin
  let s := streams.foldl (fun s e => bindStream s e.2 e.1 ((1 : BitVec 1) ++ p)) s
  onPart s p fun x => { x with
    en := true, state := 1, hits := 0, misses := 0, writebacks := 0, qrefused := 0, lateLines := 0, lateRows := 0
    consUnpin := 0, rowsDone := 0 }
/-- BEAM_ADMIT (R249-R251, R246): the members have, or have not, all taken the charges. -/
def beamAdmit (s : State) (d : BitVec 512) (peersOk : Bool) : State × BitVec 8 × List Word :=
  let v := admission s d false (peersOk || (otherMembers s).isEmpty)
  if v.reason = 0 then (admitBeam s d v, 0, admitWords v)
  else if v.reason = 0x14 then
    let c := (pickCtx s).getD 0
    (peerLedger (peerLedger s true c (beamCharges s d v.interval)) false c [], 0x0D, admitWords v)
  else (s, 0x0D, admitWords v)
/-- BEAM_START (R273). -/
def beamStart (s : State) (c : BitVec 8) (start : Tick) : State :=
  let x := beamCtx s c
  let t : Tick := if dEncoder x.desc then (if start = 0 then s.now + 10000 else start) else 0
  rearm (setCtxState (putBeam s c { x with start := t }) c 2)
/-- The key check value (R358): the first 4 bytes of the HMAC, least significant byte first. -/
def keyCheck (key : BitVec 256) : Word :=
  BitVec.ofNat 32 (natOfBytes ((hmac (bytesOf key 32) [0x50, 0x52, 0x4C, 0x4B, 0x43, 0x56]).take 4))
/-- RING_KEY_SET (R358, R437, R553, R556). -/
def ringKeySet (s : State) (slot : Bool) (kgen : BitVec 8) (activate clear : Bool) (key : BitVec 256) : State × List Word :=
  let x : KeySlot := if clear then ⟨0, 0, false⟩ else ⟨key, kgen, true⟩
  let n := if slot then { s.net with key1 := x } else { s.net with key0 := x }
  let s := { s with net := if activate && !clear then { n with activeKey := slot } else n }
  let s := logAdd s 0x0F [flagAt slot 0 ||| fieldAt kgen 8]
  (keyRecord s, [if clear then 0 else keyCheck key])
/-- PEER_IMG (R296, R438): an image that begins replaces what the slot held. -/
def peerImg (s : State) (slot : BitVec 2) (last : Bool) (first : Word) (ws : List Word) : State :=
  let a := slotBytes * slot.toNat
  let old := if first = 0 then s.mem.slots.filter fun x => decide (x.1 < a) || decide (a + slotBytes ≤ x.1) else s.mem.slots
  let s := { s with
    mem := { s.mem with slots := writeWords old (a + 4 * first.toNat) ws }
    lan := { s.lan with slotDone := setBit s.lan.slotDone slot.toNat last } }
  if last then raiseEvt s 4 else s
/-- PEER_LEDGER (R246, R438). -/
def peerLedgerTake (s : State) (add : Bool) (c : BitVec 8) (origin : CtrlId) (charges : List (Word × Word)) : State :=
  let rest := s.beams.ledger.filter fun e => !(e.origin == origin && e.ctx == c)
  { s with beams := { s.beams with
    -- a member of the ring has taken the change (R246)
    ledger := if add then rest ++ [⟨origin, c, charges.map fun x => ⟨x.1, x.2⟩, false⟩] else rest } }
/-- PEER_FENCE (R309, R438): at most eight ranges. -/
def peerFence (s : State) (set : Bool) (rs : List (BitVec 24 × BitVec 24)) : State :=
  setFence s (if set then (s.home.fence ++ rs.filter fun r => !s.home.fence.contains r).take 8
    else s.home.fence.filter fun r => !rs.contains r)
/-- PEER_HOMESTEP (R310, R438): a step that the walkers run is answered when it is done; the step that brings the Tm commit stages the new
    homes, and the last lets the next commit lift the fence. Log entry 121. -/
def peerHomestep (s : State) (src : CtrlId) (q : BitVec 8) (stepNo action : BitVec 4) : State × Option (BitVec 8 × List Word) :=
  match action.toNat, stepNo.toNat with
  | 1, 2 | 1, 3 | 2, 4 => (startMove s stepNo action (some (src, q)), none)
  | 1, 4 => (fenceEnds (stageMember s src), some (0, []))
  | 2, 3 => (stageMember s src, some (0, []))
  | 2, 5 => (fenceEnds s, some (0, []))
  | _, _ => (s, some (0, []))
/-- DISARM (R435): the operation that armed the commit ends ABORTED. -/
def disarmCmd (s : State) : State :=
  let t := disarm s
  match s.regs.armSlot with
  | some k => endOp t k .aborted 0
  | none => t
/-- A command carried out at once: what it answers, or nothing where its reply follows later (R433-R438). -/
def lciNow (s : State) (m : Mailbox) (src : CtrlId) (q : BitVec 8) (c : LciCmd) (peersOk : Bool) :
    State × Option (BitVec 8 × List Word) :=
  match c with
  | .sysInfo => (s, some (0, sysInfoWords s))
  | .logRead _ n start _ =>
    let r := logSelect s start n.toNat
    (logMark s r.1, some (0, [r.1, r.2.1, BitVec.ofNat 32 r.2.2.length] ++ r.2.2))
  | .thermal mode v => let s := thermalLimit s m mode v; (s, some (0, limitWords s))
  | .cacheEnable whole p => (scopeEnWrite s (scopeOf whole p) true, some (0, []))
  | .partCreate p ways pin share streams => (partCreate s p ways pin share streams, some (0, []))
  | .partSetWays p _ slices ways => (recheck (setWays s p slices ways), some (0, []))
  | .partSetShare p share pin =>
    let same := (partSt s p).pinBudget == pin
    let s := setShare s p share pin
    (if same then s else recheck s, some (0, []))
  | .partQuiesce p _ => (onPart s p fun x => { x with state := 1 }, some (0, []))
  | .beamAdmit true d => (s, some (0, admitWords (admission s d false true)))
  | .beamAdmit false d => let r := beamAdmit s d peersOk; (r.1, some r.2)
  | .beamStart ctx start => (beamStart s ctx start, some (0, []))
  | .beamStatus ctx => (resetSlack s ctx, some (0, beamRecord (beamCtx s ctx)))
  | .ringCensus _ _ => (s, some (0, censusResult s false ++ (s.net.lower.census.take 16).flatMap recWords))
  | .ringKeySet slot kgen activate clear key => let r := ringKeySet s slot kgen activate clear key; (r.1, some (0, r.2))
  | .commitAt _ _ _ _ => (disarmCmd s, some (0, []))
  | .peerImg slot last first ws => (peerImg s slot last first ws, some (0, []))
  | .peerLedger add ctx origin charges => (peerLedgerTake s add ctx origin charges, some (0, []))
  | .peerFence set rs => (peerFence s set rs, some (0, []))
  | .peerQuery _ p => (s, some (0, [fieldAt (partSt s p).state 0]))
  | .peerHomestep stepNo action _ => peerHomestep s src q stepNo action
  | _ => (s, some (0, []))

/-! Commands that run in the background (R420-R430). -/

/-- CACHE_DISABLE (R124, R288). -/
def startDisable (s : State) (scope : Option PartId) (k : SlotRef) : State :=
  let s := startDrain s scope (some k) []
  match scope with
  | none => s
  | some p => onPart s p fun x => { x with state := if x.state = 1 then 5 else x.state }
/-- PART_FREEZE (R294). -/
def startFreeze (s : State) (k : SlotRef) (p : PartId) : State :=
  let tf : Tick := s.now + 10000
  let s := onPart s p fun x => { x with freezeTick := tf }
  let s := (ctxsOf s p).foldl (fun s e =>
    if e.2.state = 2 then putBeam s e.1 { beamCtx s e.1 with freezeAt := some tf } else s) s
  opJob (opResult (opResult s k 0 (tf.extractLsb' 0 32)) k 1 (tf.extractLsb' 32 32)) k (.freeze p)
/-- PART_SAVE (R296, R297). -/
def startSave (s : State) (k : SlotRef) (p : PartId) (target checkpoint : Bool) (ofs : Word) (dest : CtrlId) (slot : BitVec 2)
    (homes : List (BitVec 8)) : State :=
  let a : Option Nat := if target then none else some ofs.toNat
  if checkpoint then opJob s k (.save p homes [] a dest slot (some (s.now + 10000)))
  else opJob s k (.save p homes (partImage s p homes false (partSt s p).freezeTick) a dest slot none)
/-- PART_RESTORE (R303, R305, R307). -/
def startRestore (s : State) (k : SlotRef) (w : List Word) (newPid : PartId) (portMap : Word) (maskMode : Bool) (ways : BitVec 16)
    (act : BitVec 2) (fill : Bool) : State :=
  let p := restorePid w newPid
  let r : RestoreJob :=
    { pid := p, thaw := isThaw s w p, img := w, portMap := portMap, maskMode := maskMode, ways := ways, homeAct := act
      lostFill := fill, asking := false, homeStep := 0, bases := (chooseBases s (usedRuns s) (imgHomes w)).getD [], bound := false, beam := 0
      refused := 0, firstReason := 0, ctxs := [] }
  if asksMembers s r then opJob (queryAll s r) k (.restore { r with asking := true })
  else opJob (onPart s p fun x => { x with state := 7 }) k (.restore r)
/-- PART_REMOVE goes on (R298): once no context is left, the scope is drained, unless it is OFF. -/
def removeStep (s : State) (k : SlotRef) (p : PartId) (draining : Bool) : State :=
  if draining || !(ctxsOf s p).isEmpty then s
  else if (partSt s p).state = 6 then opDone (partGone s p) k
  else
    opJob (onPart (startDrain s (some p) (some k) []) p fun x => { x with state := 5 }) k (.remove p true)
/-- PART_REMOVE starts. -/
def startRemove (s : State) (k : SlotRef) (p : PartId) : State :=
  let s := (ctxsOf s p).foldl (fun s e => cancelCtx s e.1 none) s
  removeStep (opJob s k (.remove p false)) k p false
/-- PORT_RETIRE (R339, R372). -/
def startPortRetire (s : State) (k : SlotRef) (n : BitVec 4) : State :=
  match ringPortOf n with
  | none =>
    let p : PortId := n.setWidth 3
    let s := wakeDom s (domPcp p) true
    let x := portSt s p
    retireEnd (putPort s p { x with retiring := true, returning := none, retire := some ⟨some k, false, 0, 0, s.now⟩ }) p
  | some p =>
    let x := ringPort s p
    if x.state = .active ∨ x.state = .standby then linkEvent (startCensus (putRing s p { x with planned := some k }) (isUp p))
    else linkEvent (putRing (linkLeave s p .retired) p { ringPort (linkLeave s p .retired) p with planned := some k, failedAt := none })
/-- A domain comes back to A0 (R340, R518). -/
def domUp (s : State) (d : Nat) : State :=
  let x := domSt s d
  let s' := putDom s d { x with state := 0, entering := none, waking := none, alarm := none, idleFrom := s.now }
  if x.state = 3 then restartCounters s' d else s'
/-- A ring port trains, for RING_UNFOLD or PORT_RETURN (R375). -/
def startRingReturn (s : State) (k : SlotRef) (p : RingPort) : State :=
  let s := domUp s (domRing p)
  let x := ringPort s p
  let st : RpState := match x.state with
    | .down | .quarantined | .retired => .training
    | st => st
  linkEvent (putRing s p { x with planned := none, returning := some (k, s.now), state := st })
/-- PORT_RETURN (R340, R375). -/
def startPortReturn (s : State) (k : SlotRef) (n : BitVec 4) : State :=
  match ringPortOf n with
  | none =>
    let p : PortId := n.setWidth 3
    let s := domUp s (domPcp p)
    let x := portSt s p
    let x : PortSt := { x with held := false, wasHeld := x.held, retired := false, retiring := false, retire := none, returning := some (k, s.now) }
    putPort s p (if x.down then x else { x with trainOk := true, ltssm := .detect })
  | some p => startRingReturn s k p
/-- RING_FOLD (R372). -/
def startFold (s : State) (k : SlotRef) (n : BitVec 4) : State :=
  match ringPortOf n with
  | some p => linkEvent (startCensus (putRing s p { ringPort s p with planned := some k }) (isUp p))
  | none => opFail s k 0x04
/-- RING_UNFOLD (R375). -/
def startUnfold (s : State) (k : SlotRef) (n : BitVec 4) : State :=
  match ringPortOf n with
  | some p => startRingReturn s k p
  | none => opFail s k 0x04
/-- RING_CENSUS with MODE 0 (R359, R437). -/
def startRingCensus (s : State) (k : SlotRef) (ofs : Word) : State :=
  linkEvent (startCensus (opJob s k (.census ofs.toNat)) false)
/-- The least time from acceptance to the commit tick (R435). -/
def commitLead (scope : BitVec 2) : Nat := match scope.toNat with | 0 => 1000 | 1 => 50000 | _ => 200000
/-- COMMIT_AT (R435): this controller is armed, and the other members are asked. -/
def startCommitAt (s : State) (k : SlotRef) (mask : BitVec 16) (scope : BitVec 2) (tick : Tick) : State :=
  if tick.toNat < s.now.toNat + commitLead scope then opFail s k 0x11
  else
    let todo := if scope = 0 then [] else if scope = 1 then otherMembers s else treeMembers s
    let s := armCommit s mask tick (some k)
    let s := todo.foldl (fun s c => peerCmd s c 0x03 ([mask.setWidth 32, 0] ++ words64 tick)) s
    opProgress (opJob s k (.commitAt mask scope tick [s.net.ctrlId] todo)) k 1
/-- APPLY_OVERLAY (R549-R551): the image is checked whole, and the overlay limits are replaced. -/
def startApply (s : State) (k : SlotRef) (source : BitVec 4) (atTick : Bool) (ofs : Word) (tick : Tick) : State :=
  match overlayAt s source ofs.toNat with
  | none => opFail (opResult (opResult s k 0 0) k 1 0xFFFFFFFF) k 0x14
  | some i =>
    opJob { s with lan := { s.lan with limits := tset (⟨0, 0⟩ : Limits) s.lan.limits 4 ⟨0, 0⟩ } } k
      (.apply { recs := i.recs, idx := 0, atTick := if atTick then some tick else none, mask := 0, isBase := false, index := source, serial := i.serial
                waitSlot := none, waitFrom := none, armed := false })
/-- LOG_READ to BAR2 (R434). -/
def startLogRead (s : State) (k : SlotRef) (n : BitVec 16) (start ofs : Word) : State :=
  let r := logSelect s start n.toNat
  opJob (logMark s r.1) k (.log r.2.2 ofs.toNat r.1 r.2.1)
/-- A background command starts in its slot. -/
def lciStart (s : State) (k : SlotRef) (c : LciCmd) (peersOk : Bool) : State :=
  match c with
  | .applyOverlay source atTick ofs tick => startApply s k source atTick ofs tick
  | .commitAt mask scope _ tick => startCommitAt s k mask scope tick
  | .logRead _ n start ofs => startLogRead s k n start ofs
  | .fwBegin len => updBegin s k len.toNat
  | .fwWrite ofs _ len => opJob s k (.fwWrite ofs.toNat len.toNat)
  | .fwCommit => opJob s k .fwCommit
  | .fwCancel => opJob s k .fwCancel
  | .cacheFlush whole p first last =>
    let s := wakeWalkers s
    { s with cache := { s.cache with flushes := s.cache.flushes ++ [⟨scopeOf whole p, first, last, [], 0, 0, some k⟩] } }
  | .cacheDisable whole p => startDisable s (scopeOf whole p) k
  | .partQuiesce p _ => opJob (onPart s p fun x => { x with state := 2 }) k (.quiesce p (quiesceOpen s p))
  | .partFreeze p => startFreeze s k p
  | .partSave p target checkpoint ofs dest slot homes => startSave s k p target checkpoint ofs dest slot homes
  | .partRestore fromSlot slot newPid maskMode act fill ofs portMap ways =>
    startRestore s k (imageAt s fromSlot slot ofs) newPid portMap maskMode ways act fill
  | .partRemove p => startRemove s k p
  | .beamCancel ctx => cancelCtx s ctx (some k)
  | .sliceRetire n => beginFold s n false (some k)
  | .sliceReturn n => returnSlice s n peersOk k
  | .portRetire n _ => startPortRetire s k n
  | .portReturn n => startPortReturn s k n
  | .ringCensus _ ofs => startRingCensus s k ofs
  | .ringFold n => startFold s k n
  | .ringUnfold n => startUnfold s k n
  | _ => s

/-! Taking a command (R420). -/

/-- The checks after the command has been taken apart, in the order of R420: 0 where all pass. -/
def lciCheck (s : State) (m : Mailbox) (c : LciCmd) (needReady : Bool) : BitVec 8 :=
  if !cmdPermitted m c then 0x05
  else if needReady && !s.boot.ready && !preReady (lciOpcode c) then 0x0C
  else if lciArgs s c ≠ 0 then lciArgs s c
  else if !emergencyCmd m c && lciLocked s (lciObjs s c) then 0x06
  else lciState s c
/-- OFS of a ring, as far as this controller knows it (R206-R208). -/
def ringOfs (s : State) (q : BitVec 8) : BitVec 64 :=
  if q = myRing s then s.net.treeOfs else if s.net.treeValid && q == s.net.treeRoot then 0 else Config.treeOfs q
/-- A command from PEER with its tick in this ring's time (R207). Log entry 59. -/
def inMyTime (s : State) (src : CtrlId) (c : LciCmd) : LciCmd :=
  match c with
  | .commitAt mask scope false t =>
    .commitAt mask scope false (if ringOf src = myRing s then t else t + ringOfs s (ringOf src) - ringOfs s (myRing s))
  | c => c
/-- A command in this controller's own time: what another controller's PEER asks is given in that one's (R207). -/
def ownCmd (s : State) (m : Mailbox) (src : CtrlId) (c : LciCmd) : LciCmd := if m = .peer then inMyTime s src c else c
/-- A command is checked and carried out, or started: its status and result words, or nothing where its reply follows
    later. -/
def lciRun (s : State) (m : Mailbox) (src : CtrlId) (q : BitVec 8) (c : LciCmd) (peersOk needReady : Bool) :
    State × Option (BitVec 8 × List Word) :=
  let c := ownCmd s m src c
  let st := lciCheck s m c needReady
  if st ≠ 0 then (s, some (st, []))
  else if background c then
    match freeSlot s m with
    | none => (s, some (0x07, []))
    | some k =>
      let x : OpSlot :=
        { state := .running, error := 0, opcode := lciOpcode c, seq := q, progress := 0, result := 0, job := .hw, objs := lciObjs s c }
      (lciStart (putOp s k x) k c peersOk, some (0x01, [fieldAt (k.extractLsb' 0 3) 0]))
  else lciNow s m src q c peersOk
/-- The reply of a command that has been run. -/
def lciReply (m : Mailbox) (src : CtrlId) (q : BitVec 8) (r : State × Option (BitVec 8 × List Word)) : State :=
  match r.2 with
  | some (st, ws) => reply r.1 m src st q ws
  | none => r.1
/-- The mailbox is served: Lantern-A takes the commands, and Lantern-B hands it those of PEER (R13, R420, R438). -/
def mbxServed (s : State) (m : Mailbox) : Bool := engineRuns s 62 && (m != .peer || lanternB s)
/-- Lantern-A takes a command of a mailbox. A mailbox whose reply is held takes none (R419), unless the command is an
    emergency (R422); a halted Lantern-A takes none. -/
def lciTake (s : State) (m : Mailbox) (src : CtrlId) (q : BitVec 8) (c : LciCmd) (peersOk : Bool) : State :=
  if !mbxServed s m || (!(mbxSt s m).held.isEmpty && !emergencyCmd m c) then s
  else lciReply m src q (lciRun (count (wakeDom s 59 true) 0x177) m src q c peersOk true)
/-- A command as a row of the table gives it: from PEER it stands for one of this controller's own. -/
def lciRow (s : State) (m : Mailbox) (q : BitVec 8) (c : LciCmd) (peersOk : Bool) : State := lciTake s m s.net.ctrlId q c peersOk
/-- The status of a raw command that fails before its arguments are taken apart (R420); 0 where it does not. -/
def rawCheck (s : State) (m : Mailbox) (op : BitVec 8) (a : List Word) : BitVec 8 :=
  match lciLength op a with
  | none => 0x02
  | some n =>
    if !lciPermitted m op ((wordAt a 0).getLsbD 0) ((wordAt a 1).getLsbD 2) ((wordAt a 0).extractLsb' 0 3) then 0x05
    else if n ≠ a.length then 0x03
    else if !s.boot.ready && !preReady op then 0x0C
    else if (lciParse op a).isNone then 0x04
    else 0
/-- A command of a queue is taken. -/
def takeRaw (s : State) (m : Mailbox) (src : CtrlId) (x : CmdAsm) (peersOk : Bool) : State :=
  let op : BitVec 8 := x.header.extractLsb' 0 8
  let q : BitVec 8 := x.header.extractLsb' 20 8
  let s := count (wakeDom s 59 true) 0x177
  let st := rawCheck s m op x.args
  if st ≠ 0 then reply s m src st q []
  else match lciParse op x.args with
    | some c => lciReply m src q (lciRun s m src q c peersOk true)
    | none => s
/-- The commands of a mailbox are taken in order, while no reply is held. -/
def takeMbx (m : Mailbox) (peersOk : Bool) : Nat → State → State
  | 0, s => s
  | n + 1, s =>
    let x := mbxSt s m
    match x.cmds with
    | [] => s
    | c :: rest =>
      if !x.held.isEmpty || !mbxServed s m then s
      else
        let src := if m = .peer then s.lan.peerSrc.headD s.net.ctrlId else s.net.ctrlId
        let s := putMbx s m { x with cmds := rest }
        let s := if m = .peer then { s with lan := { s.lan with peerSrc := s.lan.peerSrc.drop 1 } } else s
        takeMbx m peersOk n (takeRaw s m src c peersOk)
/-- The emergency commands of the BMC queue come before all others (R420, R422). -/
def isEmergency (x : CmdAsm) : Bool :=
  match lciParse (x.header.extractLsb' 0 8) x.args with
  | some c => emergencyCmd .bmc c && decide (x.args.length = 2)
  | none => false
/-- They are taken. -/
def takeEmergencies (s : State) : State :=
  let x := mbxSt s .bmc
  let s' := putMbx s .bmc { x with cmds := x.cmds.filter fun c => !isEmergency c }
  (x.cmds.filter isEmergency).foldl (fun s c => takeRaw s .bmc s.net.ctrlId c true) s'
/-- The end of a scheduling tick (R420, R276, R293, R365, R518): the commands complete in it are taken, waiting re-checks run,
    drains are gathered, and a power state is chosen for every domain without work. -/
def tickEnd (s : State) (peersOk : Bool) : State :=
  if !engineRuns s 62 then s
  else
    let s := takeEmergencies s
    let s := if peersOk then ledgerTaken s else s
    let s := mbxOrder.foldl (fun s m => takeMbx m peersOk (mbxSt s m).cmds.length s) s
    let s := if s.lan.recheckDue then recheck { s with lan := { s.lan with recheckDue := false } } else s
    let s := if s.net.lower.old.isSome && lanternB s then drainSend s false else s
    let s := if s.net.isBridge && s.net.upper.old.isSome && lanternB s then drainSend s true else s
    chooseDomains (linkEvent s)

/-! Peers that do not answer (R435, R296). -/

/-- Every other member that is armed is sent DISARM, and the commit here is disarmed (R435). -/
def disarmAll (s : State) (armedAt : List CtrlId) : State :=
  armedAt.foldl (fun s c => if c = s.net.ctrlId then s else peerCmd s c 0x03 [0, 4, 0, 0]) (disarm s)
/-- A member has not answered a PEER command within 20 µs (R431, R435). -/
def peerUnreachable (s : State) (k : SlotRef) : State :=
  let x := opSlot s k
  if x.state ≠ .running then s
  else match x.job with
    | .commitAt _ _ _ armedAt (_ :: _) => opFail (disarmAll s armedAt) k 0x12
    | .save _ _ (_ :: _) none _ _ _ => opFail s k 0x12
    | .restore r =>
      if r.asking then opFail s k 0x12
      else if r.homeStep = 0 ∨ homeSteps r ≤ r.homeStep then s else restoreFail s k r 0x12
    | _ => s

/-! The meanings. -/

/-- SYS_INFO (R434). -/
def execSysInfo (m : Mailbox) (q : BitVec 8) (s : State) : Host.Outcome State Fault Refusal := finish s (lciRow s m q .sysInfo true)
/-- APPLY_OVERLAY (R434, R549-R551). -/
def execApplyOverlay (m : Mailbox) (q : BitVec 8) (source : BitVec 4) (atTick : Bool) (ofs : Word) (tick : Tick) (s : State) :
    Host.Outcome State Fault Refusal := finish s (lciRow s m q (.applyOverlay source atTick ofs tick) true)
/-- COMMIT_AT (R435). -/
def execCommitAt (m : Mailbox) (q : BitVec 8) (mask : BitVec 16) (scope : BitVec 2) (tick : Tick) (s : State) :
    Host.Outcome State Fault Refusal := finish s (lciRow s m q (.commitAt mask scope false tick) true)
/-- COMMIT_AT with DISARM, from PEER (R434, R435). -/
def execCommitAtDisarm (src : CtrlId) (q : BitVec 8) (s : State) : Host.Outcome State Fault Refusal :=
  finish s (lciTake s .peer src q (.commitAt 0 0 true 0) true)
/-- LOG_READ (R434). -/
def execLogRead (m : Mailbox) (q : BitVec 8) (toBar2 : Bool) (maxWords : BitVec 16) (start ofs : Word) (s : State) :
    Host.Outcome State Fault Refusal := finish s (lciRow s m q (.logRead toBar2 maxWords start ofs) true)
/-- FW_UPDATE, phase BEGIN (R434, R554). -/
def execFwUpdateBegin (m : Mailbox) (q : BitVec 8) (len : Word) (s : State) : Host.Outcome State Fault Refusal :=
  finish s (lciRow s m q (.fwBegin len) true)
/-- FW_UPDATE, phase WRITE (R434, R554). -/
def execFwUpdateWrite (m : Mailbox) (q : BitVec 8) (ofs imgOfs len : Word) (s : State) : Host.Outcome State Fault Refusal :=
  finish s (lciRow s m q (.fwWrite ofs imgOfs len) true)
/-- FW_UPDATE, phase COMMIT (R434, R554). -/
def execFwUpdateCommit (m : Mailbox) (q : BitVec 8) (s : State) : Host.Outcome State Fault Refusal :=
  finish s (lciRow s m q .fwCommit true)
/-- FW_UPDATE, phase CANCEL (R434, R554). -/
def execFwUpdateCancel (m : Mailbox) (q : BitVec 8) (s : State) : Host.Outcome State Fault Refusal :=
  finish s (lciRow s m q .fwCancel true)
/-- THERMAL_LIMIT, MODE 0 (R436). -/
def execThermalJunctionLimit (m : Mailbox) (q : BitVec 8) (v : Word) (s : State) : Host.Outcome State Fault Refusal :=
  finish s (lciRow s m q (.thermal 0 v) true)
/-- THERMAL_LIMIT, MODE 1 (R436). -/
def execThermalPowerCap (m : Mailbox) (q : BitVec 8) (v : Word) (s : State) : Host.Outcome State Fault Refusal :=
  finish s (lciRow s m q (.thermal 1 v) true)
/-- THERMAL_LIMIT, MODE 2 (R422, R436, R529). -/
def execEmergencyThrottle (m : Mailbox) (q : BitVec 8) (s : State) : Host.Outcome State Fault Refusal :=
  finish s (lciRow s m q (.thermal 2 0) true)
/-- THERMAL_LIMIT, MODE 3 (R422, R436, R529). -/
def execEndEmergency (m : Mailbox) (q : BitVec 8) (s : State) : Host.Outcome State Fault Refusal :=
  finish s (lciRow s m q (.thermal 3 0) true)
/-- THERMAL_LIMIT, MODE 4 (R436, R526). -/
def execThermalClear (m : Mailbox) (q : BitVec 8) (s : State) : Host.Outcome State Fault Refusal :=
  finish s (lciRow s m q (.thermal 4 0) true)
/-- CACHE_FLUSH (R113, R436). -/
def execCacheFlush (m : Mailbox) (q : BitVec 8) (whole : Bool) (pid : PartId) (first last : LineAddr) (s : State) :
    Host.Outcome State Fault Refusal := finish s (lciRow s m q (.cacheFlush whole pid first last) true)
/-- CACHE_DISABLE (R124, R129, R436). -/
def execCacheDisable (m : Mailbox) (q : BitVec 8) (whole : Bool) (pid : PartId) (s : State) : Host.Outcome State Fault Refusal :=
  finish s (lciRow s m q (.cacheDisable whole pid) true)
/-- CACHE_ENABLE (R127, R436). -/
def execCacheEnable (m : Mailbox) (q : BitVec 8) (whole : Bool) (pid : PartId) (s : State) : Host.Outcome State Fault Refusal :=
  finish s (lciRow s m q (.cacheEnable whole pid) true)
/-- PART_CREATE (R289, R291, R436). -/
def execPartCreate (m : Mailbox) (q : BitVec 8) (pid : PartId) (ways : BitVec 16) (pin : BitVec 27) (share : BitVec 24)
    (streams : List (BitVec 8 × PortId)) (s : State) : Host.Outcome State Fault Refusal :=
  finish s (lciRow s m q (.partCreate pid ways pin share streams) true)
/-- PART_SET_WAYS (R289, R290, R597). -/
def execPartSetWays (m : Mailbox) (q : BitVec 8) (pid : PartId) (force : Bool) (slices ways : BitVec 16) (s : State) :
    Host.Outcome State Fault Refusal := finish s (lciRow s m q (.partSetWays pid force slices ways) true)
/-- PART_SET_SHARE (R289, R290, R597). -/
def execPartSetShare (m : Mailbox) (q : BitVec 8) (pid : PartId) (share : BitVec 24) (pin : BitVec 27) (s : State) :
    Host.Outcome State Fault Refusal := finish s (lciRow s m q (.partSetShare pid share pin) true)
/-- PART_QUIESCE (R292, R293). -/
def execPartQuiesce (m : Mailbox) (q : BitVec 8) (pid : PartId) (s : State) : Host.Outcome State Fault Refusal :=
  finish s (lciRow s m q (.partQuiesce pid false) true)
/-- PART_QUIESCE with RESUME (R289). -/
def execPartResume (m : Mailbox) (q : BitVec 8) (pid : PartId) (s : State) : Host.Outcome State Fault Refusal :=
  finish s (lciRow s m q (.partQuiesce pid true) true)
/-- PART_FREEZE (R294). -/
def execPartFreeze (m : Mailbox) (q : BitVec 8) (pid : PartId) (s : State) : Host.Outcome State Fault Refusal :=
  finish s (lciRow s m q (.partFreeze pid) true)
/-- PART_SAVE (R296, R297). -/
def execPartSave (m : Mailbox) (q : BitVec 8) (pid : PartId) (target checkpoint : Bool) (ofs : Word) (dest : CtrlId)
    (slot : BitVec 2) (homes : List (BitVec 8)) (s : State) : Host.Outcome State Fault Refusal :=
  finish s (lciRow s m q (.partSave pid target checkpoint ofs dest slot homes) true)
/-- PART_RESTORE (R302-R310). -/
def execPartRestore (m : Mailbox) (q : BitVec 8) (fromSlot : Bool) (slot : BitVec 2) (newPid : PartId) (maskMode : Bool)
    (homeAct : BitVec 2) (lostFill : Bool) (ofs portMap : Word) (ways : BitVec 16) (s : State) : Host.Outcome State Fault Refusal :=
  finish s (lciRow s m q (.partRestore fromSlot slot newPid maskMode homeAct lostFill ofs portMap ways) true)
/-- PART_REMOVE (R298). -/
def execPartRemove (m : Mailbox) (q : BitVec 8) (pid : PartId) (s : State) : Host.Outcome State Fault Refusal :=
  finish s (lciRow s m q (.partRemove pid) true)
/-- BEAM_ADMIT (R249-R254, R271). -/
def execBeamAdmit (m : Mailbox) (q : BitVec 8) (desc : BitVec 512) (peersOk : Bool) (s : State) : Host.Outcome State Fault Refusal :=
  finish s (lciRow s m q (.beamAdmit false desc) peersOk)
/-- BEAM_ADMIT with DRYRUN (R249-R251, R436). -/
def execBeamAdmitDryrun (m : Mailbox) (q : BitVec 8) (desc : BitVec 512) (s : State) : Host.Outcome State Fault Refusal :=
  finish s (lciRow s m q (.beamAdmit true desc) true)
/-- BEAM_START (R273). -/
def execBeamStart (m : Mailbox) (q c : BitVec 8) (start : Tick) (s : State) : Host.Outcome State Fault Refusal :=
  finish s (lciRow s m q (.beamStart c start) true)
/-- BEAM_CANCEL (R274). -/
def execBeamCancel (m : Mailbox) (q c : BitVec 8) (s : State) : Host.Outcome State Fault Refusal :=
  finish s (lciRow s m q (.beamCancel c) true)
/-- BEAM_STATUS (R275, R436). -/
def execBeamStatus (m : Mailbox) (q c : BitVec 8) (s : State) : Host.Outcome State Fault Refusal :=
  finish s (lciRow s m q (.beamStatus c) true)
/-- SLICE_RETIRE (R34, R567). -/
def execSliceRetire (m : Mailbox) (q : BitVec 8) (n : SliceId) (s : State) : Host.Outcome State Fault Refusal :=
  finish s (lciRow s m q (.sliceRetire n) true)
/-- SLICE_RETURN (R570): the self-test of the slice passes, or does not. -/
def execSliceReturn (m : Mailbox) (q : BitVec 8) (n : SliceId) (selfTestOk : Bool) (s : State) : Host.Outcome State Fault Refusal :=
  finish s (lciRow s m q (.sliceReturn n) selfTestOk)
/-- PORT_RETIRE (R339, R372). -/
def execPortRetire (m : Mailbox) (q : BitVec 8) (port : BitVec 4) (force : Bool) (s : State) : Host.Outcome State Fault Refusal :=
  finish s (lciRow s m q (.portRetire port force) true)
/-- PORT_RETURN (R340, R375). -/
def execPortReturn (m : Mailbox) (q : BitVec 8) (port : BitVec 4) (s : State) : Host.Outcome State Fault Refusal :=
  finish s (lciRow s m q (.portReturn port) true)
/-- RING_CENSUS, MODE 0 (R359-R361, R437). -/
def execRingCensus (m : Mailbox) (q : BitVec 8) (ofs : Word) (s : State) : Host.Outcome State Fault Refusal :=
  finish s (lciRow s m q (.ringCensus false ofs) true)
/-- RING_CENSUS, MODE 1 (R437). -/
def execRingCensusReport (m : Mailbox) (q : BitVec 8) (s : State) : Host.Outcome State Fault Refusal :=
  finish s (lciRow s m q (.ringCensus true 0) true)
/-- RING_KEY_SET (R358, R437). -/
def execRingKeySet (m : Mailbox) (q : BitVec 8) (slot : Bool) (kgen : BitVec 8) (activate : Bool) (key : BitVec 256) (s : State) :
    Host.Outcome State Fault Refusal := finish s (lciRow s m q (.ringKeySet slot kgen activate false key) true)
/-- RING_KEY_SET with CLEAR (R358, R437). -/
def execRingKeyClear (m : Mailbox) (q : BitVec 8) (slot : Bool) (s : State) : Host.Outcome State Fault Refusal :=
  finish s (lciRow s m q (.ringKeySet slot 0 false true 0) true)
/-- RING_FOLD (R372, R437). -/
def execRingFold (m : Mailbox) (q : BitVec 8) (port : BitVec 4) (s : State) : Host.Outcome State Fault Refusal :=
  finish s (lciRow s m q (.ringFold port) true)
/-- RING_UNFOLD (R375, R437). -/
def execRingUnfold (m : Mailbox) (q : BitVec 8) (port : BitVec 4) (s : State) : Host.Outcome State Fault Refusal :=
  finish s (lciRow s m q (.ringUnfold port) true)
/-- PEER_IMG (R296, R438). -/
def execPeerImg (src : CtrlId) (q : BitVec 8) (slot : BitVec 2) (last : Bool) (first : Word) (words : List Word) (s : State) :
    Host.Outcome State Fault Refusal := finish s (lciTake s .peer src q (.peerImg slot last first words) true)
/-- PEER_LEDGER (R246, R438). -/
def execPeerLedger (src : CtrlId) (q : BitVec 8) (add : Bool) (c : BitVec 8) (origin : CtrlId) (charges : List (Word × Word))
    (s : State) : Host.Outcome State Fault Refusal := finish s (lciTake s .peer src q (.peerLedger add c origin charges) true)
/-- PEER_FENCE (R309, R438). -/
def execPeerFence (src : CtrlId) (q : BitVec 8) (set : Bool) (ranges : List (BitVec 24 × BitVec 24)) (s : State) :
    Host.Outcome State Fault Refusal := finish s (lciTake s .peer src q (.peerFence set ranges) true)
/-- PEER_QUERY (R308, R438). -/
def execPeerQuery (src : CtrlId) (q : BitVec 8) (origin : CtrlId) (pid : PartId) (s : State) : Host.Outcome State Fault Refusal :=
  finish s (lciTake s .peer src q (.peerQuery origin pid) true)
/-- PEER_HOMESTEP (R310, R438). -/
def execPeerHomestep (src : CtrlId) (q : BitVec 8) (stepNo action : BitVec 4) (move : BitVec 8) (s : State) :
    Host.Outcome State Fault Refusal := finish s (lciTake s .peer src q (.peerHomestep stepNo action move) true)
/-- SCHEDULING_TICK (R420, R422). -/
def execSchedulingTick (peersOk : Bool) (s : State) : Host.Outcome State Fault Refusal := finish s (tickEnd s peersOk)
/-- PEER_UNREACHABLE (R431, R435). -/
def execPeerUnreachable (k : SlotRef) (s : State) : Host.Outcome State Fault Refusal := finish s (peerUnreachable s k)

end Sys2Proof.Machine
end

