-- ==== Sys2Proof/Machine/ConfigExec.lean ====
section
/-! DEFINITION. Configuration records (R547-R551): what each does, the running of an image, the progress of background operations
    (R430); and the meanings of these commands. -/

namespace Sys2Proof.Machine

/-! Records (R547). A record answers 0 where it is done, the status where it fails, nothing while it waits. -/

/-- The index of Lantern's own IDX channel: a channel of R457 is used only by its own master. -/
def ownIdx : Nat := 3
/-- A write made as MGMT, and whether it was refused under R443, R463, R468 or R469. -/
def recWrite32 (s : State) (b pg o : Nat) (len : Nat) (v : BitVec 64) : State × BitVec 8 :=
  let a := regAddr b pg o
  let t := regWrite (putAcc s b acc0) .mgmt a len v
  (regWrite s .mgmt a len v, if (accSt t b).status &&& 3 = 0 then 0 else 0x08)
/-- REG. -/
def recReg (s : State) (b pg o : Nat) (value mask : Word) : State × BitVec 8 :=
  recWrite32 s b pg o 4 (((curWord s b pg o &&& ~~~mask) ||| (value &&& mask)).setWidth 64)
/-- REG64. -/
def recReg64 (s : State) (b pg o : Nat) (lo hi : Word) : State × BitVec 8 := recWrite32 s b pg o 8 (hi ++ lo)
/-- IDX: the words are written upward, in a channel of Lantern's own that is gone afterwards. -/
def recIdx (s : State) (space : BitVec 8) (word : Word) (data : List Word) : State × BitVec 8 :=
  let t := putIdx s ownIdx { chan0Idx with space := space, word := word }
  let t := data.foldl (fun s w => idxWrite s ownIdx .mgmt 0x8 w) t
  let x := idxCh t ownIdx
  (putIdx t ownIdx chan0Idx, if x.range || x.roWrite then 0x08 else 0)
/-- The status of a CMD record before its command is run. -/
def recCmdCheck (s : State) (header : Word) (args : List Word) (needReady : Bool) : BitVec 8 :=
  if headerLen header ≠ args.length then 0x03
  else rawCheck (if needReady then s else { s with boot := { s.boot with ready := true } }) .host (header.extractLsb' 0 8) args
/-- CMD: an LCI command taken as from HOST; for a background command, the slot to wait for. -/
def recCmd (s : State) (header : Word) (args : List Word) (needReady : Bool) : State × BitVec 8 × Option SlotRef :=
  let op : BitVec 8 := header.extractLsb' 0 8
  let st := recCmdCheck s header args needReady
  if st ≠ 0 then (s, st, none)
  else match lciParse op args with
    | none => (s, 0x04, none)
    | some c =>
      let r := lciRun s .host s.net.ctrlId 0 c true needReady
      match r.2 with
      | some (st, ws) => (r.1, if st = 0x01 then 0 else st, if st = 0x01 then some (slotRef .host ((wordAt ws 0).extractLsb' 0 3)) else none)
      | none => (r.1, 0, none)
/-- The slot of a CMD record leaves RUNNING: it is released, and another end than DONE fails the record. -/
def recSlotEnd (s : State) (k : SlotRef) : State × Option (BitVec 8) :=
  let x := opSlot s k
  match x.state with
  | .running => (s, none)
  | .done => (opRelease s k, some 0)
  | _ => (opRelease s k, some (if x.error = 0 then 0x08 else x.error))
/-- COMMIT: a write of GLB.COMMIT. The record is complete when the last block has applied it. -/
def recCommit (s : State) (mask : BitVec 16) : State × BitVec 8 :=
  let r := s.regs
  let t := commitWrite { s with regs := { r with overlap := false, armedConflict := false } } mask
  let bad := t.regs.overlap || t.regs.armedConflict
  ({ t with regs := { t.regs with
      overlap := r.overlap || t.regs.overlap, armedConflict := r.armedConflict || t.regs.armedConflict
      busy := if t.regs.overlap then t.regs.busy else none } }, if bad then 0x08 else 0)
/-- WAIT: how it stands after some µs. -/
def recWait (s : State) (b pg o : Nat) (mask value : Word) (timeout elapsed : Nat) : Option (BitVec 8) :=
  if curWord s b pg o &&& mask = value then some 0 else if timeout ≤ elapsed then some 0x08 else none
/-- THERMAL: the limits of the overlay (R436, R551). -/
def recThermal (s : State) (isBase : Bool) (tj : BitVec 8) (cap : BitVec 16) : State × BitVec 8 :=
  let tjOk := decide (tj.toNat = 0 ∨ (60 ≤ tj.toNat ∧ tj.toNat ≤ gradeTj))
  let capOk := decide (cap.toNat = 0 ∨ (300 ≤ cap.toNat ∧ cap.toNat ≤ 1180))
  if isBase || !tjOk || !capOk then (s, 0x08)
  else
    let t := { s with lan := { s.lan with limits := tset (⟨0, 0⟩ : Limits) s.lan.limits 4 ⟨tj, cap⟩ } }
    let reached (x : State) : Bool := decide ((tjLimit x : Int) ≤ celsius x.pwr.tj)
    (if reached t && !reached s then raiseEvt t 11 else t, 0)

/-! An image being applied (R548-R551). -/

/-- The answer of a record that never waits. -/
def recNow (j : ApplyJob) (r : State × BitVec 8) : State × ApplyJob × Option (BitVec 8) := (r.1, j, some r.2)
/-- The record at the front of an image, as far as it goes now. -/
def recRun (s : State) (j : ApplyJob) (ws : List Word) (needReady : Bool) : State × ApplyJob × Option (BitVec 8) :=
  let w := wordAt ws
  let b := ((w 1).extractLsb' 0 6).toNat
  let pg := ((w 1).extractLsb' 6 6).toNat
  let o := ((w 1).extractLsb' 16 16).toNat
  match ((w 0).extractLsb' 0 8).toNat with
  | 1 => recNow j (recReg s b pg o (w 2) (w 3))
  | 2 => recNow j (recReg64 s b pg o (w 2) (w 3))
  | 3 => recNow j (recIdx s ((w 1).extractLsb' 0 8) (w 2) (ws.drop 3))
  | 4 =>
    match j.waitSlot with
    | some k => let r := recSlotEnd s k; (r.1, j, r.2)
    | none =>
      let r := recCmd s (w 1) (ws.drop 2) needReady
      match r.2.2 with
      | some k => (r.1, { j with waitSlot := some k }, none)
      | none => (r.1, j, some r.2.1)
  | 5 =>
    let m : BitVec 16 := (w 1).extractLsb' 0 16
    if j.atTick.isSome then (s, { j with mask := j.mask ||| m }, some 0) else recNow j (recCommit s m)
  | 6 =>
    let t := j.waitFrom.getD s.now
    (s, { j with waitFrom := some t }, recWait s b pg o (w 2) (w 3) (w 4).toNat ((s.now.toNat - t.toNat) / 1000))
  | 7 => recNow j (recThermal s j.isBase ((w 1).extractLsb' 0 8) ((w 1).extractLsb' 16 16))
  | _ => (s, j, some 0)
/-- The log record of an image that ends (R556). -/
def applyLog (s : State) (j : ApplyJob) (failing : Word) : State :=
  logAdd s 0x05 [if j.isBase then 0 else 1, fieldAt j.index 0, j.serial, BitVec.ofNat 32 j.idx, failing]
/-- The record at the front is complete. -/
def applyNext (j : ApplyJob) : ApplyJob := { j with recs := j.recs.drop 1, idx := j.idx + 1, waitSlot := none, waitFrom := none }
/-- APPLY_OVERLAY fails, with the records before the failing one applied (R549). -/
def applyFail (s : State) (k : SlotRef) (j : ApplyJob) (st : BitVec 8) (failing : Word) : State :=
  opFail (opResult (opResult (applyLog s j failing) k 0 (BitVec.ofNat 32 j.idx)) k 1 failing) k st
/-- Every record is applied: with ATTICK the masks are armed as a COMMIT_AT of scope 0 (R550), else the operation is done. -/
def applyEnd (s : State) (k : SlotRef) (j : ApplyJob) : State :=
  match j.atTick with
  | some t =>
    if s.regs.armed then applyFail s k j 0x06 0xFFFFFFFF
    else if t.toNat < s.now.toNat + commitLead 0 then applyFail s k j 0x11 0xFFFFFFFF
    else
      let s := opResult (opResult (applyLog s j 0xFFFFFFFF) k 0 (BitVec.ofNat 32 j.idx)) k 1 0xFFFFFFFF
      opJob (armCommit s j.mask t (some k)) k (.apply { j with armed := true })
  | none => opDone (opResult (opResult (applyLog s j 0xFFFFFFFF) k 0 (BitVec.ofNat 32 j.idx)) k 1 0xFFFFFFFF) k
/-- APPLY_OVERLAY advances by one record. -/
def applyStep (s : State) (k : SlotRef) (j : ApplyJob) : State :=
  if j.armed then s
  else match j.recs with
    | [] => applyEnd s k j
    | ws :: _ =>
      let (s, j, st) := recRun s j ws true
      match st with
      | none => opJob s k (.apply j)
      | some st =>
        if st = 0 then opProgress (opJob s k (.apply (applyNext j))) k (j.idx + 1)
        else
          let cmd := ((wordAt ws 0).extractLsb' 0 8).toNat == 4
          applyFail s k j (if cmd then st else 0x08) (BitVec.ofNat 32 j.idx)

/-! Progress of background operations (R430). -/

/-- LOG_READ to BAR2 writes a word, and ends with its results (R434). -/
def logStep (s : State) (k : SlotRef) (ws : List Word) (ofs : Nat) (next lost : Word) : State :=
  let n := (opSlot s k).progress.toNat
  let s := if n < ws.length then
      opProgress { s with mem := { s.mem with bar2 := writeWords s.mem.bar2 (ofs + 4 * n) [wordAt ws n] } } k (n + 1)
    else s
  if ws.length ≤ n + 1 then opDone (opResult (opResult s k 0 next) k 1 lost) k else s
/-- COMMIT_AT of a ring or tree: the member asked last answers (R435). -/
def commitAtStep (s : State) (k : SlotRef) (mask : BitVec 16) (scope : BitVec 2) (tick : Tick) (armedAt todo : List CtrlId)
    (reply : BitVec 8) : State :=
  match todo with
  | [] => s
  | c :: rest =>
    if reply ≠ 0 ∧ reply ≠ 1 then opFail (disarmAll s armedAt) k reply
    else opProgress (opJob s k (.commitAt mask scope tick (armedAt ++ [c]) rest)) k (armedAt.length + 1)
/-- A background operation advances by one unit; `reply` is what the member that it waits for has answered, or for FW_UPDATE
    a failure of the NOR where it is not 0 (R429). -/
def opStep (s : State) (k : SlotRef) (reply : BitVec 8) : State :=
  let x := opSlot s k
  let nor (t : State) : State := if reply ≠ 0 then opFail s k 0x15 else t
  if x.state ≠ .running ∨ ¬ engineRuns s 62 then s
  else match x.job with
    | .save _ _ img ofs dest slot _ => saveStep s k img ofs dest slot reply
    | .restore r => restoreStep s k r reply
    | .log ws ofs next lost => logStep s k ws ofs next lost
    | .fwBegin copy len => nor (updBeginStep s k copy len)
    | .fwWrite ofs len => nor (updWriteStep s k ofs len)
    | .fwCommit => nor (updCommit s k)
    | .fwCancel => nor (updCancelStep s k)
    | .apply j => applyStep s k j
    | .commitAt mask scope tick armedAt todo => commitAtStep s k mask scope tick armedAt todo reply
    | .remove pid draining => removeStep s k pid draining
    | _ => s

/-- A record given as a command: whether it succeeded is left in `recOk`. -/
def recDone (r : State × BitVec 8) : State := { r.1 with regs := { r.1.regs with recOk := r.2 == 0 } }

/-- NOP_RECORD (R547). -/
def execNopRecord (s : State) : Host.Outcome State Fault Refusal := finish s (recDone (s, 0))
/-- REG_RECORD (R547). -/
def execRegRecord (blk page : BitVec 6) (ofs : BitVec 16) (value mask : Word) (s : State) : Host.Outcome State Fault Refusal :=
  finish s (recDone (recReg s blk.toNat page.toNat ofs.toNat value mask))
/-- REG64_RECORD (R547). -/
def execReg64Record (blk page : BitVec 6) (ofs : BitVec 16) (lo hi : Word) (s : State) : Host.Outcome State Fault Refusal :=
  finish s (recDone (recReg64 s blk.toNat page.toNat ofs.toNat lo hi))
/-- IDX_RECORD (R547). -/
def execIdxRecord (space : BitVec 8) (word : Word) (data : List Word) (s : State) : Host.Outcome State Fault Refusal :=
  finish s (recDone (recIdx s space word data))
/-- CMD_RECORD (R547): a background command goes on in its slot. -/
def execCmdRecord (header : Word) (args : List Word) (s : State) : Host.Outcome State Fault Refusal :=
  let r := recCmd s header args s.boot.ready
  finish s (recDone (r.1, r.2.1))
/-- COMMIT_RECORD (R547). -/
def execCommitRecord (mask : BitVec 16) (s : State) : Host.Outcome State Fault Refusal := finish s (recDone (recCommit s mask))
/-- WAIT_RECORD (R547), some µs after it began. -/
def execWaitRecord (blk page : BitVec 6) (ofs : BitVec 16) (mask value timeout elapsed : Word) (s : State) :
    Host.Outcome State Fault Refusal :=
  finish s (match recWait s blk.toNat page.toNat ofs.toNat mask value timeout.toNat elapsed.toNat with
    | some st => recDone (s, st)
    | none => s)
/-- THERMAL_RECORD (R436, R547, R551), of an overlay. -/
def execThermalRecord (tj : BitVec 8) (cap : BitVec 16) (s : State) : Host.Outcome State Fault Refusal :=
  finish s (recDone (recThermal s false tj cap))
/-- OPERATION_PROGRESS (R429, R430). -/
def execOperationProgress (k : SlotRef) (reply : BitVec 8) (s : State) : Host.Outcome State Fault Refusal := finish s (rearm (opStep s k reply))

end Sys2Proof.Machine
end

