-- ==== Sys2Proof/WellFormed.lean ====
section
/-! DEFINITION. Commands whose operands the spec cannot mean: a command that is well formed passes every check. The meanings
    are total all the same. -/

namespace Sys2Proof

/-- An access of 1, 2, 4 or 8 bytes, or a longer one that R446 refuses: not of no bytes, and within a bus word. -/
def WellFormed.access (len : BitVec 4) : Bool := decide (1 ≤ len.toNat) && decide (len.toNat ≤ 8)
/-- An event number (R490). -/
def WellFormed.event (e : BitVec 9) : Bool := decide (e.toNat < 0x180)
/-- A mode register (R497). -/
def WellFormed.modeReg (j : BitVec 4) : Bool := decide (j.toNat < 12)
/-- A port as the commands number it (R437). -/
def WellFormed.port (n : BitVec 4) : Bool := decide (n.toNat ≤ 11)
/-- A beam cluster (R12). -/
def WellFormed.cluster (k : BitVec 3) : Bool := decide (k.toNat < 5)
/-- The most bytes of a DDR5 channel: two RDIMMs of 64 GiB (R12). -/
def WellFormed.chanMax : Nat := 2 ^ 37
/-- The report of a start-up step: eight channels, of 1 TiB at most in all, rates that are not reserved, repairs as R552 has them. -/
def WellFormed.report (r : StepReport) : Bool :=
  decide (r.chans.length = 8) && decide (r.chanBytes ≤ WellFormed.chanMax) && r.rate != 3 && r.hbmRate0 != 3 && r.hbmRate1 != 3 && r.repairs.all fun e => e.extractLsb' 12 20 == 0
/-- Bytes within the window of BAR2 (R427). -/
def WellFormed.bulk (ofs : BitVec 22) (n : Nat) : Bool := decide (ofs.toNat + n ≤ 2 ^ 22)
/-- What a configuration record can hold (R546). -/
def WellFormed.record (n : Nat) : Bool := decide (n ≤ 255)
/-- An input of a slice: a port, the walker or the beam input (R50). -/
def WellFormed.replay : ReplayItem → Bool
  | .input k => decide (k.toNat < 10)
  | _ => true
/-- An index in a home queue, a far queue or the eviction entries (R136, R198, R202). -/
def WellFormed.recall (evict far : Bool) (i : BitVec 6) : Bool :=
  if evict then decide (i.toNat < 4) else if far then decide (i.toNat < 32) else true
/-- Lines of a scrub burst (R396). -/
def WellFormed.burst (l : List (Nat × EccOutcome)) : Bool := l.all fun o => decide (o.1 < 4096)
/-- A state of GST that a grant can carry is not the reserved code (R143). -/
def WellFormed.gst (g : LState) : Bool := g != .R

/-- The checks of a command. -/
def wellFormed (i : Instr) : Bool :=
  match i with
  | .registerWrite _ _ len _ => WellFormed.access len
  | .registerRead _ _ len => WellFormed.access len
  | .readClear _ _ len => WellFormed.access len
  | .cntEvtWrite _ e _ => WellFormed.event e
  | .counterWrap e _ => WellFormed.event e
  | .smpEnable _ _ e _ _ _ => WellFormed.event e
  | .cntModeWrite _ j _ => WellFormed.modeReg j
  | .portReturnTimeout n => WellFormed.port n
  | .stagingIssue k => WellFormed.cluster k
  | .startupStepDone r => WellFormed.report r
  | .bar2Write ofs bytes => WellFormed.bulk ofs bytes.length
  | .idxRecord _ _ data => WellFormed.record (data.length + 2)
  | .cmdRecord _ args => WellFormed.record (args.length + 1)
  | .replay _ i => WellFormed.replay i
  | .recallTimer _ evict far i => WellFormed.recall evict far i
  | .patrolScrubBurst _ l => WellFormed.burst l
  | .grant _ _ b => WellFormed.gst b.gst
  | _ => true

end Sys2Proof
end

