-- ==== Sys2Proof/Machine/BootExec.lean ====
section
/-! DEFINITION. Resets and pins (R533, R537, R578, R584, R586), start-up (R535-R548, R563); and the meanings of their
    commands. -/

namespace Sys2Proof.Machine

/-! Resets (R533). -/

/-- A ring key record is in force in the NOR, from which the keys are unwrapped again (R541, R553). -/
def keyRecordOk (s : State) : Bool :=
  (recBest (recSeq s (norKey 0) 0x594B4752 26) (recSeq s (norKey 1) 0x594B4752 26)).isSome
/-- The network side after a reset: the ring keys that the NOR keeps. -/
def netKeys (s : State) : Net :=
  if keyRecordOk s then { netReset with key0 := s.net.key0, key1 := s.net.key1, activeKey := s.net.activeKey } else netReset
/-- Start-up begins from nothing, but for the pins, the fuses and the clocks that are lost. -/
def bootPins (s : State) : Boot :=
  { bootReset with
    pwrOk := s.boot.pwrOk, sysRst := s.boot.sysRst, perst := s.boot.perst, lostClk := s.boot.lostClk
    svnFloor := s.boot.svnFloor, revoked := s.boot.revoked }
/-- A power-on reset: everything returns to its reset state; the NOR, the fuses and the board's wiring are no state of a reset, and
    what has gone out has gone. -/
def powerReset (s : State) : State :=
  { State.reset with
    pending := s.pending, serial := s.serial, free := s.free, out := s.out, net := netKeys s, unwired := s.unwired
    mem := { State.reset.mem with nor := s.mem.nor }, boot := bootPins s }
/-- A system reset: the attempt count, the cause and the firmware log survive, and THERMTRIP_n stays low (R533, R584). -/
def systemReset (s : State) (cause : BitVec 2) (attempts : Nat) : State :=
  let b := s.boot
  { powerReset s with boot := { bootPins s with
    attempts := attempts, cause := cause, log := b.log, logPos := b.logPos, logRecs := b.logRecs, logSeq := b.logSeq
    logUnread := b.logUnread, railTrip := b.railTrip, thermtrip := b.thermtrip } }
/-- PWR_OK falls. -/
def pwrOkLow (s : State) : State :=
  let t := powerReset s
  { t with boot := { t.boot with pwrOk := false, lostClk := 0 } }
/-- SYS_RST_n falls; while PWR_OK is low it has no effect beside its level. -/
def sysRstLow (s : State) : State :=
  let t := if inReset s then s else systemReset s 1 s.boot.attempts
  { t with boot := { t.boot with sysRst := false } }
/-- A management reset: the management-PCIe island, and the HOST queues (R418, R533). -/
def mgmtReset (s : State) (k : MgmtReset) : State :=
  let t := if inReset s then s else
    let t := flushRpl (flushCmd s .host) .host
    { t with ctrs := { t.ctrs with evtEn := 0 } }
  { t with boot := { t.boot with perst := t.boot.perst && k != .perst } }
/-- A pin rises. -/
def pinHigh (s : State) (p : ResetPin) : State :=
  match p with
  | .pwrOk => { s with boot := { s.boot with pwrOk := true, upTime := if inReset s then 0 else s.boot.upTime } }
  | .sysRst => { s with boot := { s.boot with sysRst := true, upTime := if inReset s then 0 else s.boot.upTime } }
  | .perst => { s with boot := { s.boot with perst := true } }
/-- A monitored rail falls: a power-on reset, held until PWR_OK has gone low and high again (R578). -/
def railFalls (s : State) : State :=
  if !s.boot.pwrOk then s
  else
    let t := powerReset s
    { t with boot := { t.boot with railTrip := true } }
/-- The bit of a reference clock among the lost. -/
def clkBit (c : Refclk) : Nat := match c with | .r25 => 0 | .r100 => 1 | .r156 => 2
/-- The clock is, or is not, lost. -/
def setClk (s : State) (c : Refclk) (lost : Bool) : State :=
  { s with boot := { s.boot with lostClk := setBit s.boot.lostClk (clkBit c) lost } }
/-- A reference clock is lost (R586). -/
def clkLost (s : State) (c : Refclk) : State :=
  if c = .r156 then
    if inReset s then setClk s c true else setClk (linkEvent (allRing.foldl portFail s)) c true
  else setClk (powerReset s) c true
/-- A ring port that is enabled and down trains again (R375). -/
def trainAgain (s : State) (p : RingPort) : State :=
  let x := ringPort s p
  if x.en ∧ x.state = .down then putRing (domUp s (domRing p)) p { x with state := .training } else s
/-- A reference clock has returned: the reset ends, or each ring port that went down trains again (R375, R586). -/
def clkReturn (s : State) (c : Refclk) : State :=
  if !s.boot.lostClk.getLsbD (clkBit c) then s
  else
    let t := setClk s c false
    if c = .r156 then
      if inReset s then t
      else linkEvent (allRing.foldl trainAgain t)
    else { t with boot := { t.boot with upTime := 0 } }
/-- THERMTRIP_n falls at 125 °C (R584). -/
def trip (s : State) (t : BitVec 8) : State :=
  if celsius t < 125 then s
  else { s with boot := { s.boot with thermtrip := true }, pwr := { s.pwr with tj := t, tjMax := hotter s.pwr.tjMax t } }

/-! Errors and stages (R535, R536, R556). -/

/-- BOOT_ERR holds the first error; every error is logged. -/
def bootError (s : State) (code : BitVec 8) (what : Word) : State :=
  let s := { s with boot := { s.boot with bootErr := if s.boot.bootErr = 0 then code else s.boot.bootErr } }
  logAdd s 0x03 [code.setWidth 32, what]
/-- Start-up stops. -/
def bootStop (s : State) : State := { s with boot := { s.boot with stopped := true } }
/-- A step is complete. -/
def bootStageDone (s : State) (n : BitVec 4) : State := logAdd { s with boot := { s.boot with stage := n } } 0x02 [n.setWidth 32]

/-! Step 3: firmware (R538, R542-R545). -/

/-- An image is checked, and the checks are logged. -/
def tryImage (s : State) (b : Bool) : State × Bool :=
  (logAdd s 0x04 [flagAt b 0, fwMask s (norFw b)], fwOk s (norFw b))
/-- The choice of R538: the image, or nothing. -/
def chooseFw (s : State) : State × Option Bool :=
  if s.boot.attempts < 2 then
    let (s, ok) := tryImage s false
    if ok then (s, some false)
    else
      let (s, ok) := tryImage s true
      (s, if ok then some true else none)
  else if s.boot.attempts < 4 then
    let (s, ok) := tryImage s true
    (s, if ok then some true else none)
  else (s, none)
/-- The BOOT record of an attempt (R556). -/
def bootRecord (s : State) : State :=
  logAdd s 0x01 [fieldAt s.boot.cause 0 ||| BitVec.ofNat 32 (s.boot.attempts % 8 * 4) ||| flagAt s.boot.fwB 5, s.boot.version]
/-- The chosen image runs. -/
def runFw (s : State) (b : Bool) : State :=
  let a := norFw b
  let w5 := norWord s a 5
  let sect := (List.range (fwNsect s a)).map fun k =>
    let (t, _, n, dst) := fwSection s a k
    (t, BitVec.ofNat 32 dst, BitVec.ofNat 32 n)
  let s := fwLoad s a
  { s with boot := { s.boot with
    fwB := b, version := norWord s a 3, runSvn := w5.extractLsb' 0 8, raiseSvn := w5.getLsbD 8, runDigest := fwDigest s a
    runSect := sect } }
/-- Step 3. In recovery nothing else is brought up (R539). -/
def bootFw (s : State) : State :=
  match chooseFw s with
  | (s, none) => bootStop (bootRecord (bootError { s with boot := { s.boot with recovery := true } } 2 0))
  | (s, some b) =>
    let s := bootRecord (runFw s b)
    bootStageDone (if b then bootError s 1 0 else s) 3

/-! Step 4: memories, slices and ring ports (R383-R385, R399, R403, R404, R410, R563). -/

/-- What a channel was found to be. -/
def chanRep (r : StepReport) (n : Nat) : ChanReport := r.chans.getD n ⟨false, false, false, 0, 0, false, false⟩
/-- The channel trained. -/
def chanOk (r : StepReport) (n : Nat) : Bool := (chanRep r n).populated && (chanRep r n).supported && (chanRep r n).trained
/-- The channel mode: whether four channels are used, the upper half, and whether no channel is (R385). -/
def ddrMode (r : StepReport) : Bool × Bool × Bool :=
  let low := (List.range 4).all fun n => chanOk r n
  let high := (List.range 4).all fun n => chanOk r (n + 4)
  if low && high then (false, false, false) else if low then (true, false, false) else if high then (true, true, false)
  else (false, false, true)
/-- Some channel of M4-M7 is populated. -/
def upperHalf (r : StepReport) : Bool := (List.range 4).any fun n => (chanRep r (n + 4)).populated
/-- What the training engines achieve: without V4 no channel trains, without V5 no stack (R13). -/
def trainedBy (s : State) (r : StepReport) : StepReport :=
  { r with
    chans := if engineRuns s 60 then r.chans else r.chans.map fun c => { c with trained := false }
    hbmOk := if engineRuns s 61 then r.hbmOk else 0 }
/-- The DDR5 channels, each of at most two RDIMMs of 64 GiB (R12). -/
def bootDdr (s : State) (r : StepReport) : State :=
  let (four, high, none_) := ddrMode r
  let used (n : Nat) : Bool := !none_ && (!four || (decide (4 ≤ n) == high))
  let s := (List.range 8).foldl (fun (s : State) n =>
    let c := chanRep r n
    putChan s n { chanSt s n with
      en := used n, dimms := c.dimms, ranks := c.ranks, x8 := c.x8, d32 := c.d32, rate := r.rate, trained := chanOk r n
      cfgErr := c.populated && !c.supported }) s
  let chan := min r.chanBytes Sys2Proof.WellFormed.chanMax
  let bytes := if none_ then 0 else if four then 4 * chan else 8 * chan
  let s := { s with
    ddrFour := four, ddrHigh := high, capacity := bytes
    boot := { s.boot with ddrDegraded := four && upperHalf r } }
  if none_ then bootError s 5 0 else s
/-- One HBM3 stack: its training, lane repairs and lost pseudo-channels. -/
def bootStack (s : State) (r : StepReport) (k : Nat) : State :=
  let new := r.repairs.filter fun e => e.getLsbD 0 == (k == 1)
  let s := new.foldl (fun s _ => trouble s (blkHbm k) kHbmHbmLaneFail) s
  let used := (repairEntries s).filter fun e => e.getLsbD 0 == (k == 1)
  let s := putHbmSt s k { hbmSt s k with
    trained := r.hbmOk.getLsbD k, rate := if k = 0 then r.hbmRate0 else r.hbmRate1
    used := BitVec.ofNat 8 used.length, new := BitVec.ofNat 8 new.length }
  if r.hbmOk.getLsbD k then losePcs s k (if k = 0 then r.pcLost.extractLsb' 0 32 else r.pcLost.extractLsb' 32 32) else s
/-- The stacks: one that failed is folded onto the other (R536). -/
def bootHbm (s : State) (r : StepReport) : State :=
  let fold (s : State) (m : BitVec 16) : State := { s with home := { s.home with foldLive := m, foldStaged := m } }
  let s := match r.hbmOk.getLsbD 0, r.hbmOk.getLsbD 1 with
    | true, true => s
    | false, true => bootError (fold s 0x00FF) 6 0
    | true, false => bootError (fold s 0xFF00) 6 1
    | false, false => bootError s 7 0
  bootStack (bootStack (addRepairs s r.repairs) r 0) r 1
/-- The enabled ring ports train. -/
def bootRing (s : State) : State :=
  allRing.foldl (fun (s : State) p =>
    let x := ringPort s p
    if x.en ∧ x.state = .down then putRing s p { x with state := .training } else s) s
/-- Step 4. -/
def bootMem (s : State) (r : StepReport) : State :=
  let r := trainedBy s r
  let s := bootHbm (bootDdr s r) r
  let s := r.badWays.foldl (fun s w => retireWay s w.1 w.2.1 w.2.2.toNat) s
  if r.hbmOk = 0 then bootStop s else bootStageDone (bootRing s) 4

/-! Step 5: configuration (R547, R548). -/

/-- The records of an image, as far as they go now: 0 where all are applied, nothing where one waits. -/
def bootRecs : Nat → State → ApplyJob → State × ApplyJob × Option (BitVec 8)
  | 0, s, j => (s, j, some 0)
  | n + 1, s, j =>
    match j.recs with
    | [] => (s, j, some 0)
    | ws :: _ =>
      match recRun s j ws false with
      | (s, j, some 0) => bootRecs n s (applyNext j)
      | r => r
/-- An image begins to be applied. -/
def applyJob (i : CfgImage) (isBase : Bool) : ApplyJob :=
  { recs := i.recs, idx := 0, atTick := none, mask := 0, isBase := isBase, index := i.index, serial := i.serial
    waitSlot := none, waitFrom := none, armed := false }
/-- What is being applied at step 5. -/
def setApply (s : State) (j : Option ApplyJob) : State := { s with boot := { s.boot with apply := j } }
/-- The default overlay, as far as it goes now. -/
def bootOverlay (s : State) (j : ApplyJob) : State :=
  match bootRecs (j.recs.length + 1) s j with
  | (s, j, none) => setApply s (some j)
  | (s, j, some st) =>
    if st = 0 then bootStageDone (applyLog (setApply s none) j 0xFFFFFFFF) 5
    else bootStageDone (bootError (applyLog (setApply s none) j (BitVec.ofNat 32 j.idx)) 4 (fieldAt j.index 0)) 5
/-- The default overlay is checked, and begins (R548, R551). -/
def beginOverlay (s : State) (index : BitVec 4) : State :=
  if index = 0xF then bootStageDone s 5
  else
    let s := { s with boot := { s.boot with overlayed := true } }
    match (if 8 ≤ index.toNat then none else overlayAt s index 0) with
    | none => bootStageDone (bootError s 4 (fieldAt index 0)) 5
    | some i => bootOverlay s (applyJob { i with index := index } false)
/-- The base image, as far as it goes now: a record that fails stops start-up. -/
def bootBase (s : State) (j : ApplyJob) : State :=
  match bootRecs (j.recs.length + 1) s j with
  | (s, j, none) => setApply s (some j)
  | (s, j, some st) =>
    if st = 0 then beginOverlay (applyLog (setApply s none) j 0xFFFFFFFF) j.index
    else bootStop (bootError (applyLog (setApply s none) j (BitVec.ofNat 32 j.idx)) 3 0)
/-- The controller ID of the base image is this controller's; before a census it stands alone in its ring (R10, R362, R548). -/
def takeId (s : State) (c : CtrlId) : State :=
  let x := s.net.lower
  { s with net := { s.net with
    ctrlId := c
    lower := { x with
      ring := ringOf c, node := nodeOf c
      cur := { x.cur with
        members := BitVec.twoPow 16 (nodeOf c).toNat, order := [nodeOf c]
        routes := tset 0 x.cur.routes (ringOf c).toNat 0b010000
        dirs := (List.range 16).foldl (fun t k => tset 0 t k (if k = (nodeOf c).toNat then 0 else 3)) x.cur.dirs } } } }
/-- Step 5, begun or gone on with. -/
def bootConfig (s : State) : State :=
  match s.boot.apply with
  | some j => if s.boot.overlayed then bootOverlay s j else bootBase s j
  | none =>
    match baseImage s with
    | none => bootStop (bootError s 3 0)
    | some i => bootBase (takeId s i.ctrlId) (applyJob i true)

/-! Steps 6 to 8 (R535, R545). -/

/-- Step 7 ends when the time is in step, or at its limit of 2 s. -/
def bootSync (s : State) (limit : Bool) : State :=
  let s := syncStatus s false
  if s.net.syncLocked || s.net.syncIsMaster then bootStageDone s 7
  else if limit then bootStageDone (raiseEvt (bootError s 8 0) 13) 7
  else s
/-- READY: event BOOT, the fuse floor, and the init flits of the ports whose links are up (R322, R534, R538, R545). -/
def bootReady (s : State) : State :=
  let s := bootStageDone { s with boot := { s.boot with ready := true, attempts := 0 } } 8
  let s := raiseEvt s 14
  let b := s.boot
  let s := if b.raiseSvn && decide (b.svnFloor < b.runSvn) then
      logAdd { s with boot := { b with svnFloor := b.runSvn } } 0x07 [fieldAt b.runSvn 0]
    else s
  (List.range 8).foldl (fun (s : State) n =>
    let p : PortId := BitVec.ofNat 3 n
    if (portSt s p).ltssm = .l0 then { s with out := s.out ++ [.flitInit p] } else s) s
/-- The step under way is complete, or has gone on (R535, R536). -/
def bootStep (s : State) (r : StepReport) : State :=
  if s.boot.stopped || s.boot.ready then s
  else match s.boot.stage.toNat with
    | 0 => bootStageDone s 1
    | 1 => bootStageDone s 2
    | 2 => bootFw s
    | 3 => bootMem s r
    | 4 => bootConfig s
    | 5 => bootStageDone (linkEvent (startCensus s false)) 6
    | 6 => bootSync s r.syncLimit
    | 7 => bootReady s
    | _ => s
/-- The boot watchdog: 10 s without READY (R537). -/
def watchdog (s : State) : State :=
  if s.boot.ready || s.boot.stopped || decide (s.boot.upTime < 10000000000) then s else systemReset s 2 (s.boot.attempts + 1)

/-- The answer of an event of a pin or a clock, which acts also while a reset is held. -/
def finishPin (s t : State) : Host.Outcome State Fault Refusal := .next (settled s t)
/-- POWER_ON_RESET (R533, R538). -/
def execPowerOnReset (s : State) : Host.Outcome State Fault Refusal := finishPin s (pwrOkLow s)
/-- SYSTEM_RESET (R533). -/
def execSystemReset (s : State) : Host.Outcome State Fault Refusal := finishPin s (sysRstLow s)
/-- MANAGEMENT_RESET (R418, R504, R533). -/
def execManagementReset (k : MgmtReset) (s : State) : Host.Outcome State Fault Refusal := finishPin s (mgmtReset s k)
/-- RAIL_MONITOR_TRIP (R578). -/
def execRailMonitorTrip (s : State) : Host.Outcome State Fault Refusal := finishPin s (railFalls s)
/-- REFCLK_LOSS (R586). -/
def execRefclkLoss (c : Refclk) (s : State) : Host.Outcome State Fault Refusal := finishPin s (clkLost s c)
/-- THERMTRIP (R584). -/
def execThermtrip (tj : BitVec 8) (s : State) : Host.Outcome State Fault Refusal := finish s (trip s tj)
/-- THERMAL_BACKSTOP (R530). -/
def execThermalBackstop (tj : BitVec 8) (s : State) : Host.Outcome State Fault Refusal := finish s (backstop s tj)
/-- STARTUP_STEP_DONE (R535, R536, R538, R548). -/
def execStartupStepDone (r : StepReport) (s : State) : Host.Outcome State Fault Refusal := finish s (bootStep s r)
/-- BOOT_WATCHDOG (R537, R538). -/
def execBootWatchdog (s : State) : Host.Outcome State Fault Refusal := finish s (watchdog s)
/-- RESET_RELEASE (R533). -/
def execResetRelease (pin : ResetPin) (s : State) : Host.Outcome State Fault Refusal := finishPin s (pinHigh s pin)
/-- REFCLK_RETURN (R586). -/
def execRefclkReturn (c : Refclk) (s : State) : Host.Outcome State Fault Refusal := finishPin s (clkReturn s c)

end Sys2Proof.Machine
end

