-- ==== Sys2Proof/Machine/FaultExec.lean ====
section
/-! DEFINITION. Engines that stop, and debug halts (R488, R565, R568); and the meanings of their commands. -/

namespace Sys2Proof.Machine

/-- Two stops of an engine within 1 s. -/
def stopsAgain (s : State) (e : Nat) : Bool := (engineSt s e).lastStop.any fun t => decide (s.now.toNat < t.toNat + 1000000000)
/-- What the hardware goes on with no longer belongs to the slots of the operations that have ended. -/
def dropSlots (s : State) : State :=
  { s with
    cache := { s.cache with
      drains := s.cache.drains.map fun d => { d with slot := none }
      flushes := s.cache.flushes.filter fun f => f.slot.isNone
      folds := s.cache.folds.map fun w => { w with slot := none } }
    beams := { s.beams with ctx := s.beams.ctx.map fun e => (e.1, { e.2 with cancelSlot := none }) }
    ports := s.ports.map fun e => (e.1, { e.2 with
      returning := none, retire := e.2.retire.map fun r => { r with slot := none } })
    net := { s.net with ports := s.net.ports.map fun e => (e.1, { e.2 with planned := none, returning := none }) }
    regs := { s.regs with armSlot := none } }
/-- Every operation in progress ends ABORTED with ERROR 0. -/
def abortAll (s : State) : State := (runningOps (dropSlots s)).foldl (fun s r => endOp s r.1 .aborted 0) (dropSlots s)
/-- The contexts of a beam engine that is gone move to other engines, with a re-check (R565, R276). -/
def moveContexts (s : State) (e : Nat) : State :=
  ((beamList s).filter fun x => x.2.state != 0 && x.2.engine.toNat == e).foldl (fun s x =>
    let y := beamCtx s x.1
    match chooseEngine s y.desc (admitted s (some x.1)) y.interval with
    | some n => recheckBeam (putBeam s x.1 { y with engine := BitVec.ofNat 6 n }) x.1
    | none => recheckBeam s x.1) s
/-- An engine that stops a second time within 1 s stays stopped. -/
def engineGone (s : State) (e : Nat) : State :=
  let s := putEngine s e { engineSt s e with dead := true }
  if e < 40 then moveContexts s e
  else if e < 56 then coldRetire s (BitVec.ofNat 4 (e - 40))
  else s
/-- An engine stops (R565): FW_FAULT and ENG_FAULT; it is reloaded and restarted, or stays stopped. The spec gives no reset cause
    for the system reset that lost Lantern memory makes, so the cause is a free value. -/
def engineStop (s : State) (e : Nat) (memoryLost : Bool) : State :=
  if (engineSt s e).dead || !engineUp s e then s
  else
    let again := stopsAgain s e
    let s := raiseErr (trouble s blkGlb kGlbEngFault) blkGlb 6
    let s := putEngine s e { engineSt s e with lastStop := some s.now }
    if 62 ≤ e ∧ memoryLost then
      systemReset { s with free := s.free + 1 } ((Config.freeWord s.free).extractLsb' 0 2) s.boot.attempts
    else
      let s := if 62 ≤ e then abortAll s else s
      if again then engineGone s e else s
/-- A debug request halts or resumes an engine (R488). -/
def haltEngine (s : State) (e : Nat) (halt : Bool) : State := putEngine s e { engineSt s e with halted := halt }

/-- ENGINE_WATCHDOG (R565). -/
def execEngineWatchdog (e : BitVec 6) (s : State) : Host.Outcome State Fault Refusal := finish s (engineStop s e.toNat false)
/-- ENGINE_STOP (R565, R568). -/
def execEngineStop (e : BitVec 6) (memoryLost : Bool) (s : State) : Host.Outcome State Fault Refusal :=
  finish s (engineStop s e.toNat memoryLost)
/-- DEBUG_HALT (R488). -/
def execDebugHalt (e : BitVec 6) (halt : Bool) (s : State) : Host.Outcome State Fault Refusal := finish s (haltEngine s e.toNat halt)

end Sys2Proof.Machine
end

