-- ==== Sys2Proof/Machine/PartitionExec.lean ====
section
/-! DEFINITION. The meanings of the events of partitions that Lantern's ticks bring (R293, R294, R297). -/

namespace Sys2Proof.Machine

/-- QUIESCE_DONE (R293). -/
def execQuiesceDone (p : PartId) (s : State) : Host.Outcome State Fault Refusal := finish s (quiesceDone s p)
/-- FREEZE_TICK (R294). -/
def execFreezeTick (p : PartId) (s : State) : Host.Outcome State Fault Refusal := finish s (freezeStep s p)
/-- SNAPSHOT_TICK (R297). -/
def execSnapshotTick (k : SlotRef) (s : State) : Host.Outcome State Fault Refusal := finish s (snapshot s k)

end Sys2Proof.Machine
end

