-- ==== Sys2Proof/Machine/PortExec.lean ====
section
/-! DEFINITION. The meanings of the events of a port's link (R311-R322, R337-R340). -/

namespace Sys2Proof.Machine

/-- PCP_LINK_UP (R313, R322, R534). -/
def execPcpLinkUp (p : PortId) (rate : BitVec 2) (x8 : Bool) (s : State) : Host.Outcome State Fault Refusal :=
  finish s (pcpLinkUp s p rate x8)
/-- INIT_FLIT (R322). -/
def execInitFlit (p : PortId) (ver : BitVec 8) (role : Bool) (prbCred : BitVec 8) (s : State) :
    Host.Outcome State Fault Refusal := finish s (pcpInit s p ver role prbCred)
/-- FLIT_RECEIVE (R319). -/
def execFlitReceive (p : PortId) (f : PcpFrame) (s : State) : Host.Outcome State Fault Refusal := finish s (flitReceive s p f)
/-- PCP_REPLAY_TIMER (R320). -/
def execPcpReplayTimer (p : PortId) (c : ReplayCause) (s : State) : Host.Outcome State Fault Refusal :=
  finish s (portReplayTimer s p c)
/-- PCP_LINK_DOWN (R338): from L0 or Recovery. -/
def execPcpLinkDown (p : PortId) (s : State) : Host.Outcome State Fault Refusal :=
  finish s (if (portSt s p).ltssm = .l0 ∨ (portSt s p).ltssm = .recovery then portDown s p else s)
/-- PORT_PURGE_DONE (R338, step 5). -/
def execPortPurgeDone (p : PortId) (s : State) : Host.Outcome State Fault Refusal := finish s (purgeDone s p)
/-- PORT_RETIRE_TIMEOUT (R339). -/
def execPortRetireTimeout (p : PortId) (s : State) : Host.Outcome State Fault Refusal := finish s (retireTimeout s p)
/-- PORT_RETURN_TIMEOUT (R340, R375). -/
def execPortReturnTimeout (port : BitVec 4) (s : State) : Host.Outcome State Fault Refusal :=
  finish s (match ringPortOf port with
    | some p => ringReturnLate s p
    | none => if port.toNat < 8 then portReturnLate s (port.setWidth 3) else s)
/-- LTSSM_TRANSITION (R312). -/
def execLtssmTransition (p : PortId) (t : LtssmMove) (s : State) : Host.Outcome State Fault Refusal :=
  finish s (ltssmMove s p t)
/-- PORT_FILTER_PURGE_STEP (R338, R339, R558). -/
def execPortFilterPurgeStep (p : PortId) (sl : SliceId) (s : State) : Host.Outcome State Fault Refusal :=
  finish s (filterStep s p sl)

end Sys2Proof.Machine
end

