-- ==== Sys2Proof/Machine/Request.lean ====
section
/-! DEFINITION. The meanings of the requests of a port (R91-R112, R214, R263, R327), of probe responses (R99) and of accesses to
    the doorbell window (R36-R39, R264, R286). -/

namespace Sys2Proof.Machine

/-- RD_SH (R91). -/
def execRdSh (p : PortId) (h : PcpHdr) (s : State) : Host.Outcome State Fault Refusal := finish s (portRequest s p .rdSh h)
/-- RD_EX (R91). -/
def execRdEx (p : PortId) (h : PcpHdr) (s : State) : Host.Outcome State Fault Refusal := finish s (portRequest s p .rdEx h)
/-- RD_1X (R91). -/
def execRd1x (p : PortId) (h : PcpHdr) (s : State) : Host.Outcome State Fault Refusal := finish s (portRequest s p .rd1x h)
/-- UPG (R92). -/
def execUpg (p : PortId) (h : PcpHdr) (s : State) : Host.Outcome State Fault Refusal := finish s (portRequest s p .upg h)
/-- CLAIM (R105). -/
def execClaim (p : PortId) (h : PcpHdr) (s : State) : Host.Outcome State Fault Refusal := finish s (portRequest s p .claim h)
/-- WB_D (R102). -/
def execWbD (p : PortId) (h : PcpHdr) (s : State) : Host.Outcome State Fault Refusal := finish s (portRequest s p .wbD h)
/-- WB_C (R102). -/
def execWbC (p : PortId) (h : PcpHdr) (s : State) : Host.Outcome State Fault Refusal := finish s (portRequest s p .wbC h)
/-- DROP (R102). -/
def execDrop (p : PortId) (h : PcpHdr) (s : State) : Host.Outcome State Fault Refusal := finish s (portRequest s p .drop h)
/-- RD_NC (R107). -/
def execRdNc (p : PortId) (h : PcpHdr) (s : State) : Host.Outcome State Fault Refusal := finish s (portRequest s p .rdNc h)
/-- WR_NC (R108). -/
def execWrNc (p : PortId) (h : PcpHdr) (s : State) : Host.Outcome State Fault Refusal := finish s (portRequest s p .wrNc h)
/-- ATOM (R214). -/
def execAtom (p : PortId) (h : PcpHdr) (s : State) : Host.Outcome State Fault Refusal := finish s (portRequest s p .atom h)
/-- FLUSH_L (R112). -/
def execFlushL (p : PortId) (h : PcpHdr) (s : State) : Host.Outcome State Fault Refusal := finish s (portRequest s p .flushL h)
/-- BEAM_REL (R263). -/
def execBeamRel (p : PortId) (h : PcpHdr) (s : State) : Host.Outcome State Fault Refusal := finish s (portRequest s p .beamRel h)
/-- PRSP (R99): a port whose link is down receives none. -/
def execPrsp (p : PortId) (tag : BitVec 8) (l : LineAddr) (d : Option Line) (s : State) : Host.Outcome State Fault Refusal :=
  finish s (if (portSt s p).down then s else probeResp s p tag l d)
/-- DOORBELL_ACCESS (R37): a RD_NC or a WR_NC, which the port decodes. -/
def execDoorbellAccess (p : PortId) (write : Bool) (h : PcpHdr) (s : State) : Host.Outcome State Fault Refusal :=
  finish s (portRequest s p (if write then .wrNc else .rdNc) h)
/-- BEAM_RELEASE_DOORBELL (R264): a WR_NC, which the port decodes. -/
def execBeamReleaseDoorbell (p : PortId) (h : PcpHdr) (s : State) : Host.Outcome State Fault Refusal :=
  finish s (portRequest s p .wrNc h)

end Sys2Proof.Machine
end

