-- ==== Sys2Proof/Machine/RingExec.lean ====
section
/-! DEFINITION. The meanings of the ring messages at this controller (R140, R178) and of the timers that guard them (R166, R204). -/

namespace Sys2Proof.Machine

/-- A message that has come whole: over the own fabric it takes its effect at once; at a ring port that is ACTIVE it holds a
    receive-buffer entry and is delivered, forwarded or crosses as its header says (R133, R147, R348). -/
def arrive (s : State) (i : Input) (m : RingMsg) : State :=
  match i with
  | .fabric => ringArrive s .fabric m
  | .ring p =>
    let x := ringPort s p
    if x.state ≠ .active then s
    else
      let k := creditIx m
      ringRoute (putRing s p { x with rxUsed := tset 0 x.rxUsed k (tget 0 x.rxUsed k + 1) }) p m

/-- RQ_SH (R150). -/
def execRqSh (i : Input) (h : RingHdr) (b : ReqBody) (s : State) : Host.Outcome State Fault Refusal :=
  finish s (arrive s i (.req .sh h b))
/-- RQ_NI (R150). -/
def execRqNi (i : Input) (h : RingHdr) (b : ReqBody) (s : State) : Host.Outcome State Fault Refusal :=
  finish s (arrive s i (.req .ni h b))
/-- RQ_EX (R150). -/
def execRqEx (i : Input) (h : RingHdr) (b : ReqBody) (s : State) : Host.Outcome State Fault Refusal :=
  finish s (arrive s i (.req .ex h b))
/-- RQ_UPG (R150). -/
def execRqUpg (i : Input) (h : RingHdr) (b : ReqBody) (s : State) : Host.Outcome State Fault Refusal :=
  finish s (arrive s i (.req .upg h b))
/-- RQ_CLAIM (R150). -/
def execRqClaim (i : Input) (h : RingHdr) (b : ReqBody) (s : State) : Host.Outcome State Fault Refusal :=
  finish s (arrive s i (.req .claim h b))
/-- RQ_WR (R150). -/
def execRqWr (i : Input) (h : RingHdr) (b : ReqBody) (s : State) : Host.Outcome State Fault Refusal :=
  finish s (arrive s i (.req .wr h b))
/-- RQ_NCRD (R149). -/
def execRqNcrd (i : Input) (h : RingHdr) (b : ReqBody) (s : State) : Host.Outcome State Fault Refusal :=
  finish s (arrive s i (.req .ncrd h b))
/-- RQ_NCWR (R149). -/
def execRqNcwr (i : Input) (h : RingHdr) (b : ReqBody) (s : State) : Host.Outcome State Fault Refusal :=
  finish s (arrive s i (.req .ncwr h b))
/-- RQ_ATOM (R223). -/
def execRqAtom (i : Input) (h : RingHdr) (b : ReqBody) (s : State) : Host.Outcome State Fault Refusal :=
  finish s (arrive s i (.req .atom h b))
/-- HOME_TXN_START (R149). -/
def execHomeTxnStart (sl : SliceId) (s : State) : Host.Outcome State Fault Refusal := finish s (homeBegin s sl)
/-- FAR_RD (R179). -/
def execFarRd (i : Input) (op : ReqOp) (gate : NodeId) (h : RingHdr) (b : ReqBody) (s : State) :
    Host.Outcome State Fault Refusal := finish s (arrive s i (.farReq op gate h b))
/-- FAR_EX (R179). -/
def execFarEx (i : Input) (op : ReqOp) (gate : NodeId) (h : RingHdr) (b : ReqBody) (s : State) :
    Host.Outcome State Fault Refusal := finish s (arrive s i (.farReq op gate h b))
/-- FAR_RECALL (R193). -/
def execFarRecall (i : Input) (h : RingHdr) (b : RecallBody) (s : State) : Host.Outcome State Fault Refusal :=
  finish s (arrive s i (.farRecall h b))
/-- FAR_ACK (R189, R194). -/
def execFarAck (i : Input) (h : RingHdr) (b : FarAckBody) (s : State) : Host.Outcome State Fault Refusal :=
  finish s (arrive s i (.farAck h b))
/-- SNP_SH (R158). -/
def execSnpSh (i : Input) (h : RingHdr) (b : SnpBody) (s : State) : Host.Outcome State Fault Refusal :=
  finish s (arrive s i (.snp .sh h b))
/-- SNP_EX (R158). -/
def execSnpEx (i : Input) (h : RingHdr) (b : SnpBody) (s : State) : Host.Outcome State Fault Refusal :=
  finish s (arrive s i (.snp .ex h b))
/-- SNP_INV (R158). -/
def execSnpInv (i : Input) (h : RingHdr) (b : SnpBody) (s : State) : Host.Outcome State Fault Refusal :=
  finish s (arrive s i (.snp .inv h b))
/-- GRANT (R96, R163). -/
def execGrant (i : Input) (h : RingHdr) (b : GrantBody) (s : State) : Host.Outcome State Fault Refusal :=
  finish s (arrive s i (.grant h b))
/-- GACK (R151). -/
def execGack (i : Input) (h : RingHdr) (s : State) : Host.Outcome State Fault Refusal := finish s (arrive s i (.gack h))
/-- WB_DATA (R162). -/
def execWbData (i : Input) (h : RingHdr) (b : WbBody) (s : State) : Host.Outcome State Fault Refusal :=
  finish s (arrive s i (.wbData h b))
/-- DATA (R163). -/
def execData (i : Input) (h : RingHdr) (b : DataBody) (s : State) : Host.Outcome State Fault Refusal :=
  finish s (arrive s i (.data h b))
/-- WB_ACK (R115). -/
def execWbAck (i : Input) (h : RingHdr) (discarded : Bool) (s : State) : Host.Outcome State Fault Refusal :=
  finish s (arrive s i (.wbAck h discarded))
/-- WR_ACK (R111). -/
def execWrAck (i : Input) (h : RingHdr) (s : State) : Host.Outcome State Fault Refusal := finish s (arrive s i (.wrAck h))
/-- ERR (R144). -/
def execErr (i : Input) (h : RingHdr) (status : BitVec 8) (wba : Bool) (s : State) : Host.Outcome State Fault Refusal :=
  finish s (arrive s i (.err h status wba))
/-- CREDIT (R134). -/
def execCredit (i : Input) (h : RingHdr) (slice : SliceId) (nreq nwbk : BitVec 5) (s : State) :
    Host.Outcome State Fault Refusal := finish s (arrive s i (.credit h slice nreq nwbk))
/-- FD_EVICTION (R199). -/
def execFdEviction (sl : SliceId) (s : State) : Host.Outcome State Fault Refusal := finish s (evictStart s sl)
/-- SNOOP_TIMER (R166). -/
def execSnoopTimer (sl : SliceId) (far : Bool) (i : BitVec 6) (s : State) : Host.Outcome State Fault Refusal :=
  finish s (snoopTimer s sl far i.toNat)
/-- GRANT_TIMER (R166). -/
def execGrantTimer (sl : SliceId) (i : BitVec 8) (s : State) : Host.Outcome State Fault Refusal :=
  finish s (grantTimer s sl i.toNat false)
/-- DATA_TIMER (R166). -/
def execDataTimer (sl : SliceId) (i : BitVec 8) (s : State) : Host.Outcome State Fault Refusal :=
  finish s (dataTimer s sl i.toNat)
/-- WRITEBACK_TIMER (R166). -/
def execWritebackTimer (sl : SliceId) (i : BitVec 7) (s : State) : Host.Outcome State Fault Refusal :=
  finish s (wbackTimer s sl i.toNat)
/-- RECALL_TIMER (R204, R205): of a home transaction or of a directory eviction. -/
def execRecallTimer (sl : SliceId) (evict far : Bool) (i : BitVec 6) (s : State) : Host.Outcome State Fault Refusal :=
  finish s (if evict then evictTimer s sl i.toNat else recallTimer s sl far i.toNat)
/-- GATE_CIRCUIT_TIMER (R204). -/
def execGateCircuitTimer (i : BitVec 6) (s : State) : Host.Outcome State Fault Refusal := finish s (gateTimer s i.toNat)
/-- FAR_GRANT_TIMER (R204). -/
def execFarGrantTimer (sl : SliceId) (i : BitVec 8) (s : State) : Host.Outcome State Fault Refusal :=
  finish s (grantTimer s sl i.toNat true)

end Sys2Proof.Machine
end

