-- ==== Sys2Proof/Machine/SliceExec.lean ====
section
/-! DEFINITION. The meanings of the events inside a slice (chapters 3, 4 and 7). -/

namespace Sys2Proof.Machine

/-- What a replay names re-enters the pipeline; what waited in a port's receive buffer may then move on (R51, R56, R595). -/
def replayItem (s : State) (sl : SliceId) (i : ReplayItem) : State :=
  match i with
  | .request => replayRequest s sl
  | .snoop => replaySnoop s sl
  | .input k => pumpAllRx (replayInput s sl k)
  | .wcBuf k => replayWc s sl k.toNat
  | .repair => replayOwed s sl
/-- Every counter of a slice's predictor becomes 0b01 (R218). -/
def predClear (s : State) (sl : SliceId) : State :=
  let x := sliceSt s sl
  if x.clrBusy then
    putSlice { s with cache := { s.cache with pred := s.cache.pred.filter fun e => e.1 / 65536 ≠ sl.toNat } } sl
      { x with clrBusy := false }
  else s

/-- REPLAY (R56). -/
def execReplay (sl : SliceId) (i : ReplayItem) (s : State) : Host.Outcome State Fault Refusal := finish s (replayItem s sl i)
/-- ALLOC_STALL_TIMEOUT (R61). -/
def execAllocStallTimeout (sl : SliceId) (i : BitVec 8) (s : State) : Host.Outcome State Fault Refusal :=
  finish s (allocTimeout s sl i.toNat)
/-- WC_WINDOW_EXPIRE (R110). -/
def execWcWindowExpire (sl : SliceId) (i : BitVec 6) (s : State) : Host.Outcome State Fault Refusal :=
  finish s (wcExpire s sl i.toNat)
/-- HBM_READ_COMPLETE (R49). -/
def execHbmReadComplete (sl : SliceId) (q : BitVec 2) (pos : Nat) (err : EccOutcome) (odecc : Bool) (s : State) :
    Host.Outcome State Fault Refusal := finish s (hbmReadAt s sl q.toNat pos err odecc)
/-- HBM_WRITE_ACCEPTED (R68, R73). -/
def execHbmWriteAccepted (sl : SliceId) (q : BitVec 2) (pos : Nat) (s : State) : Host.Outcome State Fault Refusal :=
  finish s (hbmAccept s sl q.toNat pos)
/-- REPAIR_TRANSACTION (R121). -/
def execRepairTransaction (sl : SliceId) (s : State) : Host.Outcome State Fault Refusal := finish s (repair s sl)
/-- FILL_INSTALL (R73). -/
def execFillInstall (sl : SliceId) (i : BitVec 8) (s : State) : Host.Outcome State Fault Refusal :=
  finish s (fillInstall s sl i.toNat)
/-- ATOM_PERFORM (R220). -/
def execAtomPerform (sl : SliceId) (i : BitVec 8) (s : State) : Host.Outcome State Fault Refusal :=
  finish s (atomStep s sl i.toNat)
/-- PENUMBRA_HOLD_END (R115). -/
def execPenumbraHoldEnd (sl : SliceId) (i : BitVec 7) (s : State) : Host.Outcome State Fault Refusal :=
  finish s (penHoldEnd s sl i.toNat)
/-- PENUMBRA_WRITEBACK (R115). -/
def execPenumbraWriteback (sl : SliceId) (i : BitVec 7) (s : State) : Host.Outcome State Fault Refusal :=
  finish s (penWriteback s sl i.toNat)
/-- REFERRED_SNOOP (R103). -/
def execReferredSnoop (sl : SliceId) (s : State) : Host.Outcome State Fault Refusal := finish s (replaySnoop s sl)
/-- PREDICTOR_CLEAR_DONE (R218). -/
def execPredictorClearDone (sl : SliceId) (s : State) : Host.Outcome State Fault Refusal := finish s (predClear s sl)

end Sys2Proof.Machine
end

