-- ==== Sys2Proof/Machine/Dispatch.lean ====
section
/-! DEFINITION. One arm per command: each a call of the command's meaning. -/

namespace Sys2Proof.Machine

/-- The effect of a command on everything but the queue of commands. -/
def exec (i : Instr) (s : State) : Host.Outcome State Fault Refusal :=
  match i with
  | .powerOnReset => Sys2Proof.Machine.execPowerOnReset s
  | .systemReset => Sys2Proof.Machine.execSystemReset s
  | .managementReset k => Sys2Proof.Machine.execManagementReset k s
  | .railMonitorTrip => Sys2Proof.Machine.execRailMonitorTrip s
  | .refclkLoss c => Sys2Proof.Machine.execRefclkLoss c s
  | .thermtrip tj => Sys2Proof.Machine.execThermtrip tj s
  | .thermalBackstop tj => Sys2Proof.Machine.execThermalBackstop tj s
  | .startupStepDone r => Sys2Proof.Machine.execStartupStepDone r s
  | .bootWatchdog => Sys2Proof.Machine.execBootWatchdog s
  | .cmdDataWrite m a w => Sys2Proof.Machine.execCmdDataWrite m a w s
  | .rplDataRead m a => Sys2Proof.Machine.execRplDataRead m a s
  | .trcDataRead a => Sys2Proof.Machine.execTrcDataRead a s
  | .cmdFlush m a => Sys2Proof.Machine.execCmdFlush m a s
  | .rplFlush m a => Sys2Proof.Machine.execRplFlush m a s
  | .trcFlush a => Sys2Proof.Machine.execTrcFlush a s
  | .opStatusRead m k a => Sys2Proof.Machine.execOpStatusRead m k a s
  | .opRelease m k a => Sys2Proof.Machine.execOpRelease m k a s
  | .opAbort m k a => Sys2Proof.Machine.execOpAbort m k a s
  | .schedulingTick peersOk => Sys2Proof.Machine.execSchedulingTick peersOk s
  | .sysInfo m q => Sys2Proof.Machine.execSysInfo m q s
  | .applyOverlay m q source atTick ofs tick => Sys2Proof.Machine.execApplyOverlay m q source atTick ofs tick s
  | .commitAt m q mask scope tick => Sys2Proof.Machine.execCommitAt m q mask scope tick s
  | .commitAtDisarm src q => Sys2Proof.Machine.execCommitAtDisarm src q s
  | .logRead m q toBar2 maxWords start ofs => Sys2Proof.Machine.execLogRead m q toBar2 maxWords start ofs s
  | .fwUpdateBegin m q len => Sys2Proof.Machine.execFwUpdateBegin m q len s
  | .fwUpdateWrite m q ofs imgOfs len => Sys2Proof.Machine.execFwUpdateWrite m q ofs imgOfs len s
  | .fwUpdateCommit m q => Sys2Proof.Machine.execFwUpdateCommit m q s
  | .fwUpdateCancel m q => Sys2Proof.Machine.execFwUpdateCancel m q s
  | .thermalJunctionLimit m q v => Sys2Proof.Machine.execThermalJunctionLimit m q v s
  | .thermalPowerCap m q v => Sys2Proof.Machine.execThermalPowerCap m q v s
  | .emergencyThrottle m q => Sys2Proof.Machine.execEmergencyThrottle m q s
  | .endEmergency m q => Sys2Proof.Machine.execEndEmergency m q s
  | .thermalClear m q => Sys2Proof.Machine.execThermalClear m q s
  | .cacheFlush m q whole pid first last => Sys2Proof.Machine.execCacheFlush m q whole pid first last s
  | .cacheDisable m q whole pid => Sys2Proof.Machine.execCacheDisable m q whole pid s
  | .cacheEnable m q whole pid => Sys2Proof.Machine.execCacheEnable m q whole pid s
  | .partCreate m q pid ways pin share streams => Sys2Proof.Machine.execPartCreate m q pid ways pin share streams s
  | .partSetWays m q pid force slices ways => Sys2Proof.Machine.execPartSetWays m q pid force slices ways s
  | .partSetShare m q pid share pin => Sys2Proof.Machine.execPartSetShare m q pid share pin s
  | .partQuiesce m q pid => Sys2Proof.Machine.execPartQuiesce m q pid s
  | .partResume m q pid => Sys2Proof.Machine.execPartResume m q pid s
  | .partFreeze m q pid => Sys2Proof.Machine.execPartFreeze m q pid s
  | .partSave m q pid target checkpoint ofs dest slot homes => Sys2Proof.Machine.execPartSave m q pid target checkpoint ofs dest slot homes s
  | .partRestore m q fromSlot slot newPid maskMode homeAct lostFill ofs portMap ways => Sys2Proof.Machine.execPartRestore m q fromSlot slot newPid maskMode homeAct lostFill ofs portMap ways s
  | .partRemove m q pid => Sys2Proof.Machine.execPartRemove m q pid s
  | .beamAdmit m q desc peersOk => Sys2Proof.Machine.execBeamAdmit m q desc peersOk s
  | .beamAdmitDryrun m q desc => Sys2Proof.Machine.execBeamAdmitDryrun m q desc s
  | .beamStart m q c start => Sys2Proof.Machine.execBeamStart m q c start s
  | .beamCancel m q c => Sys2Proof.Machine.execBeamCancel m q c s
  | .beamStatus m q c => Sys2Proof.Machine.execBeamStatus m q c s
  | .sliceRetire m q n => Sys2Proof.Machine.execSliceRetire m q n s
  | .sliceReturn m q n selfTestOk => Sys2Proof.Machine.execSliceReturn m q n selfTestOk s
  | .portRetire m q port force => Sys2Proof.Machine.execPortRetire m q port force s
  | .portReturn m q port => Sys2Proof.Machine.execPortReturn m q port s
  | .ringCensus m q ofs => Sys2Proof.Machine.execRingCensus m q ofs s
  | .ringCensusReport m q => Sys2Proof.Machine.execRingCensusReport m q s
  | .ringKeySet m q slot kgen activate key => Sys2Proof.Machine.execRingKeySet m q slot kgen activate key s
  | .ringKeyClear m q slot => Sys2Proof.Machine.execRingKeyClear m q slot s
  | .ringFold m q port => Sys2Proof.Machine.execRingFold m q port s
  | .ringUnfold m q port => Sys2Proof.Machine.execRingUnfold m q port s
  | .peerImg src q slot last first words => Sys2Proof.Machine.execPeerImg src q slot last first words s
  | .peerLedger src q add c origin charges => Sys2Proof.Machine.execPeerLedger src q add c origin charges s
  | .peerFence src q set ranges => Sys2Proof.Machine.execPeerFence src q set ranges s
  | .peerQuery src q origin pid => Sys2Proof.Machine.execPeerQuery src q origin pid s
  | .peerHomestep src q stepNo action move => Sys2Proof.Machine.execPeerHomestep src q stepNo action move s
  | .nopRecord => Sys2Proof.Machine.execNopRecord s
  | .regRecord blk page ofs value mask => Sys2Proof.Machine.execRegRecord blk page ofs value mask s
  | .reg64Record blk page ofs lo hi => Sys2Proof.Machine.execReg64Record blk page ofs lo hi s
  | .idxRecord space word data => Sys2Proof.Machine.execIdxRecord space word data s
  | .cmdRecord header args => Sys2Proof.Machine.execCmdRecord header args s
  | .commitRecord mask => Sys2Proof.Machine.execCommitRecord mask s
  | .waitRecord blk page ofs mask value timeout elapsed => Sys2Proof.Machine.execWaitRecord blk page ofs mask value timeout elapsed s
  | .thermalRecord tj cap => Sys2Proof.Machine.execThermalRecord tj cap s
  | .commit a mask => Sys2Proof.Machine.execCommit a mask s
  | .armedCommitFire => Sys2Proof.Machine.execArmedCommitFire s
  | .cacheCtlEnClear a => Sys2Proof.Machine.execCacheCtlEnClear a s
  | .partCtlEnClear a p => Sys2Proof.Machine.execPartCtlEnClear a p s
  | .viewCtlWrite a w => Sys2Proof.Machine.execViewCtlWrite a w s
  | .pcpLinkEnWrite a p en => Sys2Proof.Machine.execPcpLinkEnWrite a p en s
  | .ringLinkEnWrite a p en => Sys2Proof.Machine.execRingLinkEnWrite a p en s
  | .ddrCtlEnClear a n => Sys2Proof.Machine.execDdrCtlEnClear a n s
  | .ddrCtlEnSet a n => Sys2Proof.Machine.execDdrCtlEnSet a n s
  | .atomCtlClr a n => Sys2Proof.Machine.execAtomCtlClr a n s
  | .idxDataRead a => Sys2Proof.Machine.execIdxDataRead a s
  | .idxDataWrite a w => Sys2Proof.Machine.execIdxDataWrite a w s
  | .histLoRead a => Sys2Proof.Machine.execHistLoRead a s
  | .pairRead a addr => Sys2Proof.Machine.execPairRead a addr s
  | .readClear a addr len => Sys2Proof.Machine.execReadClear a addr len s
  | .cntEvtWrite a e v => Sys2Proof.Machine.execCntEvtWrite a e v s
  | .cntModeWrite a j w => Sys2Proof.Machine.execCntModeWrite a j w s
  | .smpEnable a ix event mode pfilt part => Sys2Proof.Machine.execSmpEnable a ix event mode pfilt part s
  | .smpRecFree a ix => Sys2Proof.Machine.execSmpRecFree a ix s
  | .dumpEnable a ext nbuf => Sys2Proof.Machine.execDumpEnable a ext nbuf s
  | .dumpAckWrite a v => Sys2Proof.Machine.execDumpAckWrite a v s
  | .idleHintWrite a v => Sys2Proof.Machine.execIdleHintWrite a v s
  | .registerWrite a addr len v => Sys2Proof.Machine.execRegisterWrite a addr len v s
  | .smbBlockWrite pecOk ofs w => Sys2Proof.Machine.execSmbBlockWrite pecOk ofs w s
  | .smbReadOffset pecOk ofs => Sys2Proof.Machine.execSmbReadOffset pecOk ofs s
  | .smbBlockRead pecOk => Sys2Proof.Machine.execSmbBlockRead pecOk s
  | .pcpLinkUp p rate x8 => Sys2Proof.Machine.execPcpLinkUp p rate x8 s
  | .initFlit p ver role prbCred => Sys2Proof.Machine.execInitFlit p ver role prbCred s
  | .flitReceive p f => Sys2Proof.Machine.execFlitReceive p f s
  | .pcpReplayTimer p c => Sys2Proof.Machine.execPcpReplayTimer p c s
  | .pcpLinkDown p => Sys2Proof.Machine.execPcpLinkDown p s
  | .portPurgeDone p => Sys2Proof.Machine.execPortPurgeDone p s
  | .portRetireTimeout p => Sys2Proof.Machine.execPortRetireTimeout p s
  | .portReturnTimeout port => Sys2Proof.Machine.execPortReturnTimeout port s
  | .rdSh p h => Sys2Proof.Machine.execRdSh p h s
  | .rdEx p h => Sys2Proof.Machine.execRdEx p h s
  | .rd1x p h => Sys2Proof.Machine.execRd1x p h s
  | .upg p h => Sys2Proof.Machine.execUpg p h s
  | .claim p h => Sys2Proof.Machine.execClaim p h s
  | .wbD p h => Sys2Proof.Machine.execWbD p h s
  | .wbC p h => Sys2Proof.Machine.execWbC p h s
  | .drop p h => Sys2Proof.Machine.execDrop p h s
  | .rdNc p h => Sys2Proof.Machine.execRdNc p h s
  | .wrNc p h => Sys2Proof.Machine.execWrNc p h s
  | .atom p h => Sys2Proof.Machine.execAtom p h s
  | .flushL p h => Sys2Proof.Machine.execFlushL p h s
  | .beamRel p h => Sys2Proof.Machine.execBeamRel p h s
  | .prsp p tag l d => Sys2Proof.Machine.execPrsp p tag l d s
  | .doorbellAccess p write h => Sys2Proof.Machine.execDoorbellAccess p write h s
  | .beamReleaseDoorbell p h => Sys2Proof.Machine.execBeamReleaseDoorbell p h s
  | .replay sl ix => Sys2Proof.Machine.execReplay sl ix s
  | .allocStallTimeout sl ix => Sys2Proof.Machine.execAllocStallTimeout sl ix s
  | .wcWindowExpire sl ix => Sys2Proof.Machine.execWcWindowExpire sl ix s
  | .hbmReadComplete sl q pos err odecc => Sys2Proof.Machine.execHbmReadComplete sl q pos err odecc s
  | .hbmWriteAccepted sl q pos => Sys2Proof.Machine.execHbmWriteAccepted sl q pos s
  | .repairTransaction sl => Sys2Proof.Machine.execRepairTransaction sl s
  | .fillInstall sl ix => Sys2Proof.Machine.execFillInstall sl ix s
  | .atomPerform sl ix => Sys2Proof.Machine.execAtomPerform sl ix s
  | .penumbraHoldEnd sl ix => Sys2Proof.Machine.execPenumbraHoldEnd sl ix s
  | .penumbraWriteback sl ix => Sys2Proof.Machine.execPenumbraWriteback sl ix s
  | .referredSnoop sl => Sys2Proof.Machine.execReferredSnoop sl s
  | .walkerFlushStep sl => Sys2Proof.Machine.execWalkerFlushStep sl s
  | .foldWalkStep sl => Sys2Proof.Machine.execFoldWalkStep sl s
  | .foldSetDone sl => Sys2Proof.Machine.execFoldSetDone sl s
  | .scrubStep sl => Sys2Proof.Machine.execScrubStep sl s
  | .drainEnd whole p => Sys2Proof.Machine.execDrainEnd whole p s
  | .quiesceDone p => Sys2Proof.Machine.execQuiesceDone p s
  | .freezeTick p => Sys2Proof.Machine.execFreezeTick p s
  | .cancelDone c => Sys2Proof.Machine.execCancelDone c s
  | .rqSh ix h b => Sys2Proof.Machine.execRqSh ix h b s
  | .rqNi ix h b => Sys2Proof.Machine.execRqNi ix h b s
  | .rqEx ix h b => Sys2Proof.Machine.execRqEx ix h b s
  | .rqUpg ix h b => Sys2Proof.Machine.execRqUpg ix h b s
  | .rqClaim ix h b => Sys2Proof.Machine.execRqClaim ix h b s
  | .rqWr ix h b => Sys2Proof.Machine.execRqWr ix h b s
  | .rqNcrd ix h b => Sys2Proof.Machine.execRqNcrd ix h b s
  | .rqNcwr ix h b => Sys2Proof.Machine.execRqNcwr ix h b s
  | .rqAtom ix h b => Sys2Proof.Machine.execRqAtom ix h b s
  | .homeTxnStart sl => Sys2Proof.Machine.execHomeTxnStart sl s
  | .farRd ix op gate h b => Sys2Proof.Machine.execFarRd ix op gate h b s
  | .farEx ix op gate h b => Sys2Proof.Machine.execFarEx ix op gate h b s
  | .farRecall ix h b => Sys2Proof.Machine.execFarRecall ix h b s
  | .farAck ix h b => Sys2Proof.Machine.execFarAck ix h b s
  | .snpSh ix h b => Sys2Proof.Machine.execSnpSh ix h b s
  | .snpEx ix h b => Sys2Proof.Machine.execSnpEx ix h b s
  | .snpInv ix h b => Sys2Proof.Machine.execSnpInv ix h b s
  | .grant ix h b => Sys2Proof.Machine.execGrant ix h b s
  | .gack ix h => Sys2Proof.Machine.execGack ix h s
  | .wbData ix h b => Sys2Proof.Machine.execWbData ix h b s
  | .data ix h b => Sys2Proof.Machine.execData ix h b s
  | .wbAck ix h discarded => Sys2Proof.Machine.execWbAck ix h discarded s
  | .wrAck ix h => Sys2Proof.Machine.execWrAck ix h s
  | .err ix h status wba => Sys2Proof.Machine.execErr ix h status wba s
  | .credit ix h slice nreq nwbk => Sys2Proof.Machine.execCredit ix h slice nreq nwbk s
  | .fdEviction sl => Sys2Proof.Machine.execFdEviction sl s
  | .snoopTimer sl far ix => Sys2Proof.Machine.execSnoopTimer sl far ix s
  | .grantTimer sl ix => Sys2Proof.Machine.execGrantTimer sl ix s
  | .dataTimer sl ix => Sys2Proof.Machine.execDataTimer sl ix s
  | .writebackTimer sl ix => Sys2Proof.Machine.execWritebackTimer sl ix s
  | .recallTimer sl evict far ix => Sys2Proof.Machine.execRecallTimer sl evict far ix s
  | .gateCircuitTimer ix => Sys2Proof.Machine.execGateCircuitTimer ix s
  | .farGrantTimer sl ix => Sys2Proof.Machine.execFarGrantTimer sl ix s
  | .ringTrainDone p lanes isForeign => Sys2Proof.Machine.execRingTrainDone p lanes isForeign s
  | .prlFrame p f => Sys2Proof.Machine.execPrlFrame p f s
  | .ringReplayTimer p => Sys2Proof.Machine.execRingReplayTimer p s
  | .blockLockLoss p lanes => Sys2Proof.Machine.execBlockLockLoss p lanes s
  | .laneSet p set => Sys2Proof.Machine.execLaneSet p set s
  | .laneSetTimeout p => Sys2Proof.Machine.execLaneSetTimeout p s
  | .authChal p ver port ctrl kgen nonce => Sys2Proof.Machine.execAuthChal p ver port ctrl kgen nonce s
  | .authResp p mac => Sys2Proof.Machine.execAuthResp p mac s
  | .authDone p r => Sys2Proof.Machine.execAuthDone p r s
  | .authTimeout p => Sys2Proof.Machine.execAuthTimeout p s
  | .authRestart p => Sys2Proof.Machine.execAuthRestart p s
  | .census p c => Sys2Proof.Machine.execCensus p c s
  | .epochPrep p initiator epoch r tm => Sys2Proof.Machine.execEpochPrep p initiator epoch r tm s
  | .epochAck p member epoch => Sys2Proof.Machine.execEpochAck p member epoch s
  | .epochCommit upper => Sys2Proof.Machine.execEpochCommit upper s
  | .drain p d => Sys2Proof.Machine.execDrain p d s
  | .epochDrainEnd upper => Sys2Proof.Machine.execEpochDrainEnd upper s
  | .peer p dst src words last => Sys2Proof.Machine.execPeer p dst src words last s
  | .peerAssemblyTimeout src => Sys2Proof.Machine.execPeerAssemblyTimeout src s
  | .slow p origin node on => Sys2Proof.Machine.execSlow p origin node on s
  | .starveTimer p => Sys2Proof.Machine.execStarveTimer p s
  | .starveRetireTimer p => Sys2Proof.Machine.execStarveRetireTimer p s
  | .slowClear p => Sys2Proof.Machine.execSlowClear p s
  | .autoReturnTimer p => Sys2Proof.Machine.execAutoReturnTimer p s
  | .syncPeriod => Sys2Proof.Machine.execSyncPeriod s
  | .sync p => Sys2Proof.Machine.execSync p s
  | .syncRsp p t1 t2 t3 t4 => Sys2Proof.Machine.execSyncRsp p t1 t2 t3 t4 s
  | .lostHomeTimeout sl ix => Sys2Proof.Machine.execLostHomeTimeout sl ix s
  | .tstampEdge ix falling before after tick => Sys2Proof.Machine.execTstampEdge ix falling before after tick s
  | .rowOpen c => Sys2Proof.Machine.execRowOpen c s
  | .rowExpiry c => Sys2Proof.Machine.execRowExpiry c s
  | .stagingIssue k => Sys2Proof.Machine.execStagingIssue k s
  | .stagingRead sl => Sys2Proof.Machine.execStagingRead sl s
  | .residencyReport => Sys2Proof.Machine.execResidencyReport s
  | .releaseStep c => Sys2Proof.Machine.execReleaseStep c s
  | .dieSensorRead tj => Sys2Proof.Machine.execDieSensorRead tj s
  | .powerEstimate pkg => Sys2Proof.Machine.execPowerEstimate pkg s
  | .throttleWindow => Sys2Proof.Machine.execThrottleWindow s
  | .dvfsWindow n lookups cycles => Sys2Proof.Machine.execDvfsWindow n lookups cycles s
  | .voltageRampDone n => Sys2Proof.Machine.execVoltageRampDone n s
  | .hbmTempRead k temp => Sys2Proof.Machine.execHbmTempRead k temp s
  | .rdimmTempRead n temp => Sys2Proof.Machine.execRdimmTempRead n temp s
  | .mr4Read n double => Sys2Proof.Machine.execMr4Read n double s
  | .a1IdleEntry d => Sys2Proof.Machine.execA1IdleEntry d s
  | .domainEntryDone d => Sys2Proof.Machine.execDomainEntryDone d s
  | .wakeAlarm d => Sys2Proof.Machine.execWakeAlarm d s
  | .domainWakeDone d ok => Sys2Proof.Machine.execDomainWakeDone d ok s
  | .ddrRefresh n bank limit => Sys2Proof.Machine.execDdrRefresh n bank limit s
  | .ddrRfm n bank raaimt => Sys2Proof.Machine.execDdrRfm n bank raaimt s
  | .hbmRefresh sl q bank limit => Sys2Proof.Machine.execHbmRefresh sl q bank limit s
  | .alertN n => Sys2Proof.Machine.execAlertN n s
  | .retrainDone n ok => Sys2Proof.Machine.execRetrainDone n ok s
  | .tracking lost => Sys2Proof.Machine.execTracking lost s
  | .patrolScrubBurst n outcomes => Sys2Proof.Machine.execPatrolScrubBurst n outcomes s
  | .ddrReadComplete n pos err => Sys2Proof.Machine.execDdrReadComplete n pos err s
  | .engineWatchdog e => Sys2Proof.Machine.execEngineWatchdog e s
  | .engineStop e memoryLost => Sys2Proof.Machine.execEngineStop e memoryLost s
  | .counterWrap e n => Sys2Proof.Machine.execCounterWrap e n s
  | .sampleOverflow ix n => Sys2Proof.Machine.execSampleOverflow ix n s
  | .sampleCapture ix a port portv part cls op slice skid => Sys2Proof.Machine.execSampleCapture ix a port portv part cls op slice skid s
  | .dumpSnapshot busMaster => Sys2Proof.Machine.execDumpSnapshot busMaster s
  | .resetRelease pin => Sys2Proof.Machine.execResetRelease pin s
  | .refclkReturn c => Sys2Proof.Machine.execRefclkReturn c s
  | .ltssmTransition p t => Sys2Proof.Machine.execLtssmTransition p t s
  | .peerUnreachable k => Sys2Proof.Machine.execPeerUnreachable k s
  | .bar2Write ofs bytes => Sys2Proof.Machine.execBar2Write ofs bytes s
  | .registerRead a addr len => Sys2Proof.Machine.execRegisterRead a addr len s
  | .operationProgress k reply => Sys2Proof.Machine.execOperationProgress k reply s
  | .snapshotTick k => Sys2Proof.Machine.execSnapshotTick k s
  | .portFilterPurgeStep p sl => Sys2Proof.Machine.execPortFilterPurgeStep p sl s
  | .moveWalkStep sl => Sys2Proof.Machine.execMoveWalkStep sl s
  | .channelReturnDone n ok => Sys2Proof.Machine.execChannelReturnDone n ok s
  | .predictorClearDone sl => Sys2Proof.Machine.execPredictorClearDone sl s
  | .debugHalt e halt => Sys2Proof.Machine.execDebugHalt e halt s

end Sys2Proof.Machine
end

