-- ==== Sys2Proof/Machine/Tick.lean ====
section
/-! DEFINITION. A tick of device time (R4, R511), which the block makes while no command waits: condition events (R490-R494), the
    reflected copies (R454), and ports that close when the controller takes itself out (R569). -/

namespace Sys2Proof.Machine

/-- Cycles that an island of f kHz begins in the tick at device time t (R508). -/
def cyclesIn (f t : Nat) : Nat := (t + 1) * f / 1000000 - t * f / 1000000
/-- The frequency of a DDR or HBM island, by its rate code (R508). -/
def memKhz (rate : BitVec 2) : Nat := if rate = 0 then 1600000 else if rate = 1 then 1400000 else 1200000
/-- The frequency in kHz of the island that counts a condition event (R490, R508). -/
def eventKhz (s : State) (e : Nat) : Nat :=
  if e < 0x100 then 1000000
  else if e < 0x120 then 1562500
  else if e < 0x150 then memKhz (chanSt s (e % 8)).rate
  else if e < 0x160 then memKhz (hbmSt s (e % 2)).rate
  else if e < 0x174 then (if s.pwr.level = 6 then 500000 else 1000000)
  else if e = 0x176 then (if s.pwr.level = 6 then 1000000 else 2000000)
  else if e = 0x178 then 1000000
  else 25000
/-- Whether the condition of event e holds (R492, R493). REF_WAIT, REF_ACTIVE and LCI_BUSY hold for times that the model
    leaves out (log entry 108). -/
def condHolds (s : State) (e : Nat) : Bool :=
  if e < 0x100 then
    let x := portSt s (BitVec.ofNat 3 e)
    if e < 0xF8 then !x.probeHold.isEmpty else !x.rxq.isEmpty
  else if e < 0x120 then !(tget ringPort0 s.net.ports (e % 4)).starved.isEmpty
  else if e < 0x150 then (if (e - 0x120) / 8 = 5 then !(chanReads s (BitVec.ofNat 3 e)).isEmpty else false)
  else if e < 0x160 then
    let k := e % 2
    match (e - 0x150) / 2 with
    | 4 => s.cache.hbmq.any fun q => q.1 / 32 == k && !q.2.isEmpty
    | 6 => asleep s (52 + k)
    | 7 => decide (85 ≤ celsius (hbmSt s k).temp)
    | _ => false
  else if e < 0x174 then (clusterOffer s (BitVec.ofNat 3 ((e - 0x160) % 5))).isSome
  else if e = 0x176 then (List.range 8).any fun p => !(portSt s (BitVec.ofNat 3 p)).rxq.isEmpty
  else if e = 0x17E then s.pwr.level != 0
  else e == 0x17F
/-- The clock of the event's island runs: its domain is in A0 (R514). -/
def eventClock (s : State) (e : Nat) : Bool := (eventDomain e).all fun d => (domSt s d).state == 0
/-- A condition event in the cycles of a tick. -/
def condTick (s : State) (e : Nat) : State :=
  if !eventClock s e then s
  else (List.range (cyclesIn (eventKhz s e) s.now.toNat)).foldl (fun s _ => condFor s e (condHolds s e)) s
/-- The condition events. -/
def condEvents : List Nat := (List.range 0x180).filter isCond
/-- A controller that has taken itself out: its ring ports go down as failed ports, and each PCP port once it has no open
    request (R338, R569). -/
def closePorts (s : State) : State :=
  let s := if allRing.any fun p => (ringPort s p).state != .down then linkEvent (allRing.foldl portFail s) else s
  (List.range 8).foldl (fun s n =>
    let p : PortId := BitVec.ofNat 3 n
    let x := portSt s p
    if !x.down && x.ltssm == .l0 && x.open_.isEmpty then portDown s p else s) s
/-- One tick. While a reset is held, no clock of the model runs. -/
def tick (s : State) : State :=
  if inReset s then s
  else
    let s := condEvents.foldl condTick { s with now := s.now + 1, boot := { s.boot with upTime := s.boot.upTime + 1 } }
    let s := if s.now.toNat % 40 = 0 then refreshCopies s else s
    let s := if commitBusy s then s else { s with regs := { s.regs with busy := none } }
    if s.ctrlOut then closePorts s else s

end Sys2Proof.Machine
end

