-- ==== Sys2Proof/Safety.lean ====
section
/-! DEFINITION. What a safe step is, and the conditions and states that claims name. -/

namespace Sys2Proof.Safety

open Sys2Proof.Machine

/-- A step that answers a next state. -/
def Completes (o : Host.Outcome State Fault Refusal) : Prop := ∃ t, o = .next t
/-- INT_n is driven low exactly while an enabled event is pending (R441). -/
def IntOk (s : State) : Prop := s.boot.intLow = decide (s.ctrs.intStatus &&& s.ctrs.intEn ≠ 0)
/-- The memories keep their canonical form. -/
def MemOk (m : Mem) : Prop :=
  Memory.wf m.ddr = true ∧ Memory.wf m.hbm = true ∧ Memory.wf m.bar2 = true ∧ Memory.wf m.nor = true ∧ Memory.wf m.slots = true
    ∧ Memory.wf m.lantern = true
/-- No reset is held (R533). -/
abbrev Running (s : State) : Prop := inReset s = false
/-- No reset is held, and where the master is the management endpoint, it is up (R533, R535). -/
abbrev Reaches (s : State) (a : Master) : Prop := inReset s = false ∧ (a == .mgmt && endpointDown s) = false
/-- Every island is as a reset leaves it (R533): beside the pins and what start-up keeps, the NOR, the board's wiring, the ring keys
    that the NOR keeps, the queue of commands, what has gone out and the model's own counts, the state is that of a reset. -/
def AtReset (t : State) : Prop :=
  t = { State.reset with
    pending := t.pending, serial := t.serial, free := t.free, out := t.out, unwired := t.unwired, boot := t.boot
    net := { netReset with key0 := t.net.key0, key1 := t.net.key1, activeKey := t.net.activeKey }
    mem := { State.reset.mem with nor := t.mem.nor } }
/-- The commands that act also while a reset is held: those of pins, rails and clocks. -/
def isPin : Instr → Bool
  | .powerOnReset | .systemReset | .managementReset _ | .railMonitorTrip | .refclkLoss _ | .resetRelease _ | .refclkReturn _ => true
  | _ => false
/-- The master whose access a command is (R443). -/
def masterOf : Instr → Option Master
  | .cmdDataWrite _ a _ | .rplDataRead _ a | .trcDataRead a | .cmdFlush _ a | .rplFlush _ a | .trcFlush a | .opStatusRead _ _ a
  | .opRelease _ _ a | .opAbort _ _ a | .commit a _ | .cacheCtlEnClear a | .partCtlEnClear a _ | .viewCtlWrite a _
  | .pcpLinkEnWrite a _ _ | .ringLinkEnWrite a _ _ | .ddrCtlEnClear a _ | .ddrCtlEnSet a _ | .atomCtlClr a _ | .idxDataRead a
  | .idxDataWrite a _ | .histLoRead a | .pairRead a _ | .readClear a _ _ | .cntEvtWrite a _ _ | .cntModeWrite a _ _
  | .smpEnable a _ _ _ _ _ | .smpRecFree a _ | .dumpEnable a _ _ | .dumpAckWrite a _ | .idleHintWrite a _
  | .registerWrite a _ _ _ | .registerRead a _ _ => some a
  | .bar2Write _ _ => some .mgmt
  | _ => none
/-- The engine of Lantern that takes commands runs (R420, R565). -/
abbrev LanternRuns (s : State) : Prop := engineRuns s 62 = true
/-- The state in which Lantern-A runs a command: its domain is awake, and the command is counted (R420, R493). -/
def atLantern (s : State) : State := count (wakeDom s 59 true) 0x177
/-- Lantern-A takes the command `c` from mailbox `m` now, and every check of R420 passes. -/
abbrev Taken (s : State) (m : Mailbox) (c : LciCmd) : Prop :=
  Running s ∧ mbxServed s m = true ∧ ((mbxSt s m).held.isEmpty = true ∨ emergencyCmd m c = true) ∧ lciCheck (atLantern s) m c true = 0
/-- The operation slot of a command as it starts: RUNNING, with its code, its SEQ and the objects it holds (R421, R423). -/
def startedSlot (s : State) (c : LciCmd) (q : BitVec 8) : OpSlot :=
  { state := .running, error := 0, opcode := lciOpcode c, seq := q, progress := 0, result := 0, job := .hw, objs := lciObjs s c }
/-- A background command in slot `k`: the state in which its work begins (R421, R423). -/
def started (s : State) (k : SlotRef) (c : LciCmd) (q : BitVec 8) : State := putOp (atLantern s) k (startedSlot (atLantern s) c q)
/-- The reply that a background command has started, with its slot number (R420). -/
def startReply (t : State) (m : Mailbox) (src : CtrlId) (k : SlotRef) (q : BitVec 8) : State :=
  reply t m src 0x01 q [fieldAt (k.extractLsb' 0 3) 0]
/-- A domain is awake, and no entry into sleep is under way. -/
abbrev Awake (s : State) (d : Nat) : Prop := (domSt s d).entering = none ∧ (domSt s d).state.toNat < 2
/-- The command of a request of a port (R327). -/
def requestCmd (op : PcpOp) (p : PortId) (h : PcpHdr) : Instr :=
  match op with
  | .rdSh => .rdSh p h | .rdEx => .rdEx p h | .rd1x => .rd1x p h | .upg => .upg p h | .claim => .claim p h | .wbD => .wbD p h
  | .wbC => .wbC p h | .drop => .drop p h | .rdNc => .rdNc p h | .wrNc => .wrNc p h | .atom => .atom p h | .flushL => .flushL p h
  | .beamRel => .beamRel p h
/-- The state in which a port decodes a request that has come: its credits are spent, the port is awake, and the request is counted
    (R323, R492). -/
def atPort (s : State) (p : PortId) (op : PcpOp) (h : PcpHdr) : State :=
  count (wakeDom (spendReq s p (reqData op h)) (32 + p.toNat) true) (evPcp 0 p)
/-- The command of a ring message that comes by an input (R140, R178). -/
def ringCmd (i : Input) (m : RingMsg) : Instr :=
  match m with
  | .req .sh h b => .rqSh i h b
  | .req .ni h b => .rqNi i h b
  | .req .ex h b => .rqEx i h b
  | .req .upg h b => .rqUpg i h b
  | .req .claim h b => .rqClaim i h b
  | .req .wr h b => .rqWr i h b
  | .req .ncrd h b => .rqNcrd i h b
  | .req .ncwr h b => .rqNcwr i h b
  | .req .atom h b => .rqAtom i h b
  | .farReq .sh g h b => .farRd i .sh g h b
  | .farReq .ni g h b => .farRd i .ni g h b
  | .farReq .ncrd g h b => .farRd i .ncrd g h b
  | .farReq op g h b => .farEx i op g h b
  | .farRecall h b => .farRecall i h b
  | .farAck h b => .farAck i h b
  | .snp .sh h b => .snpSh i h b
  | .snp .ex h b => .snpEx i h b
  | .snp .inv h b => .snpInv i h b
  | .wbData h b => .wbData i h b
  | .data h b => .data i h b
  | .grant h b => .grant i h b
  | .gack h => .gack i h
  | .wbAck h d => .wbAck i h d
  | .wrAck h => .wrAck i h
  | .err h st w => .err i h st w
  | .credit h sl a b => .credit i h sl a b

end Sys2Proof.Safety
end

