-- ==== Sys2Proof/Certificates/Slice0/Obligations.lean ====
section
/-! DEFINITION. The statements for the provers. A statement of several clauses under one name groups commands of one shape. -/

open Sys2Proof Sys2Proof.Machine Sys2Proof.Safety

/-- The command at the front of the queue is carried out on the state with the rest of the queue. -/
def Obligations.StepRunsTheFrontCommand : Prop :=
  ∀ (s : State) (c : Instr) (rest : List Instr),
    step { s with pending := c :: rest } = exec c { s with pending := rest }

/-- No step stops: from every state a next state is answered, whatever command is in front (a fault and a refusal are never
    answered). Every step takes exactly the front command from the queue, and adds none. -/
def Obligations.EveryStepTakesOneCommand : Prop :=
  (
    (∀ s : State, Completes (step s)) ∧ ∀ (c : Instr) (s : State), Completes (exec c s))
  ∧
  (
    ∀ s t : State, step s = .next t → t.pending = s.pending.tail)

/-- INT_n follows the event registers after every step, from every state (R441). -/
def Obligations.IntFollowsEventsAfterEveryStep : Prop := ∀ s t : State, step s = .next t → IntOk t

/-- INT_n is not driven at reset, and follows the event registers there. -/
def Obligations.IntFollowsEventsAtReset : Prop := IntOk State.reset ∧ State.reset.boot.intLow = false

/-- While a reset is held, a command that is not of a pin, a rail or a clock finds nothing that acts: every field stays, but for
    INT_n, which follows the event registers. So does an access of the management endpoint while the endpoint is not up. The
    reading is the model's (log entry 54). -/
def Obligations.NothingActsUnderReset : Prop :=
  (∀ (c : Instr) (s : State), inReset s = true → isPin c = false → exec c s = .next (settle s))
  ∧ (∀ (c : Instr) (s : State), masterOf c = some .mgmt → endpointDown s = true → exec c s = .next (settle s))

/-- A step on an empty queue is a tick of device time (log entry 60), in every state. While no reset is held, and the controller has
    not taken itself out, it takes no command, changes no memory, cache, home or port state, and device time is one more; under a
    reset every field stays, but for INT_n. -/
def Obligations.AnEmptyQueueTicks : Prop :=
  (∀ s : State, s.pending = [] → Running s → s.ctrlOut = false →
    ∃ t, step s = .next t ∧ t.now = s.now + 1 ∧ t.pending = [] ∧ t.cache = s.cache ∧ t.home = s.home ∧ t.mem = s.mem
      ∧ t.ports = s.ports ∧ t.parts = s.parts ∧ t.net = s.net ∧ t.beams = s.beams ∧ t.lan = s.lan ∧ t.pwr = s.pwr)
  ∧ (∀ s : State, s.pending = [] → step s = .next (settled s (tick s)))
  ∧ (∀ s : State, s.pending = [] → inReset s = true → step s = .next (settle s))

/-- What reset leaves, where the spec states it: interrupt enables, error threshold, timer registers, flags, partition 0, the
    admission registers, the synchronisation period and the dump registers. -/
def Obligations.ResetValues : Prop :=
  let s := State.reset
  s.pending = [] ∧ s.now = 0 ∧ s.ctrs.intEn = 0x88C ∧ s.ctrs.ceThresh = 0x1000 ∧ s.ctrs.evt = 0 ∧ s.ctrs.errEvent = 0
    ∧ s.tmo = ⟨20, 1000, 20, 2000, 100, 2000⟩ ∧ s.boot.ready = false ∧ s.boot.stage = 0
    ∧ (partSt s 0).en = true ∧ (partSt s 0).state = 1 ∧ (∀ p : PartId, p ≠ 0 → partSt s p = part0)
    ∧ s.beams.setcap = 12 ∧ s.beams.ddrShare = 50 ∧ s.beams.queueMargin = 1000 ∧ s.beams.refreshMargin = 500
    ∧ s.beams.hbmShare = 50 ∧ s.beams.sliceShare = 50 ∧ s.beams.portShare = 60 ∧ s.beams.ringShare = 50
    ∧ s.net.syncPeriod = 125 ∧ s.ctrs.dump.period = 1000000 ∧ s.ctrs.dump.ext = true ∧ s.ctrs.dump.en = false
    ∧ (∀ n : SliceId, (sliceSt s n).wcWindow = 128 ∧ (sliceSt s n).penHold = 64 ∧ (sliceSt s n).thresh = 2)
    ∧ (∀ p : PortId, (portSt s p).replayTmo = 250 ∧ (portSt s p).replayMax = 4)
    ∧ (∀ k : SlotRef, (opSlot s k).state = .idle) ∧ (∀ c : BitVec 8, (beamCtx s c).worstSlack = 0x7FFFFFFF)

/-- The commands of pins, rails and clocks complete in every state. Power-on and system reset, a rail that falls and the loss of
    REFCLK25 or REFCLK100 return every island to its reset state (R533, R578, R586); a system reset keeps the boot attempt count and
    the firmware log, and a rail and a clock hold the reset until they are back; under a reset SYS_RST_n only falls. Without
    REFCLK156 the ring ports go down; with it back they train again. A management reset flushes the HOST queues, clears the MSI-X
    enables and leaves the rest: running operations and their slots, the cache, the memories and the partitions (R418, R533). -/
def Obligations.ResetsReturnTheController : Prop :=
  (
    (∀ s : State, ∃ t, exec .powerOnReset s = .next t ∧ AtReset t ∧ t.boot.pwrOk = false ∧ inReset t = true ∧ t.boot.attempts = 0
        ∧ t.mem.nor = s.mem.nor ∧ t.pending = s.pending)
    ∧ (∀ s : State, Running s → ∃ t, exec .systemReset s = .next t ∧ AtReset t ∧ t.boot.sysRst = false ∧ inReset t = true
        ∧ t.boot.attempts = s.boot.attempts ∧ t.boot.cause = 1 ∧ t.boot.log = s.boot.log ∧ t.boot.logRecs = s.boot.logRecs
        ∧ t.boot.logSeq = s.boot.logSeq ∧ t.boot.logUnread = s.boot.logUnread ∧ t.boot.thermtrip = s.boot.thermtrip
        ∧ t.mem.nor = s.mem.nor ∧ t.pending = s.pending)
    ∧ (∀ s : State, inReset s = true →
        exec .systemReset s = .next (settled s { s with boot := { s.boot with sysRst := false } }))
    ∧ (∀ s : State, s.boot.pwrOk = true → ∃ t, exec .railMonitorTrip s = .next t ∧ AtReset t ∧ t.boot.railTrip = true
        ∧ inReset t = true ∧ t.mem.nor = s.mem.nor)
    ∧ (∀ s : State, s.boot.pwrOk = false → exec .railMonitorTrip s = .next (settle s))
    ∧ (∀ (s : State) (c : Refclk), c ≠ .r156 → ∃ t, exec (.refclkLoss c) s = .next t ∧ AtReset t
        ∧ t.boot.lostClk = setBit s.boot.lostClk (clkBit c) true ∧ inReset t = true ∧ t.mem.nor = s.mem.nor)
    ∧ (∀ s : State, Running s → exec (.refclkLoss .r156) s =
        .next (settled s (setClk (linkEvent (allRing.foldl portFail s)) .r156 true)))
    ∧ (∀ s : State, inReset s = true → exec (.refclkLoss .r156) s = .next (settled s (setClk s .r156 true)))
    ∧ (∀ (s : State) (c : Refclk), c ≠ .r156 → s.boot.lostClk.getLsbD (clkBit c) = true →
        ∃ t, exec (.refclkReturn c) s = .next t ∧ t.boot.lostClk = setBit s.boot.lostClk (clkBit c) false ∧ t.boot.upTime = 0
          ∧ t.cache = s.cache ∧ t.mem = s.mem ∧ t.net = s.net)
    ∧ (∀ s : State, Running s → s.boot.lostClk.getLsbD 2 = true →
        exec (.refclkReturn .r156) s = .next (settled s (linkEvent (allRing.foldl trainAgain (setClk s .r156 false)))))
    ∧ (∀ s : State, inReset s = true → s.boot.lostClk.getLsbD 2 = true →
        exec (.refclkReturn .r156) s = .next (settled s (setClk s .r156 false)))
    ∧ (∀ (s : State) (c : Refclk), s.boot.lostClk.getLsbD (clkBit c) = false → exec (.refclkReturn c) s = .next (settle s))
    ∧ (∀ s : State, ∃ t, exec (.resetRelease .pwrOk) s = .next t ∧ t.boot.pwrOk = true
        ∧ t.boot.upTime = (if inReset s then 0 else s.boot.upTime) ∧ t.cache = s.cache ∧ t.mem = s.mem ∧ t.net = s.net)
    ∧ (∀ s : State, ∃ t, exec (.resetRelease .sysRst) s = .next t ∧ t.boot.sysRst = true
        ∧ t.boot.upTime = (if inReset s then 0 else s.boot.upTime) ∧ t.cache = s.cache ∧ t.mem = s.mem ∧ t.net = s.net)
    ∧ (∀ s : State, ∃ t, exec (.resetRelease .perst) s = .next t ∧ t.boot.perst = true ∧ t.boot.upTime = s.boot.upTime
        ∧ t.cache = s.cache ∧ t.mem = s.mem ∧ t.net = s.net))
  ∧
  (
    (∀ (s : State) (k : MgmtReset), Running s →
      ∃ t, exec (.managementReset k) s = .next t ∧ t.ctrs.evtEn = 0
        ∧ (mbxSt t .host).cmds = [] ∧ (mbxSt t .host).asm = none ∧ (mbxSt t .host).rplq = [] ∧ (mbxSt t .host).held = []
        ∧ (mbxSt t .host).cmdEpoch = (mbxSt s .host).cmdEpoch + 1 ∧ (mbxSt t .host).rplEpoch = (mbxSt s .host).rplEpoch + 1
        ∧ (∀ m, m ≠ .host → mbxSt t m = mbxSt s m) ∧ t.lan.slots = s.lan.slots
        ∧ t.boot.perst = (s.boot.perst && k != .perst)
        ∧ t.cache = s.cache ∧ t.home = s.home ∧ t.mem = s.mem ∧ t.parts = s.parts ∧ t.ports = s.ports ∧ t.net = s.net
        ∧ t.beams = s.beams ∧ t.pwr = s.pwr ∧ t.regs = s.regs ∧ t.ctrs.evt = s.ctrs.evt ∧ t.ctrs.trouble = s.ctrs.trouble)
    ∧ (∀ (s : State) (k : MgmtReset), inReset s = true →
      exec (.managementReset k) s = .next (settled s { s with boot := { s.boot with perst := s.boot.perst && k != .perst } })))
  ∧
  (
    ∀ s : State,
      exec .powerOnReset s = .next (settled s (pwrOkLow s))
      ∧ exec .systemReset s = .next (settled s (sysRstLow s))
      ∧ (∀ k : MgmtReset, exec (.managementReset k) s = .next (settled s (mgmtReset s k)))
      ∧ exec .railMonitorTrip s = .next (settled s (railFalls s))
      ∧ (∀ c : Refclk, exec (.refclkLoss c) s = .next (settled s (clkLost s c)))
      ∧ (∀ pin : ResetPin, exec (.resetRelease pin) s = .next (settled s (pinHigh s pin)))
      ∧ (∀ c : Refclk, exec (.refclkReturn c) s = .next (settled s (clkReturn s c))))

/-- A start-up step that completes advances STAGE (R535, R536, R538, R548): the steps 1 and 2, the firmware that R538 chooses, the
    memories, the configuration, the census and the time; the last sets READY, event BOOT and the attempt count to 0. Without
    firmware, without a stack or without a base image start-up stops, with its code in BOOT_ERR where none stood. Start-up that has
    stopped or is READY takes no step. -/
def Obligations.StartupAdvances : Prop :=
  (∀ (s : State) (r : StepReport), Running s → s.boot.stopped = false → s.boot.ready = false → s.boot.stage.toNat < 2 →
    ∃ t, exec (.startupStepDone r) s = .next t ∧ t.boot.stage = s.boot.stage + 1 ∧ t.cache = s.cache ∧ t.home = s.home
      ∧ t.mem = s.mem ∧ t.net = s.net ∧ t.parts = s.parts)
  ∧ (∀ (s : State) (r : StepReport), Running s → s.boot.stopped = false → s.boot.ready = false → s.boot.stage = 7 →
    ∃ t, exec (.startupStepDone r) s = .next t ∧ t.boot.stage = 8 ∧ t.boot.ready = true ∧ t.boot.attempts = 0
      ∧ t.ctrs.evt.getLsbD 14 = true ∧ t.cache = s.cache ∧ t.home = s.home ∧ t.mem = s.mem ∧ t.parts = s.parts)
  ∧ (∀ (s : State) (r : StepReport), Running s → s.boot.stopped = false → s.boot.ready = false → s.boot.stage = 2 →
    ((chooseFw s).2 = none → ∃ t, exec (.startupStepDone r) s = .next t ∧ t.boot.stopped = true ∧ t.boot.recovery = true
      ∧ t.boot.stage = 2 ∧ t.boot.bootErr = (if s.boot.bootErr = 0 then 2 else s.boot.bootErr) ∧ t.cache = s.cache ∧ t.home = s.home
      ∧ t.mem = s.mem)
    ∧ ∀ b, (chooseFw s).2 = some b → ∃ t, exec (.startupStepDone r) s = .next t ∧ t.boot.stage = 3 ∧ t.boot.stopped = false
      ∧ t.boot.fwB = b ∧ t.boot.version = norWord s (norFw b) 3 ∧ t.cache = s.cache ∧ t.home = s.home ∧ t.mem.nor = s.mem.nor)
  ∧ (∀ (s : State) (r : StepReport), Running s → s.boot.stopped = false → s.boot.ready = false → s.boot.stage = 3 →
    ((trainedBy s r).hbmOk = 0 → ∃ t, exec (.startupStepDone r) s = .next t ∧ t.boot.stopped = true)
    ∧ ((trainedBy s r).hbmOk ≠ 0 → ∃ t, exec (.startupStepDone r) s = .next t ∧ t.boot.stage = 4))
  ∧ (∀ (s : State) (r : StepReport), Running s → s.boot.stopped = false → s.boot.ready = false → s.boot.stage = 4 →
    s.boot.apply = none →
    (baseImage s = none → ∃ t, exec (.startupStepDone r) s = .next t ∧ t.boot.stopped = true ∧ t.boot.stage = 4
      ∧ t.boot.bootErr = (if s.boot.bootErr = 0 then 3 else s.boot.bootErr) ∧ t.cache = s.cache ∧ t.home = s.home ∧ t.mem = s.mem)
    ∧ ∀ i, baseImage s = some i → exec (.startupStepDone r) s = .next (settled s (bootBase (takeId s i.ctrlId) (applyJob i true))))
  ∧ (∀ (s : State) (r : StepReport), Running s → s.boot.stopped = false → s.boot.ready = false → s.boot.stage = 5 →
    exec (.startupStepDone r) s = .next (settled s (bootStageDone (linkEvent (startCensus s false)) 6)))
  ∧ (∀ (s : State) (r : StepReport), Running s → s.boot.stopped = false → s.boot.ready = false → s.boot.stage = 6 →
    let u := syncStatus s false
    let inStep : Prop := u.net.syncLocked = true ∨ u.net.syncIsMaster = true
    (inStep → exec (.startupStepDone r) s = .next (settled s (bootStageDone u 7)))
    ∧ (¬ inStep → r.syncLimit = true →
      exec (.startupStepDone r) s = .next (settled s (bootStageDone (raiseEvt (bootError u 8 0) 13) 7)))
    ∧ (¬ inStep → r.syncLimit = false → exec (.startupStepDone r) s = .next (settled s u)))
  ∧ (∀ (s : State) (r : StepReport), (s.boot.stopped = true ∨ s.boot.ready = true) → exec (.startupStepDone r) s = .next (settle s))
  ∧
  (
    ∀ s : State, Running s →
      (∀ r : StepReport, exec (.startupStepDone r) s = .next (settled s (bootStep s r))))

/-- The boot watchdog of the always-on island starts a system reset if READY is not set within 10 s of a reset (R537); the attempt
    count rises by one (R538). Start-up that is READY, or has stopped, is left alone. -/
def Obligations.BootWatchdogResets : Prop :=
  (∀ s : State, Running s → s.boot.ready = false → s.boot.stopped = false → 10000000000 ≤ s.boot.upTime →
    ∃ t, exec .bootWatchdog s = .next t ∧ AtReset t ∧ t.boot.attempts = s.boot.attempts + 1 ∧ t.boot.cause = 2
      ∧ t.boot.upTime = 0)
  ∧ ∀ s : State, (s.boot.ready = true ∨ s.boot.stopped = true ∨ s.boot.upTime < 10000000000) →
    exec .bootWatchdog s = .next (settle s)

/-- THERMTRIP_n is driven low when a die sensor reads 125 °C or more (R584); below that nothing changes. It stays low through every
    system reset. The backstop of R530: below the grade's maximum Tj plus 10 °C nothing; from there at least level 5 and the THERMAL
    event (bit 11), whatever the level was. -/
def Obligations.TripAndBackstopLatch : Prop :=
  (
    (∀ (s : State) (tj : BitVec 8), Running s → 125 ≤ celsius tj →
      exec (.thermtrip tj) s = .next (settled s { s with
        boot := { s.boot with thermtrip := true }, pwr := { s.pwr with tj := tj, tjMax := hotter s.pwr.tjMax tj } }))
    ∧ (∀ (s : State) (tj : BitVec 8), celsius tj < 125 → exec (.thermtrip tj) s = .next (settle s))
    ∧ ∀ s : State, s.boot.thermtrip = true → ∃ t, exec .systemReset s = .next t ∧ t.boot.thermtrip = true)
  ∧
  (
    ∀ (s : State) (tj : BitVec 8), Running s →
      (celsius tj < gradeTj + 10 → exec (.thermalBackstop tj) s = .next (settle s))
      ∧ ((gradeTj : Int) + 10 ≤ celsius tj → 5 ≤ s.pwr.level.toNat →
          exec (.thermalBackstop tj) s = .next (settled s (raiseEvt { s with pwr := { s.pwr with
            tj := tj, tjMax := hotter s.pwr.tjMax tj, backstop := true } } 11)))
      ∧ ((gradeTj : Int) + 10 ≤ celsius tj → s.pwr.level.toNat < 5 →
          ∃ t, exec (.thermalBackstop tj) s = .next t ∧ t.pwr.level = 5 ∧ t.ctrs.evt.getLsbD 11 = true ∧ t.pwr.backstop = true
            ∧ t.pwr.tj = tj ∧ t.pwr.tjMax = hotter s.pwr.tjMax tj ∧ t.cache = s.cache ∧ t.home = s.home ∧ t.mem = s.mem
            ∧ t.net = s.net ∧ t.ports = s.ports ∧ t.parts = s.parts))
  ∧
  (
    ∀ s : State, Running s →
      (∀ tj : BitVec 8, exec (.thermtrip tj) s = .next (settled s (trip s tj)))
      ∧ (∀ tj : BitVec 8, exec (.thermalBackstop tj) s = .next (settled s (backstop s tj))))

/-- Every access of a mailbox by a master that is there completes, and is the mailbox's operation: an owner's as follows. A header that is right begins a command, its last word completes it, a word of a stale or damaged header is
    counted, and a word for a full queue is dropped and flushes the queue (R416, R417, R419). Beside the mailbox, only Lantern's
    domain wakes. Reply and trace words are taken oldest first; an empty reply queue answers 0 and counts UNDERRUN (R414). A word
    taken lets replies that are held move up (R419). A flush empties its queue and increments its epoch; held replies go with the
    reply queue (R418). Nothing else of the mailbox changes. -/
def Obligations.MailboxesCarryWords : Prop :=
  (
    ∀ (s : State) (m : Mailbox) (a : Master) (w : Word), Reaches s a → ownsMbx m a = true →
      let u := wakeDom s 59 true
      let x := mbxSt s m
      (256 ≤ cmdWords x → ∃ t, exec (.cmdDataWrite m a w) s = .next t
          ∧ mbxSt t m = { x with overrun := satInc x.overrun, cmds := [], asm := none, cmdEpoch := x.cmdEpoch + 1 })
      ∧ (cmdWords x < 256 → x.asm = none → headerChk w = w.extractLsb' 28 4 → w.extractLsb' 16 4 = x.cmdEpoch → headerLen w = 0 →
          exec (.cmdDataWrite m a w) s = .next (settled s (putMbx u m { x with cmds := x.cmds ++ [⟨w, []⟩] })))
      ∧ (cmdWords x < 256 → x.asm = none → headerChk w = w.extractLsb' 28 4 → w.extractLsb' 16 4 = x.cmdEpoch → headerLen w ≠ 0 →
          exec (.cmdDataWrite m a w) s = .next (settled s (putMbx u m { x with asm := some ⟨w, []⟩ })))
      ∧ (cmdWords x < 256 → x.asm = none → (headerChk w ≠ w.extractLsb' 28 4 ∨ w.extractLsb' 16 4 ≠ x.cmdEpoch) →
          exec (.cmdDataWrite m a w) s = .next (settled s (putMbx u m { x with stale := satInc x.stale })))
      ∧ (∀ c, cmdWords x < 256 → x.asm = some c → headerLen c.header ≤ c.args.length + 1 →
          exec (.cmdDataWrite m a w) s =
            .next (settled s (putMbx u m { x with cmds := x.cmds ++ [{ c with args := c.args ++ [w] }], asm := none })))
      ∧ (∀ c, cmdWords x < 256 → x.asm = some c → c.args.length + 1 < headerLen c.header →
          exec (.cmdDataWrite m a w) s = .next (settled s (putMbx u m { x with asm := some { c with args := c.args ++ [w] } }))))
  ∧
  (
    ∀ (s : State) (m : Mailbox) (a : Master), Reaches s a → mayReadMbx m a = true →
      let u := wakeDom s 59 true
      let x := mbxSt s m
      (x.rplq = [] → exec (.rplDataRead m a) s = .next (settled s (setRead (putMbx u m { x with underrun := satInc x.underrun }) a 0)))
      ∧ (∀ w l, x.rplq = w :: l → ∃ t, exec (.rplDataRead m a) s = .next t ∧ tget 0 t.regs.readData (masterNo a) = w.setWidth 64
          ∧ t.cache = s.cache ∧ t.mem = s.mem ∧ t.home = s.home)
      ∧ (∀ w l, x.rplq = w :: l → x.held = [] → ∃ t, exec (.rplDataRead m a) s = .next t ∧ (mbxSt t m).rplq = l
          ∧ ∀ n, n ≠ m → mbxSt t n = mbxSt s n)
      ∧ ((mbxSt s .debug).trcq = [] → exec (.trcDataRead a) s = .next (settled s (setRead u a 0)))
      ∧ (∀ w l, (mbxSt s .debug).trcq = w :: l →
          exec (.trcDataRead a) s = .next (settled s (setRead (putMbx u .debug { mbxSt s .debug with trcq := l }) a (w.setWidth 64)))))
  ∧
  (
    ∀ (s : State) (m : Mailbox) (a : Master), Reaches s a → mayCtl m a = true →
      (∃ t, exec (.cmdFlush m a) s = .next t ∧ mbxSt t m = { mbxSt s m with cmds := [], asm := none, cmdEpoch := (mbxSt s m).cmdEpoch + 1 }
        ∧ (∀ n, n ≠ m → mbxSt t n = mbxSt s n) ∧ t.mem = s.mem ∧ t.cache = s.cache ∧ t.lan.slots = s.lan.slots)
      ∧ (∃ t, exec (.rplFlush m a) s = .next t ∧ mbxSt t m = { mbxSt s m with rplq := [], held := [], rplEpoch := (mbxSt s m).rplEpoch + 1 }
        ∧ (∀ n, n ≠ m → mbxSt t n = mbxSt s n) ∧ t.mem = s.mem ∧ t.cache = s.cache ∧ t.lan.slots = s.lan.slots)
      ∧ (m = .debug → ∃ t, exec (.trcFlush a) s = .next t
        ∧ mbxSt t .debug = { mbxSt s .debug with trcq := [], trcEpoch := (mbxSt s .debug).trcEpoch + 1 }
        ∧ (∀ n, n ≠ .debug → mbxSt t n = mbxSt s n) ∧ t.mem = s.mem ∧ t.cache = s.cache ∧ t.lan.slots = s.lan.slots))
  ∧
  (
    ∀ (s : State) (a : Master), Reaches s a →
      (∀ (m : Mailbox) (w : Word), exec (.cmdDataWrite m a w) s = .next (settled s (cmdDataWrite s m a w)))
      ∧ (∀ m : Mailbox, exec (.rplDataRead m a) s = .next (settled s (rplRead s m a)))
      ∧ exec (.trcDataRead a) s = .next (settled s (trcRead s a))
      ∧ (∀ m : Mailbox, exec (.cmdFlush m a) s = .next (settled s (ctlStrobe s m a fun s => flushCmd s m)))
      ∧ (∀ m : Mailbox, exec (.rplFlush m a) s = .next (settled s (ctlStrobe s m a fun s => flushRpl s m)))
      ∧ exec (.trcFlush a) s = .next (settled s (ctlStrobe s .debug a flushTrc)))

/-- Every access of a slot and of BAR2 completes. OP_STATUS is read with the slot's fields, and latches its progress and result words for the master (R423, R425). RELEASE returns
    a slot in an end state to IDLE, and leaves a running or idle one alone (R424). ABORT ends a running LOG_READ or PART_SAVE as
    ABORTED (R426). Bytes that the host writes to the bulk buffer of BAR2 read back, every other byte of the buffer and of every
    other memory stays, and the buffer keeps its canonical form; a write to bytes that a running operation holds is dropped and
    counted (R427, R428). Bytes beyond the 512 KiB of the buffer are dropped (log entry 81). -/
def Obligations.OperationSlotsAndBar2 : Prop :=
  (
    ∀ (s : State) (m : Mailbox) (k : BitVec 3) (a : Master), Reaches s a →
      let r := slotRef m k
      (mayReadMbx m a = true → ∃ t, exec (.opStatusRead m k a) s = .next t
        ∧ tget 0 t.regs.readData (masterNo a) = (opStatus (opSlot s r)).setWidth 64
        ∧ tget none t.lan.latches (latchIx a r) = some ⟨(opSlot s r).progress, (opSlot s r).result⟩
        ∧ t.lan.slots = s.lan.slots ∧ t.mem = s.mem ∧ t.cache = s.cache)
      ∧ (ownsMbx m a = true → (opSlot s r).state ≠ .idle → (opSlot s r).state ≠ .running →
        ∃ t, exec (.opRelease m k a) s = .next t ∧ opSlot t r = opSlot0 ∧ (∀ j, j ≠ r → opSlot t j = opSlot s j)
          ∧ t.mem = s.mem ∧ t.cache = s.cache)
      ∧ (ownsMbx m a = true → ((opSlot s r).state = .idle ∨ (opSlot s r).state = .running) →
        ∃ t, exec (.opRelease m k a) s = .next t ∧ t.lan = s.lan ∧ t.mem = s.mem ∧ t.cache = s.cache)
      ∧ (ownsMbx m a = true → (opSlot s r).state = .running →
        ((∃ ws o n l, (opSlot s r).job = .log ws o n l) ∨ (∃ p hs img o d q tc, (opSlot s r).job = .save p hs img o d q tc)) →
        ∃ t, exec (.opAbort m k a) s = .next t
          ∧ opSlot t r = { opSlot s r with state := .aborted, error := 0, job := .none, objs := [] }
          ∧ (∀ j, j ≠ r → opSlot t j = opSlot s j) ∧ t.mem = s.mem ∧ t.cache = s.cache))
  ∧
  (
    ∀ (s : State) (ofs : BitVec 22) (bytes : List Byte), Reaches s .mgmt →
      let bs := bytes.take (0x80000 - ofs.toNat)
      (bar2Held s ofs.toNat (ofs.toNat + bs.length) = false →
        ∃ t, exec (.bar2Write ofs bytes) s = .next t ∧ mread t.mem.bar2 ofs.toNat bs.length = bs
          ∧ (∀ a, ¬ (ofs.toNat ≤ a ∧ a < ofs.toNat + bs.length) → mread1 t.mem.bar2 a = mread1 s.mem.bar2 a)
          ∧ (MemOk s.mem → MemOk t.mem) ∧ t.mem.ddr = s.mem.ddr ∧ t.mem.hbm = s.mem.hbm ∧ t.mem.nor = s.mem.nor
          ∧ t.mem.slots = s.mem.slots ∧ t.regs = s.regs ∧ t.lan = s.lan ∧ t.cache = s.cache)
      ∧ (bar2Held s ofs.toNat (ofs.toNat + bs.length) = true →
        exec (.bar2Write ofs bytes) s = .next (settled s { s with regs := { s.regs with bar2Reject := satInc s.regs.bar2Reject } })))
  ∧
  (
    ∀ (s : State) (a : Master), Reaches s a →
      (∀ (m : Mailbox) (k : BitVec 3), exec (.opStatusRead m k a) s = .next (settled s (opStatusRead s m k a)))
      ∧ (∀ (m : Mailbox) (k : BitVec 3), exec (.opRelease m k a) s =
            .next (settled s (if ownsMbx m a then opRelease (wakeDom s 59 true) (slotRef m k) else mbxViolation s m a (0x11C +
              0x20 * k.toNat))))
      ∧ (∀ (m : Mailbox) (k : BitVec 3), exec (.opAbort m k a) s =
            .next (settled s (if ownsMbx m a then opAbort (wakeDom s 59 true) (slotRef m k) else mbxViolation s m a (0x11C +
              0x20 * k.toNat)))))
  ∧
  (
    ∀ s : State, Reaches s .mgmt →
      (∀ (ofs : BitVec 22) (bytes : List Byte), exec (.bar2Write ofs bytes) s =
            .next (settled s (bar2Write s ofs.toNat bytes))))

/-- Commands that Lantern-A answers at once without a change of what they name: their replies carry the state's words (R434, R437,
    R438). In every state in which no reset is held, such a row is Lantern's taking of its command (R420). -/
def Obligations.QueriesAreAnswered : Prop :=
  (
  ∀ (s : State) (m : Mailbox) (q : BitVec 8),
    let u := atLantern s
    let id := s.net.ctrlId
    (Taken s m .sysInfo → exec (.sysInfo m q) s = .next (settled s (reply u m id 0 q (sysInfoWords u))))
    ∧ (∀ c, Taken s m (.beamStatus c) →
        exec (.beamStatus m q c) s = .next (settled s (reply (resetSlack u c) m id 0 q (beamRecord (beamCtx u c)))))
    ∧ (Taken s m (.ringCensus true 0) → exec (.ringCensusReport m q) s =
        .next (settled s (reply u m id 0 q (censusResult u false ++ (u.net.lower.census.take 16).flatMap recWords))))
    ∧ (∀ d, Taken s m (.beamAdmit true d) →
        exec (.beamAdmitDryrun m q d) s = .next (settled s (reply u m id 0 q (admitWords (admission u d false true)))))
    ∧ (∀ n start ofs, Taken s m (.logRead false n start ofs) →
        exec (.logRead m q false n start ofs) s =
          (let r := logSelect u start n.toNat
           .next (settled s (reply (logMark u r.1) m id 0 q ([r.1, r.2.1, BitVec.ofNat 32 r.2.2.length] ++ r.2.2)))))
    ∧ (∀ src origin p, Taken s .peer (.peerQuery origin p) →
        exec (.peerQuery src q origin p) s = .next (settled s (reply u .peer src 0 q [fieldAt (partSt u p).state 0]))))
  ∧
  (
    ∀ s : State, Running s →
      (∀ (m : Mailbox) (q : BitVec 8), exec (.sysInfo m q) s = .next (settled s (lciRow s m q .sysInfo true)))
      ∧ (∀ (m : Mailbox) (q : BitVec 8) (toBar2 : Bool) (maxWords : BitVec 16) (start ofs : Word), exec (.logRead m q toBar2
          maxWords start ofs) s =
            .next (settled s (lciRow s m q (.logRead toBar2 maxWords start ofs) true)))
      ∧ (∀ (m : Mailbox) (q : BitVec 8) (desc : BitVec 512), exec (.beamAdmitDryrun m q desc) s =
            .next (settled s (lciRow s m q (.beamAdmit true desc) true)))
      ∧ (∀ (m : Mailbox) (q c : BitVec 8), exec (.beamStatus m q c) s = .next (settled s (lciRow s m q (.beamStatus c) true)))
      ∧ (∀ (m : Mailbox) (q : BitVec 8), exec (.ringCensusReport m q) s =
            .next (settled s (lciRow s m q (.ringCensus true 0) true)))
      ∧ (∀ (src : CtrlId) (q : BitVec 8) (origin : CtrlId) (pid : PartId), exec (.peerQuery src q origin pid) s =
            .next (settled s (lciTake s .peer src q (.peerQuery origin pid) true))))

/-- THERMAL_LIMIT sets the junction limit or the power cap of its mailbox alone, and the emergency modes set the emergency (R436,
    R529); the reply carries the effective limits (R434). Commands that change partitions, keys, contexts and the ring's records at
    once: what each changes, and its reply of status 0 (R273, R289, R309, R358, R435, R438). FREEZE: 10,000 ticks after the command
    is taken is the freeze tick; the partition's register and the slot's result words hold it (R294). In every state in which no reset
    is held, such a row is Lantern's taking of its command (R420). -/
def Obligations.ImmediateCommandsAct : Prop :=
  (
    ∀ (s : State) (m : Mailbox) (q : BitVec 8) (v : Word),
      let u := atLantern s
      let ans (t : State) : Host.Outcome State Fault Refusal := .next (settled s (reply t m s.net.ctrlId 0 q (limitWords t)))
      (Taken s m (.thermal 0 v) → exec (.thermalJunctionLimit m q v) s = ans (thermalLimit u m 0 v)
        ∧ (thermalLimit u m 0 v).lan.limits =
            tset (⟨0, 0⟩ : Limits) s.lan.limits (mbxNo m) ⟨v.extractLsb' 0 8, (tget (⟨0, 0⟩ : Limits) s.lan.limits (mbxNo m)).cap⟩)
      ∧ (Taken s m (.thermal 1 v) → exec (.thermalPowerCap m q v) s = ans (thermalLimit u m 1 v)
        ∧ (thermalLimit u m 1 v).lan.limits =
            tset (⟨0, 0⟩ : Limits) s.lan.limits (mbxNo m) ⟨(tget (⟨0, 0⟩ : Limits) s.lan.limits (mbxNo m)).tj, v.extractLsb' 0 16⟩)
      ∧ (Taken s m (.thermal 4 0) → exec (.thermalClear m q) s = ans (thermalLimit u m 4 0)
        ∧ (thermalLimit u m 4 0).lan.limits = tset (⟨0, 0⟩ : Limits) s.lan.limits (mbxNo m) ⟨0, 0⟩)
      ∧ (Taken s m (.thermal 2 0) → m ≠ .peer → s.pwr.level = 6 → ∃ t, exec (.emergencyThrottle m q) s = .next t ∧ t.pwr.emergency = true
          ∧ t.pwr.level = 6 ∧ t.mem = s.mem ∧ t.cache = s.cache)
      ∧ (Taken s m (.thermal 2 0) → exec (.emergencyThrottle m q) s = ans (thermalLimit u m 2 0))
      ∧ (Taken s m (.thermal 3 0) → exec (.endEmergency m q) s = ans (thermalLimit u m 3 0)))
  ∧
  (
    ∀ (s : State) (m : Mailbox) (q : BitVec 8),
      let u := atLantern s
      let done (t : State) : Host.Outcome State Fault Refusal := .next (settled s (reply t m s.net.ctrlId 0 q []))
      let peer (src : CtrlId) (t : State) : Host.Outcome State Fault Refusal := .next (settled s (reply t .peer src 0 q []))
      (∀ whole p, Taken s m (.cacheEnable whole p) → exec (.cacheEnable m q whole p) s = done (scopeEnWrite u (scopeOf whole p) true))
      ∧ (∀ p ways pin share streams, Taken s m (.partCreate p ways pin share streams) →
          exec (.partCreate m q p ways pin share streams) s = done (partCreate u p ways pin share streams)
          ∧ (partSt (partCreate u p ways pin share streams) p).state = 1 ∧ (partSt (partCreate u p ways pin share streams) p).en = true
          ∧ (partSt (partCreate u p ways pin share streams) p).hits = 0)
      ∧ (∀ p force slices ways, Taken s m (.partSetWays p force slices ways) →
          exec (.partSetWays m q p force slices ways) s = done (recheck (setWays u p slices ways)))
      ∧ (∀ p share pin, Taken s m (.partSetShare p share pin) →
          exec (.partSetShare m q p share pin) s =
            done (if (partSt u p).pinBudget == pin then setShare u p share pin else recheck (setShare u p share pin)))
      ∧ (∀ p, Taken s m (.partQuiesce p true) →
          exec (.partResume m q p) s = done (putPart u p { partSt u p with state := 1 }))
      ∧ (∀ c start, Taken s m (.beamStart c start) → exec (.beamStart m q c start) s = done (beamStart u c start))
      ∧ (∀ d ok, Taken s m (.beamAdmit false d) →
          exec (.beamAdmit m q d ok) s =
            (let r := beamAdmit u d ok
             .next (settled s (reply r.1 m s.net.ctrlId r.2.1 q r.2.2))))
      ∧ (∀ slot kgen act key, Taken s m (.ringKeySet slot kgen act false key) →
          exec (.ringKeySet m q slot kgen act key) s =
            .next (settled s (reply (ringKeySet u slot kgen act false key).1 m s.net.ctrlId 0 q [keyCheck key])))
      ∧ (∀ slot, Taken s m (.ringKeySet slot 0 false true 0) →
          exec (.ringKeyClear m q slot) s =
            .next (settled s (reply (ringKeySet u slot 0 false true 0).1 m s.net.ctrlId 0 q [0])))
      ∧ (∀ src, Taken s .peer (.commitAt 0 0 true 0) → exec (.commitAtDisarm src q) s = peer src (disarmCmd u))
      ∧ (∀ src slot last first ws, Taken s .peer (.peerImg slot last first ws) →
          exec (.peerImg src q slot last first ws) s = peer src (peerImg u slot last first ws))
      ∧ (∀ src add c origin cs, Taken s .peer (.peerLedger add c origin cs) →
          exec (.peerLedger src q add c origin cs) s = peer src (peerLedgerTake u add c origin cs))
      ∧ (∀ src set rs, Taken s .peer (.peerFence set rs) → exec (.peerFence src q set rs) s = peer src (peerFence u set rs))
      ∧ (∀ src (n act : BitVec 4) mv, Taken s .peer (.peerHomestep n act mv) →
          exec (.peerHomestep src q n act mv) s =
            if (act = 1 ∧ (n = 2 ∨ n = 3)) ∨ (act = 2 ∧ n = 4) then .next (settled s (startMove u n act (some (src, q))))
            else if act = 1 ∧ n = 4 then peer src (fenceEnds (stageMember u src))
            else if act = 2 ∧ n = 3 then peer src (stageMember u src)
            else if act = 2 ∧ n = 5 then peer src (fenceEnds u)
            else peer src u))
  ∧
  (
    ∀ (s : State) (m : Mailbox) (q : BitVec 8) (k : SlotRef) (p : PartId), freeSlot s m = some k → m ≠ .peer →
      Taken s m (.partFreeze p) →
      ∃ t, exec (.partFreeze m q p) s = .next t ∧ (partSt t p).freezeTick = s.now + 10000
        ∧ (opSlot t k).state = .running ∧ (opSlot t k).seq = q ∧ (opSlot t k).opcode = 0x24
        ∧ (opSlot t k).result.extractLsb' 0 64 = s.now + 10000 ∧ (opSlot t k).job = .freeze p
        ∧ t.cache = s.cache ∧ t.mem = s.mem ∧ (∀ p', p' ≠ p → partSt t p' = partSt s p'))
  ∧
  (
    ∀ s : State, Running s →
      (∀ (src : CtrlId) (q : BitVec 8), exec (.commitAtDisarm src q) s =
            .next (settled s (lciTake s .peer src q (.commitAt 0 0 true 0) true)))
      ∧ (∀ (m : Mailbox) (q : BitVec 8) (v : Word), exec (.thermalJunctionLimit m q v) s =
            .next (settled s (lciRow s m q (.thermal 0 v) true)))
      ∧ (∀ (m : Mailbox) (q : BitVec 8) (v : Word), exec (.thermalPowerCap m q v) s =
            .next (settled s (lciRow s m q (.thermal 1 v) true)))
      ∧ (∀ (m : Mailbox) (q : BitVec 8), exec (.emergencyThrottle m q) s = .next (settled s (lciRow s m q (.thermal 2 0) true)))
      ∧ (∀ (m : Mailbox) (q : BitVec 8), exec (.endEmergency m q) s = .next (settled s (lciRow s m q (.thermal 3 0) true)))
      ∧ (∀ (m : Mailbox) (q : BitVec 8), exec (.thermalClear m q) s = .next (settled s (lciRow s m q (.thermal 4 0) true)))
      ∧ (∀ (m : Mailbox) (q : BitVec 8) (whole : Bool) (pid : PartId), exec (.cacheEnable m q whole pid) s =
            .next (settled s (lciRow s m q (.cacheEnable whole pid) true)))
      ∧ (∀ (m : Mailbox) (q : BitVec 8) (pid : PartId) (ways : BitVec 16) (pin : BitVec 27) (share : BitVec 24) (streams : List
          (BitVec 8 × PortId)), exec (.partCreate m q pid ways pin share streams) s =
            .next (settled s (lciRow s m q (.partCreate pid ways pin share streams) true)))
      ∧ (∀ (m : Mailbox) (q : BitVec 8) (pid : PartId) (force : Bool) (slices ways : BitVec 16), exec (.partSetWays m q pid
          force slices ways) s =
            .next (settled s (lciRow s m q (.partSetWays pid force slices ways) true)))
      ∧ (∀ (m : Mailbox) (q : BitVec 8) (pid : PartId) (share : BitVec 24) (pin : BitVec 27), exec (.partSetShare m q pid share
          pin) s =
            .next (settled s (lciRow s m q (.partSetShare pid share pin) true)))
      ∧ (∀ (m : Mailbox) (q : BitVec 8) (pid : PartId), exec (.partResume m q pid) s =
            .next (settled s (lciRow s m q (.partQuiesce pid true) true)))
      ∧ (∀ (m : Mailbox) (q : BitVec 8) (desc : BitVec 512) (peersOk : Bool), exec (.beamAdmit m q desc peersOk) s =
            .next (settled s (lciRow s m q (.beamAdmit false desc) peersOk)))
      ∧ (∀ (m : Mailbox) (q c : BitVec 8) (start : Tick), exec (.beamStart m q c start) s =
            .next (settled s (lciRow s m q (.beamStart c start) true)))
      ∧ (∀ (m : Mailbox) (q : BitVec 8) (slot : Bool) (kgen : BitVec 8) (activate : Bool) (key : BitVec 256), exec (.ringKeySet
          m q slot kgen activate key) s =
            .next (settled s (lciRow s m q (.ringKeySet slot kgen activate false key) true)))
      ∧ (∀ (m : Mailbox) (q : BitVec 8) (slot : Bool), exec (.ringKeyClear m q slot) s =
            .next (settled s (lciRow s m q (.ringKeySet slot 0 false true 0) true)))
      ∧ (∀ (src : CtrlId) (q : BitVec 8) (slot : BitVec 2) (last : Bool) (first : Word) (words : List Word), exec (.peerImg src
          q slot last first words) s =
            .next (settled s (lciTake s .peer src q (.peerImg slot last first words) true)))
      ∧ (∀ (src : CtrlId) (q : BitVec 8) (add : Bool) (c : BitVec 8) (origin : CtrlId) (charges : List (Word × Word)), exec
          (.peerLedger src q add c origin charges) s =
            .next (settled s (lciTake s .peer src q (.peerLedger add c origin charges) true)))
      ∧ (∀ (src : CtrlId) (q : BitVec 8) (set : Bool) (ranges : List (BitVec 24 × BitVec 24)), exec (.peerFence src q set
          ranges) s =
            .next (settled s (lciTake s .peer src q (.peerFence set ranges) true)))
      ∧ (∀ (src : CtrlId) (q : BitVec 8) (stepNo action : BitVec 4) (move : BitVec 8), exec (.peerHomestep src q stepNo action
          move) s =
            .next (settled s (lciTake s .peer src q (.peerHomestep stepNo action move) true))))

/-- Background commands on caches, partitions and beams: the lowest free slot is RUNNING with the command's code, SEQ and objects
    when its work starts, and the reply 0x01 names the slot (R420, R421, R423, R424). Background commands on slices, ports, the
    ring, firmware, overlays and commits start in the same way (R420-R424). A COMMIT_AT of another ring's PEER is taken with its tick
    in this ring's time (R207). With no slot free the reply is 0x07, and nothing starts. In every state in which no reset is held,
    such a row is Lantern's taking of its command. -/
def Obligations.BackgroundCommandsStart : Prop :=
  (
    ∀ (s : State) (m : Mailbox) (q : BitVec 8) (k : SlotRef), freeSlot s m = some k →
      let go (c : LciCmd) (work : State → State) : Host.Outcome State Fault Refusal :=
        .next (settled s (startReply (work (started s k c q)) m s.net.ctrlId k q))
      (∀ whole p first last, Taken s m (.cacheFlush whole p first last) →
        exec (.cacheFlush m q whole p first last) s = go (.cacheFlush whole p first last) fun t =>
          let t := wakeWalkers t
          { t with cache := { t.cache with flushes := t.cache.flushes ++ [⟨scopeOf whole p, first, last, [], 0, 0, some k⟩] } })
      ∧ (∀ whole p, Taken s m (.cacheDisable whole p) →
        exec (.cacheDisable m q whole p) s = go (.cacheDisable whole p) fun t => startDisable t (scopeOf whole p) k)
      ∧ (∀ p, Taken s m (.partQuiesce p false) →
        exec (.partQuiesce m q p) s = go (.partQuiesce p false) fun t =>
          opJob (putPart t p { partSt t p with state := 2 }) k (.quiesce p (quiesceOpen t p)))
      ∧ (∀ p, Taken s m (.partFreeze p) → exec (.partFreeze m q p) s = go (.partFreeze p) fun t => startFreeze t k p)
      ∧ (∀ p tg ck ofs dest slot homes, Taken s m (.partSave p tg ck ofs dest slot homes) →
        exec (.partSave m q p tg ck ofs dest slot homes) s = go (.partSave p tg ck ofs dest slot homes) fun t =>
          startSave t k p tg ck ofs dest slot homes)
      ∧ (∀ fs slot np mm act fill ofs pm ways, Taken s m (.partRestore fs slot np mm act fill ofs pm ways) →
        exec (.partRestore m q fs slot np mm act fill ofs pm ways) s = go (.partRestore fs slot np mm act fill ofs pm ways) fun t =>
          startRestore t k (imageAt t fs slot ofs) np pm mm ways act fill)
      ∧ (∀ p, Taken s m (.partRemove p) → exec (.partRemove m q p) s = go (.partRemove p) fun t => startRemove t k p)
      ∧ (∀ c, Taken s m (.beamCancel c) → exec (.beamCancel m q c) s = go (.beamCancel c) fun t => cancelCtx t c (some k)))
  ∧
  (
    ∀ (s : State) (m : Mailbox) (q : BitVec 8) (k : SlotRef), freeSlot s m = some k →
      let go (c : LciCmd) (work : State → State) : Host.Outcome State Fault Refusal :=
        .next (settled s (startReply (work (started s k c q)) m s.net.ctrlId k q))
      (∀ n, Taken s m (.sliceRetire n) → exec (.sliceRetire m q n) s = go (.sliceRetire n) fun t => beginFold t n false (some k))
      ∧ (∀ n ok, Taken s m (.sliceReturn n) → exec (.sliceReturn m q n ok) s = go (.sliceReturn n) fun t => returnSlice t n ok k)
      ∧ (∀ n force, Taken s m (.portRetire n force) →
        exec (.portRetire m q n force) s = go (.portRetire n force) fun t => startPortRetire t k n)
      ∧ (∀ n, Taken s m (.portReturn n) → exec (.portReturn m q n) s = go (.portReturn n) fun t => startPortReturn t k n)
      ∧ (∀ ofs, Taken s m (.ringCensus false ofs) →
        exec (.ringCensus m q ofs) s = go (.ringCensus false ofs) fun t => linkEvent (startCensus (opJob t k (.census ofs.toNat)) false))
      ∧ (∀ n, Taken s m (.ringFold n) → exec (.ringFold m q n) s = go (.ringFold n) fun t => startFold t k n)
      ∧ (∀ n, Taken s m (.ringUnfold n) → exec (.ringUnfold m q n) s = go (.ringUnfold n) fun t => startUnfold t k n)
      ∧ (∀ src atT ofs tick, Taken s m (.applyOverlay src atT ofs tick) →
        exec (.applyOverlay m q src atT ofs tick) s = go (.applyOverlay src atT ofs tick) fun t => startApply t k src atT ofs tick)
      ∧ (∀ mask scope tick own, ownCmd (atLantern s) m s.net.ctrlId (.commitAt mask scope false tick) = .commitAt mask scope false own →
        Taken s m (.commitAt mask scope false own) →
        exec (.commitAt m q mask scope tick) s = go (.commitAt mask scope false own) fun t => startCommitAt t k mask scope own)
      ∧ (∀ n start ofs, Taken s m (.logRead true n start ofs) →
        exec (.logRead m q true n start ofs) s = go (.logRead true n start ofs) fun t =>
          let r := logSelect t start n.toNat
          opJob (logMark t r.1) k (.log r.2.2 ofs.toNat r.1 r.2.1))
      ∧ (∀ len, Taken s m (.fwBegin len) → exec (.fwUpdateBegin m q len) s = go (.fwBegin len) fun t => updBegin t k len.toNat)
      ∧ (∀ ofs img len, Taken s m (.fwWrite ofs img len) →
        exec (.fwUpdateWrite m q ofs img len) s = go (.fwWrite ofs img len) fun t => opJob t k (.fwWrite ofs.toNat len.toNat))
      ∧ (Taken s m .fwCommit → exec (.fwUpdateCommit m q) s = go .fwCommit fun t => opJob t k .fwCommit)
      ∧ (Taken s m .fwCancel → exec (.fwUpdateCancel m q) s = go .fwCancel fun t => opJob t k .fwCancel))
  ∧
  (
    ∀ (s : State) (m : Mailbox) (q : BitVec 8) (c : LciCmd) (ok : Bool), freeSlot s m = none → background c = true → Taken s m c →
      ownCmd (atLantern s) m s.net.ctrlId c = c → lciRow s m q c ok = reply (atLantern s) m s.net.ctrlId 0x07 q [])
  ∧
  (
    ∀ s : State, Running s →
      (∀ (m : Mailbox) (q : BitVec 8) (source : BitVec 4) (atTick : Bool) (ofs : Word) (tick : Tick), exec (.applyOverlay m q
          source atTick ofs tick) s =
            .next (settled s (lciRow s m q (.applyOverlay source atTick ofs tick) true)))
      ∧ (∀ (m : Mailbox) (q : BitVec 8) (mask : BitVec 16) (scope : BitVec 2) (tick : Tick), exec (.commitAt m q mask scope
          tick) s =
            .next (settled s (lciRow s m q (.commitAt mask scope false tick) true)))
      ∧ (∀ (m : Mailbox) (q : BitVec 8) (len : Word), exec (.fwUpdateBegin m q len) s =
            .next (settled s (lciRow s m q (.fwBegin len) true)))
      ∧ (∀ (m : Mailbox) (q : BitVec 8) (ofs imgOfs len : Word), exec (.fwUpdateWrite m q ofs imgOfs len) s =
            .next (settled s (lciRow s m q (.fwWrite ofs imgOfs len) true)))
      ∧ (∀ (m : Mailbox) (q : BitVec 8), exec (.fwUpdateCommit m q) s = .next (settled s (lciRow s m q .fwCommit true)))
      ∧ (∀ (m : Mailbox) (q : BitVec 8), exec (.fwUpdateCancel m q) s = .next (settled s (lciRow s m q .fwCancel true)))
      ∧ (∀ (m : Mailbox) (q : BitVec 8) (whole : Bool) (pid : PartId) (first last : LineAddr), exec (.cacheFlush m q whole pid
          first last) s =
            .next (settled s (lciRow s m q (.cacheFlush whole pid first last) true)))
      ∧ (∀ (m : Mailbox) (q : BitVec 8) (whole : Bool) (pid : PartId), exec (.cacheDisable m q whole pid) s =
            .next (settled s (lciRow s m q (.cacheDisable whole pid) true)))
      ∧ (∀ (m : Mailbox) (q : BitVec 8) (pid : PartId), exec (.partQuiesce m q pid) s =
            .next (settled s (lciRow s m q (.partQuiesce pid false) true)))
      ∧ (∀ (m : Mailbox) (q : BitVec 8) (pid : PartId), exec (.partFreeze m q pid) s =
            .next (settled s (lciRow s m q (.partFreeze pid) true)))
      ∧ (∀ (m : Mailbox) (q : BitVec 8) (pid : PartId) (target checkpoint : Bool) (ofs : Word) (dest : CtrlId) (slot : BitVec 2)
          (homes : List (BitVec 8)), exec (.partSave m q pid target checkpoint ofs dest slot homes) s =
            .next (settled s (lciRow s m q (.partSave pid target checkpoint ofs dest slot homes) true)))
      ∧ (∀ (m : Mailbox) (q : BitVec 8) (fromSlot : Bool) (slot : BitVec 2) (newPid : PartId) (maskMode : Bool) (homeAct :
          BitVec 2) (lostFill : Bool) (ofs portMap : Word) (ways : BitVec 16), exec (.partRestore m q fromSlot slot newPid
          maskMode homeAct lostFill ofs portMap ways) s =
            .next (settled s (lciRow s m q (.partRestore fromSlot slot newPid maskMode homeAct lostFill ofs portMap ways)
              true)))
      ∧ (∀ (m : Mailbox) (q : BitVec 8) (pid : PartId), exec (.partRemove m q pid) s =
            .next (settled s (lciRow s m q (.partRemove pid) true)))
      ∧ (∀ (m : Mailbox) (q c : BitVec 8), exec (.beamCancel m q c) s = .next (settled s (lciRow s m q (.beamCancel c) true)))
      ∧ (∀ (m : Mailbox) (q : BitVec 8) (n : SliceId), exec (.sliceRetire m q n) s =
            .next (settled s (lciRow s m q (.sliceRetire n) true)))
      ∧ (∀ (m : Mailbox) (q : BitVec 8) (n : SliceId) (selfTestOk : Bool), exec (.sliceReturn m q n selfTestOk) s =
            .next (settled s (lciRow s m q (.sliceReturn n) selfTestOk)))
      ∧ (∀ (m : Mailbox) (q : BitVec 8) (port : BitVec 4) (force : Bool), exec (.portRetire m q port force) s =
            .next (settled s (lciRow s m q (.portRetire port force) true)))
      ∧ (∀ (m : Mailbox) (q : BitVec 8) (port : BitVec 4), exec (.portReturn m q port) s =
            .next (settled s (lciRow s m q (.portReturn port) true)))
      ∧ (∀ (m : Mailbox) (q : BitVec 8) (ofs : Word), exec (.ringCensus m q ofs) s =
            .next (settled s (lciRow s m q (.ringCensus false ofs) true)))
      ∧ (∀ (m : Mailbox) (q : BitVec 8) (port : BitVec 4), exec (.ringFold m q port) s =
            .next (settled s (lciRow s m q (.ringFold port) true)))
      ∧ (∀ (m : Mailbox) (q : BitVec 8) (port : BitVec 4), exec (.ringUnfold m q port) s =
            .next (settled s (lciRow s m q (.ringUnfold port) true))))

/-- A command that fails a check changes nothing of what it names: Lantern-A is awake, the command is counted, and the reply carries
    the status of the first check that fails (R420, R431). A PEER reply leaves by the ring. A mailbox that is not served, or whose
    reply is held, takes no command but an emergency (R419, R422). -/
def Obligations.RefusedCommandsChangeNothing : Prop :=
  (∀ (s : State) (m : Mailbox) (q : BitVec 8) (c : LciCmd) (ok : Bool), mbxServed s m = true → (mbxSt s m).held = [] →
    let own := ownCmd (atLantern s) m s.net.ctrlId c
    lciCheck (atLantern s) m own true ≠ 0 →
    let t := lciRow s m q c ok
    t = reply (atLantern s) m s.net.ctrlId (lciCheck (atLantern s) m own true) q []
      ∧ t.mem = s.mem ∧ t.parts = s.parts ∧ t.beams = s.beams ∧ t.lan.slots = s.lan.slots ∧ t.regs = s.regs
      ∧ (m ≠ .peer → t.cache = s.cache ∧ t.home = s.home ∧ t.ports = s.ports ∧ t.net = s.net))
  ∧ (∀ (s : State) (m : Mailbox) (q : BitVec 8) (c : LciCmd) (ok : Bool),
    (mbxServed s m = false ∨ ((mbxSt s m).held ≠ [] ∧ emergencyCmd m c = false)) → lciRow s m q c ok = s)

/-- The commands that name one register are the write or the read of that register by their master, in every form: outside its
    reach, of a block that is disabled or asleep, and otherwise (R443, R446, R451, R472). -/
def Obligations.NamedAccessesAreRegisterAccesses : Prop :=
  ∀ (s : State) (a : Master) (w : Word) (v : BitVec 64),
    (∀ mask : BitVec 16, exec (.commit a mask) s = exec (.registerWrite a 0x20 4 (mask.setWidth 64)) s)
    ∧ exec (.cacheCtlEnClear a) s = exec (.registerWrite a 0x10 4 0) s
    ∧ (∀ p : PartId, exec (.partCtlEnClear a p) s = exec (.registerWrite a (0x500000 + 4096 * p.setWidth 25) 4 0) s)
    ∧ exec (.viewCtlWrite a w) s = exec (.registerWrite a 0x18 4 (w.setWidth 64)) s
    ∧ exec (.idxDataRead a) s = exec (.registerRead a (0x60008 + 0x100 * BitVec.ofNat 25 (masterNo a)) 4) s
    ∧ exec (.idxDataWrite a w) s = exec (.registerWrite a (0x60008 + 0x100 * BitVec.ofNat 25 (masterNo a)) 4 (w.setWidth 64)) s
    ∧ exec (.histLoRead a) s = exec (.registerRead a 0x20068 4) s
    ∧ (∀ addr, exec (.pairRead a addr) s = exec (.registerRead a addr 4) s)
    ∧ (∀ addr len, exec (.readClear a addr len) s = exec (.registerRead a addr len) s)
    ∧ (∀ e : BitVec 9, exec (.cntEvtWrite a e v) s = exec (.registerWrite a (0x600000 + 8 * e.setWidth 25) 8 v) s)
    ∧ (∀ j : BitVec 4, exec (.cntModeWrite a j w) s = exec (.registerWrite a (0x40000 + 4 * j.setWidth 25) 4 (w.setWidth 64)) s)
    ∧ (∀ i : BitVec 3, exec (.smpRecFree a i) s = exec (.registerWrite a (0x40118 + 0x40 * i.setWidth 25) 4 0xFF02) s)
    ∧ (∀ d : BitVec 8, exec (.dumpAckWrite a d) s = exec (.registerWrite a 0x40418 4 (d.setWidth 64)) s)
    ∧ exec (.idleHintWrite a v) s = exec (.registerWrite a 0x30010 8 v) s

/-- A write of a register: a length or an alignment that R446 refuses, a register beyond the master's reach (R443) and a register of
    a domain in A3 (R456) each set their flag in the block's ACC_STATUS and write nothing; an offset that names no register is
    dropped; and a word within reach writes the register alone. A read of a register leaves in the master's answer: 0 where the
    register is beyond its reach or the offset names none, all-ones with the flag of R451 where R446 refuses it or its domain is in
    A3, and else the register's word (R443-R456). -/
def Obligations.RegisterAccessesAreChecked : Prop :=
  (
    ∀ (s : State) (a : Master) (addr : BitVec 25) (len : BitVec 4) (v : BitVec 64), Reaches s a → len ≠ 0 →
      let b := (decodeAddr addr).1
      let pg := (decodeAddr addr).2.1
      let o := (decodeAddr addr).2.2
      let raw := addr.extractLsb' 0 16
      let flagged (k : Nat) : Host.Outcome State Fault Refusal := .next (settled s (flagAcc s b k a raw true))
      (mayWrite a b o = false → (regGet s false b pg o).isSome = true → exec (.registerWrite a addr len v) s = flagged 0)
      ∧ (mayWrite a b o = true → accessShape addr len.toNat b o = .width → exec (.registerWrite a addr len v) s = flagged 2)
      ∧ (mayWrite a b o = true → accessShape addr len.toNat b o = .unaligned → exec (.registerWrite a addr len v) s = flagged 3)
      ∧ (mayWrite a b o = true → accessShape addr len.toNat b o = .narrow → (regGet s false b pg o).isSome = true → noNarrow b o = true →
          exec (.registerWrite a addr len v) s = flagged 2)
      ∧ (mayWrite a b o = true → accessShape addr len.toNat b o = .word → regGet s false b pg o = none →
          exec (.registerWrite a addr len v) s = .next (settle s))
      ∧ (mayWrite a b o = true → accessShape addr len.toNat b o = .word → (regGet s false b pg o).isSome = true →
          (reflLive s b o = none ∨ accOffset b o = true) → (∃ d, regDomain b o = some d ∧ (domSt s d).state = 3) →
          exec (.registerWrite a addr len v) s = flagged 5)
      ∧ (mayWrite a b o = true → accessShape addr len.toNat b o = .word → (regGet s false b pg o).isSome = true →
          (∀ d, regDomain b o = some d → (domSt s d).state.toNat < 2) →
          exec (.registerWrite a addr len v) s = .next (settled s (regPut s a b pg o raw (v.setWidth 32)))))
  ∧
  (
    ∀ (s : State) (a : Master) (addr : BitVec 25) (len : BitVec 4), Reaches s a → len ≠ 0 →
      let b := (decodeAddr addr).1
      let pg := (decodeAddr addr).2.1
      let o := (decodeAddr addr).2.2
      let raw := addr.extractLsb' 0 16
      let flagged (k : Nat) : Host.Outcome State Fault Refusal :=
        .next (settled s (setRead (flagAcc s b k a raw false) a (lowBytes allOnes64 (min 8 len.toNat))))
      (mayRead a b o = false → exec (.registerRead a addr len) s = .next (settled s (setRead s a 0)))
      ∧ (mayRead a b o = true → accessShape addr len.toNat b o = .width → exec (.registerRead a addr len) s = flagged 2)
      ∧ (mayRead a b o = true → accessShape addr len.toNat b o = .unaligned → exec (.registerRead a addr len) s = flagged 3)
      ∧ (mayRead a b o = true → accessShape addr len.toNat b o = .word → regGet s false b pg o = none →
          exec (.registerRead a addr len) s = .next (settled s (setRead s a 0)))
      ∧ (mayRead a b o = true → accessShape addr len.toNat b o = .word → (∃ d, regDomain b o = some d ∧ (domSt s d).state = 3) →
          (reflLive s b o = none ∨ accOffset b o = true) → (regGet s false b pg o).isSome = true →
          exec (.registerRead a addr len) s =
            .next (settled s (setRead (flagAcc s b 5 a raw false) a (lowBytes allOnes64 len.toNat))))
      ∧ (mayRead a b o = true → accessShape addr len.toNat b o = .word → (∀ d, regDomain b o = some d → (domSt s d).state.toNat < 2) →
          (regGet s false b pg o).isSome = true → b ≠ 1 → b ≠ 6 → isPair b (o / 8 * 8) = false →
          ∃ t, exec (.registerRead a addr len) s = .next t ∧ t.cache = s.cache ∧ t.mem = s.mem ∧ t.net = s.net ∧ t.ctrs = s.ctrs
            ∧ tget 0 t.regs.readData (masterNo a) = ((regGet s (liveView s a) b pg o).getD 0).setWidth 64))
  ∧
  (
    ∀ (s : State) (a : Master), Reaches s a →
      (∀ (addr : BitVec 25) (len : BitVec 4) (v : BitVec 64), exec (.registerWrite a addr len v) s =
            .next (settled s (regWrite s a addr len.toNat v)))
      ∧ (∀ (addr : BitVec 25) (len : BitVec 4), exec (.registerRead a addr len) s =
            .next (settled s (regRead s a addr len.toNat))))

/-- A 64-bit pair: a read of its low word latches the high word, and the read of the high word answers the latched one; a write of
    the low word waits in the latch, and the write of the high word writes both (R447). The pair is ARM_TICK, T0 and BASE of the
    dump, or PWR.HOLD: a pair of the always-on island. -/
def Obligations.PairsAreReadAndWrittenWhole : Prop :=
  (
  ∀ (s : State), Reaches s .mgmt →
    (∃ t, exec (.pairRead .mgmt 0x40410) s = .next t ∧
      tget 0 t.regs.readData 0 = (s.ctrs.dump.t0.extractLsb' 0 32).setWidth 64
      ∧ (pairLatch t .mgmt 4).rd = some (latchTag 0 0x410, s.ctrs.dump.t0.extractLsb' 32 32) ∧ t.ctrs = s.ctrs)
    ∧ (∀ v, (pairLatch s .mgmt 4).rd = some (latchTag 0 0x410, v) →
        ∃ t, exec (.pairRead .mgmt 0x40414) s = .next t ∧ tget 0 t.regs.readData 0 = v.setWidth 64
          ∧ (pairLatch t .mgmt 4).rd = none ∧ t.ctrs = s.ctrs)
    ∧ (∀ v : BitVec 64, ∃ t, exec (.registerWrite .mgmt 0x40410 4 v) s = .next t ∧ t.ctrs = s.ctrs
          ∧ (pairLatch t .mgmt 4).wr = some (latchTag 0 0x410, v.setWidth 32))
    ∧ (∀ (v : BitVec 64) (w : Word), (pairLatch s .mgmt 4).wr = some (latchTag 0 0x410, w) →
        ∃ t, exec (.registerWrite .mgmt 0x40414 4 v) s = .next t ∧ t.ctrs.dump.t0 = v.setWidth 32 ++ w
          ∧ (pairLatch t .mgmt 4).wr = none ∧ t.mem = s.mem ∧ t.cache = s.cache))
  ∧
  (
    ∀ (s : State) (a : Master), Reaches s a →
      (∀ addr : BitVec 25, exec (.pairRead a addr) s = .next (settled s (regRead s a addr 4))))

/-- Commits: a COMMIT while one is busy is counted as an overlap and applies nothing; groups that are armed are left out of it; else
    each group named takes its staging copies (R466-R468). A fold map that names both slices of a pair is not taken (R28). Enables
    and single fields that one write changes. -/
def Obligations.StagedAndControlWritesAct : Prop :=
  (
    ∀ (s : State) (m : BitVec 16), Reaches s .mgmt →
      (commitBusy s = true → exec (.commit .mgmt m) s = .next (settled s { s with regs := { s.regs with overlap := true } }))
      ∧ (commitBusy s = false → s.regs.armed = false → exec (.commit .mgmt m) s = .next (settled s (applyCommit s m)))
      ∧ (commitBusy s = false → s.regs.armed = true → m &&& s.regs.armMask ≠ 0 →
          exec (.commit .mgmt m) s =
            .next (settled s (applyCommit { s with regs := { s.regs with armedConflict := true } } (m &&& ~~~s.regs.armMask))))
      ∧ (∀ t, applyCommit s 0x0010 = t → t.pwr.policy = s.pwr.policyStaged ∧ t.regs.busy = some s.now
          ∧ t.regs.pending = setBit s.regs.pending 4 false ∧ t.cache = s.cache ∧ t.home = s.home ∧ t.mem = s.mem)
      ∧ (∀ t, applyCommit s 0x0002 = t → foldPair s.home.foldStaged = true →
          t.home = s.home ∧ t.regs.foldPair = true ∧ t.regs.pending = s.regs.pending ∧ t.cache = s.cache ∧ t.mem = s.mem)
      ∧ (Running s → s.regs.armed = true → s.regs.armTick.toNat ≤ s.now.toNat → s.regs.armSlot = none →
          let u := applyCommit (disarm s) s.regs.armMask
          let v := if u.home.fenceEnd then clearFence u else u
          exec .armedCommitFire s = .next (settled s (eventDone v (!v.regs.armed))) ∧ (disarm s).regs.armed = false)
      ∧ (Running s → (s.regs.armed = false ∨ s.now.toNat < s.regs.armTick.toNat) → exec .armedCommitFire s = .next (settle s)))
  ∧
  (
    ∀ (s : State) (w : Word), Reaches s .mgmt →
      exec (.viewCtlWrite .mgmt w) s = .next (settled s { s with regs := { s.regs with viewMgmt := w.getLsbD 0 } })
      ∧ exec (.cacheCtlEnClear .mgmt) s = .next (settled s (scopeEnWrite s none false))
      ∧ (∀ p : PartId, (domSt s 60).state.toNat < 2 → exec (.partCtlEnClear .mgmt p) s = .next (settled s (partEnWrite s p false)))
      ∧ (∀ (p : PortId) en, (domSt s (32 + p.toNat)).state.toNat < 2 →
          ∃ u : State, exec (.pcpLinkEnWrite .mgmt p en) s = .next (settled s (pcpEnWrite u p en))
            ∧ u.cache = s.cache ∧ u.home = s.home ∧ u.mem = s.mem ∧ ∀ q, q ≠ p → portSt u q = portSt s q)
      ∧ (∀ (p : RingPort) en, (domSt s (40 + ringIx p)).state.toNat < 2 →
          ∃ u : State, exec (.ringLinkEnWrite .mgmt p en) s = .next (settled s (ringEnWrite u p en))
            ∧ u.cache = s.cache ∧ u.home = s.home ∧ u.mem = s.mem ∧ u.ports = s.ports)
      ∧ (∀ n : BitVec 3, (domSt s (44 + n.toNat)).state.toNat < 2 →
          exec (.ddrCtlEnClear .mgmt n) s =
            .next (settled s (ddrEnWrite (putChan s n.toNat { chanSt s n.toNat with scrubEn := (chanSt s n.toNat).scrubEn }) n false)))
      ∧ (∀ n : BitVec 3, (domSt s (44 + n.toNat)).state.toNat < 2 →
          exec (.ddrCtlEnSet .mgmt n) s =
            .next (settled s (ddrEnWrite (putChan s n.toNat { chanSt s n.toNat with scrubEn := (chanSt s n.toNat).scrubEn }) n true)))
      ∧ (∀ n : SliceId, (domSt s n.toNat).state.toNat < 2 →
          ∃ t, exec (.atomCtlClr .mgmt n) s = .next t ∧ sliceSt t n = { sliceSt s n with clrBusy := true }
            ∧ (∀ k, k ≠ n → sliceSt t k = sliceSt s k) ∧ t.mem = s.mem ∧ t.cache.tags = s.cache.tags ∧ t.cache.pred = s.cache.pred)
      ∧ (∀ v : BitVec 64, exec (.idleHintWrite .mgmt v) s = .next (settled s (writeHints s v)))
      ∧ (∀ v : BitVec 64, s.pwr.hint &&& ~~~v = 0 →
          exec (.idleHintWrite .mgmt v) s = .next (settled s { s with pwr := { s.pwr with hint := v } }))
      ∧ exec (.registerWrite .mgmt 0x70 4 (w.setWidth 64)) s = .next (settled s { s with regs := { s.regs with scratch := w } }))
  ∧
  (
    ∀ s : State, Running s →
      exec .armedCommitFire s = .next (settled s (let t := armedFire s; eventDone t (s.regs.armed && !t.regs.armed))))
  ∧
  (
    ∀ (s : State) (a : Master), Reaches s a →
      (∀ mask : BitVec 16, exec (.commit a mask) s = .next (settled s (writeAt s a 0 0 0x20 (mask.setWidth 32))))
      ∧ exec (.cacheCtlEnClear a) s = .next (settled s (writeAt s a 0 0 0x10 0))
      ∧ (∀ p : PartId, exec (.partCtlEnClear a p) s = .next (settled s (writeAt s a 46 p.toNat 0 0)))
      ∧ (∀ w : Word, exec (.viewCtlWrite a w) s = .next (settled s (writeAt s a 0 0 0x18 w)))
      ∧ (∀ (p : PortId) (en : Bool), exec (.pcpLinkEnWrite a p en) s =
            .next (settled s (writeAt s a (blkPcp p) 0 0 (setBit (curWord s (blkPcp p) 0 0) 0 en))))
      ∧ (∀ (p : RingPort) (en : Bool), exec (.ringLinkEnWrite a p en) s =
            .next (settled s (writeAt s a (blkRing p) 0 0 (setBit (curWord s (blkRing p) 0 0) 0 en))))
      ∧ (∀ n : BitVec 3, exec (.ddrCtlEnClear a n) s =
            .next (settled s (writeAt s a (blkDdr n) 0 0 (setBit (curWord s (blkDdr n) 0 0) 0 false))))
      ∧ (∀ n : BitVec 3, exec (.ddrCtlEnSet a n) s =
            .next (settled s (writeAt s a (blkDdr n) 0 0 (setBit (curWord s (blkDdr n) 0 0) 0 true))))
      ∧ (∀ n : SliceId, exec (.atomCtlClr a n) s =
            .next (settled s (writeAt s a (blkSlc n) 0 0x18 (setBit (curWord s (blkSlc n) 0 0x18) 5 true))))
      ∧ (∀ v : BitVec 64, exec (.idleHintWrite a v) s = .next (settled s (regWrite s a (regAddr 3 0 0x10) 8 v))))

/-- The counters, the samples and the dump as their registers are written (R495-R506). -/
def Obligations.CounterRegistersAreWritten : Prop :=
  (
  ∀ (s : State) (w : Word) (v : BitVec 64), Reaches s .mgmt →
    (∀ e : BitVec 9, e.toNat < 0x180 → (∀ d, regDomain 47 (8 * e.toNat) = some d → (domSt s d).state.toNat < 2) →
        let c := tget cnt0 s.ctrs.fixed e.toNat
        let c' : Cnt := { count := v.extractLsb' 0 48, ovf := c.ovf && !v.getLsbD 48, restart := c.restart && !v.getLsbD 49 }
        exec (.cntEvtWrite .mgmt e v) s =
          .next (settled s { s with ctrs := { s.ctrs with fixed := tset cnt0 s.ctrs.fixed e.toNat c' } }))
    ∧ (∀ j : BitVec 4, j.toNat < 12 →
        exec (.cntModeWrite .mgmt j w) s =
          .next (settled s { s with ctrs := { s.ctrs with mode := putBits s.ctrs.mode (32 * j.toNat) w } }))
    ∧ (∀ (i : BitVec 3) event mode pfilt part, ∃ t, exec (.smpEnable .mgmt i event mode pfilt part) s = .next t
        ∧ (smpSt t i.toNat).en = true ∧ (smpSt t i.toNat).event = event ∧ (smpSt t i.toNat).mode = mode
        ∧ (smpSt t i.toNat).pfilt = pfilt ∧ (smpSt t i.toNat).part = part ∧ (smpSt t i.toNat).count = (smpSt s i.toNat).count
        ∧ ((smpSt s i.toNat).en = false → (smpSt t i.toNat).takenEvent = event ∧ (smpSt t i.toNat).takenMode = mode)
        ∧ (∀ k, k ≠ i.toNat → smpSt t k = smpSt s k) ∧ t.mem = s.mem ∧ t.cache = s.cache)
    ∧ (∀ i : BitVec 3, ∃ t, exec (.smpRecFree .mgmt i) s = .next t ∧ (smpSt t i.toNat).recValid = false
        ∧ (smpSt t i.toNat).ovf = (smpSt s i.toNat).ovf ∧ (smpSt t i.toNat).missed = (smpSt s i.toNat).missed
        ∧ (∀ k, k ≠ i.toNat → smpSt t k = smpSt s k) ∧ t.mem = s.mem ∧ t.cache = s.cache)
    ∧ (∀ ext nbuf, ∃ t, exec (.dumpEnable .mgmt ext nbuf) s = .next t ∧ t.ctrs.dump.en = true ∧ t.ctrs.dump.ext = ext
        ∧ t.ctrs.dump.nbuf = nbuf
        ∧ (s.ctrs.dump.en = false → t.ctrs.dump.tExt = ext ∧ t.ctrs.dump.tNbuf = nbuf
            ∧ t.ctrs.dump.tBase = s.ctrs.dump.base &&& ~~~0xFFF ∧ t.ctrs.dump.tPeriod = max 100000 s.ctrs.dump.period.toNat)
        ∧ t.mem = s.mem ∧ t.cache = s.cache)
    ∧ (∀ d : BitVec 8, exec (.dumpAckWrite .mgmt d) s =
        .next (settled s { s with ctrs := { s.ctrs with dump := { s.ctrs.dump with done := d } } })))
  ∧
  (
    ∀ (s : State) (a : Master), Reaches s a →
      (∀ (e : BitVec 9) (v : BitVec 64), exec (.cntEvtWrite a e v) s =
            .next (settled s (regWrite s a (regAddr 47 0 (8 * e.toNat)) 8 v)))
      ∧ (∀ (j : BitVec 4) (w : Word), exec (.cntModeWrite a j w) s = .next (settled s (writeAt s a 4 0 (4 * j.toNat) w)))
      ∧ (∀ (i : BitVec 3) (event : BitVec 9) (mode pfilt : Bool) (part : PartId), exec (.smpEnable a i event mode pfilt part) s
          =
            .next (settled s (writeAt s a 4 0 (0x100 + 0x40 * i.toNat) (fieldAt event 0 ||| flagAt true 9 ||| flagAt mode 10 |||
              flagAt pfilt 11 ||| fieldAt part 12))))
      ∧ (∀ i : BitVec 3, exec (.smpRecFree a i) s = .next (settled s (writeAt s a 4 0 (0x118 + 0x40 * i.toNat) 0xFF02)))
      ∧ (∀ (ext : Bool) (nbuf : BitVec 8), exec (.dumpEnable a ext nbuf) s =
            .next (settled s (writeAt s a 4 0 0x400 (flagAt true 0 ||| flagAt ext 1 ||| fieldAt nbuf 4))))
      ∧ (∀ v : BitVec 8, exec (.dumpAckWrite a v) s = .next (settled s (writeAt s a 4 0 0x418 (v.setWidth 32)))))

/-- IDX_DATA of a master's channel, at the home map (R457-R461, R464): a read answers the word of the entry and WORD advances; a
    write changes the staging copy alone and marks group 0 pending; an armed group takes no write (R468); a word beyond the space
    sets RANGE and reads all-ones. A read of HIST_LO and of a counter leaves its value with the master, and changes no counter
    (R447, R481, R495). A read has no side effect on a register that is no read-to-clear. -/
def Obligations.IndexedAndReadEffects : Prop :=
  (
    ∀ (s : State) (w : Word), Reaches s .mgmt →
      let x := idxCh s 0
      let n := x.word.toNat
      let next : Word := if x.autoInc then x.word + 1 else x.word
      (1024 ≤ n → x.space = 0x10 → ∃ t, exec (.idxDataRead .mgmt) s = .next t ∧ (idxCh t 0).range = true ∧ (idxCh t 0).word = next
          ∧ tget 0 t.regs.readData 0 = 0xFFFFFFFF ∧ t.home = s.home ∧ t.mem = s.mem ∧ t.cache = s.cache)
      ∧ (n < 1024 → n % 4 = 0 → x.space = 0x10 → ∃ t, exec (.idxDataRead .mgmt) s = .next t ∧ (idxCh t 0).word = next
          ∧ tget 0 t.regs.readData 0 =
              ((homeBits (tget hmap0 (if s.regs.viewMgmt then s.home.mapLive else s.home.mapStaged) (n / 4))).extractLsb' 0 32).setWidth 64
          ∧ t.home = s.home ∧ t.mem = s.mem ∧ t.cache = s.cache)
      ∧ (n < 1024 → x.space = 0x10 → groupArmed s 0 = false → ∃ t, exec (.idxDataWrite .mgmt w) s = .next t ∧ (idxCh t 0).word = next
          ∧ tget hmap0 t.home.mapStaged (n / 4) = homeOfBits (putBits (homeBits (tget hmap0 s.home.mapStaged (n / 4))) (32 * (n % 4)) w)
          ∧ (∀ k, k ≠ n / 4 → tget hmap0 t.home.mapStaged k = tget hmap0 s.home.mapStaged k)
          ∧ t.home.mapLive = s.home.mapLive ∧ t.regs.pending = setBit s.regs.pending 0 true ∧ t.mem = s.mem ∧ t.cache = s.cache)
      ∧ (n < 1024 → x.space = 0x10 → groupArmed s 0 = true → ∃ t, exec (.idxDataWrite .mgmt w) s = .next t ∧ t.home = s.home
          ∧ (idxCh t 0).word = next ∧ (accSt t 6).status.getLsbD 0 = true ∧ t.mem = s.mem ∧ t.cache = s.cache))
  ∧
  (
    ∀ s : State, Reaches s .mgmt →
      (∃ t, exec (.histLoRead .mgmt) s = .next t ∧ tget 0 t.regs.readData 0 = (halfOf (histTick s) false).setWidth 64
        ∧ t.tim = s.tim ∧ t.ctrs = s.ctrs ∧ t.mem = s.mem ∧ t.cache = s.cache)
      ∧ (∃ t, exec (.readClear .mgmt 0x50018 4) s = .next t ∧ tget 0 t.regs.readData 0 = s.ctrs.ceThresh.setWidth 64
        ∧ t.ctrs = s.ctrs ∧ t.mem = s.mem ∧ t.cache = s.cache))
  ∧
  (
    ∀ (s : State) (a : Master), Reaches s a →
      exec (.idxDataRead a) s = .next (settled s (regRead s a (regAddr 6 0 (0x100 * idxChan a + 8)) 4))
      ∧ (∀ w : Word, exec (.idxDataWrite a w) s = .next (settled s (writeAt s a 6 0 (0x100 * idxChan a + 8) w)))
      ∧ exec (.histLoRead a) s = .next (settled s (regRead s a (regAddr 2 0 0x68) 4))
      ∧ (∀ (addr : BitVec 25) (len : BitVec 4), exec (.readClear a addr len) s = .next (settled s (regRead s a addr len.toNat))))

/-- ERR.ACC_SUM: bit b is 1 while any flag of ACC_STATUS is set in block b (R453). The block of an address is that of its window. -/
def Obligations.AccSumShowsTheFlaggedBlocks : Prop :=
  (∀ s : State, Reaches s .mgmt → ∃ t, exec (.registerRead .mgmt 0x50000 8) s = .next t
    ∧ (∀ b, b < 48 → (tget 0 t.regs.readData 0).getLsbD b = ((accSt s b).status != 0))
    ∧ (∀ b, 48 ≤ b → b < 64 → (tget 0 t.regs.readData 0).getLsbD b = false))
  ∧ (∀ b : Nat, b < 48 → (decodeAddr (BitVec.ofNat 25 (blockBase b))).1 = b)
  ∧ [0, 1, 2, 3, 4, 5, 6].map blockBase = [0, 0x10000, 0x20000, 0x30000, 0x40000, 0x50000, 0x60000]
  ∧ (List.range 16).map (fun n => blockBase (7 + n)) = (List.range 16).map (fun n => 0x100000 + 0x10000 * n)
  ∧ (List.range 8).map (fun n => blockBase (23 + n)) = (List.range 8).map (fun n => 0x200000 + 0x10000 * n)
  ∧ [31, 32, 33, 34].map blockBase = [0x280000, 0x290000, 0x2A0000, 0x2B0000]
  ∧ (List.range 8).map (fun n => blockBase (35 + n)) = (List.range 8).map (fun n => 0x300000 + 0x10000 * n)
  ∧ [43, 44, 45, 46, 47].map blockBase = [0x380000, 0x390000, 0x400000, 0x500000, 0x600000]

/-- SMBus: a transaction whose PEC fails touches no register and is counted; a block write is a 4-byte register write by that
    master, and a read answers the word at the offset set before (R445). Configuration records, each as a command: what it changes,
    and whether it succeeded (R547, R551). -/
def Obligations.SmbusAndConfigurationRecords : Prop :=
  (
    ∀ (s : State) (ofs w : Word), Running s →
      exec (.smbBlockWrite false ofs w) s = .next (settled s (trouble s 0 0))
      ∧ exec (.smbReadOffset false ofs) s = .next (settled s (trouble s 0 0))
      ∧ exec (.smbBlockRead false) s = .next (settled s (trouble s 0 0))
      ∧ exec (.smbBlockWrite true ofs w) s = exec (.registerWrite .smbus (ofs.extractLsb' 0 25) 4 (w.setWidth 64)) s
      ∧ exec (.smbReadOffset true ofs) s = .next (settled s { s with regs := { s.regs with smbOfs := ofs } })
      ∧ exec (.smbBlockRead true) s = exec (.registerRead .smbus (s.regs.smbOfs.extractLsb' 0 25) 4) s
      ∧ exec (.smbBlockWrite true 0x18 w) s = .next (settled s { s with regs := { s.regs with viewSmb := w.getLsbD 1 } })
      ∧ exec (.smbBlockWrite true 0x1800C w) s = .next (settled s { s with ctrs := { s.ctrs with intEn := w } }))
  ∧
  (
    ∀ (s : State), Running s →
      let ok (t : State) (b : Bool) : State := { t with regs := { t.regs with recOk := b } }
      exec .nopRecord s = .next (settled s (ok s true))
      ∧ (∀ value mask : Word, exec (.regRecord 0 0 0x70 value mask) s =
          .next (settled s (ok { s with regs := { s.regs with scratch := (s.regs.scratch &&& ~~~mask) ||| (value &&& mask) } } true)))
      ∧ (∀ value mask : Word, ∃ t, exec (.regRecord 1 0 0x800C value mask) s = .next t ∧ t.regs.recOk = false ∧ t.ctrs.intEn = s.ctrs.intEn
          ∧ (accSt t 1).status.getLsbD 0 = true ∧ t.cache = s.cache ∧ t.mem = s.mem)
      ∧ (∀ lo hi : Word, exec (.reg64Record 4 0 0x410 lo hi) s =
          .next (settled s (ok { s with ctrs := { s.ctrs with dump := { s.ctrs.dump with t0 := hi ++ lo } } } true)))
      ∧ (∀ (word w : Word), word.toNat < 1024 → groupArmed s 0 = false → ∃ t, exec (.idxRecord 0x10 word [w]) s = .next t
          ∧ t.regs.recOk = true ∧ t.regs.pending = setBit s.regs.pending 0 true ∧ t.cache = s.cache ∧ t.mem = s.mem
          ∧ tget hmap0 t.home.mapStaged (word.toNat / 4) =
              homeOfBits (putBits (homeBits (tget hmap0 s.home.mapStaged (word.toNat / 4))) (32 * (word.toNat % 4)) w))
      ∧ (∀ header args, headerLen header ≠ args.length → exec (.cmdRecord header args) s = .next (settled s (ok s false)))
      ∧ (∀ header args c, recCmdCheck s header args s.boot.ready = 0 → lciParse (header.extractLsb' 0 8) args = some c →
          let r := lciRun s .host s.net.ctrlId 0 c true s.boot.ready
          exec (.cmdRecord header args) s = .next (settled s (ok r.1 (match r.2 with
            | some (st, _) => st == 0 || st == 0x01
            | none => true))))
      ∧ (∀ m, commitBusy s = false → s.regs.armed = false →
          let u := applyCommit { s with regs := { s.regs with overlap := false, armedConflict := false } } m
          u.regs.overlap = false → u.regs.armedConflict = false →
          exec (.commitRecord m) s = .next (settled s (ok { u with regs := { u.regs with
            overlap := s.regs.overlap, armedConflict := s.regs.armedConflict, busy := none } } true)))
      ∧ (∀ m, commitBusy s = true → ∃ t, exec (.commitRecord m) s = .next t ∧ t.regs.recOk = false ∧ t.regs.overlap = true
          ∧ t.cache = s.cache ∧ t.home = s.home ∧ t.mem = s.mem)
      ∧ (∀ (blk page : BitVec 6) (ofs : BitVec 16) (mask value timeout elapsed : Word),
          let cur := (regGet s false blk.toNat page.toNat ofs.toNat).getD 0
          exec (.waitRecord blk page ofs mask value timeout elapsed) s =
            .next (settled s (if cur &&& mask = value then ok s true else if timeout.toNat ≤ elapsed.toNat then ok s false else s)))
      ∧ (∀ (tj : BitVec 8) (cap : BitVec 16), 60 ≤ tj.toNat → tj.toNat ≤ gradeTj → (cap = 0 ∨ (300 ≤ cap.toNat ∧ cap.toNat ≤ 1180)) →
          ∃ t, exec (.thermalRecord tj cap) s = .next t ∧ t.regs.recOk = true
            ∧ t.lan.limits = tset (⟨0, 0⟩ : Limits) s.lan.limits 4 ⟨tj, cap⟩ ∧ t.cache = s.cache ∧ t.mem = s.mem ∧ t.pwr = s.pwr)
      ∧ (∀ (tj : BitVec 8) (cap : BitVec 16), (0 < tj.toNat ∧ tj.toNat < 60) ∨ 1180 < cap.toNat →
          exec (.thermalRecord tj cap) s = .next (settled s (ok s false))))
  ∧
  (
    ∀ s : State, Running s →
      (∀ (pecOk : Bool) (ofs w : Word), exec (.smbBlockWrite pecOk ofs w) s =
            .next (settled s (smbus s pecOk fun s => regWrite s .smbus (smbAddr ofs) 4 (w.setWidth 64))))
      ∧ (∀ (pecOk : Bool) (ofs : Word), exec (.smbReadOffset pecOk ofs) s =
            .next (settled s (smbus s pecOk fun s => { s with regs := { s.regs with smbOfs := ofs } })))
      ∧ (∀ pecOk : Bool, exec (.smbBlockRead pecOk) s =
            .next (settled s (smbus s pecOk fun s => regRead s .smbus (smbAddr s.regs.smbOfs) 4)))
      ∧ exec .nopRecord s = .next (settled s (recDone (s, 0)))
      ∧ (∀ (blk page : BitVec 6) (ofs : BitVec 16) (value mask : Word), exec (.regRecord blk page ofs value mask) s =
            .next (settled s (recDone (recReg s blk.toNat page.toNat ofs.toNat value mask))))
      ∧ (∀ (blk page : BitVec 6) (ofs : BitVec 16) (lo hi : Word), exec (.reg64Record blk page ofs lo hi) s =
            .next (settled s (recDone (recReg64 s blk.toNat page.toNat ofs.toNat lo hi))))
      ∧ (∀ (space : BitVec 8) (word : Word) (data : List Word), exec (.idxRecord space word data) s =
            .next (settled s (recDone (recIdx s space word data))))
      ∧ (∀ (header : Word) (args : List Word), exec (.cmdRecord header args) s =
            .next (settled s (let r := recCmd s header args s.boot.ready; recDone (r.1, r.2.1))))
      ∧ (∀ mask : BitVec 16, exec (.commitRecord mask) s = .next (settled s (recDone (recCommit s mask))))
      ∧ (∀ (blk page : BitVec 6) (ofs : BitVec 16) (mask value timeout elapsed : Word), exec (.waitRecord blk page ofs mask
          value timeout elapsed) s =
            .next (settled s (match recWait s blk.toNat page.toNat ofs.toNat mask value timeout.toNat elapsed.toNat with
              | some st => recDone (s, st)
              | none => s)))
      ∧ (∀ (tj : BitVec 8) (cap : BitVec 16), exec (.thermalRecord tj cap) s =
            .next (settled s (recDone (recThermal s false tj cap)))))

/-- Background operations go on by one unit of work at a time (R429, R430): LOG_READ writes a word to BAR2 and its progress rises,
    and after its last word the slot is DONE with its results; a COMMIT_AT whose member refuses ends FAILED with that member's
    status, and one whose member does not answer with PEER_UNREACHABLE (R431, R435). The end of a scheduling tick: Lantern-A takes
    the commands that are complete, then chooses power states; while it does not run, nothing happens (R420, R565). The clauses are
    those of a tick with no command, and with one of HOST. -/
def Obligations.OperationsAndTicksGoOn : Prop :=
  (
    ∀ (s : State) (k : SlotRef), Running s → (opSlot s k).state = .running →
      let x := opSlot s k
      let n := x.progress.toNat
      (∀ ws ofs next lost r, LanternRuns s → x.job = .log ws ofs next lost → n + 1 < ws.length → n + 1 < 2 ^ 32 →
        ∃ t, exec (.operationProgress k r) s = .next t ∧ opSlot t k = { x with progress := x.progress + 1 }
          ∧ t.mem = { s.mem with bar2 := writeWords s.mem.bar2 (ofs + 4 * n) [wordAt ws n] } ∧ t.cache = s.cache ∧ t.regs = s.regs)
      ∧ (∀ ws ofs next lost r, LanternRuns s → x.job = .log ws ofs next lost → n + 1 = ws.length → n + 1 < 2 ^ 32 →
        ∃ t, exec (.operationProgress k r) s = .next t ∧ (opSlot t k).state = .done ∧ (opSlot t k).error = 0
          ∧ (opSlot t k).result.extractLsb' 0 32 = next ∧ (opSlot t k).result.extractLsb' 32 32 = lost
          ∧ (opSlot t k).objs = [] ∧ (k.toNat < 8 → t.ctrs.evt.getLsbD 1 = true)
          ∧ t.mem = { s.mem with bar2 := writeWords s.mem.bar2 (ofs + 4 * n) [wordAt ws n] } ∧ t.cache = s.cache)
      ∧ (∀ mask scope tick c rest (r : BitVec 8), LanternRuns s → x.job = .commitAt mask scope tick [] (c :: rest) → 1 < r.toNat →
        ∃ t, exec (.operationProgress k r) s = .next t ∧ (opSlot t k).state = .failed ∧ (opSlot t k).error = r ∧ t.regs.armed = false
          ∧ t.mem = s.mem ∧ t.cache = s.cache)
      ∧ (∀ mask scope tick c rest, x.job = .commitAt mask scope tick [] (c :: rest) →
        ∃ t, exec (.peerUnreachable k) s = .next t ∧ (opSlot t k).state = .failed ∧ (opSlot t k).error = 0x12 ∧ t.regs.armed = false
          ∧ t.mem = s.mem ∧ t.cache = s.cache)
      ∧ (∀ p hs d ds o slot q, x.job = .save p hs (d :: ds) none o slot q →
        exec (.peerUnreachable k) s = .next (settled s (opFail s k 0x12))))
  ∧
  (
    ∀ (s : State) (ok : Bool), Running s →
      let w₀ := putMbx s .bmc (mbxSt s .bmc)
      let w := if ok then ledgerTaken w₀ else w₀
      (engineRuns s 62 = false → exec (.schedulingTick ok) s = .next (settle s))
      ∧ (LanternRuns s → (∀ m, (mbxSt s m).cmds = []) → s.lan.recheckDue = false → s.net.lower.old = none → s.net.isBridge = false →
          exec (.schedulingTick ok) s = .next (settled s (chooseDomains (linkEvent w))))
      ∧ (∀ c, LanternRuns s → (mbxSt s .host).cmds = [c] → (mbxSt s .host).held = [] → (∀ m, m ≠ .host → (mbxSt s m).cmds = []) →
          let u := takeRaw (putMbx w .host { mbxSt s .host with cmds := [] }) .host s.net.ctrlId c ok
          (∀ m, m ≠ .host → (mbxSt u m).cmds = []) → u.lan.recheckDue = false → u.net.lower.old = none → u.net.isBridge = false →
          exec (.schedulingTick ok) s = .next (settled s (chooseDomains (linkEvent u)))))
  ∧
  (
    ∀ s : State, Running s →
      (∀ (k : SlotRef) (reply : BitVec 8), exec (.operationProgress k reply) s = .next (settled s (rearm (opStep s k reply))))
      ∧ (∀ k : SlotRef, exec (.peerUnreachable k) s = .next (settled s (peerUnreachable s k)))
      ∧ (∀ peersOk : Bool, exec (.schedulingTick peersOk) s = .next (settled s (tickEnd s peersOk))))

/-- Fixed counters and samples (R494-R503): a counter that passes its maximum wraps and sets OVF; a sample counter takes RELOAD,
    sets OVF and its event, and arms a capture where no record is held, else counts MISSED; a capture fills the record. A snapshot
    tick: nothing while the dump is off or before its tick; SKIPPED where no buffer is free or the endpoint is no bus master; else
    the record is written to its buffer, its last header word last, and event DUMP is set (R504-R507). The
    snapshot is a calendared event: after it Lantern-A chooses power states (R519). -/
def Obligations.CountersSamplesAndDumps : Prop :=
  (
    ∀ s : State, Running s →
      (∀ (e : BitVec 9) (n : BitVec 8), e.toNat < 0x180 → n ≠ 0 → s.ctrs.mode.getLsbD e.toNat = false → s.ctrs.smp = [] →
        let c := tget cnt0 s.ctrs.fixed e.toNat
        2 ^ 48 ≤ c.count.toNat + n.toNat →
        let c' : Cnt := { c with count := c.count + n.setWidth 48, ovf := true }
        exec (.counterWrap e n) s = .next (settled s { s with ctrs := { s.ctrs with fixed := tset cnt0 s.ctrs.fixed e.toNat c' } }))
      ∧ (∀ (e : BitVec 9) (n : BitVec 8), (tget cnt0 s.ctrs.fixed e.toNat).count.toNat + n.toNat < 2 ^ 48 →
        exec (.counterWrap e n) s = .next (settle s))
      ∧ (∀ (i : BitVec 3) (n : BitVec 8), (smpSt s i.toNat).en = true → 2 ^ 48 ≤ (smpSt s i.toNat).count.toNat + n.toNat →
        let m := smpSt s i.toNat
        ∃ t, exec (.sampleOverflow i n) s = .next t ∧ (smpSt t i.toNat).ovf = true ∧ t.ctrs.evt.getLsbD (16 + i.toNat) = true
          ∧ (smpSt t i.toNat).count = m.reload + BitVec.ofNat 48 (m.count.toNat + n.toNat - 2 ^ 48)
          ∧ (m.recValid = false → (smpSt t i.toNat).armed = true ∧ (smpSt t i.toNat).missed = m.missed)
          ∧ (m.recValid = true → (smpSt t i.toNat).missed = satInc m.missed ∧ (smpSt t i.toNat).armed = m.armed)
          ∧ (∀ k, k ≠ i.toNat → smpSt t k = smpSt s k) ∧ t.cache = s.cache ∧ t.mem = s.mem)
      ∧ (∀ (i : BitVec 3) a port portv part cls op slice (skid : BitVec 6),
        let m := smpSt s i.toNat
        m.armed = true → m.recValid = false → (m.pfilt = false ∨ part = m.part) → skid.toNat ≤ 32 →
        ∃ t, exec (.sampleCapture i a port portv part cls op slice skid) s = .next t ∧ (smpSt t i.toNat).recValid = true
          ∧ (smpSt t i.toNat).armed = false ∧ (smpSt t i.toNat).record.addr = a ∧ (smpSt t i.toNat).record.port = port
          ∧ (smpSt t i.toNat).record.part = part ∧ (smpSt t i.toNat).record.op = op ∧ (smpSt t i.toNat).record.slice = slice
          ∧ (smpSt t i.toNat).record.tick = s.now
          ∧ ((m.takenMode = true ∨ isCond m.takenEvent.toNat = true) → (smpSt t i.toNat).record.skid = 0)
          ∧ ((m.takenMode = false ∧ isCond m.takenEvent.toNat = false) → (smpSt t i.toNat).record.skid = skid)
          ∧ (∀ k, k ≠ i.toNat → smpSt t k = smpSt s k) ∧ t.cache = s.cache ∧ t.mem = s.mem))
  ∧
  (
    ∀ (s : State) (bm : Bool), Running s →
      let d := s.ctrs.dump
      let due := d.nextTick + BitVec.ofNat 64 d.tPeriod
      (d.en = false ∨ s.now.toNat < d.nextTick.toNat → exec (.dumpSnapshot bm) s = .next (settle s))
      ∧ (d.en = true → d.nextTick.toNat ≤ s.now.toNat → (d.next = d.done ∨ bm = false) →
          exec (.dumpSnapshot bm) s = .next (settled s (eventDone { s with ctrs := { s.ctrs with dump :=
            { d with nextTick := due, skipped := satInc d.skipped, lost := true } } } (due != d.nextTick))))
      ∧ (d.en = true → d.nextTick.toNat ≤ s.now.toNat → d.next ≠ d.done → bm = true →
          ∃ t, exec (.dumpSnapshot bm) s = .next t ∧ t.ctrs.dump.seq = d.seq + 1 ∧ t.ctrs.dump.nextTick = due
            ∧ t.ctrs.dump.lost = false ∧ t.ctrs.dump.skipped = d.skipped ∧ t.ctrs.evt.getLsbD 15 = true
            ∧ (let a := d.tBase + BitVec.ofNat 64 (4096 * d.next.toNat)
               let r := dumpRecord s d.tExt d.nextTick
               let w3 : Word := (0 : BitVec 14) ++ BitVec.ofBool d.lost ++ BitVec.ofBool d.tExt ++ (d.seq + 1)
               (t.out.take (s.out.length + 3)) = s.out ++ [.hostWrite a r.1, .hostWrite (a + 16) r.2, .hostWrite (a + 12) [w3]])
            ∧ t.ctrs.fixed = s.ctrs.fixed ∧ t.cache = s.cache ∧ t.mem = s.mem))
  ∧
  (
    ∀ s : State, Running s →
      (∀ (e : BitVec 9) (n : BitVec 8), exec (.counterWrap e n) s = .next (settled s (cntWrap s e.toNat n.toNat)))
      ∧ (∀ (i : BitVec 3) (n : BitVec 8), exec (.sampleOverflow i n) s = .next (settled s (smpOverflow s i.toNat n.toNat)))
      ∧ (∀ (i : BitVec 3) (a : Addr) (port : PortId) (portv : Bool) (part : PartId) (cls : BitVec 3) (op : BitVec 8)
          (slice : SliceId) (skid : BitVec 6), exec (.sampleCapture i a port portv part cls op slice skid) s =
            .next (settled s (smpCapture s i.toNat { addr := a, port := port, portv := portv, part := part, cls := cls, op := op,
                                                     skid := skid, slice := slice, tick := 0 })))
      ∧ (∀ busMaster : Bool, exec (.dumpSnapshot busMaster) s =
            .next (settled s (let t := dumpSnap s busMaster; eventDone t (t.ctrs.dump.nextTick != s.ctrs.dump.nextTick)))))

/-- Temperature and power readings: what each reading leaves, the THERMAL event when a limit is reached (R402, R440, R525, R532).
    The ladder of throttling levels at the end of a 1 ms window (R528): where the change and the bounds leave the level as it is,
    only the window's sums start again; an emergency holds level 6 (R529); a change takes effect by the table's first row that
    holds. -/
def Obligations.ThermalLadder : Prop :=
  (
    ∀ s : State, Running s →
      (∀ tj, (tjLimit s : Int) ≤ celsius s.pwr.tj ∨ celsius tj < tjLimit s →
        exec (.dieSensorRead tj) s = .next (settled s { s with pwr := { s.pwr with
          tj := tj, tjMax := hotter s.pwr.tjMax tj, backstop := s.pwr.backstop && decide ((gradeTj : Int) < celsius tj) } }))
      ∧ (∀ tj, celsius s.pwr.tj < tjLimit s → (tjLimit s : Int) ≤ celsius tj →
        ∃ t, exec (.dieSensorRead tj) s = .next t ∧ t.pwr.tj = tj ∧ t.ctrs.evt.getLsbD 11 = true ∧ t.pwr.level = s.pwr.level
          ∧ t.cache = s.cache ∧ t.mem = s.mem)
      ∧ (∀ w, exec (.powerEstimate w) s = .next (settled s { s with pwr := { s.pwr with
          pkg := w, pkgSum := s.pwr.pkgSum + w.toNat, pkgCount := s.pwr.pkgCount + 1 } }))
      ∧ (∀ (n : BitVec 3) temp, asleep s (44 + n.toNat) = false → celsius temp < 85 →
        exec (.rdimmTempRead n temp) s = .next (settled s (putChan s n.toNat { chanSt s n.toNat with tempMax := temp })))
      ∧ (∀ (n : BitVec 3) temp, asleep s (44 + n.toNat) = false → 85 ≤ celsius temp →
        exec (.rdimmTempRead n temp) s =
          .next (settled s (raiseEvt (putChan s n.toNat { chanSt s n.toNat with tempMax := temp }) 11)))
      ∧ (∀ (k : Bool) temp, let j := if k then 1 else 0
        asleep s (52 + j) = false → celsius temp < 100 ∨ 5 ≤ s.pwr.level.toNat →
        ∃ t, exec (.hbmTempRead k temp) s = .next t ∧ (hbmSt t j).temp = temp ∧ t.pwr.level = s.pwr.level
          ∧ (85 ≤ celsius temp → (hbmSt t j).doubleRef = true) ∧ (celsius temp < 80 → (hbmSt t j).doubleRef = false)
          ∧ (80 ≤ celsius temp → celsius temp < 85 → (hbmSt t j).doubleRef = (hbmSt s j).doubleRef)
          ∧ (∀ i, i ≠ j → hbmSt t i = hbmSt s i) ∧ t.cache = s.cache ∧ t.mem = s.mem))
  ∧
  (
    (∀ s : State, Running s → s.pwr.emergency = true →
      ∃ t, exec .throttleWindow s = .next t ∧ t.pwr.level = s.pwr.level ∧ t.pwr.emergency = true ∧ t.pwr.mhz = s.pwr.mhz
        ∧ t.pwr.pkgSum = 0 ∧ t.pwr.pkgCount = 0 ∧ t.cache = s.cache ∧ t.mem = s.mem)
    ∧ (∀ s : State, ladder s = (if s.pwr.emergency then 0
        else if (tjLimit s : Int) + 5 ≤ celsius s.pwr.tjMax then 2
        else if (tjLimit s : Int) ≤ celsius s.pwr.tjMax
            ∨ powerCap s * max 1 s.pwr.pkgCount < (if s.pwr.pkgCount = 0 then s.pwr.pkg.toNat else s.pwr.pkgSum)
            ∨ 95 ≤ celsius s.pwr.stackMax then 1
        else if celsius s.pwr.tjMax ≤ (tjLimit s : Int) - 5
            ∧ (if s.pwr.pkgCount = 0 then s.pwr.pkg.toNat else s.pwr.pkgSum) * 100 ≤ 95 * (powerCap s * max 1 s.pwr.pkgCount)
            ∧ celsius s.pwr.stackMax ≤ 90 ∧ 9 ≤ s.pwr.windows then -1 else 0))
    ∧ (∀ s : State, Running s → s.pwr.emergency = false → s.pwr.backstop = false → s.pwr.level.toNat ≤ 5 →
        max 0 (min 5 ((s.pwr.level.toNat : Int) + ladder s)) = s.pwr.level.toNat →
        exec .throttleWindow s = .next (settled s { s with pwr := { s.pwr with
          windows := s.pwr.windows + 1, pkgSum := 0, pkgCount := 0, tjMax := s.pwr.tj
          stackMax := hotter (hbmSt s 0).temp (hbmSt s 1).temp } }))
    ∧ ∀ s : State, Running s → s.pwr.emergency = false → s.pwr.backstop = false → s.pwr.level = 0 → ladder s = 2 →
        ∃ t, exec .throttleWindow s = .next t ∧ t.pwr.level = 2 ∧ t.pwr.emergency = false ∧ t.cache = s.cache ∧ t.mem = s.mem)
  ∧
  (
    ∀ s : State, Running s →
      (∀ tj : BitVec 8, exec (.dieSensorRead tj) s = .next (settled s (readDie s tj)))
      ∧ (∀ pkg : BitVec 16, exec (.powerEstimate pkg) s = .next (settled s (readPower s pkg)))
      ∧ exec .throttleWindow s = .next (settled s (throttleWindow s))
      ∧ (∀ (k : Bool) (temp : BitVec 8), exec (.hbmTempRead k temp) s = .next (settled s (hbmTemp s (if k then 1 else 0) temp)))
      ∧ (∀ (n : BitVec 3) (temp : BitVec 8), exec (.rdimmTempRead n temp) s = .next (settled s (rdimmTemp s n temp))))

/-- A slice's clock for the next window is chosen by its occupancy and capped by the level (R513, R527): down at once, up after a
    voltage ramp (R512). A domain enters A1 after 64 cycles without work; an entry to A2 is complete after its cost, and is given up
    where work has come; the alarm or a wake ends the sleep, and the domain is in A0 when the wake time has passed (R514, R517,
    R520). -/
def Obligations.ClocksAndDomains : Prop :=
  (
    ∀ (s : State) (n : SliceId) (lookups cycles : Word), Running s →
      let choice : BitVec 12 :=
        if 75 * cycles.toNat < 100 * lookups.toNat then 2200
        else if 100 * lookups.toNat < 10 * cycles.toNat ∧ beamInSlice s n = false then 1600 else 2000
      let f := min choice.toNat (capMhz s.pwr.level)
      let chosen := tset (2000 : BitVec 12) s.pwr.choice n.toNat choice
      (f ≤ mhzOf s n → exec (.dvfsWindow n lookups cycles) s = .next (settled s { s with pwr := { s.pwr with
        choice := chosen, mhz := tset 2000 s.pwr.mhz n.toNat (BitVec.ofNat 12 f), ramp := tset 0 s.pwr.ramp n.toNat 0 } }))
      ∧ (mhzOf s n < f → exec (.dvfsWindow n lookups cycles) s = .next (settled s { s with pwr := { s.pwr with
        choice := chosen, ramp := tset 0 s.pwr.ramp n.toNat (BitVec.ofNat 12 f) } }))
      ∧ (tget 0 s.pwr.ramp n.toNat ≠ 0 → ∃ t, exec (.voltageRampDone n) s = .next t
          ∧ mhzOf t n = (tget 0 s.pwr.ramp n.toNat).toNat ∧ (∀ k, k ≠ n → mhzOf t k = mhzOf s k) ∧ t.pwr.level = s.pwr.level
          ∧ t.cache = s.cache ∧ t.mem = s.mem)
      ∧ (tget 0 s.pwr.ramp n.toNat = 0 → exec (.voltageRampDone n) s = .next (settle s)))
  ∧
  (
    ∀ (s : State) (d : BitVec 6), Running s →
      let x := domSt s d.toNat
      (d ≠ 61 → domWork s d.toNat = false → x.state = 0 → x.entering = none →
        exec (.a1IdleEntry d) s = .next (settled s (putDom s d.toNat { x with state := 1 })))
      ∧ (domWork s d.toNat = true → exec (.a1IdleEntry d) s = .next (settle s))
      ∧ (∀ from', x.entering = some (2, from') → domWork s d.toNat = false → from'.toNat + 500 ≤ s.now.toNat → nextEvent s d.toNat = none →
        exec (.domainEntryDone d) s = .next (settled s (putDom s d.toNat { x with state := 2, entering := none, alarm := none })))
      ∧ (∀ st from', x.entering = some (st, from') → domWork s d.toNat = true →
        exec (.domainEntryDone d) s = .next (settled s
          (trouble (putDom s d.toNat { x with entering := none, state := 0, idleFrom := s.now }) 3 0)))
      ∧ (∀ t0, x.alarm = some t0 → x.state.toNat = 2 → x.entering = none → x.waking = none → t0.toNat ≤ s.now.toNat →
        exec (.wakeAlarm d) s = .next (settled s (putDom s d.toNat { x with waking := some s.now })))
      ∧ (∀ t0, x.alarm = some t0 → s.now.toNat < t0.toNat → exec (.wakeAlarm d) s = .next (settle s))
      ∧ (∀ t0 ok, x.waking = some t0 → x.state = 2 → t0.toNat + 1500 ≤ s.now.toNat → (ok = true ∨ 16 ≤ d.toNat) →
        exec (.domainWakeDone d ok) s = .next (settled s
          (putDom s d.toNat { x with state := 0, waking := none, alarm := none, idleFrom := s.now })))
      ∧ (∀ t0 ok, x.waking = some t0 → x.state = 2 → s.now.toNat < t0.toNat + 1500 →
        exec (.domainWakeDone d ok) s = .next (settle s)))
  ∧
  (
    ∀ s : State, Running s →
      (∀ (n : SliceId) (lookups cycles : Word), exec (.dvfsWindow n lookups cycles) s =
            .next (settled s (dvfs s n lookups cycles)))
      ∧ (∀ n : SliceId, exec (.voltageRampDone n) s = .next (settled s (rampDone s n)))
      ∧ (∀ d : BitVec 6, exec (.a1IdleEntry d) s = .next (settled s (idleEntry s d.toNat)))
      ∧ (∀ d : BitVec 6, exec (.domainEntryDone d) s = .next (settled s (entryDone s d.toNat)))
      ∧ (∀ d : BitVec 6, exec (.wakeAlarm d) s = .next (settled s (wakeAlarm s d.toNat)))
      ∧ (∀ (d : BitVec 6) (ok : Bool), exec (.domainWakeDone d ok) s = .next (settled s (wakeDone s d.toNat ok))))

/-- Refresh, retries and retraining of the channels (R391, R393, R394, R401, R404, R405, R409): training needs engine V4 (R13).
    Channels that are retired and
    returned (R409, R573, R574): a return that fails leaves the channel retired with CFG_ERR; one that succeeds marks its lines as
    poisoned and the channel serves again. -/
def Obligations.MemoryChannelsAreServed : Prop :=
  (
    ∀ (s : State) (n : BitVec 3), Running s →
      let x := chanSt s n.toNat
      (∀ double, exec (.mr4Read n double) s = .next (settled s (putChan s n.toNat { x with doubleRef := double })))
      ∧ (∀ bank limit, (chanReads s n).any (fun r => r.beam && ddrBank s n.toNat (ddrCa s r.la) == bank.toNat) = false →
          exec (.ddrRefresh n bank limit) s = .next (settled s (putChan s n.toNat
            { x with postponed := tset 0 x.postponed bank.toNat (tget 0 x.postponed bank.toNat - 1) })))
      ∧ (∀ bank limit, (chanReads s n).any (fun r => r.beam && ddrBank s n.toNat (ddrCa s r.la) == bank.toNat) = true →
          tget 0 x.postponed bank.toNat < limit.toNat →
          exec (.ddrRefresh n bank limit) s = .next (settled s (putChan s n.toNat
            { x with postponed := tset 0 x.postponed bank.toNat (tget 0 x.postponed bank.toNat + 1) })))
      ∧ (∀ bank raaimt, 0 < raaimt.toNat → raaimt.toNat ≤ tget 0 x.raa bank.toNat →
          exec (.ddrRfm n bank raaimt) s = .next (settled s (trouble
            (putChan s n.toNat { x with raa := tset 0 x.raa bank.toNat (tget 0 x.raa bank.toNat - raaimt.toNat) }) (35 + n.toNat) 4)))
      ∧ (∀ bank raaimt, tget 0 x.raa bank.toNat < raaimt.toNat → exec (.ddrRfm n bank raaimt) s = .next (settle s))
      ∧ (∀ (sl : SliceId) (q : BitVec 2) (bank limit : BitVec 4), (hbmq s sl q.toNat).any (fun o => o.beam) = false →
          let h := hbmSt s (sl.toNat / 8)
          let i := 16 * pcOf sl q.toNat + bank.toNat
          exec (.hbmRefresh sl q bank limit) s = .next (settled s (putHbmSt s (sl.toNat / 8)
            { h with postponed := tset 0 h.postponed i (tget 0 h.postponed i - 1) })))
      ∧ (chanServes s n = true → x.reissues < 3 → x.retryWin = s.now.toNat / 1000000 → x.retries < 15 →
          exec (.alertN n) s = .next (settled s (trouble
            (putChan s n.toNat { x with reissues := x.reissues + 1, retries := x.retries + 1 }) (35 + n.toNat) 3)))
      ∧ (chanServes s n = true → 3 ≤ x.reissues → exec (.alertN n) s = .next (settled s (startRetrain s n)))
      ∧ (chanServes s n = false → exec (.alertN n) s = .next (settle s))
      ∧ ((x.retraining = false ∨ x.returning = true ∨ engineRuns s 60 = false) → ∀ ok, exec (.retrainDone n ok) s = .next (settle s))
      ∧ (x.retraining = true → x.returning = false → engineRuns s 60 = true →
          exec (.retrainDone n true) s = .next (settled s (recheck (putChan s n.toNat { x with retraining := false })))
          ∧ exec (.retrainDone n false) s = .next (settled s (retireChannel s n))))
  ∧
  (
    (∀ (s : State) (n : BitVec 3), ((chanSt s n.toNat).returning = false ∨ engineRuns s 60 = false) → ∀ ok,
      exec (.channelReturnDone n ok) s = .next (settle s))
    ∧ ∀ (s : State) (n : BitVec 3), Running s → (chanSt s n.toNat).returning = true → engineRuns s 60 = true →
      exec (.channelReturnDone n false) s =
        .next (settled s (putChan s n.toNat { chanSt s n.toNat with returning := false, cfgErr := true }))
      ∧ exec (.channelReturnDone n true) s =
          (let t := markRun s ⟨0, s.capacity / 128, some n, true⟩
           let u := putChan t n.toNat { chanSt t n.toNat with returning := false, trained := true, cfgErr := false }
           .next (settled s (recheck { u with ddrRet := setBit u.ddrRet n.toNat false }))))
  ∧
  (
    ∀ s : State, Running s →
      (∀ (n : BitVec 3) (double : Bool), exec (.mr4Read n double) s =
            .next (settled s (putChan s n.toNat { chanSt s n.toNat with doubleRef := double })))
      ∧ (∀ (n : BitVec 3) (bank : BitVec 8) (limit : BitVec 4), exec (.ddrRefresh n bank limit) s =
            .next (settled s (ddrRefresh s n bank limit)))
      ∧ (∀ (n : BitVec 3) (bank : BitVec 8) (raaimt : BitVec 16), exec (.ddrRfm n bank raaimt) s =
            .next (settled s (ddrRfm s n bank raaimt)))
      ∧ (∀ (sl : SliceId) (q : BitVec 2) (bank limit : BitVec 4), exec (.hbmRefresh sl q bank limit) s =
            .next (settled s (hbmRefresh s sl q bank limit)))
      ∧ (∀ n : BitVec 3, exec (.alertN n) s = .next (settled s (alertCmd s n)))
      ∧ (∀ (n : BitVec 3) (ok : Bool), exec (.retrainDone n ok) s = .next (settled s (retrainEnd s n ok)))
      ∧ (∀ (n : BitVec 3) (ok : Bool), exec (.channelReturnDone n ok) s = .next (settled s (returnEnd s n ok))))

/-- A DDR5 read whose turn it is completes (R241, R285, R389, R390, R392): it leaves the queue, its line, as it was before any write
    behind it, goes to the home entry that waits for it, an error is counted, and an uncorrectable one is captured, raised as DATA_UE
    and answered with poison. One whose turn it is not, or of a channel that does not serve, waits.
    Tracking every 100 ms and the patrol scrub (R396, R397, R406, R410). -/
def Obligations.MemoryReadsAreAnswered : Prop :=
  (
    (∀ (s : State) (n : BitVec 3) (pos : Nat) (err : EccOutcome),
      ((chanReads s n)[pos]? = none ∨ chanServes s n = false ∨ ∃ r, (chanReads s n)[pos]? = some r ∧ readTurn s n pos r = none) →
      exec (.ddrReadComplete n pos err) s = .next (settle s))
    ∧ ∀ (s : State) (n : BitVec 3) (pos : Nat) (r : DdrRead) (y : Wrr), Running s → (chanReads s n)[pos]? = some r →
      chanServes s n = true → readTurn s n pos r = some y →
      let t := { s with ddrq := s.ddrq.erase r, ddrWrr := tset wrr0 s.ddrWrr n.toNat y }
      let u := putChan t n.toNat { chanSt t n.toNat with reissues := 0 }
      let d := r.old.getD (ddrLine u r.la)
      (d.psn = 0 → exec (.ddrReadComplete n pos .none) s = .next (settled s (ddrAnswer u r d)))
      ∧ (d.psn = 0 → exec (.ddrReadComplete n pos .single) s = .next (settled s (ddrAnswer (trouble u (35 + n.toNat) 0) r d)))
      ∧ (d.psn = 0 → exec (.ddrReadComplete n pos .uncorrectable) s = .next (settled s (ddrAnswer
          (raiseErr (trouble (captureLoc u n r.la) (35 + n.toNat) 1) (35 + n.toNat) 2) r ⟨d.bytes, 0xF⟩)))
      ∧ (d.psn ≠ 0 → ∀ err, exec (.ddrReadComplete n pos err) s = .next (settled s (ddrAnswer (trouble u (35 + n.toNat) 2) r d))))
  ∧
  (
    ∀ s : State, Running s →
      (∀ lost, s.now.toNat < s.pwr.trackAt.toNat → exec (.tracking lost) s = .next (settle s))
      ∧ (s.pwr.trackAt.toNat ≤ s.now.toNat → exec (.tracking 0) s =
          (let u := { s with pwr := { s.pwr with trackAt := BitVec.ofNat 64 (s.now.toNat + 100000000) } }
           .next (settled s (eventDone u (u.pwr.trackAt != s.pwr.trackAt)))))
      ∧ (∀ (n : BitVec 3) l, (chanSt s n.toNat).scrubEn = false ∨ chanServes s n = false ∨ s.now.toNat < tget 0 s.pwr.scrubAt n.toNat →
          exec (.patrolScrubBurst n l) s = .next (settle s))
      ∧ (∀ n : BitVec 3, let x := chanSt s n.toNat
          x.scrubEn = true → chanServes s n = true → tget 0 s.pwr.scrubAt n.toNat ≤ s.now.toNat → x.scrubCa + 4096 < chanLines s →
          ∃ t, exec (.patrolScrubBurst n []) s = .next t ∧ (chanSt t n.toNat).scrubCa = x.scrubCa + 4096
            ∧ (chanSt t n.toNat).sinceScrub = [] ∧ tget 0 t.pwr.scrubAt n.toNat = s.now.toNat + scrubPace s n
            ∧ t.cache = s.cache ∧ t.mem = s.mem))
  ∧
  (
    ∀ s : State, Running s →
      (∀ lost : BitVec 64, exec (.tracking lost) s =
            .next (settled s (let t := track s lost; eventDone t (t.pwr.trackAt != s.pwr.trackAt))))
      ∧ (∀ (n : BitVec 3) (outcomes : List (Nat × EccOutcome)), exec (.patrolScrubBurst n outcomes) s =
            .next (settled s (let t := scrubBurst s n outcomes; eventDone t (tget 0 t.pwr.scrubAt n.toNat != tget 0
              s.pwr.scrubAt n.toNat))))
      ∧ (∀ (n : BitVec 3) (pos : Nat) (err : EccOutcome), exec (.ddrReadComplete n pos err) s =
            .next (settled s (ddrReadDone s n pos err))))

/-- Engines that stop (R565, R568) and debug halts (R488): a stop raises FW_FAULT and is counted; an engine of Lantern ends every
    operation; a halt changes its engine alone. -/
def Obligations.EnginesStopAndHalt : Prop :=
  (
  ∀ (s : State) (e : BitVec 6), Running s →
    let x := engineSt s e.toNat
    (∀ h, exec (.debugHalt e h) s = .next (settled s (putEngine s e.toNat { x with halted := h })))
    ∧ ((x.dead = true ∨ engineUp s e.toNat = false) → exec (.engineWatchdog e) s = .next (settle s)
        ∧ ∀ b, exec (.engineStop e b) s = .next (settle s))
    ∧ (x.dead = false → engineUp s e.toNat = true → e.toNat < 62 → stopsAgain s e.toNat = false →
        (∃ t, exec (.engineWatchdog e) s = .next t ∧ (engineSt t e.toNat).lastStop = some s.now ∧ (engineSt t e.toNat).dead = false
          ∧ t.ctrs.errEvent.getLsbD 6 = true ∧ t.ctrs.evt.getLsbD 7 = true
          ∧ (∀ k, k ≠ e.toNat → engineSt t k = engineSt s k) ∧ t.cache = s.cache ∧ t.mem = s.mem ∧ t.lan = s.lan)
        ∧ ∀ b, exec (.engineStop e b) s = exec (.engineWatchdog e) s)
    ∧ (x.dead = false → engineUp s e.toNat = true → 62 ≤ e.toNat → stopsAgain s e.toNat = false → runningOps s = [] →
        ∃ t, exec (.engineStop e false) s = .next t ∧ (engineSt t e.toNat).lastStop = some s.now ∧ t.ctrs.errEvent.getLsbD 6 = true
          ∧ t.mem = s.mem)
    ∧ (x.dead = false → engineUp s e.toNat = true → 62 ≤ e.toNat → ∃ t, exec (.engineStop e true) s = .next t ∧ AtReset t))
  ∧
  (
    ∀ s : State, Running s →
      (∀ e : BitVec 6, exec (.engineWatchdog e) s = .next (settled s (engineStop s e.toNat false)))
      ∧ (∀ (e : BitVec 6) (memoryLost : Bool), exec (.engineStop e memoryLost) s =
            .next (settled s (engineStop s e.toNat memoryLost)))
      ∧ (∀ (e : BitVec 6) (halt : Bool), exec (.debugHalt e halt) s = .next (settled s (haltEngine s e.toNat halt))))

/-- Training of a port ends in L0 (R313, R322, R534): only where the port may train and the rate and width are allowed; before READY
    no init flit is sent. The moves of the LTSSM are those of R312. The init exchange of a port (R322): a wrong version, role or
    credit count is a protocol error; after READY the port answers and is initialised, with the requester's probe credits and event
    PORT. -/
def Obligations.PortLinksComeUp : Prop :=
  (
    ∀ (s : State) (p : PortId), Running s →
      let x := portSt s p
      (∀ rate x8, (x.ltssm = .detect ∨ x.ltssm = .polling ∨ x.ltssm = .configuration) → mayTrain x = true →
        rateAllowed x.maxrate rate = true → (x8 = false ∨ x.x8ok = true) →
        ∃ t, exec (.pcpLinkUp p rate x8) s = .next t ∧ (portSt t p).ltssm = .l0 ∧ (portSt t p).rate = rate ∧ (portSt t p).x8 = x8
          ∧ (portSt t p).initDone = false ∧ (portSt t p).unacked = [] ∧ (portSt t p).rxNext = 0 ∧ (portSt t p).txNext = 0
          ∧ t.out = (if s.boot.ready then s.out ++ [.flitInit p] else s.out)
          ∧ (∀ q, q ≠ p → portSt t q = portSt s q) ∧ t.cache = s.cache ∧ t.mem = s.mem)
      ∧ (∀ rate x8, mayTrain x = false → exec (.pcpLinkUp p rate x8) s = .next (settle s))
      ∧ (x.ltssm = .detect → mayTrain x = true →
          exec (.ltssmTransition p .polling) s = .next (settled s (putPort s p { x with ltssm := .polling })))
      ∧ (x.ltssm = .polling → exec (.ltssmTransition p .configuration) s =
          .next (settled s (putPort s p { x with ltssm := .configuration })))
      ∧ (x.ltssm = .polling → exec (.ltssmTransition p .foreignTs) s = .next (settled s (trouble s (23 + p.toNat) 0)))
      ∧ (x.ltssm = .polling ∨ x.ltssm = .configuration →
          exec (.ltssmTransition p .detect) s = .next (settled s (putPort s p { x with ltssm := .detect })))
      ∧ (x.ltssm = .recovery → x.unacked = [] → ∃ t, exec (.ltssmTransition p .l0) s = .next t ∧ (portSt t p).ltssm = .l0
          ∧ t.out = s.out ∧ t.cache = s.cache ∧ t.mem = s.mem)
      ∧ (x.ltssm = .l0 → x.recoveries = [] → exec (.ltssmTransition p .recovery) s =
          .next (settled s (putPort s p { x with ltssm := .recovery, recoveries := [s.now], replays := 0 }))))
  ∧
  (
    ∀ (s : State) (p : PortId) (ver : BitVec 8) (role : Bool) (cred : BitVec 8), Running s →
      (portSt s p).ltssm = .l0 → (portSt s p).initDone = false →
      ((ver ≠ 1 ∨ role = true ∨ cred.toNat < 8) → exec (.initFlit p ver role cred) s = .next (settled s (protoErr s p)))
      ∧ (ver = 1 → role = false → 8 ≤ cred.toNat → s.boot.ready = false → exec (.initFlit p ver role cred) s = .next (settle s))
      ∧ (ver = 1 → role = false → 8 ≤ cred.toNat → s.boot.ready = true → (portSt s p).returning = none →
          ∃ t, exec (.initFlit p ver role cred) s = .next t ∧ (portSt t p).initDone = true ∧ (portSt t p).prbCred = cred.toNat
            ∧ (portSt t p).prbOffer = cred ∧ t.ctrs.evt.getLsbD 10 = true ∧ (∃ l, t.out = s.out ++ [.flitInit p] ++ l)
            ∧ (∀ q, q ≠ p → portSt t q = portSt s q) ∧ t.cache = s.cache ∧ t.mem = s.mem))
  ∧
  (
    ∀ s : State, Running s →
      (∀ (p : PortId) (rate : BitVec 2) (x8 : Bool), exec (.pcpLinkUp p rate x8) s =
            .next (settled s (pcpLinkUp s p rate x8)))
      ∧ (∀ (p : PortId) (ver : BitVec 8) (role : Bool) (prbCred : BitVec 8), exec (.initFlit p ver role prbCred) s =
            .next (settled s (pcpInit s p ver role prbCred)))
      ∧ (∀ (p : PortId) (t : LtssmMove), exec (.ltssmTransition p t) s = .next (settled s (ltssmMove s p t))))

/-- Flits and their retry (R319, R320): a flit with a bad CRC is counted, answered with one NAK and changes nothing else; a flit in
    order is accepted; the replay timer sends every unacknowledged flit again, and after REPLAY_MAX replays enters Recovery. -/
def Obligations.FlitsAreRetried : Prop :=
  (
  ∀ (s : State) (p : PortId) (f : PcpFrame), Running s →
    let x := portSt s p
    (x.ltssm ≠ .l0 → exec (.flitReceive p f) s = .next (settle s))
    ∧ (x.ltssm = .l0 → flitGood f = false → x.nakSent = true →
        exec (.flitReceive p f) s = .next (settled s (trouble s (23 + p.toNat) 1)))
    ∧ (x.ltssm = .l0 → flitGood f = false → x.nakSent = false → ∃ t, exec (.flitReceive p f) s = .next t
        ∧ portSt t p = { x with nakSent := true } ∧ (∀ q, q ≠ p → portSt t q = portSt s q) ∧ t.cache = s.cache ∧ t.mem = s.mem)
    ∧ (x.ltssm = .l0 → flitGood f = true → f.hdr.extractLsb' 12 3 = 0 → f.hdr.extractLsb' 0 12 = x.rxNext → x.initDone = true →
        f.hdr.extractLsb' 16 32 = 0 → f.trailer.extractLsb' 0 64 = 0 → x.part = none → x.probeHold = [] →
        ∃ t, exec (.flitReceive p f) s = .next t ∧ (portSt t p).rxNext = x.rxNext + 1 ∧ (portSt t p).ackv = true
          ∧ (portSt t p).nakSent = false ∧ (portSt t p).open_ = x.open_ ∧ t.cache = s.cache ∧ t.mem = s.mem)
    ∧ (flitDue s x = false → exec (.pcpReplayTimer p .timer) s = .next (settle s))
    ∧ (x.ltssm = .l0 → flitDue s x = true → x.replays < max 1 x.replayMax.toNat →
        ∃ t, exec (.pcpReplayTimer p .timer) s = .next t
          ∧ portSt t p = { x with replays := x.replays + 1, unacked := x.unacked.map fun u => (u.1, s.now, u.2.2) }
          ∧ (s.out ++ x.unacked.map fun u => OutMsg.flitAgain p u.1 u.2.2).length ≤ t.out.length ∧ t.cache = s.cache ∧ t.mem = s.mem))
  ∧
  (
    ∀ s : State, Running s →
      (∀ (p : PortId) (f : PcpFrame), exec (.flitReceive p f) s = .next (settled s (flitReceive s p f)))
      ∧ (∀ (p : PortId) (c : ReplayCause), exec (.pcpReplayTimer p c) s = .next (settled s (portReplayTimer s p c))))

/-- A link that goes down, and ports that are retired or returned (R338-R340, R375). -/
def Obligations.PortsGoDownAndRetire : Prop :=
  (
  ∀ (s : State) (p : PortId), Running s →
    let x := portSt s p
    (x.ltssm ≠ .l0 → x.ltssm ≠ .recovery → exec (.pcpLinkDown p) s = .next (settle s))
    ∧ (x.ltssm = .l0 ∨ x.ltssm = .recovery → probesOf s p = [] → x.probeHold = [] →
        ∃ t, exec (.pcpLinkDown p) s = .next t ∧ (portSt t p).down = true ∧ (portSt t p).ltssm = .detect ∧ (portSt t p).open_ = []
          ∧ (portSt t p).initDone = false ∧ (portSt t p).unacked = [] ∧ t.ctrs.errEvent.getLsbD 9 = true
          ∧ (∀ q, q ≠ p → portSt t q = portSt s q) ∧ t.cache.tags = s.cache.tags ∧ t.cache.pf = s.cache.pf ∧ t.mem = s.mem)
    ∧ (x.down = true → pfOfPort s p = [] → x.retire = none →
        exec (.portPurgeDone p) s = .next (settled s (putPort s p { x with
          down := false, purge := none, trainOk := x.en && !x.held && (x.autoRetrain || x.returning.isSome) })))
    ∧ (x.down = false ∨ pfOfPort s p ≠ [] → exec (.portPurgeDone p) s = .next (settle s))
    ∧ (∀ r, x.retire = some r → r.probing = true → r.since.toNat + 10000000 ≤ s.now.toNat → r.slot = none → x.open_ = [] →
        x.down = false → pfOfPort s p = [] → probesOf s p = [] → x.probeHold = [] → x.cmpHold = [] →
        ∃ t, exec (.portRetireTimeout p) s = .next t ∧ (portSt t p).retired = true ∧ (portSt t p).retire = none
          ∧ (portSt t p).ltssm = .idle ∧ (domSt t (32 + p.toNat)).state = 3 ∧ t.ctrs.evt.getLsbD 10 = true
          ∧ t.cache.tags = s.cache.tags ∧ t.mem = s.mem)
    ∧ (∀ r, x.retire = some r → (r.probing = false ∨ s.now.toNat < r.since.toNat + 10000000) →
        exec (.portRetireTimeout p) s = .next (settle s))
    ∧ (∀ (rp : RingPort) (n : BitVec 4) k t0, ringPortOf n = some rp → (ringPort s rp).returning = some (k, t0) →
        (ringPort s rp).state = .training → t0.toNat + 100000000 ≤ s.now.toNat →
        exec (.portReturnTimeout n) s =
          .next (settled s (opFail (putRing s rp { ringPort s rp with returning := none }) k 0x0B)))
    ∧ (∀ (n : BitVec 4) k t0, n.toNat < 8 → (portSt s (n.setWidth 3)).returning = some (k, t0) →
        (portSt s (n.setWidth 3)).ltssm = .detect → t0.toNat + 100000000 ≤ s.now.toNat →
        exec (.portReturnTimeout n) s =
          .next (settled s (opFail (putPort s (n.setWidth 3) { portSt s (n.setWidth 3) with returning := none }) k 0x0B)))
    ∧ (∀ n : BitVec 4, n.toNat < 8 → (portSt s (n.setWidth 3)).returning = none →
        exec (.portReturnTimeout n) s = .next (settle s))
    ∧ (∀ sl : SliceId, x.purge.isSome = true → (pfOfPort s p).find? (fun e => e.1 / 32768 == sl.toNat) = none →
        exec (.portFilterPurgeStep p sl) s = .next (settle s))
    ∧ (∀ (sl : SliceId) e, x.purge.isSome = true → (pfOfPort s p).find? (fun e => e.1 / 32768 == sl.toNat) = some e →
        exec (.portFilterPurgeStep p sl) s =
          (let t := purgeSet s p (e.1 / 16)
           .next (settled s (putPort t p { portSt t p with purge := (portSt t p).purge.map (· + 1) })))))
  ∧
  (
    ∀ s : State, Running s →
      (∀ p : PortId, exec (.pcpLinkDown p) s =
            .next (settled s (if (portSt s p).ltssm = .l0 ∨ (portSt s p).ltssm = .recovery then portDown s p else s)))
      ∧ (∀ p : PortId, exec (.portPurgeDone p) s = .next (settled s (purgeDone s p)))
      ∧ (∀ p : PortId, exec (.portRetireTimeout p) s = .next (settled s (retireTimeout s p)))
      ∧ (∀ port : BitVec 4, exec (.portReturnTimeout port) s =
            .next (settled s (match ringPortOf port with
              | some p => ringReturnLate s p
              | none => if port.toNat < 8 then portReturnLate s (port.setWidth 3) else s)))
      ∧ (∀ (p : PortId) (sl : SliceId), exec (.portFilterPurgeStep p sl) s = .next (settled s (filterStep s p sl))))

/-- Requests as a port decodes them (R37, R281, R292, R328, R337, R338, R339, R595): what is refused with which status, what the
    doorbell window takes, and the request that goes on to its slice, open under its tag, or waits in the receive buffer. The credits
    of a request that ends at the port come back with it. -/
def Obligations.PortsDecodeRequests : Prop :=
  (
  ∀ (s : State) (op : PcpOp) (p : PortId) (h : PcpHdr), Running s →
    let x := portSt s p
    let u := atPort s p op h
    let nd := reqData op h
    let en := tget stream0 x.stream h.stream.toNat
    let part : PartId := en.extractLsb' 0 6
    let st := (partSt s part).state
    let refused (t : State) (status : BitVec 8) : Host.Outcome State Fault Refusal :=
      .next (settled s (freeReq (refuse t p op h.ptag status) p nd))
    let taken : Prop := ¬ (usesTag op = true ∧ tagOpen s p h.ptag = true) ∧ ¬ ((x.retiring = true ∨ s.ctrlOut = true) ∧ usesTag op = true)
    let served : Prop := taken ∧ inWindow35 x h.addr = false ∧ fieldsBad op h = false
    (x.down = true → exec (requestCmd op p h) s = .next (settle s))
    ∧ (x.down = false → usesTag op = true → tagOpen s p h.ptag = true →
        exec (requestCmd op p h) s = .next (settled s (freeReq (protoErr u p) p nd)))
    ∧ (x.down = false → usesTag op = true → tagOpen s p h.ptag = false → (x.retiring = true ∨ s.ctrlOut = true) →
        exec (requestCmd op p h) s = refused u 0x11)
    ∧ (x.down = false → taken → inWindow35 x h.addr = true → op ≠ .rdNc → op ≠ .wrNc →
        exec (requestCmd op p h) s = refused (trouble u (23 + p.toNat) 8) 0x03)
    ∧ (x.down = false → taken → inWindow35 x h.addr = true → (op = .rdNc ∨ op = .wrNc) →
        exec (requestCmd op p h) s = .next (settled s (freeReq (doorbell u p op h) p nd)))
    ∧ (x.down = false → taken → inWindow35 x h.addr = false → fieldsBad op h = true →
        exec (requestCmd op p h) s = refused (protoErr u p) 0x10)
    ∧ (x.down = false → served → en.getLsbD 6 = false → exec (requestCmd op p h) s = refused (trouble u (23 + p.toNat) 7) 0x04)
    ∧ (x.down = false → served → en.getLsbD 6 = true → st = 0 → exec (requestCmd op p h) s = refused (trouble u (23 + p.toNat) 7) 0x05)
    ∧ (x.down = false → served → en.getLsbD 6 = true → st = 7 → exec (requestCmd op p h) s = refused (trouble u (23 + p.toNat) 7) 0x12)
    ∧ (x.down = false → served → en.getLsbD 6 = true → (st = 2 ∨ st = 3 ∨ st = 4) → quiesceServes s p part op h.stream = false →
        exec (requestCmd op p h) s = refused (onPart u part fun y => { y with qrefused := y.qrefused + 1 }) 0x06)
    ∧ (x.down = false → served → en.getLsbD 6 = true → st ≠ 0 → st ≠ 7 →
        ((st ≠ 2 ∧ st ≠ 3 ∧ st ≠ 4) ∨ quiesceServes s p part op h.stream = true) →
        let r : Req := { src := .port p, op, hdr := h, part, cons := en.getLsbD 7, rel := pinReleases u (lineOf h.addr), dead := false }
        let v := if usesTag op then putPort u p { portSt u p with open_ := (portSt u p).open_ ++ [(h.ptag, part, lineOf h.addr)] } else u
        (x.rxq = [] → fabricUsed s p < 128 → exec (requestCmd op p h) s = .next (settled s (toFabric v p r)))
        ∧ ((x.rxq ≠ [] ∨ 128 ≤ fabricUsed s p) →
            exec (requestCmd op p h) s = .next (settled s (putPort v p { portSt v p with rxq := (portSt v p).rxq ++ [r] })))))
  ∧
  (
    ∀ s : State, Running s →
      (∀ (p : PortId) (h : PcpHdr), exec (.rdSh p h) s = .next (settled s (portRequest s p .rdSh h)))
      ∧ (∀ (p : PortId) (h : PcpHdr), exec (.rdEx p h) s = .next (settled s (portRequest s p .rdEx h)))
      ∧ (∀ (p : PortId) (h : PcpHdr), exec (.rd1x p h) s = .next (settled s (portRequest s p .rd1x h)))
      ∧ (∀ (p : PortId) (h : PcpHdr), exec (.upg p h) s = .next (settled s (portRequest s p .upg h)))
      ∧ (∀ (p : PortId) (h : PcpHdr), exec (.claim p h) s = .next (settled s (portRequest s p .claim h)))
      ∧ (∀ (p : PortId) (h : PcpHdr), exec (.wbD p h) s = .next (settled s (portRequest s p .wbD h)))
      ∧ (∀ (p : PortId) (h : PcpHdr), exec (.wbC p h) s = .next (settled s (portRequest s p .wbC h)))
      ∧ (∀ (p : PortId) (h : PcpHdr), exec (.drop p h) s = .next (settled s (portRequest s p .drop h)))
      ∧ (∀ (p : PortId) (h : PcpHdr), exec (.rdNc p h) s = .next (settled s (portRequest s p .rdNc h)))
      ∧ (∀ (p : PortId) (h : PcpHdr), exec (.wrNc p h) s = .next (settled s (portRequest s p .wrNc h)))
      ∧ (∀ (p : PortId) (h : PcpHdr), exec (.atom p h) s = .next (settled s (portRequest s p .atom h)))
      ∧ (∀ (p : PortId) (h : PcpHdr), exec (.flushL p h) s = .next (settled s (portRequest s p .flushL h)))
      ∧ (∀ (p : PortId) (h : PcpHdr), exec (.beamRel p h) s = .next (settled s (portRequest s p .beamRel h))))

/-- The doorbell window of a port (R36, R37, R264, R286): an access of 4 or 8 bytes, aligned to its size, by a stream of an existing
    partition to that partition's page is accepted: a read answers the page's value; a write below 0x800 is counted and completed,
    one of 8 bytes to the release doorbell of a running context of the partition releases its rows below the value, and any other
    is counted. Every other access reads all-ones, has its write dropped, completes with a normal response and is counted. -/
def Obligations.DoorbellsAreAnswered : Prop :=
  (
    ∀ (s : State) (p : PortId) (h : PcpHdr), Running s → (portSt s p).down = false → tagOpen s p h.ptag = false →
      (portSt s p).retiring = false → s.ctrlOut = false → inWindow35 (portSt s p) h.addr = true →
      let page : BitVec 6 := h.addr.extractLsb' 12 6
      let en := tget stream0 (portSt s p).stream h.stream.toNat
      let own : Prop := en.getLsbD 6 = true ∧ en.extractLsb' 0 6 = page ∧ (partSt s page).state ≠ 0
      let rd := atPort s p .rdNc h
      let wr := atPort s p .wrNc h
      let read (t : State) (d : Line) : Host.Outcome State Fault Refusal :=
        .next (settled s (freeReq (completeData t p h.ptag .I false (critOf h.addr) (chunksOfMask (rdNcMask h.addr h.size)) d 0) p 0))
      let done (t : State) : Host.Outcome State Fault Refusal :=
        .next (settled s (freeReq (complete t p h.ptag .I false 0 0) p (reqData .wrNc h)))
      (∀ lo w, own → dbShape .rdNc h = some (lo, w) →
        let ofs := h.addr.toNat % 4096
        exec (.doorbellAccess p false h) s = read rd (dbLine (h.addr.toNat % 128) w (dbValue (pageValue rd page ofs) ofs w)))
      ∧ (∀ lo w, ¬ own → dbShape .rdNc h = some (lo, w) →
        exec (.doorbellAccess p false h) s = read (trouble rd (23 + p.toNat) 8) (dbLine (h.addr.toNat % 128) w (2 ^ (8 * w) - 1)))
      ∧ (dbShape .rdNc h = none →
        exec (.doorbellAccess p false h) s =
          read (trouble rd (23 + p.toNat) 8) ⟨BitVec.ofNat 1024 (byteMask 128 (rdNcMask h.addr h.size)), 0⟩)
      ∧ ((¬ own ∨ dbShape .wrNc h = none) → exec (.doorbellAccess p true h) s = done (trouble wr (23 + p.toNat) 8)
          ∧ exec (.beamReleaseDoorbell p h) s = done (trouble wr (23 + p.toNat) 8))
      ∧ (∀ lo w, own → dbShape .wrNc h = some (lo, w) →
        let ofs := h.addr.toNat % 4096 / 128 * 128 + lo
        let v := h.data.bytes.toNat / 2 ^ (8 * lo) % 2 ^ (8 * w)
        let c : BitVec 8 := BitVec.ofNat 8 ((ofs - 0x800) / 8)
        let mine : Prop := w = 8 ∧ (beamCtx s c).state = 2 ∧ (beamCtx s c).part = page
        (ofs < 0x800 → exec (.doorbellAccess p true h) s = done (trouble wr (23 + p.toNat) 8)
          ∧ exec (.beamReleaseDoorbell p h) s = done (trouble wr (23 + p.toNat) 8))
        ∧ (0x800 ≤ ofs → mine →
          exec (.beamReleaseDoorbell p h) s = done (sweepRows (releaseBelow wr c (min v (beamCtx wr c).nextRow.toNat) .doorbell) c)
          ∧ exec (.doorbellAccess p true h) s = exec (.beamReleaseDoorbell p h) s)
        ∧ (0x800 ≤ ofs → ¬ mine → exec (.beamReleaseDoorbell p h) s = done (trouble wr (23 + p.toNat) 9)
          ∧ exec (.doorbellAccess p true h) s = done (trouble wr (23 + p.toNat) 9))))
  ∧
  (
    ∀ s : State, Running s →
      (∀ (p : PortId) (write : Bool) (h : PcpHdr), exec (.doorbellAccess p write h) s =
            .next (settled s (portRequest s p (if write then .wrNc else .rdNc) h)))
      ∧ (∀ (p : PortId) (h : PcpHdr), exec (.beamReleaseDoorbell p h) s = .next (settled s (portRequest s p .wrNc h))))

/-- A probe response (R99, R337): one that names no open probe, or another line, is a protocol error; else the probe's tag is free
    and its owner takes the answer. A port whose link is down receives none (R338). -/
def Obligations.ProbesAreAnswered : Prop :=
  (
  ∀ (s : State) (p : PortId) (tag : BitVec 8) (l : LineAddr) (d : Option Line), Running s →
    ((portSt s p).down = true → exec (.prsp p tag l d) s = .next (settle s))
    ∧ ((portSt s p).down = false → probeAt s p tag.toNat = none → exec (.prsp p tag l d) s = .next (settled s (protoErr s p)))
    ∧ (∀ pb, (portSt s p).down = false → probeAt s p tag.toNat = some pb → pb.laddr ≠ l →
        exec (.prsp p tag l d) s = .next (settled s (protoErr s p)))
    ∧ (∀ pb, (portSt s p).down = false → probeAt s p tag.toNat = some pb → pb.laddr = l →
        let w := probeAnswer (putProbe s p tag.toNat none) pb p (match d with | some x => some x | none => pb.taken)
        (portSt w p).probeHold = [] → (portSt w p).cmpHold = [] → (portSt w p).retire = none → exec (.prsp p tag l d) s = .next (settled s w)))
  ∧
  (
    ∀ s : State, Running s →
      (∀ (p : PortId) (tag : BitVec 8) (l : LineAddr) (d : Option Line), exec (.prsp p tag l d) s =
            .next (settled s (if (portSt s p).down then s else probeResp s p tag l d))))

/-- BEAM_REL names one line: it clears the line's PIN bit when the request comes from a consumer stream; one from any other stream
    changes nothing and increments BEAM_REL_REJECT in the slice; either way it completes with a normal response (R263). From a
    consumer stream a hit counts as a use of its way (R65). -/
def Obligations.BeamRelClearsThePin : Prop :=
  ∀ (s : State) (pl : Place) (r : Req) (p : PortId) (ser : Option Nat), r.op = .beamRel → r.src = .port p → r.dead = false →
    let u := touchHit s pl
    (r.cons = true → pinned u pl = true → pipeDecide s pl r ser = .passed (complete (putPin u pl false) p r.hdr.ptag .I false 0 0))
    ∧ (r.cons = true → pinned u pl = false → pipeDecide s pl r ser = .passed (complete u p r.hdr.ptag .I false 0 0))
    ∧ (r.cons = false →
        pipeDecide s pl r ser = .passed (complete (trouble s (7 + pl.sl.toNat) 45) p r.hdr.ptag .I false 0 0))

/-- An UPG from a port that is not in the line's HOLD is served as RD_EX, whatever the line's state, and so is one for a line in X
    or I, or for a sector that is not present (R92). -/
def Obligations.UpgWithoutHoldIsServedAsRdEx : Prop :=
  ∀ (s : State) (pl : Place) (r : Req) (p : PortId) (ser : Option Nat), r.op = .upg → r.src = .port p →
    let t := demote s pl
    ((pfGet t pl r.laddr).hold.getLsbD p.toNat = false ∨ stateHere t pl = .X ∨ stateHere t pl = .I ∨ findWay t pl = none) →
    pipeDecide s pl r ser = pipeDecide s pl { r with op := .rdEx } ser

/-- A writeback, WB_C or DROP from a port that is not in the line's HOLD, with no probe to that port open for the line, is stale: it is
    counted, and nothing else changes (R102). A request whose granule matches no home-map entry is answered with status unmapped
    address and counted; nothing of it is cached, and nothing is sent to a home (R20); one that takes no completion is counted, and
    goes on to R102. -/
def Obligations.StaleAndUnmappedEndHere : Prop :=
  (
    ∀ (s : State) (pl : Place) (r : Req) (p : PortId), r.src = .port p → probeOpen s p r.laddr = false →
      (pfGet s pl r.laddr).hold.getLsbD p.toNat = false → pipeWb s pl r = .passed (trouble s (7 + pl.sl.toNat) kSlcWbStale))
  ∧
  (
    ∀ (s : State) (r : Req) (p : PortId) (ser : Option Nat), r.src = .port p →
      let sl := (place s r.laddr).sl
      let u := countFor (readStages s (place s r.laddr) r.laddr) (evSlc 0 sl) 1 (some r.part)
      let v := trouble u (7 + sl.toNat) kSlcUnmappedAddr
      homeOf u r.laddr = none →
      (usesTag r.op = true → r.dead = false → pipe s r ser = .passed (complete v p r.hdr.ptag .I false 0x01 0))
      ∧ (usesTag r.op = true → r.dead = true → pipe s r ser = .passed v)
      ∧ (usesTag r.op = false → pipe s r ser = pipeWb v (place s r.laddr) r))

/-- The slice of a sector is the prism hash of its sector address (R15). -/
def Obligations.SliceIsThePrismHash : Prop :=
  ∀ a : Addr, sliceOf (lineOf a) =
    a.extractLsb' 12 4 ^^^ a.extractLsb' 16 4 ^^^ a.extractLsb' 20 4 ^^^ a.extractLsb' 24 4 ^^^ a.extractLsb' 28 4
      ^^^ a.extractLsb' 32 4 ^^^ a.extractLsb' 36 4 ^^^ a.extractLsb' 40 4 ^^^ a.extractLsb' 44 4

/-- A line address is found again from its slice, set, tag and line number, so that no two lines share a place (R14-R16). -/
def Obligations.PlacesNameOneLine : Prop :=
  (∀ l : LineAddr, lineFrom (sliceOf l) (setOf l) (tagOf l) (lineNo l) = l)
  ∧ ∀ (n : SliceId) (set : BitVec 14) (tag : BitVec 18) (ln : BitVec 5),
      let l := lineFrom n set tag ln
      sliceOf l = n ∧ setOf l = set ∧ tagOf l = tag ∧ lineNo l = ln

/-- The home of a granule is given by the lowest-numbered home-map entry that matches it, and by none where none does (R18). -/
def Obligations.LowestMatchingEntryApplies : Prop :=
  ∀ (s : State) (l : LineAddr),
    let hit (e : HomeMapEntry) : Prop := e.valid = true ∧ e.base ≤ granuleOf l ∧ granuleOf l ≤ e.last
    (∀ e, homeOf s l = some e ↔
      ∃ pre i post, s.home.mapLive = pre ++ (i, e) :: post ∧ hit e ∧ ∀ x ∈ pre, ¬ hit x.2)
    ∧ (homeOf s l = none ↔ ∀ x ∈ s.home.mapLive, ¬ hit x.2)

/-- Replays of a slice (R51, R56, R61, R110, R122): the oldest waiting request that is ready passes the pipeline again, and keeps its
    entry where it stalls; the head of an input that had stalled is tried again; the snoop that became ready first enters again; what
    waited for a reserved buffer takes one; with nothing to replay nothing happens. HBM reads and writes of a slice (R49, R68, R73,
    R74, R241, R285): an operation completes when its turn has come; a read's chunk goes to what waits for it, a write's bytes are in
    the stack's memory. -/
def Obligations.SlicesReplayAndHbmCompletes : Prop :=
  (
    ∀ (s : State) (sl : SliceId), Running s →
      (oldestReady s sl = none → exec (.replay sl .request) s = .next (settle s))
      ∧ (∀ i e t, oldestReady s sl = some (i, e) → pipe (putMiss s sl i none) e.req (some e.serial) = .passed t → e.behind = false →
          exec (.replay sl .request) s = .next (settled s t))
      ∧ (∀ i e w, oldestReady s sl = some (i, e) → pipe (putMiss s sl i none) e.req (some e.serial) = .stalled w →
          exec (.replay sl .request) s = .next (settled s (putMiss (bounce (putMiss s sl i none) e.req w) sl i (some e))))
      ∧ (∀ (k : BitVec 4) r rest t, (sliceSt s sl).stalled = (k, r) :: rest →
          pipe (tookPort (putSlice s sl { sliceSt s sl with stalled := rest }) sl r) r none = .passed t →
          exec (.replay sl (.input k)) s = .next (settled s (pumpAllRx t)))
      ∧ (∀ i : BitVec 6, exec (.replay sl (.wcBuf i)) s = .next (settled s (replayWc s sl i.toNat)))
      ∧ (exec (.replay sl .snoop) s = exec (.referredSnoop sl) s)
      ∧ (∀ o rest, poisonShort s sl = false → (sliceSt s sl).owedPoison = o :: rest →
          exec (.replay sl .repair) s = .next (settled s
            (poisonWb (putSlice s sl { sliceSt s sl with owedPoison := rest }) sl o.laddr o.part o.frm o.data o.prb o.dirty)))
      ∧ (poisonShort s sl = true → exec (.replay sl .repair) s = .next (settle s))
      ∧ ((sliceSt s sl).owedPoison = [] → (sliceSt s sl).sinks = [] → exec (.replay sl .repair) s = .next (settle s))
      ∧ (∀ (i : BitVec 8) e w, missAt s sl i.toNat = some e → e.kind = .waiting → e.waitOn = .alloc w →
          exec (.allocStallTimeout sl i) s = .next (settled s (putMiss s sl i.toNat (some { e with waitOn := .ready }))))
      ∧ (∀ (i : BitVec 8), missAt s sl i.toNat = none → exec (.allocStallTimeout sl i) s = .next (settle s))
      ∧ (∀ (i : BitVec 6) t, wcPerform (wcClose s sl i.toNat) sl i.toNat = .passed t →
          exec (.wcWindowExpire sl i) s = .next (settled s t))
      ∧ (∀ (i : BitVec 6) w b, wcPerform (wcClose s sl i.toNat) sl i.toNat = .stalled w → wcAt (wcClose s sl i.toNat) sl i.toNat = some b →
          exec (.wcWindowExpire sl i) s = .next (settled s (noteShort (wcClose s sl i.toNat) sl b.part w)))
      ∧ (nextSnoop (launchHeld s sl) sl = none → exec (.referredSnoop sl) s = .next (settled s (launchHeld s sl)))
      ∧ (∀ w, nextSnoop (launchHeld s sl) sl = some w →
          let t := launchHeld s sl
          let u := putSlice t sl { sliceSt t sl with snps := (sliceSt t sl).snps.erase w }
          exec (.referredSnoop sl) s =
            .next (settled s (snoopEnter { u with snpReady := t.snpReady.erase w.serial } w.input w.kind w.hdr w.body .again))))
  ∧
  (
    ∀ (s : State) (sl : SliceId) (q : BitVec 2) (pos : Nat), Running s →
      (∀ err odecc, (hbmq s sl q.toNat)[pos]? = none → exec (.hbmReadComplete sl q pos err odecc) s = .next (settle s)
          ∧ exec (.hbmWriteAccepted sl q pos) s = .next (settle s))
      ∧ (∀ o err odecc id y, (hbmq s sl q.toNat)[pos]? = some o → o.write = false → hbmTurn s sl q.toNat pos = some y → o.dest = .deliv id →
          o.beam = false →
          let v := hbmTake s sl q.toNat pos false y
          let u := if odecc then trouble v (blkHbm (sl.toNat / 8)) kHbmHbmOdecc else v
          (hbmCheck u sl o err).1 = .none → (tget hbmSide0 s.mem.hbmSide (sideIx sl o)).poison = false →
          exec (.hbmReadComplete sl q pos err odecc) s =
            .next (settled s (delivChunk (count u (evHbm 0 (sl.toNat / 8))) id o.chunk.toNat (hbmData u sl o) false)))
      ∧ (∀ o y, (hbmq s sl q.toNat)[pos]? = some o → o.write = true → hbmTurn s sl q.toNat pos = some y → o.dest = .none →
          exec (.hbmWriteAccepted sl q pos) s = .next (settled s
            (count (hbmWrite (hbmTake s sl q.toNat pos true y) sl o) (evHbm 1 (sl.toNat / 8)))))
      ∧ (∀ o, (hbmq s sl q.toNat)[pos]? = some o → hbmTurn s sl q.toNat pos = none →
          exec (.hbmWriteAccepted sl q pos) s = .next (settle s))
      ∧ (∀ o, (hbmq s sl q.toNat)[pos]? = some o → o.write = false → exec (.hbmWriteAccepted sl q pos) s = .next (settle s)))
  ∧
  (
    ∀ s : State, Running s →
      (∀ (sl : SliceId) (i : ReplayItem), exec (.replay sl i) s = .next (settled s (replayItem s sl i)))
      ∧ (∀ (sl : SliceId) (i : BitVec 8), exec (.allocStallTimeout sl i) s = .next (settled s (allocTimeout s sl i.toNat)))
      ∧ (∀ (sl : SliceId) (i : BitVec 6), exec (.wcWindowExpire sl i) s = .next (settled s (wcExpire s sl i.toNat)))
      ∧ (∀ (sl : SliceId) (q : BitVec 2) (pos : Nat) (err : EccOutcome) (odecc : Bool), exec (.hbmReadComplete sl q pos err
          odecc) s =
            .next (settled s (hbmReadAt s sl q.toNat pos err odecc)))
      ∧ (∀ (sl : SliceId) (q : BitVec 2) (pos : Nat), exec (.hbmWriteAccepted sl q pos) s =
            .next (settled s (hbmAccept s sl q.toNat pos)))
      ∧ (∀ sl : SliceId, exec (.referredSnoop sl) s = .next (settled s (replaySnoop s sl))))

/-- Lines that are repaired, filled, and atomics that perform (R73, R121, R220). The contention predictor of a slice is cleared as a
    whole: every counter reads 0b01 again and CLR_BUSY is 0 (R218). -/
def Obligations.SliceTransactionsAdvance : Prop :=
  (
    ∀ (s : State) (sl : SliceId), Running s →
      ((sliceSt s sl).repairs = [] → exec (.repairTransaction sl) s = .next (settle s))
      ∧ (∀ l rest, (sliceSt s sl).repairs = l :: rest →
          let pl := place s l
          let t := readStages (putSlice s sl { sliceSt s sl with repairs := rest }) pl l
          let st := stateHere t pl
          let owes : Prop := st.dirty = true ∨ (pfGet t pl l).exh = true
          ((st = .I ∨ st = .X) → exec (.repairTransaction sl) s = .next (settled s t))
          ∧ (st ≠ .I → st ≠ .X → owes → poisonShort t pl.sl = true → exec (.repairTransaction sl) s = .next (settle s))
          ∧ (st ≠ .I → st ≠ .X → (¬ owes ∨ poisonShort t pl.sl = false) →
              exec (.repairTransaction sl) s = .next (settled s (becomeX t pl l st.dirty))))
      ∧ (∀ (i : BitVec 8) e, missAt s sl i.toNat = some e → e.kind = .ring → entryReady e = true →
          exec (.fillInstall sl i) s = .next (settled s (tryFinish s sl i.toNat)))
      ∧ (∀ (i : BitVec 8) e, missAt s sl i.toNat = some e → entryReady e = false → exec (.fillInstall sl i) s = .next (settle s))
      ∧ (∀ (i : BitVec 8) e w, missAt s sl i.toNat = some e → e.kind = .bare → e.noInstall = false → e.performed = false →
          e.req.op = .atom → e.req.hdr.keep = false → e.fillV.getLsbD (critOf e.req.hdr.addr).toNat = true →
          findWay s (place s e.req.laddr) = some w → e.owesCmp = false →
          chunkPsn e.fill (critOf e.req.hdr.addr).toNat = false → e.poisoned = false →
          exec (.atomPerform sl i) s = .next (settled s (atomPerform s (place s e.req.laddr) i.toNat w e)))
      ∧ (∀ (i : BitVec 8), missAt s sl i.toNat = none → exec (.atomPerform sl i) s = .next (settle s)))
  ∧
  (
    ∀ (s : State) (sl : SliceId), Running s →
      ((sliceSt s sl).clrBusy = false → exec (.predictorClearDone sl) s = .next (settle s))
      ∧ ((sliceSt s sl).clrBusy = true → ∃ t, exec (.predictorClearDone sl) s = .next t
          ∧ sliceSt t sl = { sliceSt s sl with clrBusy := false } ∧ (∀ l, predAt t sl l = 1)
          ∧ (∀ n l, n ≠ sl → predAt t n l = predAt s n l) ∧ t.cache.tags = s.cache.tags ∧ t.mem = s.mem))
  ∧
  (
    ∀ s : State, Running s →
      (∀ sl : SliceId, exec (.repairTransaction sl) s = .next (settled s (repair s sl)))
      ∧ (∀ (sl : SliceId) (i : BitVec 8), exec (.fillInstall sl i) s = .next (settled s (fillInstall s sl i.toNat)))
      ∧ (∀ (sl : SliceId) (i : BitVec 8), exec (.atomPerform sl i) s = .next (settled s (atomStep s sl i.toNat)))
      ∧ (∀ sl : SliceId, exec (.predictorClearDone sl) s = .next (settled s (predClear s sl))))

/-- Buffers of the penumbra (R115): the hold of a buffer that has not been sent ends; a writeback that may go spends a credit, is
    counted for its partition, and its WB_DATA leaves for the home. -/
def Obligations.PenumbraBuffersAreWrittenBack : Prop :=
  (
  ∀ (s : State) (sl : SliceId) (i : BitVec 7) (b : PenBuf), Running s → penAt s sl i.toNat = some b →
    (b.mif = false → exec (.penumbraHoldEnd sl i) s = .next (settled s (putPen s sl i.toNat (some { b with holdt := 0 }))))
    ∧ (b.mif = true → exec (.penumbraHoldEnd sl i) s = .next (settle s))
    ∧ (penMayWrite s sl b = false → exec (.penumbraWriteback sl i) s = .next (settle s))
    ∧ (penMayWrite s sl b = true → b.resent = false → b.poison = false →
        let w := wbkSpend s false b.dest
        let u := onPart w b.part fun x => { x with writebacks := x.writebacks + 1 }
        let m : RingMsg := .wbData
          { src := s.net.ctrlId, dst := b.dest, epoch := myEpoch w, txn := sl ++ (0 : BitVec 1) ++ i, htag := 0, hkind := 0, laddr := b.laddr }
          ⟨b.part, b.move, false, b.data⟩
        let v := putPen u sl i.toNat (some { noteWb u b m with mif := true, wbStart := s.now, wbTmo := tmoWback s })
        exec (.penumbraWriteback sl i) s = .next (settled s (send v m))))
  ∧
  (
    ∀ s : State, Running s →
      (∀ (sl : SliceId) (i : BitVec 7), exec (.penumbraHoldEnd sl i) s = .next (settled s (penHoldEnd s sl i.toNat)))
      ∧ (∀ (sl : SliceId) (i : BitVec 7), exec (.penumbraWriteback sl i) s = .next (settled s (penWriteback s sl i.toNat))))

/-- Walkers (R33, R113, R124, R310, R561): a walker that has stopped does nothing (R565); a fold walk with a sector in its set
    evicts it, and moves on when the set is done; a scrub step goes on to the next set; a drain whose walkers have passed every set
    ends. -/
def Obligations.WalkersAdvance : Prop :=
  (
  ∀ (s : State) (sl : SliceId), Running s →
    (engineRuns s (40 + sl.toNat) = false →
      exec (.walkerFlushStep sl) s = .next (settle s) ∧ exec (.foldWalkStep sl) s = .next (settle s)
      ∧ exec (.foldSetDone sl) s = .next (settle s) ∧ exec (.scrubStep sl) s = .next (settle s)
      ∧ exec (.moveWalkStep sl) s = .next (settle s))
    ∧ (engineRuns s (40 + sl.toNat) = true → s.cache.drains = [] → s.cache.flushes = [] →
      exec (.walkerFlushStep sl) s = .next (settle s))
    ∧ (∀ f, engineRuns s (40 + sl.toNat) = true → s.cache.drains = [] → s.cache.flushes = [f] → tget 0 f.pos sl.toNat < 16384 →
      (flushStep s sl f).cache.drains = [] → exec (.walkerFlushStep sl) s = .next (settled s (flushEnds (flushStep s sl f))))
    ∧ (∀ d, engineRuns s (40 + sl.toNat) = true → s.cache.drains = [d] → d.ended = false → d.cancels = [] → tget 0 d.pos sl.toNat < 16384 →
      let t := drainStep s sl d
      (∀ e ∈ t.cache.drains, e.slot = none) → exec (.walkerFlushStep sl) s = .next (settled s (flushEnds t)))
    ∧ (engineRuns s (40 + sl.toNat) = true → foldOf s sl = none →
      exec (.foldWalkStep sl) s = .next (settle s) ∧ exec (.foldSetDone sl) s = .next (settle s))
    ∧ (∀ w way, engineRuns s (40 + sl.toNat) = true → foldOf s sl = some w → w.cursor.toNat < 16384 →
      let t := readSet (tookWalker s sl) sl (BitVec.ofNat 14 w.cursor.toNat)
      (foldWays w sl).find? (fun k => (tagAt t sl (BitVec.ofNat 14 w.cursor.toNat) k).sv) = some way →
      exec (.foldWalkStep sl) s = .next (settled s (foldEvict t w sl way)))
    ∧ (∀ w, engineRuns s (40 + sl.toNat) = true → foldOf s sl = some w → foldSetOk s w = true → w.cursor.toNat + 1 < 16384 →
      w.held = [] → w.restage = [] → w.slot = none →
      exec (.foldSetDone sl) s = .next (settled s (homeAdmit { s with cache := { s.cache with
        folds := s.cache.folds.map fun (x : FoldWalk) =>
          if x.slice == w.slice then { w with cursor := w.cursor + 1, held := [], restage := [] } else x } })))
    ∧ (engineRuns s (40 + sl.toNat) = true → ∃ t, exec (.scrubStep sl) s = .next t
        ∧ (sliceSt t sl).scrubSet = (sliceSt s sl).scrubSet + 1
        ∧ tget 0 t.pwr.walkAt sl.toNat = s.now.toNat + 28800000000000 / 16384 ∧ t.now = s.now)
    ∧ (engineRuns s (40 + sl.toNat) = true → s.move = none → exec (.moveWalkStep sl) s = .next (settle s))
    ∧ (∀ m, engineRuns s (40 + sl.toNat) = true → s.move = some m → m.action = 1 → m.stepNo = 3 →
      exec (.moveWalkStep sl) s = .next (settled s (moveRead s m ((m.reply.map Prod.fst).getD 0))))
    ∧ (∀ m, engineRuns s (40 + sl.toNat) = true → s.move = some m → m.action ≠ 1 →
      exec (.moveWalkStep sl) s = .next (settled s (moveSet s sl m)))
    ∧ (∀ d, drainIn s none = some d → d.ended = false → allPassed d.pos = true → flushOpen s = false → d.slot = none →
      exec (.drainEnd true 0) s = .next (settled s { s with cache := { s.cache with drains := s.cache.drains.map fun (x : Drain) =>
        if x.scope == none then { x with ended := true, slot := none } else x } }))
    ∧ (∀ whole p, drainIn s (if whole then none else some p) = none → exec (.drainEnd whole p) s = .next (settle s)))
  ∧
  (
    ∀ s : State, Running s →
      (∀ sl : SliceId, exec (.walkerFlushStep sl) s = .next (settled s (onWalker s sl (walkerStep s sl))))
      ∧ (∀ sl : SliceId, exec (.foldWalkStep sl) s = .next (settled s (onWalker s sl (foldStep s sl))))
      ∧ (∀ sl : SliceId, exec (.foldSetDone sl) s = .next (settled s (onWalker s sl (foldSetDone s sl))))
      ∧ (∀ sl : SliceId, exec (.scrubStep sl) s =
            .next (settled s (let t := onWalker s sl (scrubStep s sl); eventDone t (tget 0 t.pwr.walkAt sl.toNat != tget 0
              s.pwr.walkAt sl.toNat))))
      ∧ (∀ (whole : Bool) (p : PartId), exec (.drainEnd whole p) s =
            .next (settled s (drainEnds s (if whole then none else some p))))
      ∧ (∀ sl : SliceId, exec (.moveWalkStep sl) s = .next (settled s (onWalker s sl (moveStep s sl)))))

/-- Partitions reach the states that Lantern waits for (R293, R294, R297): QUIESCED when nothing of the partition is open; FROZEN at
    the freeze tick, once no staging read of it is under way; and the snapshot of a save is taken at its tick. -/
def Obligations.PartitionsReachTheirStates : Prop :=
  (
  ∀ (s : State) (p : PartId), Running s →
    (∀ k x n, jobSlot s (fun j => match j with | .quiesce q _ => q == p | _ => false) = some (k, x) → x.job = .quiesce p n →
      quiesceOpen s p = 0 → (partSt s p).state = 2 →
      exec (.quiesceDone p) s = .next (settled s (opDone (onPart (opProgress s k n) p fun y => { y with state := 3 }) k)))
    ∧ (jobSlot s (fun j => match j with | .quiesce q _ => q == p | _ => false) = none →
      exec (.quiesceDone p) s = .next (settle s))
    ∧ (∀ k x, jobSlot s (fun j => match j with | .freeze q => q == p | _ => false) = some (k, x) →
      s.now.toNat < (partSt s p).freezeTick.toNat → exec (.freezeTick p) s = .next (settle s))
    ∧ (∀ k x, jobSlot s (fun j => match j with | .freeze q => q == p | _ => false) = some (k, x) → ctxsOf s p = [] →
      (partSt s p).freezeTick.toNat ≤ s.now.toNat →
      exec (.freezeTick p) s = .next (settled s (opDone (onPart (opProgress s k 0) p fun y => { y with state := 4 }) k)))
    ∧ (∀ (k : SlotRef) hs ofs d slot tc, (opSlot s k).job = .save p hs [] ofs d slot (some tc) → (opSlot s k).state = .running →
      tc.toNat ≤ s.now.toNat →
      exec (.snapshotTick k) s = .next (settled s (opJob s k (.save p hs (partImage s p hs true tc) ofs d slot (some tc)))))
    ∧ (∀ (k : SlotRef), (opSlot s k).job = .none → exec (.snapshotTick k) s = .next (settle s)))
  ∧
  (
    ∀ s : State, Running s →
      (∀ p : PartId, exec (.quiesceDone p) s = .next (settled s (quiesceDone s p)))
      ∧ (∀ p : PartId, exec (.freezeTick p) s = .next (settled s (freezeStep s p)))
      ∧ (∀ k : SlotRef, exec (.snapshotTick k) s = .next (settled s (snapshot s k))))

/-- Rows of beams (R234-R236): a row opens at its tick on an engine that runs, and expires at the tick of R236; an edge of a
    time-stamp input that passes its filter is stamped, counted and kept in the history (R480, R583). Staging reads, their reports
    and releases (R256-R260, R265, R274): a cluster issues the read that it offers, a read reaches its slice as a request, a report
    of a late line is counted, a release step unpins its line, and a cancelled context is free when its rows are gone. From the tick
    of a freeze on no row opens and none expires (R294). A ready release step goes before a staging read (R255, R265). -/
def Obligations.BeamsOpenAndStage : Prop :=
  (
    ∀ (s : State) (c : BitVec 8), Running s →
      let x := beamCtx s c
      let m := s.tim
      (∀ (i : BitVec 2) falling before after tick, (m.tsCtl.getLsbD (4 * i.toNat) = false ∨ m.tsCtl.getLsbD (4 * i.toNat + 1) ≠ falling
          ∨ before.toNat < 5 ∨ after.toNat < 5) → exec (.tstampEdge i falling before after tick) s = .next (settle s))
      ∧ (∀ (i : BitVec 2) falling before after tick, m.tsCtl.getLsbD (4 * i.toNat) = true → m.tsCtl.getLsbD (4 * i.toNat + 1) = falling →
          5 ≤ before.toNat → max 5 (filterNs (m.tsCtl.extractLsb' (4 * i.toNat + 2) 2)) ≤ after.toNat →
          let u := { s with tim := { m with
            tsLast := tset 0 m.tsLast i.toNat tick, tsCount := tset 0 m.tsCount i.toNat (tget 0 m.tsCount i.toNat + 1)
            hist := tset [] m.hist i.toNat ((tick :: tget [] m.hist i.toNat).take 1024) } }
          exec (.tstampEdge i falling before after tick) s = .next (settled s (edgeBeams (count u 0x17D) i tick)))
      ∧ ((x.state ≠ 2 ∨ rowExists x.desc x.nextRow.toNat = false ∨ engineRuns s x.engine.toNat = false) →
          exec (.rowOpen c) s = .next (settle s))
      ∧ (∀ o fast, x.state = 2 → rowExists x.desc x.nextRow.toNat = true → engineRuns s x.engine.toNat = true →
          nextOpen x = some (o, fast) → o ≤ s.now.toNat → frozenAt x o = false →
          let t := openRow (expireFor s c x.nextRow.toNat o) c o
            (if dEncoder x.desc then o + dLead x.desc else fixedDeadline x.desc x.nextRow.toNat) fast
          exec (.rowOpen c) s = .next (settled s (eventDone t ((beamCtx t c).nextRow != x.nextRow))))
      ∧ (∀ o fast, nextOpen x = some (o, fast) → (s.now.toNat < o ∨ frozenAt x o = true) →
          exec (.rowOpen c) s = .next (settle s))
      ∧ (x.state ≠ 2 → exec (.rowExpiry c) s = .next (settle s))
      ∧ (∀ y t, x.state = 2 → x.rows.find? (fun y => y.rel.isNone) = some y → expiryTick x y.row = some t → t ≤ s.now.toNat →
          frozenAt x t = false → exec (.rowExpiry c) s = .next (settled s (expireRow s c y.row t)))
      ∧ (∀ y t, x.rows.find? (fun y => y.rel.isNone) = some y → expiryTick x y.row = some t →
          (s.now.toNat < t ∨ frozenAt x t = true) → exec (.rowExpiry c) s = .next (settle s)))
  ∧
  (
    ∀ s : State, Running s →
      (∀ k, clusterRel s k = none → clusterOffer s k = none → exec (.stagingIssue k) s = .next (settle s))
      ∧ (∀ k c, clusterRel s k = some c → exec (.stagingIssue k) s = .next (settled s (releaseStep s c)))
      ∧ (∀ k c, clusterRel s k = none → clusterOffer s k = some c → homeMember s (beamLine (beamCtx s c.ctx).desc c.row c.pos) = true →
          let u := onRow s c.ctx c.row fun y => let y := takePos y c.pos; { y with reading := y.reading ++ [c.pos] }
          exec (.stagingIssue k) s = .next (settled s (count { u with beams := { u.beams with
            reads := u.beams.reads ++ [⟨c.ctx, c.row, BitVec.ofNat 16 c.pos, c.dl⟩] } } (evBeam 0 k.toNat))))
      ∧ (∀ sl r, nextRead s sl = some r →
          exec (.stagingRead sl) s =
            .next (settled s (deliver { s with beams := { s.beams with reads := s.beams.reads.erase r } } (stageReq s r))))
      ∧ (∀ sl, s.beams.reads = [] → exec (.stagingRead sl) s = .next (settle s))
      ∧ (∀ r rest, s.reports = r :: rest → (beamCtx s r.ctx).rows = [] → s.parts = [] →
          exec .residencyReport s = .next (settled s { s with reports := rest }))
      ∧ (∀ r rest y, s.reports = r :: rest → (beamCtx s r.ctx).rows.find? (fun y => y.row == r.row) = some y →
          y.reading.contains r.idx.toNat = true →
          let u := onRow { s with reports := rest } r.ctx r.row fun y => { y with reading := y.reading.erase r.idx.toNat }
          let x := beamCtx u r.ctx
          (r.error = true →
            let v := putBeam u r.ctx { x with stageErr := satInc (beamCtx s r.ctx).stageErr }
            exec .residencyReport s = .next (settled s (freezeWaits (sweepRows
              (countRow (onRow v r.ctx r.row fun y => { y with got := y.got + 1 }) r.ctx r.row) r.ctx))))
          ∧ (r.error = false → r.pinned = false →
            exec .residencyReport s = .next (settled s (freezeWaits (sweepRows
              (putBeam u r.ctx { x with nopin := satInc (beamCtx s r.ctx).nopin }) r.ctx))))
          ∧ (r.error = false → r.pinned = true →
            exec .residencyReport s = .next (settled s (freezeWaits (sweepRows (lineResident u r.ctx y r.tick) r.ctx)))))
      ∧ (∀ c, (beamCtx s c).state = 0 → exec (.releaseStep c) s = .next (settle s) ∧ exec (.cancelDone c) s = .next (settle s))
      ∧ (∀ c, ((beamCtx s c).state = 2 ∨ (beamCtx s c).state = 3 ∨ (beamCtx s c).state = 5) →
          engineRuns s (beamCtx s c).engine.toNat = true →
          (nextRel (beamCtx s c) = none → exec (.releaseStep c) s = .next (settled s (sweepRows s c)))
          ∧ ∀ y i, nextRel (beamCtx s c) = some (y, i) →
            let l := beamLine (beamCtx s c).desc y.row i
            let u := readStages s (place s l) l
            let hit : Bool := (findWay u (place s l)).isSome && pinned u (place s l)
            let v := countFor u (evSlc 0 (place s l).sl) 1 (some (beamCtx s c).part)
            let w := count (if hit then putPin v (place s l) false else v) (evBeam 1 (clusterOf (beamCtx s c).engine))
            let x := beamCtx w c
            let z := onRow (putBeam w c { x with
              expired := if hit = true ∧ y.rel = some .expiry then satInc x.expired else x.expired
              released := if hit = true ∧ y.rel = some .doorbell then x.released + 1 else x.released }) c y.row fun z => takeRel z i
            (x.cancelSlot = none → exec (.releaseStep c) s = .next (settled s (sweepRows z c)))
            ∧ ∀ k, x.cancelSlot = some k → exec (.releaseStep c) s =
                .next (settled s (sweepRows (opProgress z k ((opSlot z k).progress.toNat + 1)) c)))
      ∧ (∀ c, (beamCtx s c).state = 3 → (beamCtx s c).rows = [] →
          exec (.cancelDone c) s = .next (settled s (onSlot (freeCtx s c) (beamCtx s c).cancelSlot opDone))))
  ∧
  (
    ∀ s : State, Running s →
      (∀ (i : BitVec 2) (falling : Bool) (before after : Word) (tick : Tick), exec (.tstampEdge i falling before after tick) s
          =
            .next (settled s (tstampEdge s i falling before after tick)))
      ∧ (∀ c : BitVec 8, exec (.rowOpen c) s =
            .next (settled s (let t := rowOpen s c; eventDone t ((beamCtx t c).nextRow != (beamCtx s c).nextRow))))
      ∧ (∀ c : BitVec 8, exec (.rowExpiry c) s = .next (settled s (rowExpire s c)))
      ∧ (∀ k : BitVec 3, exec (.stagingIssue k) s = .next (settled s (stagingIssue s k)))
      ∧ (∀ sl : SliceId, exec (.stagingRead sl) s = .next (settled s (stagingRead s sl)))
      ∧ exec .residencyReport s = .next (settled s (freezeWaits (residencyReport s)))
      ∧ (∀ c : BitVec 8, exec (.releaseStep c) s = .next (settled s (releaseStep s c)))
      ∧ (∀ c : BitVec 8, exec (.cancelDone c) s = .next (settled s (cancelDone s c))))

/-- A ring message that has come whole (R133, R174, R348, R354): over the own fabric it is delivered at once; a ring port that is
    not ACTIVE takes none; else it holds an entry of its class and is delivered here, goes on round the ring, crosses at a bridge,
    or is dropped and counted where no route leads on. -/
def Obligations.RingMessagesTakeTheirWay : Prop :=
  (
  ∀ (s : State) (m : RingMsg), Running s →
    exec (ringCmd .fabric m) s = .next (settled s (ringDeliver s .fabric m))
    ∧ ∀ p : RingPort,
      let x := ringPort s p
      let k := creditIx m
      let u := putRing s p { x with rxUsed := tset 0 x.rxUsed k (tget 0 x.rxUsed k + 1) }
      let freed (t : State) : State := countEnded (freeRx t p k) (isUp p) (hdrOf m).epoch
      (x.state ≠ .active → exec (ringCmd (.ring p) m) s = .next (settle s))
      ∧ (∀ kind h b, m = .snp kind h b → x.state = .active →
          exec (ringCmd (.ring p) m) s = .next (settled s (snoopArrive u (.ring p) kind h b)))
      ∧ ((∀ kind h b, m ≠ .snp kind h b) → x.state = .active →
          (hop u (isUp p) m = .here → exec (ringCmd (.ring p) m) s = .next (settled s (ringDeliver (freed u) (.ring p) m)))
          ∧ (∀ q, hop u (isUp p) m = .port q → exec (ringCmd (.ring p) m) s = .next (settled s (sendBy u q (some p) m)))
          ∧ (hop u (isUp p) m = .cross → exec (ringCmd (.ring p) m) s = .next (settled s (crossTransit u p m)))
          ∧ (hop u (isUp p) m = .nowhere →
              exec (ringCmd (.ring p) m) s = .next (settled s (freed (trouble u (blkRing p) kPrlUnroutable))))))
  ∧
  (
    ∀ s : State, Running s →
      (∀ (i : Input) (h : RingHdr) (b : SnpBody), exec (.snpSh i h b) s = .next (settled s (arrive s i (.snp .sh h b))))
      ∧ (∀ (i : Input) (h : RingHdr) (b : SnpBody), exec (.snpEx i h b) s = .next (settled s (arrive s i (.snp .ex h b))))
      ∧ (∀ (i : Input) (h : RingHdr) (b : SnpBody), exec (.snpInv i h b) s = .next (settled s (arrive s i (.snp .inv h b)))))

/-- A request reaches its home (R20, R21, R24, R25, R144, R146): one that the home refuses is answered with ERR, and its credit goes
    back; any other waits in a free entry of the queue of its slice, the far queue for a far message. With no entry free (R84), at a
    set in motion (R33), or behind an earlier request of its line that waits so, it waits for its turn. A home begins and ends its
    transactions (R148, R149, R151, R162, R199): the oldest entry that may start does; GACK ends the wait for it; WB_DATA of a line
    with no transaction is written and acknowledged, and that of a line whose transaction has not answered is held; a directory
    eviction begins only where a request waits for a way. -/
def Obligations.HomesServeRequests : Prop :=
  (
    ∀ (s : State) (far : Bool) (gate : NodeId) (op : ReqOp) (h : RingHdr) (b : ReqBody), Running s →
      let m : RingMsg := if far then .farReq op gate h b else .req op h b
      let sl := (place s h.laddr).sl
      let t := fresh s
      let e : HomeEntry :=
        { serial := t.serial, far := far, evict := false, op := op, hdr := h, body := b, gate := if far then gate else 0, state := .waiting
          needWay := false, circ := circ0, rcl := ⟨[], cr0, none, [], false, 0, 0, 0⟩, ddrAsked := false, ddr := none
          toHome := none, held := [], fdBefore := fd0, cont := false, gackDue := false, penDue := none, atomGot := 0
          atomLine := line0, way := 0, wrPend := 0, sent := false, fdWay := none }
      let queue := if far then (farqOf s sl).map Prod.fst else (homeqOf s sl).map Prod.fst
      let err (t : State) (st : BitVec 8) : Host.Outcome State Fault Refusal :=
        .next (settled s (creditBack
          (send t (.err { homeHdr t sl far 0 e h.src with htag := h.htag, hkind := h.hkind } st false)) far e))
      let now : Prop := (place s h.laddr).held = false ∧ ∀ x ∈ s.home.arrWait, x.hdr.laddr ≠ h.laddr
      let wait (t : State) : Host.Outcome State Fault Refusal :=
        .next (settled s { t with home := { t.home with arrWait := s.home.arrWait ++ [⟨far, e.gate, op, h, b⟩] } })
      (∀ i st k, now → firstFree queue (if far then 32 else 64) = some i → arrivalErr t op h b = some (st, some k) →
          exec (ringCmd .fabric m) s = err (trouble t (blkSlc sl) k) st)
      ∧ (∀ i st, now → firstFree queue (if far then 32 else 64) = some i → arrivalErr t op h b = some (st, none) →
          exec (ringCmd .fabric m) s = err t st)
      ∧ (∀ i, now → arrivalErr t op h b = none → firstFree queue (if far then 32 else 64) = some i →
          let u := (homeEntries t sl).foldl (fun s x =>
            if x.2.2.hdr.laddr == h.laddr && x.2.2.op == .atom && x.2.2.state != .waiting && !x.2.2.sent then
              putHome s sl x.1 x.2.1 (some { x.2.2 with cont := true }) else s) t
          exec (ringCmd .fabric m) s = .next (settled s (putHome u sl far i (some e))))
      ∧ (firstFree queue (if far then 32 else 64) = none → exec (ringCmd .fabric m) s = wait (count s (evSlc 9 sl)))
      ∧ (∀ i, ¬ now → firstFree queue (if far then 32 else 64) = some i → exec (ringCmd .fabric m) s = wait s))
  ∧
  (
    ∀ (s : State) (sl : SliceId), Running s →
      (startable s sl = none → exec (.homeTxnStart sl) s = .next (settle s))
      ∧ (∀ far i e, startable s sl = some (far, i, e) → e.op ≠ .ncwr →
          exec (.homeTxnStart sl) s = .next (settled s (homeTry (homeStart s sl) sl far i)))
      ∧ (∀ far i e, startable s sl = some (far, i, e) → e.op = .ncwr →
          let u := homeWrite s e.hdr.laddr (mergeLine (homeLine s e.hdr.laddr) e.body.data e.body.bmask)
          let v := send u (.wrAck (homeHdr u sl far i e e.hdr.src))
          exec (.homeTxnStart sl) s = .next (settled s (homeTry (returnCredit (putHome v sl far i none) far e) sl far i)))
      ∧ (∀ h : RingHdr, homeAt s (htagSlice h.htag) (h.hkind == 1) (htagEntry h.htag) = none →
          exec (.gack .fabric h) s = .next (settle s))
      ∧ (∀ (h : RingHdr) (e : HomeEntry), homeAt s (htagSlice h.htag) (h.hkind == 1) (htagEntry h.htag) = some e →
          exec (.gack .fabric h) s = .next (settled s (tryClose
            (putHome s (htagSlice h.htag) (h.hkind == 1) (htagEntry h.htag) (some { e with gackDue := false }))
            (htagSlice h.htag) (h.hkind == 1) (htagEntry h.htag))))
      ∧ (∀ (h : RingHdr) (b : WbBody) (he : HomeMapEntry), (b.move = false ∨ stagedHere s h.laddr = none) → homeOf s h.laddr = some he → he.home = s.net.ctrlId →
          localAddr he h.laddr < s.capacity → (evictOf s (place s h.laddr).sl).find? (fun x => x.2.hdr.laddr == h.laddr) = none →
          let u := { s with home := { s.home with wbkUsed := s.home.wbkUsed + 1 } }
          (runningFor u (place s h.laddr).sl h.laddr = none →
            let v := answerWb (homeWrite u h.laddr b.line) ⟨h, b⟩ false
            exec (.wbData .fabric h b) s = .next (settled s { v with home := { v.home with
              wbAcked := (v.home.wbAcked.erase (h.laddr, h.src)) ++ [(h.laddr, h.src)] } }))
          ∧ ∀ far i e, runningFor u (place s h.laddr).sl h.laddr = some (far, i, e) → e.sent = false → e.op ≠ .ncrd → e.op ≠ .ncwr →
            exec (.wbData .fabric h b) s =
              .next (settled s (putHome u (place s h.laddr).sl far i (some { e with held := e.held ++ [⟨h, b⟩] }))))
      ∧ ((∀ x ∈ farqOf s sl, x.2.needWay = false) → exec (.fdEviction sl) s = .next (settle s)))
  ∧
  (
    ∀ s : State, Running s →
      (∀ (i : Input) (h : RingHdr) (b : ReqBody), exec (.rqSh i h b) s = .next (settled s (arrive s i (.req .sh h b))))
      ∧ (∀ (i : Input) (h : RingHdr) (b : ReqBody), exec (.rqNi i h b) s = .next (settled s (arrive s i (.req .ni h b))))
      ∧ (∀ (i : Input) (h : RingHdr) (b : ReqBody), exec (.rqEx i h b) s = .next (settled s (arrive s i (.req .ex h b))))
      ∧ (∀ (i : Input) (h : RingHdr) (b : ReqBody), exec (.rqUpg i h b) s = .next (settled s (arrive s i (.req .upg h b))))
      ∧ (∀ (i : Input) (h : RingHdr) (b : ReqBody), exec (.rqClaim i h b) s = .next (settled s (arrive s i (.req .claim h b))))
      ∧ (∀ (i : Input) (h : RingHdr) (b : ReqBody), exec (.rqWr i h b) s = .next (settled s (arrive s i (.req .wr h b))))
      ∧ (∀ (i : Input) (h : RingHdr) (b : ReqBody), exec (.rqNcrd i h b) s = .next (settled s (arrive s i (.req .ncrd h b))))
      ∧ (∀ (i : Input) (h : RingHdr) (b : ReqBody), exec (.rqNcwr i h b) s = .next (settled s (arrive s i (.req .ncwr h b))))
      ∧ (∀ (i : Input) (h : RingHdr) (b : ReqBody), exec (.rqAtom i h b) s = .next (settled s (arrive s i (.req .atom h b))))
      ∧ (∀ (i : Input) (op : ReqOp) (gate : NodeId) (h : RingHdr) (b : ReqBody), exec (.farRd i op gate h b) s =
            .next (settled s (arrive s i (.farReq op gate h b))))
      ∧ (∀ (i : Input) (op : ReqOp) (gate : NodeId) (h : RingHdr) (b : ReqBody), exec (.farEx i op gate h b) s =
            .next (settled s (arrive s i (.farReq op gate h b))))
      ∧ (∀ sl : SliceId, exec (.homeTxnStart sl) s = .next (settled s (homeBegin s sl)))
      ∧ (∀ (i : Input) (h : RingHdr), exec (.gack i h) s = .next (settled s (arrive s i (.gack h))))
      ∧ (∀ (i : Input) (h : RingHdr) (b : WbBody), exec (.wbData i h b) s = .next (settled s (arrive s i (.wbData h b))))
      ∧ (∀ sl : SliceId, exec (.fdEviction sl) s = .next (settled s (evictStart s sl))))

/-- What comes back to a requesting node (R71, R72, R96, R111, R115, R144, R163, R167): the grant, the data, the acknowledgement or
    the error is kept by the entry that waits for it or ends it; what no entry waits for is counted late, or ignored. DATA with
    TOHOME (R163, R195): the home entry that waits keeps the line in place of its DDR5 read, a directory eviction likewise; a gate
    passes it on to the home that recalled; what no entry waits for is dropped and counted in LATE_DAT. -/
def Obligations.AnswersReachTheirEntry : Prop :=
  (
    ∀ (s : State) (h : RingHdr), Running s →
      let sl := txnSlice h.txn
      let i := txnEntry h.txn
      let pl (e : MissEntry) := place s e.req.laddr
      (missAt s sl i = none →
        (∀ g, exec (.grant .fabric h g) s = .next (settled s (trouble s (blkSlc sl) kSlcLateGrant)))
        ∧ (∀ d, d.tohome = false → exec (.data .fabric h d) s = .next (settled s (trouble s (blkSlc sl) kSlcLateDat)))
        ∧ exec (.wrAck .fabric h) s = .next (settle s)
        ∧ ∀ st, exec (.err .fabric h st false) s = .next (settle s))
      ∧ (∀ e, missAt s sl i = some e → e.kind ≠ .waiting → e.reqSent = true → e.abandoned = false →
          due s e.start e.tmo = false →
          (∀ g : GrantBody, e.grant = none → g.dsrc = 0 →
            exec (.grant .fabric h g) s =
              .next (settled s (tryFinish (putMiss s sl i (some { e with
                grant := some g, grantHdr := some h, grantTick := s.now, dtmo := tmoData s })) sl i)))
          ∧ (∀ g : GrantBody, e.grant = none → g.dsrc ≠ 0 →
            let u := forwardChunks (putMiss s sl i (some { e with
              grant := some g, grantHdr := some h, grantTick := s.now, dtmo := tmoData s
              tr := if e.tr = .smW then .imW else e.tr })) sl i
            exec (.grant .fabric h g) s = .next (settled s (if e.noInstall then tryFinish u sl i else u)))
          ∧ (∀ d : DataBody, d.tohome = false → e.grant = none → (e.supData = false ∨ d.srck ≠ 0) →
            let u := forwardChunks (putMiss s sl i (some { e with
              fill := d.line, fillV := 0xF, fillDirty := d.dirty, supData := e.supData || d.srck != 0 })) sl i
            exec (.data .fabric h d) s = .next (settled s (if e.noInstall then tryFinish u sl i else u)))
          ∧ (∀ d : DataBody, d.tohome = false → e.supData = true → d.srck = 0 → exec (.data .fabric h d) s = .next (settle s))
          ∧ (∀ p, e.req.src = .port p →
            exec (.wrAck .fabric h) s = .next (settled s (answer (closeEntry s sl i (pl e)) e.req .I false 0)))
          ∧ ∀ st, let u := answerErr s sl e.req (errStatus st)
            exec (.err .fabric h st false) s = .next (settled s (closeEntry u sl i (place u e.req.laddr))))
      ∧ (∀ (b : PenBuf) (d : Bool) (st : BitVec 8),
          penAt s sl (h.txn.extractLsb' 0 7).toNat = some b → b.mif = true →
          let r := if b.wbFired = false ∧ due s b.wbStart b.wbTmo = true then trouble s (blkSlc sl) kSlcTimeoutRace else s
          let u := penFreed (putPen r sl (h.txn.extractLsb' 0 7).toNat none) sl b
          exec (.wbAck .fabric h d) s = .next (settled s u) ∧ exec (.err .fabric h st true) s = .next (settled s u))
      ∧ (∀ d, (∀ b, penAt s sl (h.txn.extractLsb' 0 7).toNat = some b → b.mif = false) →
          exec (.wbAck .fabric h d) s = .next (settled s (trouble s (blkSlc sl) kSlcWbackStray))))
  ∧
  (
    ∀ (s : State) (h : RingHdr) (d : DataBody), Running s → d.tohome = true →
      let sl := htagSlice h.htag
      let i := htagEntry h.htag
      ((h.hkind = 0 ∨ h.hkind = 1) → homeAt s sl (h.hkind == 1) i = none →
        exec (.data .fabric h d) s = .next (settled s (trouble s (blkSlc sl) kSlcLateDat)))
      ∧ (∀ e, (h.hkind = 0 ∨ h.hkind = 1) → homeAt s sl (h.hkind == 1) i = some e → e.sent = false → e.state ≠ .waiting →
        exec (.data .fabric h d) s =
          .next (settled s (homeTry (putHome s sl (h.hkind == 1) i (some { e with toHome := some d.line })) sl (h.hkind == 1) i)))
      ∧ (h.hkind = 2 → tget none s.home.evict (sl.toNat * 4 + i) = none →
        exec (.data .fabric h d) s = .next (settled s (trouble s (blkSlc sl) kSlcLateDat)))
      ∧ (∀ e, h.hkind = 2 → tget none s.home.evict (sl.toNat * 4 + i) = some e →
        exec (.data .fabric h d) s = .next (settled s (evictEnd (putEvict s sl i (some { e with toHome := some d.line })) sl i)))
      ∧ (h.hkind = 3 → tget none s.home.recalls i = none →
        exec (.data .fabric h d) s = .next (settled s (trouble s (blkSlc (sliceOf h.laddr)) kSlcLateDat)))
      ∧ (∀ r, h.hkind = 3 → tget none s.home.recalls i = some r →
        exec (.data .fabric h d) s = .next (settled s (send (putRecall s i (if r.acked then none else some { r with relayed := true }))
          (.data { h with dst := r.hdr.src, htag := r.hdr.htag, hkind := r.hdr.hkind } d)))))
  ∧
  (
    ∀ s : State, Running s →
      (∀ (i : Input) (h : RingHdr) (b : GrantBody), exec (.grant i h b) s = .next (settled s (arrive s i (.grant h b))))
      ∧ (∀ (i : Input) (h : RingHdr) (b : DataBody), exec (.data i h b) s = .next (settled s (arrive s i (.data h b))))
      ∧ (∀ (i : Input) (h : RingHdr) (discarded : Bool), exec (.wbAck i h discarded) s =
            .next (settled s (arrive s i (.wbAck h discarded))))
      ∧ (∀ (i : Input) (h : RingHdr), exec (.wrAck i h) s = .next (settled s (arrive s i (.wrAck h))))
      ∧ (∀ (i : Input) (h : RingHdr) (status : BitVec 8) (wba : Bool), exec (.err i h status wba) s =
            .next (settled s (arrive s i (.err h status wba)))))

/-- Recalls (R189, R193, R194, R204): a gate takes a recall into a free entry and launches its snoop, on the parent ring where the
    recall comes from inside its subtree; with the table full the recall is deferred and counted in RCL_DEFER. An answer that no entry
    awaits is counted late; an awaited one is kept, and the last ends the recalls, with TIMEOUT_RACE counted where it comes when their
    timer has run out (R168). Credits that come back (R134, R184): the requests that waited for them go. On a ring with none waiting
    only the counts change. -/
def Obligations.RecallsAndCredits : Prop :=
  (
    ∀ (s : State) (h : RingHdr), Running s →
      (∀ (b : RecallBody) (k : Nat), recallRoom s h b = some k →
        let t := fresh (putDefer s (s.home.rclDefer.filter fun x => !(x.1 == h && x.2.1 == b)))
        let up := s.net.isBridge && actOf (tget 0 s.net.lower.cur.routes (ringOf h.src).toNat) != 3
        exec (.farRecall .fabric h b) s =
          .next (settled s (recallLaunch t k ⟨t.serial, h, b, up, circ0, [], cr0, none, false, 0, false, false⟩)))
      ∧ (∀ b : RecallBody, recallRoom s h b = none →
        let u := trouble s (blkRing .ringE) kPrlRclDefer
        exec (.farRecall .fabric h b) s = .next (settled s
          (if s.home.rclDefer.any fun x => x.1 == h && x.2.1 == b then u else putDefer u (s.home.rclDefer ++ [(h, b, true)]))))
      ∧ (∀ b : FarAckBody, b.crd = false → h.hkind = 0 ∨ h.hkind = 1 →
        let sl := htagSlice h.htag
        let i := htagEntry h.htag
        let far := h.hkind == 1
        (homeAt s sl far i = none →
          exec (.farAck .fabric h b) s = .next (settled s (trouble s (blkSlc (sliceOf h.laddr)) kSlcLateFack)))
        ∧ (∀ e, homeAt s sl far i = some e → h.src ∉ e.rcl.open_ →
          exec (.farAck .fabric h b) s = .next (settled s (trouble s (blkSlc (sliceOf h.laddr)) kSlcLateFack)))
        ∧ ∀ e, homeAt s sl far i = some e → h.src ∈ e.rcl.open_ →
          let r := rclAnswer e.rcl h.src (gateRing s h.src) b
          let u := if r.open_ = [] ∧ due s e.rcl.start e.rcl.tmo = true then trouble s (blkSlc sl) kSlcTimeoutRace else s
          exec (.farAck .fabric h b) s = .next (settled s (recallsDone (putHome u sl far i (some { e with rcl := r })) sl far i)))
      ∧ (∀ b : FarAckBody, b.crd = false → h.hkind = 2 →
        let sl := htagSlice h.htag
        let i := htagEntry h.htag
        ((∀ e, tget none s.home.evict (sl.toNat * 4 + i) = some e → h.src ∉ e.rcl.open_) →
          exec (.farAck .fabric h b) s = .next (settled s (trouble s (blkSlc (sliceOf h.laddr)) kSlcLateFack)))
        ∧ ∀ e, tget none s.home.evict (sl.toNat * 4 + i) = some e → h.src ∈ e.rcl.open_ →
          let r := rclAnswer e.rcl h.src (gateRing s h.src) b
          let u := if r.open_ = [] ∧ due s e.rcl.start e.rcl.tmo = true then trouble s (blkSlc sl) kSlcTimeoutRace else s
          exec (.farAck .fabric h b) s = .next (settled s (evictEnd (putEvict u sl i (some { e with rcl := r })) sl i)))
      ∧ (∀ b : FarAckBody, b.crd = false → h.hkind = 3 →
        let i := htagEntry h.htag
        ((∀ r, recallAt s i = some r → h.src ∉ r.copies) →
          exec (.farAck .fabric h b) s = .next (settled s (trouble s (blkSlc (sliceOf h.laddr)) kSlcLateFack)))
        ∧ ∀ r, recallAt s i = some r → h.src ∈ r.copies →
          exec (.farAck .fabric h b) s = .next (settled s (recallTry (putRecall s i (some { r with
            copies := r.copies.filter (· ≠ h.src), cr := r.cr.or b.cr, lost := r.lost || b.lost
            supring := if takesSupplier r.cr b.cr then some b.supring else r.supring })) i)))
      ∧ (∀ b : FarAckBody, b.crd = true → s.home.farWait = [] →
        let k := farIx (ringOf h.src != myRing s) h.src b.slice
        exec (.farAck .fabric h b) s = .next (settled s
          { s with home := { s.home with farSpent := tset 0 s.home.farSpent k (tget 0 s.home.farSpent k - b.nfar.toNat) } })))
  ∧
  (
    ∀ (s : State) (h : RingHdr) (slice : SliceId) (nreq nwbk : BitVec 5), Running s → s.net.isBridge = false → ringOf h.src = myRing s →
      s.net.lower.cur.gates = [] → s.home.reqWait = [] → s.home.wbkTransit = [] →
      let n := (nodeOf h.src).toNat
      let k := n * 16 + slice.toNat
      let home := { s.home with reqSpent := tset 0 s.home.reqSpent k (tget 0 s.home.reqSpent k - nreq.toNat) }
      let t := putWbkSpent { s with home := home } false (tset 0 s.home.wbkSpent n (tget 0 s.home.wbkSpent n - nwbk.toNat))
      exec (.credit .fabric h slice nreq nwbk) s = .next (settled s t))
  ∧
  (
    ∀ s : State, Running s →
      (∀ (i : Input) (h : RingHdr) (b : RecallBody), exec (.farRecall i h b) s =
            .next (settled s (arrive s i (.farRecall h b))))
      ∧ (∀ (i : Input) (h : RingHdr) (b : FarAckBody), exec (.farAck i h b) s = .next (settled s (arrive s i (.farAck h b))))
      ∧ (∀ (i : Input) (h : RingHdr) (slice : SliceId) (nreq nwbk : BitVec 5), exec (.credit i h slice nreq nwbk) s =
            .next (settled s (arrive s i (.credit h slice nreq nwbk)))))

/-- A timer of a transaction that has not reached its expiry changes nothing (R164, R166, R204). What the expiry of a timer does
    (R166, R204, R205): it is counted and raises the RING_TIMEOUT error event (bit 4 of the block's ERR_STATUS); a timer counts
    to the value that its register had when it started; a snoop is launched once more, and one that expires the second time loses
    its transaction, a request is answered with status ring timeout and its entry abandoned, chunks
    that never came are poisoned, a writeback is never sent again, and recalls restart once and then count as lost. -/
def Obligations.TransactionTimers : Prop :=
  (
    ∀ (s : State) (sl : SliceId), Running s →
      (∀ far (i : BitVec 6) e, homeAt s sl far i.toNat = some e → (e.circ.running = false ∨ due s e.circ.start e.circ.tmo = false) →
        exec (.snoopTimer sl far i) s = .next (settle s))
      ∧ (∀ far (i : BitVec 6) e, homeAt s sl far i.toNat = some e → (e.rcl.open_ = [] ∨ due s e.rcl.start e.rcl.tmo = false) →
        exec (.recallTimer sl false far i) s = .next (settle s))
      ∧ (∀ (i : BitVec 8) e, missAt s sl i.toNat = some e → (e.reqSent = false ∨ e.grant.isSome = true ∨ due s e.start e.tmo = false) →
        exec (.grantTimer sl i) s = .next (settle s) ∧ exec (.farGrantTimer sl i) s = .next (settle s))
      ∧ (∀ (i : BitVec 8) e, missAt s sl i.toNat = some e → (e.grant = none ∨ e.fillV = 0xF ∨ due s e.grantTick e.dtmo = false) →
        exec (.dataTimer sl i) s = .next (settle s))
      ∧ (∀ (i : BitVec 7) b, penAt s sl i.toNat = some b → (b.mif = false ∨ b.wbFired = true ∨ due s b.wbStart b.wbTmo = false) →
        exec (.writebackTimer sl i) s = .next (settle s))
      ∧ (∀ (i : BitVec 6) r, recallAt s i.toNat = some r → (r.circ.running = false ∨ due s r.circ.start r.circ.tmo = false) →
        exec (.gateCircuitTimer i) s = .next (settle s)))
  ∧
  (
    ∀ (s : State) (sl : SliceId), Running s →
      let fired (kind : Nat) : State := raiseErr (trouble s (blkSlc sl) kind) (blkSlc sl) 4
      (∀ far (i : BitVec 6) e, homeAt s sl far i.toNat = some e → e.circ.running = true → due s e.circ.start e.circ.tmo = true →
        1 < e.circ.launches →
        exec (.snoopTimer sl far i) s =
          .next (settled s (homeFail (trouble (fired kSlcSnpTmo) (blkSlc sl) kSlcSnpLost) sl far i.toNat false)))
      ∧ (∀ far (i : BitVec 6) e, homeAt s sl far i.toNat = some e → e.circ.running = true → due s e.circ.start e.circ.tmo = true →
        e.circ.launches ≤ 1 →
        exec (.snoopTimer sl far i) s = .next (settled s (homeRelaunch (fired kSlcSnpTmo) sl far i.toNat e)))
      ∧ (∀ (i : BitVec 8) e, missAt s sl i.toNat = some e → e.kind ≠ .waiting → e.reqSent = true → e.grant = none → e.abandoned = false →
        due s e.start e.tmo = true →
        let lost (kind : Nat) : Host.Outcome State Fault Refusal :=
          .next (settled s (answerErr (putMiss (fired kind) sl i.toNat (some { e with abandoned := true })) sl e.req 0x0A))
        (e.far = false → exec (.grantTimer sl i) s = lost kSlcGrantTmo) ∧ (e.far = true → exec (.farGrantTimer sl i) s = lost kSlcFarGrantTmo))
      ∧ (∀ (i : BitVec 8) e g, missAt s sl i.toNat = some e → e.grant = some g → g.dsrc = 2 → e.fillV ≠ 0xF →
        due s e.grantTick e.dtmo = true →
        let fill := (List.range 4).foldl (fun d c => if e.fillV.getLsbD c then d else putChunk d c (chunkOf d c) true) e.fill
        let t := putMiss (fired kSlcDataTmo) sl i.toNat (some { e with fill := fill, fillV := 0xF, psnSeen := true })
        exec (.dataTimer sl i) s = .next (settled s (tryFinish (forwardChunks t sl i.toNat) sl i.toNat)))
      ∧ (∀ (i : BitVec 7) b, penAt s sl i.toNat = some b → b.mif = true → b.wbFired = false → due s b.wbStart b.wbTmo = true →
        let t := trouble (putPen s sl i.toNat (some { b with wbFired := true })) (blkSlc sl) kSlcWbackTmo
        exec (.writebackTimer sl i) s = .next (settled s (raiseErr t (blkSlc sl) 4)))
      ∧ (∀ far (i : BitVec 6) e, homeAt s sl far i.toNat = some e → e.rcl.open_ ≠ [] → due s e.rcl.start e.rcl.tmo = true →
        (e.rcl.fired = 0 → exec (.recallTimer sl false far i) s =
          .next (settled s (putHome (fired kSlcFarRclTmo) sl far i.toNat (some { e with rcl := { e.rcl with fired := 1, start := s.now, tmo := tmoRcl s } }))))
        ∧ (e.rcl.fired ≠ 0 →
          let t := putHome (fired kSlcFarRclTmo) sl far i.toNat (some { e with rcl := { e.rcl with open_ := [], lost := true } })
          exec (.recallTimer sl false far i) s = .next (settled s (recallsDone t sl far i.toNat))))
      ∧ (∀ (i : BitVec 6) e, tget none s.home.evict (sl.toNat * 4 + i.toNat) = some e → e.rcl.open_ ≠ [] →
        due s e.rcl.start e.rcl.tmo = true → ∀ far,
        (e.rcl.fired = 0 → exec (.recallTimer sl true far i) s = .next (settled s
          (putEvict (fired kSlcFarRclTmo) sl i.toNat (some { e with rcl := { e.rcl with fired := 1, start := s.now, tmo := tmoRcl s } }))))
        ∧ (e.rcl.fired ≠ 0 → exec (.recallTimer sl true far i) s = .next (settled s (evictEnd
          (putEvict (fired kSlcFarRclTmo) sl i.toNat (some { e with rcl := { e.rcl with open_ := [], lost := true } })) sl i.toNat))))
      ∧ (∀ (i : BitVec 6) r, recallAt s i.toNat = some r → r.circ.running = true → due s r.circ.start r.circ.tmo = true →
        let b := blkSlc (sliceOf r.hdr.laddr)
        let t := raiseErr (trouble s b kSlcSnpTmo) b 4
        (r.circ.launches ≤ 1 → exec (.gateCircuitTimer i) s = .next (settled s (gateRelaunch t i.toNat r)))
        ∧ (1 < r.circ.launches → exec (.gateCircuitTimer i) s =
          .next (settled s (recallTry (putRecall t i.toNat (some { r with lost := true, circ := { r.circ with running := false } })) i.toNat)))))
  ∧
  (
    ∀ s : State, Running s →
      (∀ (sl : SliceId) (far : Bool) (i : BitVec 6), exec (.snoopTimer sl far i) s =
            .next (settled s (snoopTimer s sl far i.toNat)))
      ∧ (∀ (sl : SliceId) (i : BitVec 8), exec (.grantTimer sl i) s = .next (settled s (grantTimer s sl i.toNat false)))
      ∧ (∀ (sl : SliceId) (i : BitVec 8), exec (.dataTimer sl i) s = .next (settled s (dataTimer s sl i.toNat)))
      ∧ (∀ (sl : SliceId) (i : BitVec 7), exec (.writebackTimer sl i) s = .next (settled s (wbackTimer s sl i.toNat)))
      ∧ (∀ (sl : SliceId) (evict far : Bool) (i : BitVec 6), exec (.recallTimer sl evict far i) s =
            .next (settled s (if evict then evictTimer s sl i.toNat else recallTimer s sl far i.toNat)))
      ∧ (∀ i : BitVec 6, exec (.gateCircuitTimer i) s = .next (settled s (gateTimer s i.toNat)))
      ∧ (∀ (sl : SliceId) (i : BitVec 8), exec (.farGrantTimer sl i) s = .next (settled s (grantTimer s sl i.toNat true))))

/-- A ring port comes up (R343, R354, R355, R357): one that ends its training enters AUTH with a fresh challenge, unless it sees the
    markers of another standard; an exchange ends with the result that R357 names for what is wrong; a partner's proof and its own
    result are kept, and the port that has sent and received PASS enters STANDBY. The exchange ends after 1 ms and starts again
    after 100 ms. A port that has sent and received AUTH_DONE with RESULT 0 enters STANDBY, and a census starts; with one of them
    missing it stays (R355, R359). A port that is not connected has no partner to train with (R11). The exchange is the work of
    Lantern-B: while its engine does not run, none of it happens (R13). -/
def Obligations.RingPortsAuthenticate : Prop :=
  (
    ∀ (s : State) (p : RingPort) (lanes : BitVec 8) (ctrl : CtrlId) (port : BitVec 2) (gen : BitVec 8) (nonce : BitVec 128)
        (mac : BitVec 128) (r : BitVec 4), Running s →
      let x := ringPort s p
      let next (t : State) : Host.Outcome State Fault Refusal := .next (settled s (linkEvent t))
      let fail (t : State) (r : BitVec 4) : Host.Outcome State Fault Refusal := next (authFail (sendMgmt t p (.authDone r)) p r)
      let y := { x with partnerId := ctrl, partnerPort := port, partnerValid := false }
      let met := putRing s p y
      let east := p = .ringE ∨ p = .upA
      let eastY := port = 0 ∨ port = 2
      let wired : Prop := engineRuns s (56 + ringIx p) = true ∧ s.unwired.getLsbD (ringIx p) = false
      (wired → x.state = .training → exec (.ringTrainDone p lanes true) s = next (trouble s (blkRing p) kPrlPrlForeign))
      ∧ (wired → x.state = .training → exec (.ringTrainDone p lanes false) s =
          next (authStart (putRing s p { x with
            lanes := lanes, spent := [], rxUsed := [], rxNext := 0, ackv := false, nakSent := false, txNext := 0, unacked := []
            replays := 0, part := none, failedLanes := ~~~lanes, turn := false }) p))
      ∧ (x.state ≠ .training → wired → ∀ f, exec (.ringTrainDone p lanes f) s = next s)
      ∧ (¬ wired → ∀ f, exec (.ringTrainDone p lanes f) s = .next (settle s))
      ∧ (lanternB s = false → ∀ ver, exec (.authChal p ver port ctrl gen nonce) s = .next (settle s)
          ∧ exec (.authResp p mac) s = .next (settle s) ∧ exec (.authDone p r) s = .next (settle s)
          ∧ exec (.authTimeout p) s = .next (settle s) ∧ exec (.authRestart p) s = .next (settle s))
      ∧ (lanternB s = true → x.state ≠ .auth → exec (.authChal p 1 port ctrl gen nonce) s = next s ∧ exec (.authResp p mac) s = next s
          ∧ exec (.authDone p r) s = next s ∧ exec (.authTimeout p) s = next s ∧ exec (.authRestart p) s = next s)
      ∧ (∀ a, lanternB s = true → x.state = .auth → x.auth = some a → a.failed = none →
          (∀ ver, ver ≠ 1 → exec (.authChal p ver port ctrl gen nonce) s = fail met 5)
          ∧ ((east ↔ eastY) → exec (.authChal p 1 port ctrl gen nonce) s = fail met 3)
          ∧ (¬ (east ↔ eastY) → isUp p = false → (port = 0 ∨ port = 1) → ringOf ctrl ≠ myRing s →
              exec (.authChal p 1 port ctrl gen nonce) s = fail met 4)
          ∧ (¬ (east ↔ eastY) → isUp p = false → (port = 0 ∨ port = 1) → ringOf ctrl = myRing s →
              (keyOf s gen = none → exec (.authChal p 1 port ctrl gen nonce) s = fail met 2)
              ∧ ∀ k, keyOf s gen = some k → exec (.authChal p 1 port ctrl gen nonce) s =
                let t := putRing met p { y with auth := some { a with chal := some (ctrl, port, gen, nonce) } }
                next (sendMgmt t p (.authResp (macOf k (macMessage s.net.ctrlId (portCode p) ctrl port gen nonce a.nonce)))))
          ∧ (a.chal = none → exec (.authResp p mac) s = next s)
          ∧ (∀ c q g n, a.chal = some (c, q, g, n) →
              (keyOf s a.offered = none → exec (.authResp p mac) s = fail s 2)
              ∧ (∀ k, keyOf s a.offered = some k → mac ≠ macOf k (macMessage c q s.net.ctrlId (portCode p) a.offered a.nonce n) →
                  exec (.authResp p mac) s = fail s 1)
              ∧ (∀ k, keyOf s a.offered = some k → mac = macOf k (macMessage c q s.net.ctrlId (portCode p) a.offered a.nonce n) →
                  exec (.authResp p mac) s =
                  let t := putRing s p { x with auth := some { a with sentDone := true }, authResult := 0, authKgen := a.offered }
                  next (authTry (sendMgmt t p (.authDone 0)) p)))
          ∧ (r ≠ 0 → exec (.authDone p r) s = next (authFail s p r))
          ∧ (exec (.authDone p 0) s = next (authTry (putRing s p { x with auth := some { a with gotDone := true } }) p))
          ∧ (due s a.start 1000 = true → exec (.authTimeout p) s = next (authFail s p 6))
          ∧ exec (.authRestart p) s = next s)
      ∧ (∀ a t, lanternB s = true → x.state = .auth → x.auth = some a → a.failed = some t → due s t 100000 = true →
          exec (.authRestart p) s = next (authStart s p)))
  ∧
  (
    ∀ (s : State) (p : RingPort) (a : Auth), (ringPort s p).auth = some a →
      (a.sentDone = true → a.gotDone = true → a.failed = none →
        authTry s p = startCensus (putRing s p { ringPort s p with state := .standby, auth := none, partnerValid := true }) (isUp p))
      ∧ ((a.sentDone = false ∨ a.gotDone = false ∨ a.failed ≠ none) → authTry s p = s))
  ∧
  (
    ∀ s : State, Running s →
      (∀ (p : RingPort) (lanes : BitVec 8) (isForeign : Bool), exec (.ringTrainDone p lanes isForeign) s =
            .next (settled s (if engineRuns s (56 + ringIx p) && !s.unwired.getLsbD (ringIx p) then linkEvent (trainDone s p
              lanes isForeign) else s)))
      ∧ (∀ (p : RingPort) (ver : BitVec 4) (port : BitVec 2) (ctrl : CtrlId) (kgen : BitVec 8) (nonce : BitVec 128), exec
          (.authChal p ver port ctrl kgen nonce) s =
            .next (settled s (byB s (linkEvent (authChal s p ver port ctrl kgen nonce)))))
      ∧ (∀ (p : RingPort) (mac : BitVec 128), exec (.authResp p mac) s =
            .next (settled s (byB s (linkEvent (authResp s p mac)))))
      ∧ (∀ (p : RingPort) (r : BitVec 4), exec (.authDone p r) s = .next (settled s (byB s (linkEvent (authDone s p r)))))
      ∧ (∀ p : RingPort, exec (.authTimeout p) s = .next (settled s (byB s (linkEvent (authTimeout s p)))))
      ∧ (∀ p : RingPort, exec (.authRestart p) s = .next (settled s (byB s (linkEvent (authRestart s p))))))

/-- Ring frames (R319, R349): a port that is not up takes none; one whose CRC is wrong or that touches a codeword the FEC could not
    correct is counted in RING_CRC and NAKed, and nothing in it acts; at the expiry of the replay timer every unacknowledged frame
    goes out again, or after REPLAY_MAX replays the port goes down. -/
def Obligations.RingFramesAreCheckedAndReplayed : Prop :=
  (
  ∀ (s : State) (p : RingPort) (f : PrlFrame), Running s →
    let x := ringPort s p
    let up := x.state = .active ∨ x.state = .standby ∨ x.state = .auth
    let bad := crc32c (frameBytes f.hdr f.slots (f.trailer.extractLsb' 0 64)) ≠ f.trailer.extractLsb' 64 32
    (¬ up → exec (.prlFrame p f) s = .next (settled s (linkEvent s)))
    ∧ (up → f.ucw = none → bad → exec (.prlFrame p f) s = .next (settled s (linkEvent (ringNak (trouble s (blkRing p) kPrlRingCrc) p))))
    ∧ (replayDue s x = false → exec (.ringReplayTimer p) s = .next (settled s (linkEvent s)))
    ∧ (replayDue s x = true → x.replays < max 1 x.replayMax.toNat →
        let t := putRing (trouble s (blkRing p) kPrlRingReplay) p
          { x with replays := x.replays + 1, unacked := x.unacked.map fun u => (u.1, s.now, u.2.2) }
        exec (.ringReplayTimer p) s =
          .next (settled s (linkEvent { t with out := t.out ++ x.unacked.map fun u => OutMsg.frameAgain p u.1 u.2.2 })))
    ∧ (replayDue s x = true → max 1 x.replayMax.toNat ≤ x.replays →
        exec (.ringReplayTimer p) s = .next (settled s (linkEvent (portFail s p)))))
  ∧
  (
    ∀ s : State, Running s →
      (∀ (p : RingPort) (f : PrlFrame), exec (.prlFrame p f) s = .next (settled s (linkEvent (ringFrame s p f))))
      ∧ (∀ p : RingPort, exec (.ringReplayTimer p) s = .next (settled s (linkEvent (ringReplayTimer s p)))))

/-- Lanes (R350-R353, R371): the set that a partner proposes is taken by a port in service when it is a set of R350 with no failed
    lane; unacknowledged frames follow again, a census starts, and admission runs again. A port whose set has lost block lock on
    every lane goes down, and so does one whose exchange takes 20 µs. Slow partners (R369, R370, R375): starvation for STARVE µs
    sets SLOW, raises the RING_SLOW error event and tells the ring; for RETIRE µs it takes the port down; 100 ms without it clears
    SLOW; a notice goes on round the ring, not back where it began. A failed port with AUTO_RETURN trains again after 1 s. Management slots
    are consumed by Lantern-B: while its engine does not run, a slot that arrives does nothing (R13; log entry 122). -/
def Obligations.LanesNarrowAndPartnersSlow : Prop :=
  (
    ∀ (s : State) (p : RingPort) (set lanes : BitVec 8), Running s →
      let x := ringPort s p
      let takes := mgmtUp s p = true ∧ lanternB s = true
      (¬ takes → exec (.laneSet p set) s = .next (settle s))
      ∧ (takes → (set &&& x.failedLanes ≠ 0 ∨ ∀ e ∈ laneSets, e.2 ≠ set) →
          exec (.laneSet p set) s = .next (settled s (linkEvent s)))
      ∧ (takes → exec (.laneSet p set) s = .next (settled s (linkEvent (laneEvent s (laneSet s p set) p))))
      ∧ ((x.state = .down ∨ x.state = .quarantined ∨ x.state = .retired) →
          exec (.blockLockLoss p lanes) s = .next (settled s (linkEvent s)))
      ∧ (x.state ≠ .down → x.state ≠ .quarantined → x.state ≠ .retired →
          let t := putRing s p { x with failedLanes := x.failedLanes ||| lanes }
          (x.lanes &&& ~~~(x.failedLanes ||| lanes) = 0 → exec (.blockLockLoss p lanes) s = .next (settled s (linkEvent (portFail t p))))
          ∧ (x.lanes &&& ~~~(x.failedLanes ||| lanes) ≠ 0 →
            exec (.blockLockLoss p lanes) s = .next (settled s (linkEvent (proposeLanes t p)))))
      ∧ (∀ b t, x.laneProp = some (b, t) → t.toNat + 20000 ≤ s.now.toNat →
          exec (.laneSetTimeout p) s = .next (settled s (linkEvent (portFail s p))))
      ∧ (∀ b t, x.laneProp = some (b, t) → s.now.toNat < t.toNat + 20000 → exec (.laneSetTimeout p) s = .next (settled s (linkEvent s))))
  ∧
  (
    ∀ (s : State) (p : RingPort) (origin : CtrlId) (node : NodeId) (on : Bool), Running s →
      let x := ringPort s p
      let takes := mgmtUp s p = true ∧ lanternB s = true
      (lanternB s = true → x.slow = false → starvedFor s x (max 20 x.starve.toNat) = true → exec (.starveTimer p) s =
        .next (settled s (sendSlow (raiseEvt (raiseErr (putRing s p { x with slow := true }) (blkRing p) 8) 9) p true)))
      ∧ ((x.slow = true ∨ starvedFor s x (max 20 x.starve.toNat) = false) → exec (.starveTimer p) s = .next (settle s))
      ∧ (x.starved = [] → exec (.starveRetireTimer p) s = .next (settled s (linkEvent s)))
      ∧ (x.starve.toNat ≤ x.retireUs.toNat → starvedFor s x (max 100 x.retireUs.toNat) = true →
          exec (.starveRetireTimer p) s = .next (settled s (linkEvent (portFail s p))))
      ∧ (lanternB s = true → x.slow = true → x.starved = [] → due s x.unstarved 100000 = true →
          exec (.slowClear p) s = .next (settled s (sendSlow (putRing s p { x with slow := false }) p false)))
      ∧ ((x.slow = false ∨ x.starved ≠ []) → exec (.slowClear p) s = .next (settle s))
      ∧ (lanternB s = false → exec (.starveTimer p) s = .next (settle s) ∧ exec (.slowClear p) s = .next (settle s))
      ∧ (¬ takes → exec (.slow p origin node on) s = .next (settle s))
      ∧ (takes → origin = s.net.ctrlId → exec (.slow p origin node on) s = .next (settled s (linkEvent s)))
      ∧ (takes → origin ≠ s.net.ctrlId → mgmtUp (markSlow s node on) (otherPort p) = true → exec (.slow p origin node on) s =
          .next (settled s (linkEvent (sendMgmt (markSlow s node on) (otherPort p) (.slow origin node on)))))
      ∧ (∀ t, x.failedAt = some t → x.autoReturn = true → x.en = true → x.state = .down → t.toNat + 1000000000 ≤ s.now.toNat →
          exec (.autoReturnTimer p) s = .next (settled s (putRing s p { x with state := .training, failedAt := some s.now })))
      ∧ ((x.failedAt = none ∨ x.autoReturn = false) → exec (.autoReturnTimer p) s = .next (settle s)))
  ∧
  (
    ∀ s : State, Running s →
      (∀ (p : RingPort) (lanes : BitVec 8), exec (.blockLockLoss p lanes) s =
            .next (settled s (linkEvent (blockLoss s p lanes))))
      ∧ (∀ (p : RingPort) (set : BitVec 8), exec (.laneSet p set) s =
            .next (settled s (ifMgmt s p (laneEvent s (laneSet s p set) p))))
      ∧ (∀ p : RingPort, exec (.laneSetTimeout p) s = .next (settled s (linkEvent (laneSetTimeout s p))))
      ∧ (∀ (p : RingPort) (origin : CtrlId) (node : NodeId) (on : Bool), exec (.slow p origin node on) s =
            .next (settled s (ifMgmt s p (slowArrive s p origin node on))))
      ∧ (∀ p : RingPort, exec (.starveTimer p) s = .next (settled s (byB s (starveTimer s p))))
      ∧ (∀ p : RingPort, exec (.starveRetireTimer p) s = .next (settled s (linkEvent (starveRetire s p))))
      ∧ (∀ p : RingPort, exec (.slowClear p) s = .next (settled s (byB s (slowClear s p))))
      ∧ (∀ p : RingPort, exec (.autoReturnTimer p) s = .next (settled s (autoReturn s p))))

/-- The census and the route epoch (R359, R361, R363, R364): a port that carries no management slots takes none; a census of another
    node goes on in its direction with this node's record, or back at an end; the initiator's own ends when it has turned; a first
    EPOCH_PREP stages the tables and is acknowledged, a second gives Tm; the last EPOCH_ACK sets Tm 100,000 ticks on; before Tm
    nothing is committed. At Tm the next epoch is current, and the one before it is old until its drain has ended (R363, R365).
    Stated for a node with an empty home map, whose homes need not be judged anew. A drain (R365, R372, R373): a node adds its
    counts to a DRAIN and passes it on, and keeps the sums of its own; the drain ends when the sums are equal or 1 ms after Tm, and
    not before; at the limit the writebacks that have no WB_ACK are sent once more. Lantern-B does this work (R13; log entry 122). -/
def Obligations.CensusEpochsAndDrains : Prop :=
  (
    ∀ (s : State) (p : RingPort) (c : Census) (initiator member : CtrlId) (e : BitVec 4) (r : EpochResult) (tm : Option Tick)
        (upper : Bool), Running s →
      let x := posOf s (isUp p)
      let next (t : State) : Host.Outcome State Fault Refusal := .next (settled s (linkEvent t))
      let takes := mgmtUp s p = true ∧ lanternB s = true
      (¬ takes → exec (.census p c) s = .next (settle s) ∧ exec (.epochPrep p initiator e r tm) s = .next (settle s)
        ∧ exec (.epochAck p member e) s = .next (settle s))
      ∧ (takes → c.initiator = s.net.ctrlId → x.censusRun = false → exec (.census p c) s = next s)
      ∧ (takes → c.initiator = s.net.ctrlId → x.censusRun = true → c.turns ≠ 1 →
          exec (.census p c) s = next (censusEnd s (isUp p) c))
      ∧ (takes → c.initiator ≠ s.net.ctrlId → x.censusRun = true → s.net.ctrlId.toNat < c.initiator.toNat →
          exec (.census p c) s = next s)
      ∧ (takes → initiator = s.net.ctrlId → exec (.epochPrep p initiator e r tm) s = next s)
      ∧ (takes → initiator ≠ s.net.ctrlId → mgmtUp s (otherPort p) = false → ∀ t,
          exec (.epochPrep p initiator e r (some t)) s = next (putPos s (isUp p) { x with nextTm := some t }))
      ∧ (takes → x.prepBy = s.net.ctrlId → x.nextTm = none → x.unacked = [member] →
          let t := putPos s (isUp p) { x with unacked := [], nextTm := some (s.now + 100000) }
          exec (.epochAck p member e) s = next (sendBoth t (isUp p) (.epochPrep s.net.ctrlId e x.prepRes (some (s.now + 100000)))))
      ∧ (takes → x.prepBy = s.net.ctrlId → member ∉ x.unacked → exec (.epochAck p member e) s = next s)
      ∧ ((posOf s upper).next = none → exec (.epochCommit upper) s = next s)
      ∧ (∀ t, (posOf s upper).nextTm = some t → s.now.toNat < t.toNat → exec (.epochCommit upper) s = next s))
  ∧
  (
    ∀ (s : State) (t : EpSlot) (tm : Tick), Running s → s.net.lower.next = some t → s.net.lower.nextTm = some tm →
      tm.toNat ≤ s.now.toNat → s.home.mapLive = [] →
      ∃ u, exec (.epochCommit false) s = .next (settled s (linkEvent (memberEvent s u)))
        ∧ u.net.lower.cur = applyStagedRoutes s.net.lower t ∧ u.net.lower.old = some s.net.lower.cur
        ∧ u.net.lower.next = none ∧ u.net.lower.nextTm = none)
  ∧
  (
    ∀ (s : State) (p : RingPort) (d : DrainSum) (upper : Bool), Running s →
      let x := posOf s (isUp p)
      let next (t : State) : Host.Outcome State Fault Refusal := .next (settled s (linkEvent t))
      let takes := mgmtUp s p = true ∧ lanternB s = true
      (¬ takes → exec (.drain p d) s = .next (settle s))
      ∧ (takes → d.origin = s.net.ctrlId → exec (.drain p d) s =
          next (putPos s (isUp p) { x with drainInj := d.injected, drainEnd := d.ended, drainSeen := [d.origin] }))
      ∧ (takes → d.origin ≠ s.net.ctrlId → mgmtUp s (otherPort p) = true →
          exec (.drain p d) s = next (sendMgmt s (otherPort p) (.drain { d with
            injected := d.injected + tget 0 x.injected d.epoch.toNat, ended := d.ended + tget 0 x.ended d.epoch.toNat })))
      ∧ (lanternB s = false → exec (.epochDrainEnd upper) s = .next (settle s))
      ∧ (lanternB s = true → (posOf s upper).old = none → exec (.epochDrainEnd upper) s = next s)
      ∧ (∀ o, lanternB s = true → (posOf s upper).old = some o →
          ((posOf s upper).drainSeen = [] ∨ (posOf s upper).drainInj ≠ (posOf s upper).drainEnd) →
          s.now.toNat < (posOf s upper).tm.toNat + 1000000 → exec (.epochDrainEnd upper) s = next s)
      ∧ (∀ o, lanternB s = true → (posOf s upper).old = some o →
          let equal := (posOf s upper).drainSeen ≠ [] ∧ (posOf s upper).drainInj = (posOf s upper).drainEnd
          let u := putPos s upper { posOf s upper with old := none, spare := o, drainSeen := [] }
          let leave (t : State) : State := plannedDown (plannedDown t (eastPort upper)) (westPort upper)
          let ends (t : State) : Prop :=
            ((posOf t upper).waiting = none → exec (.epochDrainEnd upper) s = next t)
            ∧ ∀ r, (posOf t upper).waiting = some r → exec (.epochDrainEnd upper) s = next (prepEpoch t upper r)
          (equal → ends (leave u))
          ∧ (¬ equal → (posOf s upper).tm.toNat + 1000000 ≤ s.now.toNat → ends (leave (resendWbs u upper o.epoch)))))
  ∧
  (
    ∀ s : State, Running s →
      (∀ (p : RingPort) (c : Census), exec (.census p c) s = .next (settled s (ifMgmt s p (censusArrive s p c))))
      ∧ (∀ (p : RingPort) (initiator : CtrlId) (epoch : BitVec 4) (r : EpochResult) (tm : Option Tick), exec (.epochPrep p
          initiator epoch r tm) s =
            .next (settled s (ifMgmt s p (epochPrep s p initiator epoch r tm))))
      ∧ (∀ (p : RingPort) (member : CtrlId) (epoch : BitVec 4), exec (.epochAck p member epoch) s =
            .next (settled s (ifMgmt s p (epochAck s p member epoch))))
      ∧ (∀ upper : Bool, exec (.epochCommit upper) s = .next (settled s (linkEvent (memberEvent s (epochCommit s upper)))))
      ∧ (∀ (p : RingPort) (d : DrainSum), exec (.drain p d) s = .next (settled s (ifMgmt s p (drainArrive s p d))))
      ∧ (∀ upper : Bool, exec (.epochDrainEnd upper) s = .next (settled s (byB s (linkEvent (drainEnd s upper))))))

/-- PEER fragments (R438): each sender's are put together apart; the last one gives the command to the queue when its sender is a
    member, and else counts PEER_REJECT; fragments that stop for 1 ms are thrown away. Device time over the ring (R376, R377, R380):
    SYNC is answered with its arrival and the departure of the answer; an exchange gives the link's delay, half the sum of the two
    differences; the neighbour that this node follows gives the offset too, half their difference, by which the time is stepped once
    before READY and trimmed after that. Lantern-B does this work (R13; log entry 122). A penumbra buffer whose home has been lost (R572): it stays
    until 600 s have passed; then it is freed with its data, LOST_WB is counted, and DATA_UE (bit 2 of ERR_STATUS) is raised. -/
def Obligations.PeersTimeAndLostHomes : Prop :=
  (
    ∀ (s : State) (p : RingPort) (dst src : CtrlId) (ws : List Word), Running s →
      let old := ((s.net.peerAsm.find? fun a => a.src == src).map fun a => a.words).getD []
      let rest := s.net.peerAsm.filter fun a => a.src != src
      let put (l : List PeerAsm) : State := { s with net := { s.net with peerAsm := l } }
      let takes := mgmtUp s p = true ∧ lanternB s = true
      (¬ takes → ∀ last, exec (.peer p dst src ws last) s = .next (settle s))
      ∧ (takes → dst ≠ s.net.ctrlId → ∀ last,
          exec (.peer p dst src ws last) s = .next (settled s (linkEvent (sendPeerFrag s src dst ws last))))
      ∧ (takes → dst = s.net.ctrlId →
          let more : PeerAsm := { src := src, port := p, words := old ++ ws, last := s.now }
          exec (.peer p dst src ws false) s = .next (settled s (linkEvent (put (rest ++ [more])))))
      ∧ (takes → dst = s.net.ctrlId → unreachable s src = false →
          exec (.peer p dst src ws true) s = .next (settled s (linkEvent (peerQueue (put rest) src (old ++ ws)))))
      ∧ (takes → dst = s.net.ctrlId → unreachable s src = true →
          exec (.peer p dst src ws true) s = .next (settled s (linkEvent (trouble (put rest) blkMbx kMbxPeerReject))))
      ∧ (lanternB s = false → exec (.peerAssemblyTimeout src) s = .next (settle s))
      ∧ (lanternB s = true → exec (.peerAssemblyTimeout src) s = .next (settled s (put (s.net.peerAsm.filter fun a =>
          !(a.src == src && decide (a.last.toNat + 1000000 ≤ s.now.toNat)))))))
  ∧
  (
    ∀ (s : State) (p : RingPort) (t1 t2 t3 t4 : Tick), Running s →
      let takes := mgmtUp s p = true ∧ lanternB s = true
      (¬ takes → exec (.sync p) s = .next (settle s) ∧ exec (.syncRsp p t1 t2 t3 t4) s = .next (settle s))
      ∧ (takes → exec (.sync p) s = .next (settled s (linkEvent (sendMgmt s p (.syncRsp s.now s.now)))))
      ∧ (takes →
          let a : Int := (t2.toNat : Int) - t1.toNat
          let b : Int := (t4.toNat : Int) - t3.toNat
          let u := count (putRing s p { ringPort s p with syncDelay := sat16 ((a + b) / 2), t1 := none }) 0x17C
          let follows := (neighbour u p).isSome = true ∧ followsOf u (isUp p) (posOf u (isUp p)).node = neighbour u p
          (¬ follows → exec (.syncRsp p t1 t2 t3 t4) s = .next (settled s (linkEvent u)))
          ∧ (follows → isUp p = false → s.boot.ready = false → s.net.stepped = false →
            exec (.syncRsp p t1 t2 t3 t4) s = .next (settled s (linkEvent { u with
              now := BitVec.ofInt 64 ((u.now.toNat : Int) - (a - b) / 2), net := { u.net with stepped := true } })))
          ∧ (follows → isUp p = false → (s.boot.ready = true ∨ s.net.stepped = true) →
            exec (.syncRsp p t1 t2 t3 t4) s = .next (settled s (linkEvent (syncTrim u ((a - b) / 2))))))
      ∧ (due s s.net.syncSent (max 16 s.net.syncPeriod.toNat) = false → exec .syncPeriod s = .next (settle s)))
  ∧
  (
    ∀ (s : State) (sl : SliceId) (i : BitVec 7) (b : PenBuf), Running s → penAt s sl i.toNat = some b →
      ((s.home.lostHomes.find? fun x => x.1 == b.dest) = none → exec (.lostHomeTimeout sl i) s = .next (settle s))
      ∧ ∀ c t, (s.home.lostHomes.find? fun x => x.1 == b.dest) = some (c, t) →
        (s.now.toNat < t.toNat + 600000000000 → exec (.lostHomeTimeout sl i) s = .next (settle s))
        ∧ (b.dirty = true → t.toNat + 600000000000 ≤ s.now.toNat → exec (.lostHomeTimeout sl i) s = .next (settled s
            (raiseErr (trouble (penFreed (putPen s sl i.toNat none) sl b) (blkSlc sl) kSlcLostWb) (blkSlc sl) 2))))
  ∧
  (
    ∀ s : State, Running s →
      (∀ (p : RingPort) (dst src : CtrlId) (words : List Word) (last : Bool), exec (.peer p dst src words last) s =
            .next (settled s (ifMgmt s p (peerFragment s p dst src words last))))
      ∧ (∀ src : CtrlId, exec (.peerAssemblyTimeout src) s = .next (settled s (byB s (peerLate s src))))
      ∧ exec .syncPeriod s = .next (settled s (byB s (syncPeriod s)))
      ∧ (∀ p : RingPort, exec (.sync p) s = .next (settled s (ifMgmt s p (syncArrive s p))))
      ∧ (∀ (p : RingPort) (t1 t2 t3 t4 : Tick), exec (.syncRsp p t1 t2 t3 t4) s =
            .next (settled s (ifMgmt s p (syncRsp s p t1 t2 t3 t4 s.boot.ready))))
      ∧ (∀ (sl : SliceId) (i : BitVec 7), exec (.lostHomeTimeout sl i) s = .next (settled s (lostHome s sl i.toNat))))
end

