-- ==== Sys2Proof/Laws/Table.lean ====
section
/-! SUPPORT. What the sparse tables and the byte memories of Machine/Table.lean do: reading after writing, and the canonical
    form, which every write keeps. -/

namespace Sys2Proof.Machine

section Tables
variable {α : Type}

@[simp] theorem tget_nil (d : α) (k : Nat) : tget d [] k = d := rfl

/-- Reading a listed index. -/
@[simp] theorem tget_tins_self (d : α) (k : Nat) (v : α) (t : Table α) : tget d (tins k v t) k = v := by
  induction t with
  | nil => simp [tins, tget]
  | cons e t ih =>
    obtain ⟨j, w⟩ := e
    simp only [tins]
    split
    · simp [tget]
    · split
      · simp [tget]
      · rename_i h1 h2
        simp [tget, Ne.symm h2, ih]

/-- Listing one index leaves the others. -/
theorem tget_tins_of_ne (d : α) {k j : Nat} (h : k ≠ j) (v : α) (t : Table α) : tget d (tins k v t) j = tget d t j := by
  induction t with
  | nil => simp [tins, tget, h]
  | cons e t ih =>
    obtain ⟨i, w⟩ := e
    simp only [tins]
    split
    · simp [tget, h]
    · split
      · rename_i h1 h2
        subst h2
        simp [tget, h]
      · simp [tget, ih]

@[simp] theorem tget_tdel_self (d : α) (k : Nat) (t : Table α) : tget d (tdel k t) k = d := by
  induction t with
  | nil => rfl
  | cons e t ih =>
    obtain ⟨i, w⟩ := e
    by_cases h : i = k
    · simpa [tdel, h] using ih
    · simpa [tdel, h, tget] using ih

theorem tget_tdel_of_ne (d : α) {k j : Nat} (h : k ≠ j) (t : Table α) : tget d (tdel k t) j = tget d t j := by
  induction t with
  | nil => rfl
  | cons e t ih =>
    obtain ⟨i, w⟩ := e
    by_cases hi : i = k
    · subst hi
      simpa [tdel, tget, h] using ih
    · have e1 : tdel k ((i, w) :: t) = (i, w) :: tdel k t := by simp [tdel, hi]
      rw [e1]
      simp [tget, ih]

variable [DecidableEq α]

/-- An entry reads as what was written. -/
@[simp] theorem tget_tset_self (d : α) (t : Table α) (k : Nat) (v : α) : tget d (tset d t k v) k = v := by
  unfold tset
  split
  · rename_i h
    simp [h]
  · simp

/-- Writing an entry leaves the others. -/
theorem tget_tset_of_ne (d : α) (t : Table α) {k j : Nat} (h : k ≠ j) (v : α) : tget d (tset d t k v) j = tget d t j := by
  unfold tset
  split
  · exact tget_tdel_of_ne d h t
  · exact tget_tins_of_ne d h v t

/-- Reading after writing. -/
theorem tget_tset (d : α) (t : Table α) (k j : Nat) (v : α) :
    tget d (tset d t k v) j = if k = j then v else tget d t j := by
  split
  · rename_i h
    simp [← h]
  · rename_i h
    exact tget_tset_of_ne d t h v

/-- A lower bound may be lowered. -/
theorem twfFrom_mono {d : α} {lo lo' : Nat} (h : lo' ≤ lo) {t : Table α} (ht : twfFrom d lo t = true) :
    twfFrom d lo' t = true := by
  cases t with
  | nil => rfl
  | cons e t =>
    obtain ⟨j, v⟩ := e
    simp only [twfFrom, Bool.and_eq_true, decide_eq_true_eq] at ht ⊢
    exact ⟨⟨h.trans ht.1.1, ht.1.2⟩, ht.2⟩

theorem twfFrom_tdel {d : α} {lo : Nat} {t : Table α} (k : Nat) (ht : twfFrom d lo t = true) : twfFrom d lo (tdel k t) = true := by
  induction t generalizing lo with
  | nil => rfl
  | cons e t ih =>
    obtain ⟨j, v⟩ := e
    simp only [twfFrom, Bool.and_eq_true, decide_eq_true_eq] at ht
    by_cases h : j = k
    · have := twfFrom_mono (Nat.le_succ_of_le ht.1.1) (ih ht.2)
      simpa [tdel, h] using this
    · have e1 : tdel k ((j, v) :: t) = (j, v) :: tdel k t := by simp [tdel, h]
      rw [e1]
      simp [twfFrom, ht.1.1, ht.1.2, ih ht.2]

theorem twfFrom_tins {d : α} {lo k : Nat} {v : α} {t : Table α} (hk : lo ≤ k) (hv : v ≠ d) (ht : twfFrom d lo t = true) :
    twfFrom d lo (tins k v t) = true := by
  induction t generalizing lo with
  | nil => simp [tins, twfFrom, hk, hv]
  | cons e t ih =>
    obtain ⟨j, w⟩ := e
    simp only [twfFrom, Bool.and_eq_true, decide_eq_true_eq] at ht
    simp only [tins]
    split
    · rename_i h
      simp [twfFrom, hk, hv, h, ht.1.2, ht.2]
    · split
      · rename_i h1 h2
        subst h2
        simp [twfFrom, hk, hv, ht.2]
      · rename_i h1 h2
        simp [twfFrom, ht.1.1, ht.1.2, ih (Nat.lt_of_le_of_ne (Nat.le_of_not_lt h1) (Ne.symm h2)) ht.2]

/-- Writing an entry keeps the canonical form. -/
theorem twf_tset {d : α} {t : Table α} (k : Nat) (v : α) (ht : twf d t = true) : twf d (tset d t k v) = true := by
  unfold tset twf
  split
  · exact twfFrom_tdel k ht
  · rename_i h
    exact twfFrom_tins (Nat.zero_le k) h ht

/-- Below its bound a canonical table lists nothing. -/
theorem tget_of_lt {d : α} {lo k : Nat} {t : Table α} (ht : twfFrom d lo t = true) (h : k < lo) : tget d t k = d := by
  induction t generalizing lo with
  | nil => rfl
  | cons e t ih =>
    obtain ⟨j, w⟩ := e
    simp only [twfFrom, Bool.and_eq_true, decide_eq_true_eq] at ht
    have : j ≠ k := by omega
    simp [tget, this, ih ht.2 (by omega)]

/-- Tables in canonical form that read alike are equal. -/
theorem twf_ext {d : α} {lo : Nat} {t u : Table α} (ht : twfFrom d lo t = true) (hu : twfFrom d lo u = true)
    (h : ∀ k, tget d t k = tget d u k) : t = u := by
  induction t generalizing lo u with
  | nil =>
    cases u with
    | nil => rfl
    | cons e u =>
      obtain ⟨j, w⟩ := e
      simp only [twfFrom, Bool.and_eq_true, decide_eq_true_eq] at hu
      have := h j
      simp only [tget, if_true] at this
      exact absurd this.symm hu.1.2
  | cons e t ih =>
    obtain ⟨j, w⟩ := e
    simp only [twfFrom, Bool.and_eq_true, decide_eq_true_eq] at ht
    cases u with
    | nil =>
      have := h j
      simp only [tget, if_true] at this
      exact absurd this ht.1.2
    | cons e u =>
      obtain ⟨i, x⟩ := e
      simp only [twfFrom, Bool.and_eq_true, decide_eq_true_eq] at hu
      have hij : j = i := by
        rcases Nat.lt_trichotomy j i with hlt | heq | hgt
        · have h1 := h j
          have h2 : tget d ((i, x) :: u) j = d := tget_of_lt (lo := i) (by simp [twfFrom, hu.1.2, hu.2]) hlt
          rw [h2] at h1
          simp only [tget, if_true] at h1
          exact absurd h1 ht.1.2
        · exact heq
        · have h1 := h i
          have h2 : tget d ((j, w) :: t) i = d := tget_of_lt (lo := j) (by simp [twfFrom, ht.1.2, ht.2]) hgt
          rw [h2] at h1
          simp only [tget, if_true] at h1
          exact absurd h1.symm hu.1.2
      subst hij
      have hw : w = x := by simpa [tget] using h j
      subst hw
      have : t = u := ih ht.2 hu.2 fun k => by
        by_cases hk : j = k
        · subst hk
          rw [tget_of_lt ht.2 (Nat.lt_succ_self j), tget_of_lt hu.2 (Nat.lt_succ_self j)]
        · simpa [tget, hk] using h k
      rw [this]

end Tables

/-! Memories. -/

/-- A byte reads as what was written. -/
@[simp] theorem mread1_mwrite1 (m : List Host.Cell) (a : Nat) (b : Byte) : mread1 (mwrite1 m a b) a = b := tget_tset_self ..
/-- A byte written leaves the other bytes. -/
theorem mread1_mwrite1_of_ne (m : List Host.Cell) {a k : Nat} (h : a ≠ k) (b : Byte) :
    mread1 (mwrite1 m a b) k = mread1 m k := tget_tset_of_ne _ _ h _
/-- A byte written keeps the canonical form. -/
theorem wf_mwrite1 {m : List Host.Cell} (a : Nat) (b : Byte) (h : Memory.wf m = true) : Memory.wf (mwrite1 m a b) = true :=
  twf_tset a b h

theorem tget_mcells (bs : List Byte) (a k : Nat) :
    tget unwrittenByte (mcells a bs) k = if a ≤ k then bs.getD (k - a) unwrittenByte else unwrittenByte := by
  induction bs generalizing a with
  | nil => simp [mcells]
  | cons b bs ih =>
    have key : tget unwrittenByte (mcells a (b :: bs)) k
        = if a = k then b else tget unwrittenByte (mcells (a + 1) bs) k := by
      simp only [mcells]
      split
      · rename_i hb
        subst hb
        split
        · rename_i hk
          rw [ih]
          simp [hk]
        · rfl
      · simp [tget]
    rw [key, ih]
    rcases Nat.lt_trichotomy a k with h | h | h
    · have h1 : a ≠ k := by omega
      obtain ⟨n, hn⟩ : ∃ n, k - a = n + 1 := ⟨k - a - 1, by omega⟩
      have h2 : k - (a + 1) = n := by omega
      have h3 : a + 1 ≤ k := h
      have h4 : a ≤ k := by omega
      simp [h1, h3, h4, hn, h2]
    · subst h
      simp
    · have h1 : a ≠ k := by omega
      have h3 : ¬ a + 1 ≤ k := by omega
      have h4 : ¬ a ≤ k := by omega
      simp [h1, h3, h4]

theorem tget_append {α : Type} (d : α) (t u : Table α) (k : Nat) (h : ∀ e ∈ u, e.1 ≠ k) : tget d (t ++ u) k = tget d t k := by
  induction t with
  | nil =>
    induction u with
    | nil => rfl
    | cons e u ih =>
      obtain ⟨j, w⟩ := e
      have h1 : j ≠ k := h (j, w) (by simp)
      have := ih fun e he => h e (by simp [he])
      simpa [tget, h1] using this
  | cons e t ih =>
    obtain ⟨j, w⟩ := e
    simp only [List.cons_append, tget]
    split <;> simp [ih]

theorem tget_append_right {α : Type} (d : α) (t u : Table α) (k : Nat) (h : ∀ e ∈ t, e.1 ≠ k) : tget d (t ++ u) k = tget d u k := by
  induction t with
  | nil => rfl
  | cons e t ih =>
    obtain ⟨j, w⟩ := e
    have h1 : j ≠ k := h (j, w) (by simp)
    simpa [tget, h1] using ih fun e he => h e (by simp [he])

theorem tget_filter {α : Type} (d : α) (p : Nat → Bool) (t : Table α) (k : Nat) :
    tget d (t.filter fun e => p e.1) k = if p k then tget d t k else d := by
  induction t with
  | nil => simp
  | cons e t ih =>
    obtain ⟨j, w⟩ := e
    by_cases hj : j = k
    · subst hj
      by_cases hp : p j
      · simp [hp, tget]
      · simp [hp, ih]
    · by_cases hp : p j
      · simp [hp, tget, hj, ih]
      · simp [hp, tget, hj, ih]

theorem mcells_range {bs : List Byte} {a : Nat} {e : Host.Cell} (h : e ∈ mcells a bs) : a ≤ e.1 ∧ e.1 < a + bs.length := by
  induction bs generalizing a with
  | nil => simp [mcells] at h
  | cons b bs ih =>
    simp only [mcells] at h
    split at h
    · have := ih h
      simp
      omega
    · simp only [List.mem_cons] at h
      rcases h with rfl | h
      · simp
      · have := ih h
        simp
        omega

/-- A byte after a write of several: what was written there, or what it was. -/
theorem mread1_mwrite (m : List Host.Cell) (a : Nat) (bs : List Byte) (k : Nat) :
    mread1 (mwrite m a bs) k = if a ≤ k ∧ k < a + bs.length then bs.getD (k - a) unwrittenByte else mread1 m k := by
  unfold mread1 mwrite
  by_cases h1 : k < a
  · have h2 : ¬ (a ≤ k ∧ k < a + bs.length) := by omega
    rw [if_neg h2, tget_append, tget_append, tget_filter unwrittenByte (fun j => decide (j < a))]
    · simp [h1]
    · intro e he
      have := mcells_range he
      omega
    · intro e he
      simp only [List.mem_filter, decide_eq_true_eq] at he
      omega
  · by_cases h3 : k < a + bs.length
    · have h2 : a ≤ k ∧ k < a + bs.length := by omega
      rw [if_pos h2, tget_append, tget_append_right, tget_mcells]
      · simp [h2.1]
      · intro e he
        simp only [List.mem_filter, decide_eq_true_eq] at he
        omega
      · intro e he
        simp only [List.mem_filter, decide_eq_true_eq] at he
        omega
    · have h2 : ¬ (a ≤ k ∧ k < a + bs.length) := by omega
      rw [if_neg h2, tget_append_right, tget_filter unwrittenByte (fun j => decide (a + bs.length ≤ j))]
      · have : a + bs.length ≤ k := by omega
        simp [this]
      · intro e he
        simp only [List.mem_append, List.mem_filter, decide_eq_true_eq] at he
        rcases he with he | he
        · omega
        · have := mcells_range he
          omega

theorem twfFrom_mcells (bs : List Byte) (a : Nat) : twfFrom unwrittenByte a (mcells a bs) = true := by
  induction bs generalizing a with
  | nil => rfl
  | cons b bs ih =>
    simp only [mcells]
    split
    · exact twfFrom_mono (Nat.le_succ a) (ih (a + 1))
    · rename_i h
      simp [twfFrom, h, ih]

theorem twfFrom_filter {α : Type} [DecidableEq α] {d : α} {lo : Nat} {t : Table α} (p : Nat × α → Bool) (ht : twfFrom d lo t = true) :
    twfFrom d lo (t.filter p) = true := by
  induction t generalizing lo with
  | nil => rfl
  | cons e t ih =>
    obtain ⟨j, v⟩ := e
    simp only [twfFrom, Bool.and_eq_true, decide_eq_true_eq] at ht
    by_cases h : p (j, v)
    · simp [h, twfFrom, ht.1.1, ht.1.2, ih ht.2]
    · have := twfFrom_mono (Nat.le_succ_of_le ht.1.1) (ih ht.2)
      simpa [h] using this

theorem twfFrom_append {α : Type} [DecidableEq α] {d : α} {lo mid : Nat} {t u : Table α} (ht : twfFrom d lo t = true)
    (hu : twfFrom d mid u = true) (h : ∀ e ∈ t, e.1 < mid) (hm : lo ≤ mid) : twfFrom d lo (t ++ u) = true := by
  induction t generalizing lo with
  | nil => exact twfFrom_mono hm hu
  | cons e t ih =>
    obtain ⟨j, v⟩ := e
    simp only [twfFrom, Bool.and_eq_true, decide_eq_true_eq] at ht
    have hj : j < mid := h (j, v) (by simp)
    simp [twfFrom, ht.1.1, ht.1.2, ih ht.2 (fun e he => h e (by simp [he])) hj]

theorem twfFrom_from {α : Type} [DecidableEq α] {d : α} {lo mid : Nat} {t : Table α} (ht : twfFrom d lo t = true)
    (h : ∀ e ∈ t, mid ≤ e.1) : twfFrom d mid t = true := by
  cases t with
  | nil => rfl
  | cons e t =>
    obtain ⟨j, v⟩ := e
    simp only [twfFrom, Bool.and_eq_true, decide_eq_true_eq] at ht ⊢
    exact ⟨⟨h (j, v) (by simp), ht.1.2⟩, ht.2⟩

/-- Bytes written keep the canonical form. -/
theorem wf_mwrite {m : List Host.Cell} (a : Nat) (bs : List Byte) (h : Memory.wf m = true) : Memory.wf (mwrite m a bs) = true := by
  unfold Memory.wf twf at h ⊢
  unfold mwrite
  have h1 : twfFrom unwrittenByte a (mcells a bs) = true := twfFrom_mcells bs a
  have h2 := twfFrom_filter (fun e : Host.Cell => decide (e.1 < a)) h
  have h3 := twfFrom_filter (fun e : Host.Cell => decide (a + bs.length ≤ e.1)) h
  have h4 := twfFrom_from (mid := a + bs.length) h3 fun e he => by
    simp only [List.mem_filter, decide_eq_true_eq] at he
    exact he.2
  have h12 := twfFrom_append h2 h1 (fun e he => by
    simp only [List.mem_filter, decide_eq_true_eq] at he
    exact he.2) (Nat.zero_le a)
  refine twfFrom_append h12 h4 (fun e he => ?_) (Nat.zero_le _)
  simp only [List.mem_append, List.mem_filter, decide_eq_true_eq] at he
  rcases he with he | he
  · omega
  · exact (mcells_range he).2

@[simp] theorem length_mread (m : List Host.Cell) (a n : Nat) : (mread m a n).length = n := by
  induction n generalizing a with
  | zero => rfl
  | succ n ih => simp [mread, ih]

theorem getD_mread (m : List Host.Cell) (a n i : Nat) (h : i < n) : (mread m a n).getD i unwrittenByte = mread1 m (a + i) := by
  induction n generalizing a i with
  | zero => omega
  | succ n ih =>
    cases i with
    | zero => simp [mread]
    | succ i =>
      have := ih (a + 1) i (by omega)
      simp only [mread, List.getD_cons_succ, this]
      congr 1
      omega

/-- Bytes read where they were written are the bytes written. -/
theorem mread_mwrite (m : List Host.Cell) (a : Nat) (bs : List Byte) : mread (mwrite m a bs) a bs.length = bs := by
  apply List.ext_getElem (by simp)
  intro i h1 h2
  have := getD_mread (mwrite m a bs) a bs.length i h2
  rw [mread1_mwrite] at this
  simp only [List.getD_eq_getElem?_getD] at this
  have h3 : a ≤ a + i ∧ a + i < a + bs.length := by omega
  rw [if_pos h3, Nat.add_sub_cancel_left] at this
  simpa [List.getElem?_eq_getElem h1, List.getElem?_eq_getElem h2] using this

end Sys2Proof.Machine
end

