-- ==== Sys2Proof/Laws/State.lean ====
section
/-! SUPPORT. What each update of the state leaves unchanged, what it makes readable, and what the raising of flags, the log and
    the answer of a meaning can change. -/

namespace Sys2Proof.Machine

/-! What an update leaves unchanged, field by field. -/

@[simp] theorem putPort_pending (s : State) (p : PortId) (x : PortSt) : (putPort s p x).pending = s.pending := rfl
@[simp] theorem putPort_now (s : State) (p : PortId) (x : PortSt) : (putPort s p x).now = s.now := rfl
@[simp] theorem putPort_serial (s : State) (p : PortId) (x : PortSt) : (putPort s p x).serial = s.serial := rfl
@[simp] theorem putPort_free (s : State) (p : PortId) (x : PortSt) : (putPort s p x).free = s.free := rfl
@[simp] theorem putPort_cache (s : State) (p : PortId) (x : PortSt) : (putPort s p x).cache = s.cache := rfl
@[simp] theorem putPort_home (s : State) (p : PortId) (x : PortSt) : (putPort s p x).home = s.home := rfl
@[simp] theorem putPort_net (s : State) (p : PortId) (x : PortSt) : (putPort s p x).net = s.net := rfl
@[simp] theorem putPort_parts (s : State) (p : PortId) (x : PortSt) : (putPort s p x).parts = s.parts := rfl
@[simp] theorem putPort_ctrs (s : State) (p : PortId) (x : PortSt) : (putPort s p x).ctrs = s.ctrs := rfl
@[simp] theorem putPort_mem (s : State) (p : PortId) (x : PortSt) : (putPort s p x).mem = s.mem := rfl
@[simp] theorem putPort_tmo (s : State) (p : PortId) (x : PortSt) : (putPort s p x).tmo = s.tmo := rfl
@[simp] theorem putPort_refl (s : State) (p : PortId) (x : PortSt) : (putPort s p x).refl = s.refl := rfl
@[simp] theorem putPort_out (s : State) (p : PortId) (x : PortSt) : (putPort s p x).out = s.out := rfl
@[simp] theorem putPort_ctrlOut (s : State) (p : PortId) (x : PortSt) : (putPort s p x).ctrlOut = s.ctrlOut := rfl
@[simp] theorem putPort_reports (s : State) (p : PortId) (x : PortSt) : (putPort s p x).reports = s.reports := rfl
@[simp] theorem putPort_unwired (s : State) (p : PortId) (x : PortSt) : (putPort s p x).unwired = s.unwired := rfl
@[simp] theorem putPort_snpReady (s : State) (p : PortId) (x : PortSt) : (putPort s p x).snpReady = s.snpReady := rfl
@[simp] theorem putPort_ddrWrr (s : State) (p : PortId) (x : PortSt) : (putPort s p x).ddrWrr = s.ddrWrr := rfl
@[simp] theorem putPort_capacity (s : State) (p : PortId) (x : PortSt) : (putPort s p x).capacity = s.capacity := rfl
@[simp] theorem putPort_slow (s : State) (p : PortId) (x : PortSt) : (putPort s p x).slow = s.slow := rfl
@[simp] theorem putPort_ddrFour (s : State) (p : PortId) (x : PortSt) : (putPort s p x).ddrFour = s.ddrFour := rfl
@[simp] theorem putPort_ddrHigh (s : State) (p : PortId) (x : PortSt) : (putPort s p x).ddrHigh = s.ddrHigh := rfl
@[simp] theorem putPort_ddrRet (s : State) (p : PortId) (x : PortSt) : (putPort s p x).ddrRet = s.ddrRet := rfl
@[simp] theorem putPort_ddrq (s : State) (p : PortId) (x : PortSt) : (putPort s p x).ddrq = s.ddrq := rfl
@[simp] theorem putPort_chans (s : State) (p : PortId) (x : PortSt) : (putPort s p x).chans = s.chans := rfl
@[simp] theorem putPort_hbms (s : State) (p : PortId) (x : PortSt) : (putPort s p x).hbms = s.hbms := rfl
@[simp] theorem putPort_lan (s : State) (p : PortId) (x : PortSt) : (putPort s p x).lan = s.lan := rfl
@[simp] theorem putPort_beams (s : State) (p : PortId) (x : PortSt) : (putPort s p x).beams = s.beams := rfl
@[simp] theorem putPort_engines (s : State) (p : PortId) (x : PortSt) : (putPort s p x).engines = s.engines := rfl
@[simp] theorem putPort_engMem (s : State) (p : PortId) (x : PortSt) : (putPort s p x).engMem = s.engMem := rfl
@[simp] theorem putPort_tim (s : State) (p : PortId) (x : PortSt) : (putPort s p x).tim = s.tim := rfl
@[simp] theorem putPort_regs (s : State) (p : PortId) (x : PortSt) : (putPort s p x).regs = s.regs := rfl
@[simp] theorem putPort_pwr (s : State) (p : PortId) (x : PortSt) : (putPort s p x).pwr = s.pwr := rfl
@[simp] theorem putPort_boot (s : State) (p : PortId) (x : PortSt) : (putPort s p x).boot = s.boot := rfl
@[simp] theorem putPort_move (s : State) (p : PortId) (x : PortSt) : (putPort s p x).move = s.move := rfl
@[simp] theorem putPart_pending (s : State) (p : PartId) (x : PartSt) : (putPart s p x).pending = s.pending := rfl
@[simp] theorem putPart_now (s : State) (p : PartId) (x : PartSt) : (putPart s p x).now = s.now := rfl
@[simp] theorem putPart_serial (s : State) (p : PartId) (x : PartSt) : (putPart s p x).serial = s.serial := rfl
@[simp] theorem putPart_free (s : State) (p : PartId) (x : PartSt) : (putPart s p x).free = s.free := rfl
@[simp] theorem putPart_cache (s : State) (p : PartId) (x : PartSt) : (putPart s p x).cache = s.cache := rfl
@[simp] theorem putPart_home (s : State) (p : PartId) (x : PartSt) : (putPart s p x).home = s.home := rfl
@[simp] theorem putPart_net (s : State) (p : PartId) (x : PartSt) : (putPart s p x).net = s.net := rfl
@[simp] theorem putPart_ports (s : State) (p : PartId) (x : PartSt) : (putPart s p x).ports = s.ports := rfl
@[simp] theorem putPart_ctrs (s : State) (p : PartId) (x : PartSt) : (putPart s p x).ctrs = s.ctrs := rfl
@[simp] theorem putPart_mem (s : State) (p : PartId) (x : PartSt) : (putPart s p x).mem = s.mem := rfl
@[simp] theorem putPart_tmo (s : State) (p : PartId) (x : PartSt) : (putPart s p x).tmo = s.tmo := rfl
@[simp] theorem putPart_refl (s : State) (p : PartId) (x : PartSt) : (putPart s p x).refl = s.refl := rfl
@[simp] theorem putPart_out (s : State) (p : PartId) (x : PartSt) : (putPart s p x).out = s.out := rfl
@[simp] theorem putPart_ctrlOut (s : State) (p : PartId) (x : PartSt) : (putPart s p x).ctrlOut = s.ctrlOut := rfl
@[simp] theorem putPart_reports (s : State) (p : PartId) (x : PartSt) : (putPart s p x).reports = s.reports := rfl
@[simp] theorem putPart_unwired (s : State) (p : PartId) (x : PartSt) : (putPart s p x).unwired = s.unwired := rfl
@[simp] theorem putPart_snpReady (s : State) (p : PartId) (x : PartSt) : (putPart s p x).snpReady = s.snpReady := rfl
@[simp] theorem putPart_ddrWrr (s : State) (p : PartId) (x : PartSt) : (putPart s p x).ddrWrr = s.ddrWrr := rfl
@[simp] theorem putPart_capacity (s : State) (p : PartId) (x : PartSt) : (putPart s p x).capacity = s.capacity := rfl
@[simp] theorem putPart_slow (s : State) (p : PartId) (x : PartSt) : (putPart s p x).slow = s.slow := rfl
@[simp] theorem putPart_ddrFour (s : State) (p : PartId) (x : PartSt) : (putPart s p x).ddrFour = s.ddrFour := rfl
@[simp] theorem putPart_ddrHigh (s : State) (p : PartId) (x : PartSt) : (putPart s p x).ddrHigh = s.ddrHigh := rfl
@[simp] theorem putPart_ddrRet (s : State) (p : PartId) (x : PartSt) : (putPart s p x).ddrRet = s.ddrRet := rfl
@[simp] theorem putPart_ddrq (s : State) (p : PartId) (x : PartSt) : (putPart s p x).ddrq = s.ddrq := rfl
@[simp] theorem putPart_chans (s : State) (p : PartId) (x : PartSt) : (putPart s p x).chans = s.chans := rfl
@[simp] theorem putPart_hbms (s : State) (p : PartId) (x : PartSt) : (putPart s p x).hbms = s.hbms := rfl
@[simp] theorem putPart_lan (s : State) (p : PartId) (x : PartSt) : (putPart s p x).lan = s.lan := rfl
@[simp] theorem putPart_beams (s : State) (p : PartId) (x : PartSt) : (putPart s p x).beams = s.beams := rfl
@[simp] theorem putPart_engines (s : State) (p : PartId) (x : PartSt) : (putPart s p x).engines = s.engines := rfl
@[simp] theorem putPart_engMem (s : State) (p : PartId) (x : PartSt) : (putPart s p x).engMem = s.engMem := rfl
@[simp] theorem putPart_tim (s : State) (p : PartId) (x : PartSt) : (putPart s p x).tim = s.tim := rfl
@[simp] theorem putPart_regs (s : State) (p : PartId) (x : PartSt) : (putPart s p x).regs = s.regs := rfl
@[simp] theorem putPart_pwr (s : State) (p : PartId) (x : PartSt) : (putPart s p x).pwr = s.pwr := rfl
@[simp] theorem putPart_boot (s : State) (p : PartId) (x : PartSt) : (putPart s p x).boot = s.boot := rfl
@[simp] theorem putPart_move (s : State) (p : PartId) (x : PartSt) : (putPart s p x).move = s.move := rfl
@[simp] theorem putSlice_pending (s : State) (sl : SliceId) (x : SliceSt) : (putSlice s sl x).pending = s.pending := rfl
@[simp] theorem putSlice_now (s : State) (sl : SliceId) (x : SliceSt) : (putSlice s sl x).now = s.now := rfl
@[simp] theorem putSlice_serial (s : State) (sl : SliceId) (x : SliceSt) : (putSlice s sl x).serial = s.serial := rfl
@[simp] theorem putSlice_free (s : State) (sl : SliceId) (x : SliceSt) : (putSlice s sl x).free = s.free := rfl
@[simp] theorem putSlice_home (s : State) (sl : SliceId) (x : SliceSt) : (putSlice s sl x).home = s.home := rfl
@[simp] theorem putSlice_net (s : State) (sl : SliceId) (x : SliceSt) : (putSlice s sl x).net = s.net := rfl
@[simp] theorem putSlice_ports (s : State) (sl : SliceId) (x : SliceSt) : (putSlice s sl x).ports = s.ports := rfl
@[simp] theorem putSlice_parts (s : State) (sl : SliceId) (x : SliceSt) : (putSlice s sl x).parts = s.parts := rfl
@[simp] theorem putSlice_ctrs (s : State) (sl : SliceId) (x : SliceSt) : (putSlice s sl x).ctrs = s.ctrs := rfl
@[simp] theorem putSlice_mem (s : State) (sl : SliceId) (x : SliceSt) : (putSlice s sl x).mem = s.mem := rfl
@[simp] theorem putSlice_tmo (s : State) (sl : SliceId) (x : SliceSt) : (putSlice s sl x).tmo = s.tmo := rfl
@[simp] theorem putSlice_refl (s : State) (sl : SliceId) (x : SliceSt) : (putSlice s sl x).refl = s.refl := rfl
@[simp] theorem putSlice_out (s : State) (sl : SliceId) (x : SliceSt) : (putSlice s sl x).out = s.out := rfl
@[simp] theorem putSlice_ctrlOut (s : State) (sl : SliceId) (x : SliceSt) : (putSlice s sl x).ctrlOut = s.ctrlOut := rfl
@[simp] theorem putSlice_reports (s : State) (sl : SliceId) (x : SliceSt) : (putSlice s sl x).reports = s.reports := rfl
@[simp] theorem putSlice_unwired (s : State) (sl : SliceId) (x : SliceSt) : (putSlice s sl x).unwired = s.unwired := rfl
@[simp] theorem putSlice_snpReady (s : State) (sl : SliceId) (x : SliceSt) : (putSlice s sl x).snpReady = s.snpReady := rfl
@[simp] theorem putSlice_ddrWrr (s : State) (sl : SliceId) (x : SliceSt) : (putSlice s sl x).ddrWrr = s.ddrWrr := rfl
@[simp] theorem putSlice_capacity (s : State) (sl : SliceId) (x : SliceSt) : (putSlice s sl x).capacity = s.capacity := rfl
@[simp] theorem putSlice_slow (s : State) (sl : SliceId) (x : SliceSt) : (putSlice s sl x).slow = s.slow := rfl
@[simp] theorem putSlice_ddrFour (s : State) (sl : SliceId) (x : SliceSt) : (putSlice s sl x).ddrFour = s.ddrFour := rfl
@[simp] theorem putSlice_ddrHigh (s : State) (sl : SliceId) (x : SliceSt) : (putSlice s sl x).ddrHigh = s.ddrHigh := rfl
@[simp] theorem putSlice_ddrRet (s : State) (sl : SliceId) (x : SliceSt) : (putSlice s sl x).ddrRet = s.ddrRet := rfl
@[simp] theorem putSlice_ddrq (s : State) (sl : SliceId) (x : SliceSt) : (putSlice s sl x).ddrq = s.ddrq := rfl
@[simp] theorem putSlice_chans (s : State) (sl : SliceId) (x : SliceSt) : (putSlice s sl x).chans = s.chans := rfl
@[simp] theorem putSlice_hbms (s : State) (sl : SliceId) (x : SliceSt) : (putSlice s sl x).hbms = s.hbms := rfl
@[simp] theorem putSlice_lan (s : State) (sl : SliceId) (x : SliceSt) : (putSlice s sl x).lan = s.lan := rfl
@[simp] theorem putSlice_beams (s : State) (sl : SliceId) (x : SliceSt) : (putSlice s sl x).beams = s.beams := rfl
@[simp] theorem putSlice_engines (s : State) (sl : SliceId) (x : SliceSt) : (putSlice s sl x).engines = s.engines := rfl
@[simp] theorem putSlice_engMem (s : State) (sl : SliceId) (x : SliceSt) : (putSlice s sl x).engMem = s.engMem := rfl
@[simp] theorem putSlice_tim (s : State) (sl : SliceId) (x : SliceSt) : (putSlice s sl x).tim = s.tim := rfl
@[simp] theorem putSlice_regs (s : State) (sl : SliceId) (x : SliceSt) : (putSlice s sl x).regs = s.regs := rfl
@[simp] theorem putSlice_pwr (s : State) (sl : SliceId) (x : SliceSt) : (putSlice s sl x).pwr = s.pwr := rfl
@[simp] theorem putSlice_boot (s : State) (sl : SliceId) (x : SliceSt) : (putSlice s sl x).boot = s.boot := rfl
@[simp] theorem putSlice_move (s : State) (sl : SliceId) (x : SliceSt) : (putSlice s sl x).move = s.move := rfl
@[simp] theorem putTag_pending (s : State) (sl : SliceId) (set : BitVec 14) (w : Nat) (e : TagEntry) : (putTag s sl set w e).pending = s.pending := rfl
@[simp] theorem putTag_now (s : State) (sl : SliceId) (set : BitVec 14) (w : Nat) (e : TagEntry) : (putTag s sl set w e).now = s.now := rfl
@[simp] theorem putTag_serial (s : State) (sl : SliceId) (set : BitVec 14) (w : Nat) (e : TagEntry) : (putTag s sl set w e).serial = s.serial := rfl
@[simp] theorem putTag_free (s : State) (sl : SliceId) (set : BitVec 14) (w : Nat) (e : TagEntry) : (putTag s sl set w e).free = s.free := rfl
@[simp] theorem putTag_home (s : State) (sl : SliceId) (set : BitVec 14) (w : Nat) (e : TagEntry) : (putTag s sl set w e).home = s.home := rfl
@[simp] theorem putTag_net (s : State) (sl : SliceId) (set : BitVec 14) (w : Nat) (e : TagEntry) : (putTag s sl set w e).net = s.net := rfl
@[simp] theorem putTag_ports (s : State) (sl : SliceId) (set : BitVec 14) (w : Nat) (e : TagEntry) : (putTag s sl set w e).ports = s.ports := rfl
@[simp] theorem putTag_parts (s : State) (sl : SliceId) (set : BitVec 14) (w : Nat) (e : TagEntry) : (putTag s sl set w e).parts = s.parts := rfl
@[simp] theorem putTag_ctrs (s : State) (sl : SliceId) (set : BitVec 14) (w : Nat) (e : TagEntry) : (putTag s sl set w e).ctrs = s.ctrs := rfl
@[simp] theorem putTag_mem (s : State) (sl : SliceId) (set : BitVec 14) (w : Nat) (e : TagEntry) : (putTag s sl set w e).mem = s.mem := rfl
@[simp] theorem putTag_tmo (s : State) (sl : SliceId) (set : BitVec 14) (w : Nat) (e : TagEntry) : (putTag s sl set w e).tmo = s.tmo := rfl
@[simp] theorem putTag_refl (s : State) (sl : SliceId) (set : BitVec 14) (w : Nat) (e : TagEntry) : (putTag s sl set w e).refl = s.refl := rfl
@[simp] theorem putTag_out (s : State) (sl : SliceId) (set : BitVec 14) (w : Nat) (e : TagEntry) : (putTag s sl set w e).out = s.out := rfl
@[simp] theorem putTag_ctrlOut (s : State) (sl : SliceId) (set : BitVec 14) (w : Nat) (e : TagEntry) : (putTag s sl set w e).ctrlOut = s.ctrlOut := rfl
@[simp] theorem putTag_reports (s : State) (sl : SliceId) (set : BitVec 14) (w : Nat) (e : TagEntry) : (putTag s sl set w e).reports = s.reports := rfl
@[simp] theorem putTag_unwired (s : State) (sl : SliceId) (set : BitVec 14) (w : Nat) (e : TagEntry) : (putTag s sl set w e).unwired = s.unwired := rfl
@[simp] theorem putTag_snpReady (s : State) (sl : SliceId) (set : BitVec 14) (w : Nat) (e : TagEntry) : (putTag s sl set w e).snpReady = s.snpReady := rfl
@[simp] theorem putTag_ddrWrr (s : State) (sl : SliceId) (set : BitVec 14) (w : Nat) (e : TagEntry) : (putTag s sl set w e).ddrWrr = s.ddrWrr := rfl
@[simp] theorem putTag_capacity (s : State) (sl : SliceId) (set : BitVec 14) (w : Nat) (e : TagEntry) : (putTag s sl set w e).capacity = s.capacity := rfl
@[simp] theorem putTag_slow (s : State) (sl : SliceId) (set : BitVec 14) (w : Nat) (e : TagEntry) : (putTag s sl set w e).slow = s.slow := rfl
@[simp] theorem putTag_ddrFour (s : State) (sl : SliceId) (set : BitVec 14) (w : Nat) (e : TagEntry) : (putTag s sl set w e).ddrFour = s.ddrFour := rfl
@[simp] theorem putTag_ddrHigh (s : State) (sl : SliceId) (set : BitVec 14) (w : Nat) (e : TagEntry) : (putTag s sl set w e).ddrHigh = s.ddrHigh := rfl
@[simp] theorem putTag_ddrRet (s : State) (sl : SliceId) (set : BitVec 14) (w : Nat) (e : TagEntry) : (putTag s sl set w e).ddrRet = s.ddrRet := rfl
@[simp] theorem putTag_ddrq (s : State) (sl : SliceId) (set : BitVec 14) (w : Nat) (e : TagEntry) : (putTag s sl set w e).ddrq = s.ddrq := rfl
@[simp] theorem putTag_chans (s : State) (sl : SliceId) (set : BitVec 14) (w : Nat) (e : TagEntry) : (putTag s sl set w e).chans = s.chans := rfl
@[simp] theorem putTag_hbms (s : State) (sl : SliceId) (set : BitVec 14) (w : Nat) (e : TagEntry) : (putTag s sl set w e).hbms = s.hbms := rfl
@[simp] theorem putTag_lan (s : State) (sl : SliceId) (set : BitVec 14) (w : Nat) (e : TagEntry) : (putTag s sl set w e).lan = s.lan := rfl
@[simp] theorem putTag_beams (s : State) (sl : SliceId) (set : BitVec 14) (w : Nat) (e : TagEntry) : (putTag s sl set w e).beams = s.beams := rfl
@[simp] theorem putTag_engines (s : State) (sl : SliceId) (set : BitVec 14) (w : Nat) (e : TagEntry) : (putTag s sl set w e).engines = s.engines := rfl
@[simp] theorem putTag_engMem (s : State) (sl : SliceId) (set : BitVec 14) (w : Nat) (e : TagEntry) : (putTag s sl set w e).engMem = s.engMem := rfl
@[simp] theorem putTag_tim (s : State) (sl : SliceId) (set : BitVec 14) (w : Nat) (e : TagEntry) : (putTag s sl set w e).tim = s.tim := rfl
@[simp] theorem putTag_regs (s : State) (sl : SliceId) (set : BitVec 14) (w : Nat) (e : TagEntry) : (putTag s sl set w e).regs = s.regs := rfl
@[simp] theorem putTag_pwr (s : State) (sl : SliceId) (set : BitVec 14) (w : Nat) (e : TagEntry) : (putTag s sl set w e).pwr = s.pwr := rfl
@[simp] theorem putTag_boot (s : State) (sl : SliceId) (set : BitVec 14) (w : Nat) (e : TagEntry) : (putTag s sl set w e).boot = s.boot := rfl
@[simp] theorem putTag_move (s : State) (sl : SliceId) (set : BitVec 14) (w : Nat) (e : TagEntry) : (putTag s sl set w e).move = s.move := rfl
@[simp] theorem putShadow_pending (s : State) (sl : SliceId) (set : BitVec 14) (w : Nat) (e : ShadowEntry) : (putShadow s sl set w e).pending = s.pending := rfl
@[simp] theorem putShadow_now (s : State) (sl : SliceId) (set : BitVec 14) (w : Nat) (e : ShadowEntry) : (putShadow s sl set w e).now = s.now := rfl
@[simp] theorem putShadow_serial (s : State) (sl : SliceId) (set : BitVec 14) (w : Nat) (e : ShadowEntry) : (putShadow s sl set w e).serial = s.serial := rfl
@[simp] theorem putShadow_free (s : State) (sl : SliceId) (set : BitVec 14) (w : Nat) (e : ShadowEntry) : (putShadow s sl set w e).free = s.free := rfl
@[simp] theorem putShadow_home (s : State) (sl : SliceId) (set : BitVec 14) (w : Nat) (e : ShadowEntry) : (putShadow s sl set w e).home = s.home := rfl
@[simp] theorem putShadow_net (s : State) (sl : SliceId) (set : BitVec 14) (w : Nat) (e : ShadowEntry) : (putShadow s sl set w e).net = s.net := rfl
@[simp] theorem putShadow_ports (s : State) (sl : SliceId) (set : BitVec 14) (w : Nat) (e : ShadowEntry) : (putShadow s sl set w e).ports = s.ports := rfl
@[simp] theorem putShadow_parts (s : State) (sl : SliceId) (set : BitVec 14) (w : Nat) (e : ShadowEntry) : (putShadow s sl set w e).parts = s.parts := rfl
@[simp] theorem putShadow_ctrs (s : State) (sl : SliceId) (set : BitVec 14) (w : Nat) (e : ShadowEntry) : (putShadow s sl set w e).ctrs = s.ctrs := rfl
@[simp] theorem putShadow_mem (s : State) (sl : SliceId) (set : BitVec 14) (w : Nat) (e : ShadowEntry) : (putShadow s sl set w e).mem = s.mem := rfl
@[simp] theorem putShadow_tmo (s : State) (sl : SliceId) (set : BitVec 14) (w : Nat) (e : ShadowEntry) : (putShadow s sl set w e).tmo = s.tmo := rfl
@[simp] theorem putShadow_refl (s : State) (sl : SliceId) (set : BitVec 14) (w : Nat) (e : ShadowEntry) : (putShadow s sl set w e).refl = s.refl := rfl
@[simp] theorem putShadow_out (s : State) (sl : SliceId) (set : BitVec 14) (w : Nat) (e : ShadowEntry) : (putShadow s sl set w e).out = s.out := rfl
@[simp] theorem putShadow_ctrlOut (s : State) (sl : SliceId) (set : BitVec 14) (w : Nat) (e : ShadowEntry) : (putShadow s sl set w e).ctrlOut = s.ctrlOut := rfl
@[simp] theorem putShadow_reports (s : State) (sl : SliceId) (set : BitVec 14) (w : Nat) (e : ShadowEntry) : (putShadow s sl set w e).reports = s.reports := rfl
@[simp] theorem putShadow_unwired (s : State) (sl : SliceId) (set : BitVec 14) (w : Nat) (e : ShadowEntry) : (putShadow s sl set w e).unwired = s.unwired := rfl
@[simp] theorem putShadow_snpReady (s : State) (sl : SliceId) (set : BitVec 14) (w : Nat) (e : ShadowEntry) : (putShadow s sl set w e).snpReady = s.snpReady := rfl
@[simp] theorem putShadow_ddrWrr (s : State) (sl : SliceId) (set : BitVec 14) (w : Nat) (e : ShadowEntry) : (putShadow s sl set w e).ddrWrr = s.ddrWrr := rfl
@[simp] theorem putShadow_capacity (s : State) (sl : SliceId) (set : BitVec 14) (w : Nat) (e : ShadowEntry) : (putShadow s sl set w e).capacity = s.capacity := rfl
@[simp] theorem putShadow_slow (s : State) (sl : SliceId) (set : BitVec 14) (w : Nat) (e : ShadowEntry) : (putShadow s sl set w e).slow = s.slow := rfl
@[simp] theorem putShadow_ddrFour (s : State) (sl : SliceId) (set : BitVec 14) (w : Nat) (e : ShadowEntry) : (putShadow s sl set w e).ddrFour = s.ddrFour := rfl
@[simp] theorem putShadow_ddrHigh (s : State) (sl : SliceId) (set : BitVec 14) (w : Nat) (e : ShadowEntry) : (putShadow s sl set w e).ddrHigh = s.ddrHigh := rfl
@[simp] theorem putShadow_ddrRet (s : State) (sl : SliceId) (set : BitVec 14) (w : Nat) (e : ShadowEntry) : (putShadow s sl set w e).ddrRet = s.ddrRet := rfl
@[simp] theorem putShadow_ddrq (s : State) (sl : SliceId) (set : BitVec 14) (w : Nat) (e : ShadowEntry) : (putShadow s sl set w e).ddrq = s.ddrq := rfl
@[simp] theorem putShadow_chans (s : State) (sl : SliceId) (set : BitVec 14) (w : Nat) (e : ShadowEntry) : (putShadow s sl set w e).chans = s.chans := rfl
@[simp] theorem putShadow_hbms (s : State) (sl : SliceId) (set : BitVec 14) (w : Nat) (e : ShadowEntry) : (putShadow s sl set w e).hbms = s.hbms := rfl
@[simp] theorem putShadow_lan (s : State) (sl : SliceId) (set : BitVec 14) (w : Nat) (e : ShadowEntry) : (putShadow s sl set w e).lan = s.lan := rfl
@[simp] theorem putShadow_beams (s : State) (sl : SliceId) (set : BitVec 14) (w : Nat) (e : ShadowEntry) : (putShadow s sl set w e).beams = s.beams := rfl
@[simp] theorem putShadow_engines (s : State) (sl : SliceId) (set : BitVec 14) (w : Nat) (e : ShadowEntry) : (putShadow s sl set w e).engines = s.engines := rfl
@[simp] theorem putShadow_engMem (s : State) (sl : SliceId) (set : BitVec 14) (w : Nat) (e : ShadowEntry) : (putShadow s sl set w e).engMem = s.engMem := rfl
@[simp] theorem putShadow_tim (s : State) (sl : SliceId) (set : BitVec 14) (w : Nat) (e : ShadowEntry) : (putShadow s sl set w e).tim = s.tim := rfl
@[simp] theorem putShadow_regs (s : State) (sl : SliceId) (set : BitVec 14) (w : Nat) (e : ShadowEntry) : (putShadow s sl set w e).regs = s.regs := rfl
@[simp] theorem putShadow_pwr (s : State) (sl : SliceId) (set : BitVec 14) (w : Nat) (e : ShadowEntry) : (putShadow s sl set w e).pwr = s.pwr := rfl
@[simp] theorem putShadow_boot (s : State) (sl : SliceId) (set : BitVec 14) (w : Nat) (e : ShadowEntry) : (putShadow s sl set w e).boot = s.boot := rfl
@[simp] theorem putShadow_move (s : State) (sl : SliceId) (set : BitVec 14) (w : Nat) (e : ShadowEntry) : (putShadow s sl set w e).move = s.move := rfl
@[simp] theorem putPf_pending (s : State) (sl : SliceId) (set : BitVec 11) (w : Nat) (e : PfEntry) : (putPf s sl set w e).pending = s.pending := rfl
@[simp] theorem putPf_now (s : State) (sl : SliceId) (set : BitVec 11) (w : Nat) (e : PfEntry) : (putPf s sl set w e).now = s.now := rfl
@[simp] theorem putPf_serial (s : State) (sl : SliceId) (set : BitVec 11) (w : Nat) (e : PfEntry) : (putPf s sl set w e).serial = s.serial := rfl
@[simp] theorem putPf_free (s : State) (sl : SliceId) (set : BitVec 11) (w : Nat) (e : PfEntry) : (putPf s sl set w e).free = s.free := rfl
@[simp] theorem putPf_home (s : State) (sl : SliceId) (set : BitVec 11) (w : Nat) (e : PfEntry) : (putPf s sl set w e).home = s.home := rfl
@[simp] theorem putPf_net (s : State) (sl : SliceId) (set : BitVec 11) (w : Nat) (e : PfEntry) : (putPf s sl set w e).net = s.net := rfl
@[simp] theorem putPf_ports (s : State) (sl : SliceId) (set : BitVec 11) (w : Nat) (e : PfEntry) : (putPf s sl set w e).ports = s.ports := rfl
@[simp] theorem putPf_parts (s : State) (sl : SliceId) (set : BitVec 11) (w : Nat) (e : PfEntry) : (putPf s sl set w e).parts = s.parts := rfl
@[simp] theorem putPf_ctrs (s : State) (sl : SliceId) (set : BitVec 11) (w : Nat) (e : PfEntry) : (putPf s sl set w e).ctrs = s.ctrs := rfl
@[simp] theorem putPf_mem (s : State) (sl : SliceId) (set : BitVec 11) (w : Nat) (e : PfEntry) : (putPf s sl set w e).mem = s.mem := rfl
@[simp] theorem putPf_tmo (s : State) (sl : SliceId) (set : BitVec 11) (w : Nat) (e : PfEntry) : (putPf s sl set w e).tmo = s.tmo := rfl
@[simp] theorem putPf_refl (s : State) (sl : SliceId) (set : BitVec 11) (w : Nat) (e : PfEntry) : (putPf s sl set w e).refl = s.refl := rfl
@[simp] theorem putPf_out (s : State) (sl : SliceId) (set : BitVec 11) (w : Nat) (e : PfEntry) : (putPf s sl set w e).out = s.out := rfl
@[simp] theorem putPf_ctrlOut (s : State) (sl : SliceId) (set : BitVec 11) (w : Nat) (e : PfEntry) : (putPf s sl set w e).ctrlOut = s.ctrlOut := rfl
@[simp] theorem putPf_reports (s : State) (sl : SliceId) (set : BitVec 11) (w : Nat) (e : PfEntry) : (putPf s sl set w e).reports = s.reports := rfl
@[simp] theorem putPf_unwired (s : State) (sl : SliceId) (set : BitVec 11) (w : Nat) (e : PfEntry) : (putPf s sl set w e).unwired = s.unwired := rfl
@[simp] theorem putPf_snpReady (s : State) (sl : SliceId) (set : BitVec 11) (w : Nat) (e : PfEntry) : (putPf s sl set w e).snpReady = s.snpReady := rfl
@[simp] theorem putPf_ddrWrr (s : State) (sl : SliceId) (set : BitVec 11) (w : Nat) (e : PfEntry) : (putPf s sl set w e).ddrWrr = s.ddrWrr := rfl
@[simp] theorem putPf_capacity (s : State) (sl : SliceId) (set : BitVec 11) (w : Nat) (e : PfEntry) : (putPf s sl set w e).capacity = s.capacity := rfl
@[simp] theorem putPf_slow (s : State) (sl : SliceId) (set : BitVec 11) (w : Nat) (e : PfEntry) : (putPf s sl set w e).slow = s.slow := rfl
@[simp] theorem putPf_ddrFour (s : State) (sl : SliceId) (set : BitVec 11) (w : Nat) (e : PfEntry) : (putPf s sl set w e).ddrFour = s.ddrFour := rfl
@[simp] theorem putPf_ddrHigh (s : State) (sl : SliceId) (set : BitVec 11) (w : Nat) (e : PfEntry) : (putPf s sl set w e).ddrHigh = s.ddrHigh := rfl
@[simp] theorem putPf_ddrRet (s : State) (sl : SliceId) (set : BitVec 11) (w : Nat) (e : PfEntry) : (putPf s sl set w e).ddrRet = s.ddrRet := rfl
@[simp] theorem putPf_ddrq (s : State) (sl : SliceId) (set : BitVec 11) (w : Nat) (e : PfEntry) : (putPf s sl set w e).ddrq = s.ddrq := rfl
@[simp] theorem putPf_chans (s : State) (sl : SliceId) (set : BitVec 11) (w : Nat) (e : PfEntry) : (putPf s sl set w e).chans = s.chans := rfl
@[simp] theorem putPf_hbms (s : State) (sl : SliceId) (set : BitVec 11) (w : Nat) (e : PfEntry) : (putPf s sl set w e).hbms = s.hbms := rfl
@[simp] theorem putPf_lan (s : State) (sl : SliceId) (set : BitVec 11) (w : Nat) (e : PfEntry) : (putPf s sl set w e).lan = s.lan := rfl
@[simp] theorem putPf_beams (s : State) (sl : SliceId) (set : BitVec 11) (w : Nat) (e : PfEntry) : (putPf s sl set w e).beams = s.beams := rfl
@[simp] theorem putPf_engines (s : State) (sl : SliceId) (set : BitVec 11) (w : Nat) (e : PfEntry) : (putPf s sl set w e).engines = s.engines := rfl
@[simp] theorem putPf_engMem (s : State) (sl : SliceId) (set : BitVec 11) (w : Nat) (e : PfEntry) : (putPf s sl set w e).engMem = s.engMem := rfl
@[simp] theorem putPf_tim (s : State) (sl : SliceId) (set : BitVec 11) (w : Nat) (e : PfEntry) : (putPf s sl set w e).tim = s.tim := rfl
@[simp] theorem putPf_regs (s : State) (sl : SliceId) (set : BitVec 11) (w : Nat) (e : PfEntry) : (putPf s sl set w e).regs = s.regs := rfl
@[simp] theorem putPf_pwr (s : State) (sl : SliceId) (set : BitVec 11) (w : Nat) (e : PfEntry) : (putPf s sl set w e).pwr = s.pwr := rfl
@[simp] theorem putPf_boot (s : State) (sl : SliceId) (set : BitVec 11) (w : Nat) (e : PfEntry) : (putPf s sl set w e).boot = s.boot := rfl
@[simp] theorem putPf_move (s : State) (sl : SliceId) (set : BitVec 11) (w : Nat) (e : PfEntry) : (putPf s sl set w e).move = s.move := rfl
@[simp] theorem putFd_pending (s : State) (sl : SliceId) (set : BitVec 12) (w : Nat) (e : FdEntry) : (putFd s sl set w e).pending = s.pending := rfl
@[simp] theorem putFd_now (s : State) (sl : SliceId) (set : BitVec 12) (w : Nat) (e : FdEntry) : (putFd s sl set w e).now = s.now := rfl
@[simp] theorem putFd_serial (s : State) (sl : SliceId) (set : BitVec 12) (w : Nat) (e : FdEntry) : (putFd s sl set w e).serial = s.serial := rfl
@[simp] theorem putFd_free (s : State) (sl : SliceId) (set : BitVec 12) (w : Nat) (e : FdEntry) : (putFd s sl set w e).free = s.free := rfl
@[simp] theorem putFd_home (s : State) (sl : SliceId) (set : BitVec 12) (w : Nat) (e : FdEntry) : (putFd s sl set w e).home = s.home := rfl
@[simp] theorem putFd_net (s : State) (sl : SliceId) (set : BitVec 12) (w : Nat) (e : FdEntry) : (putFd s sl set w e).net = s.net := rfl
@[simp] theorem putFd_ports (s : State) (sl : SliceId) (set : BitVec 12) (w : Nat) (e : FdEntry) : (putFd s sl set w e).ports = s.ports := rfl
@[simp] theorem putFd_parts (s : State) (sl : SliceId) (set : BitVec 12) (w : Nat) (e : FdEntry) : (putFd s sl set w e).parts = s.parts := rfl
@[simp] theorem putFd_ctrs (s : State) (sl : SliceId) (set : BitVec 12) (w : Nat) (e : FdEntry) : (putFd s sl set w e).ctrs = s.ctrs := rfl
@[simp] theorem putFd_mem (s : State) (sl : SliceId) (set : BitVec 12) (w : Nat) (e : FdEntry) : (putFd s sl set w e).mem = s.mem := rfl
@[simp] theorem putFd_tmo (s : State) (sl : SliceId) (set : BitVec 12) (w : Nat) (e : FdEntry) : (putFd s sl set w e).tmo = s.tmo := rfl
@[simp] theorem putFd_refl (s : State) (sl : SliceId) (set : BitVec 12) (w : Nat) (e : FdEntry) : (putFd s sl set w e).refl = s.refl := rfl
@[simp] theorem putFd_out (s : State) (sl : SliceId) (set : BitVec 12) (w : Nat) (e : FdEntry) : (putFd s sl set w e).out = s.out := rfl
@[simp] theorem putFd_ctrlOut (s : State) (sl : SliceId) (set : BitVec 12) (w : Nat) (e : FdEntry) : (putFd s sl set w e).ctrlOut = s.ctrlOut := rfl
@[simp] theorem putFd_reports (s : State) (sl : SliceId) (set : BitVec 12) (w : Nat) (e : FdEntry) : (putFd s sl set w e).reports = s.reports := rfl
@[simp] theorem putFd_unwired (s : State) (sl : SliceId) (set : BitVec 12) (w : Nat) (e : FdEntry) : (putFd s sl set w e).unwired = s.unwired := rfl
@[simp] theorem putFd_snpReady (s : State) (sl : SliceId) (set : BitVec 12) (w : Nat) (e : FdEntry) : (putFd s sl set w e).snpReady = s.snpReady := rfl
@[simp] theorem putFd_ddrWrr (s : State) (sl : SliceId) (set : BitVec 12) (w : Nat) (e : FdEntry) : (putFd s sl set w e).ddrWrr = s.ddrWrr := rfl
@[simp] theorem putFd_capacity (s : State) (sl : SliceId) (set : BitVec 12) (w : Nat) (e : FdEntry) : (putFd s sl set w e).capacity = s.capacity := rfl
@[simp] theorem putFd_slow (s : State) (sl : SliceId) (set : BitVec 12) (w : Nat) (e : FdEntry) : (putFd s sl set w e).slow = s.slow := rfl
@[simp] theorem putFd_ddrFour (s : State) (sl : SliceId) (set : BitVec 12) (w : Nat) (e : FdEntry) : (putFd s sl set w e).ddrFour = s.ddrFour := rfl
@[simp] theorem putFd_ddrHigh (s : State) (sl : SliceId) (set : BitVec 12) (w : Nat) (e : FdEntry) : (putFd s sl set w e).ddrHigh = s.ddrHigh := rfl
@[simp] theorem putFd_ddrRet (s : State) (sl : SliceId) (set : BitVec 12) (w : Nat) (e : FdEntry) : (putFd s sl set w e).ddrRet = s.ddrRet := rfl
@[simp] theorem putFd_ddrq (s : State) (sl : SliceId) (set : BitVec 12) (w : Nat) (e : FdEntry) : (putFd s sl set w e).ddrq = s.ddrq := rfl
@[simp] theorem putFd_chans (s : State) (sl : SliceId) (set : BitVec 12) (w : Nat) (e : FdEntry) : (putFd s sl set w e).chans = s.chans := rfl
@[simp] theorem putFd_hbms (s : State) (sl : SliceId) (set : BitVec 12) (w : Nat) (e : FdEntry) : (putFd s sl set w e).hbms = s.hbms := rfl
@[simp] theorem putFd_lan (s : State) (sl : SliceId) (set : BitVec 12) (w : Nat) (e : FdEntry) : (putFd s sl set w e).lan = s.lan := rfl
@[simp] theorem putFd_beams (s : State) (sl : SliceId) (set : BitVec 12) (w : Nat) (e : FdEntry) : (putFd s sl set w e).beams = s.beams := rfl
@[simp] theorem putFd_engines (s : State) (sl : SliceId) (set : BitVec 12) (w : Nat) (e : FdEntry) : (putFd s sl set w e).engines = s.engines := rfl
@[simp] theorem putFd_engMem (s : State) (sl : SliceId) (set : BitVec 12) (w : Nat) (e : FdEntry) : (putFd s sl set w e).engMem = s.engMem := rfl
@[simp] theorem putFd_tim (s : State) (sl : SliceId) (set : BitVec 12) (w : Nat) (e : FdEntry) : (putFd s sl set w e).tim = s.tim := rfl
@[simp] theorem putFd_regs (s : State) (sl : SliceId) (set : BitVec 12) (w : Nat) (e : FdEntry) : (putFd s sl set w e).regs = s.regs := rfl
@[simp] theorem putFd_pwr (s : State) (sl : SliceId) (set : BitVec 12) (w : Nat) (e : FdEntry) : (putFd s sl set w e).pwr = s.pwr := rfl
@[simp] theorem putFd_boot (s : State) (sl : SliceId) (set : BitVec 12) (w : Nat) (e : FdEntry) : (putFd s sl set w e).boot = s.boot := rfl
@[simp] theorem putFd_move (s : State) (sl : SliceId) (set : BitVec 12) (w : Nat) (e : FdEntry) : (putFd s sl set w e).move = s.move := rfl
@[simp] theorem putMiss_pending (s : State) (sl : SliceId) (i : Nat) (e : Option MissEntry) : (putMiss s sl i e).pending = s.pending := rfl
@[simp] theorem putMiss_now (s : State) (sl : SliceId) (i : Nat) (e : Option MissEntry) : (putMiss s sl i e).now = s.now := rfl
@[simp] theorem putMiss_serial (s : State) (sl : SliceId) (i : Nat) (e : Option MissEntry) : (putMiss s sl i e).serial = s.serial := rfl
@[simp] theorem putMiss_free (s : State) (sl : SliceId) (i : Nat) (e : Option MissEntry) : (putMiss s sl i e).free = s.free := rfl
@[simp] theorem putMiss_home (s : State) (sl : SliceId) (i : Nat) (e : Option MissEntry) : (putMiss s sl i e).home = s.home := rfl
@[simp] theorem putMiss_net (s : State) (sl : SliceId) (i : Nat) (e : Option MissEntry) : (putMiss s sl i e).net = s.net := rfl
@[simp] theorem putMiss_ports (s : State) (sl : SliceId) (i : Nat) (e : Option MissEntry) : (putMiss s sl i e).ports = s.ports := rfl
@[simp] theorem putMiss_parts (s : State) (sl : SliceId) (i : Nat) (e : Option MissEntry) : (putMiss s sl i e).parts = s.parts := rfl
@[simp] theorem putMiss_ctrs (s : State) (sl : SliceId) (i : Nat) (e : Option MissEntry) : (putMiss s sl i e).ctrs = s.ctrs := rfl
@[simp] theorem putMiss_mem (s : State) (sl : SliceId) (i : Nat) (e : Option MissEntry) : (putMiss s sl i e).mem = s.mem := rfl
@[simp] theorem putMiss_tmo (s : State) (sl : SliceId) (i : Nat) (e : Option MissEntry) : (putMiss s sl i e).tmo = s.tmo := rfl
@[simp] theorem putMiss_refl (s : State) (sl : SliceId) (i : Nat) (e : Option MissEntry) : (putMiss s sl i e).refl = s.refl := rfl
@[simp] theorem putMiss_out (s : State) (sl : SliceId) (i : Nat) (e : Option MissEntry) : (putMiss s sl i e).out = s.out := rfl
@[simp] theorem putMiss_ctrlOut (s : State) (sl : SliceId) (i : Nat) (e : Option MissEntry) : (putMiss s sl i e).ctrlOut = s.ctrlOut := rfl
@[simp] theorem putMiss_reports (s : State) (sl : SliceId) (i : Nat) (e : Option MissEntry) : (putMiss s sl i e).reports = s.reports := rfl
@[simp] theorem putMiss_unwired (s : State) (sl : SliceId) (i : Nat) (e : Option MissEntry) : (putMiss s sl i e).unwired = s.unwired := rfl
@[simp] theorem putMiss_snpReady (s : State) (sl : SliceId) (i : Nat) (e : Option MissEntry) : (putMiss s sl i e).snpReady = s.snpReady := rfl
@[simp] theorem putMiss_ddrWrr (s : State) (sl : SliceId) (i : Nat) (e : Option MissEntry) : (putMiss s sl i e).ddrWrr = s.ddrWrr := rfl
@[simp] theorem putMiss_capacity (s : State) (sl : SliceId) (i : Nat) (e : Option MissEntry) : (putMiss s sl i e).capacity = s.capacity := rfl
@[simp] theorem putMiss_slow (s : State) (sl : SliceId) (i : Nat) (e : Option MissEntry) : (putMiss s sl i e).slow = s.slow := rfl
@[simp] theorem putMiss_ddrFour (s : State) (sl : SliceId) (i : Nat) (e : Option MissEntry) : (putMiss s sl i e).ddrFour = s.ddrFour := rfl
@[simp] theorem putMiss_ddrHigh (s : State) (sl : SliceId) (i : Nat) (e : Option MissEntry) : (putMiss s sl i e).ddrHigh = s.ddrHigh := rfl
@[simp] theorem putMiss_ddrRet (s : State) (sl : SliceId) (i : Nat) (e : Option MissEntry) : (putMiss s sl i e).ddrRet = s.ddrRet := rfl
@[simp] theorem putMiss_ddrq (s : State) (sl : SliceId) (i : Nat) (e : Option MissEntry) : (putMiss s sl i e).ddrq = s.ddrq := rfl
@[simp] theorem putMiss_chans (s : State) (sl : SliceId) (i : Nat) (e : Option MissEntry) : (putMiss s sl i e).chans = s.chans := rfl
@[simp] theorem putMiss_hbms (s : State) (sl : SliceId) (i : Nat) (e : Option MissEntry) : (putMiss s sl i e).hbms = s.hbms := rfl
@[simp] theorem putMiss_lan (s : State) (sl : SliceId) (i : Nat) (e : Option MissEntry) : (putMiss s sl i e).lan = s.lan := rfl
@[simp] theorem putMiss_beams (s : State) (sl : SliceId) (i : Nat) (e : Option MissEntry) : (putMiss s sl i e).beams = s.beams := rfl
@[simp] theorem putMiss_engines (s : State) (sl : SliceId) (i : Nat) (e : Option MissEntry) : (putMiss s sl i e).engines = s.engines := rfl
@[simp] theorem putMiss_engMem (s : State) (sl : SliceId) (i : Nat) (e : Option MissEntry) : (putMiss s sl i e).engMem = s.engMem := rfl
@[simp] theorem putMiss_tim (s : State) (sl : SliceId) (i : Nat) (e : Option MissEntry) : (putMiss s sl i e).tim = s.tim := rfl
@[simp] theorem putMiss_regs (s : State) (sl : SliceId) (i : Nat) (e : Option MissEntry) : (putMiss s sl i e).regs = s.regs := rfl
@[simp] theorem putMiss_pwr (s : State) (sl : SliceId) (i : Nat) (e : Option MissEntry) : (putMiss s sl i e).pwr = s.pwr := rfl
@[simp] theorem putMiss_boot (s : State) (sl : SliceId) (i : Nat) (e : Option MissEntry) : (putMiss s sl i e).boot = s.boot := rfl
@[simp] theorem putMiss_move (s : State) (sl : SliceId) (i : Nat) (e : Option MissEntry) : (putMiss s sl i e).move = s.move := rfl
@[simp] theorem putPen_pending (s : State) (sl : SliceId) (i : Nat) (e : Option PenBuf) : (putPen s sl i e).pending = s.pending := rfl
@[simp] theorem putPen_now (s : State) (sl : SliceId) (i : Nat) (e : Option PenBuf) : (putPen s sl i e).now = s.now := rfl
@[simp] theorem putPen_serial (s : State) (sl : SliceId) (i : Nat) (e : Option PenBuf) : (putPen s sl i e).serial = s.serial := rfl
@[simp] theorem putPen_free (s : State) (sl : SliceId) (i : Nat) (e : Option PenBuf) : (putPen s sl i e).free = s.free := rfl
@[simp] theorem putPen_home (s : State) (sl : SliceId) (i : Nat) (e : Option PenBuf) : (putPen s sl i e).home = s.home := rfl
@[simp] theorem putPen_net (s : State) (sl : SliceId) (i : Nat) (e : Option PenBuf) : (putPen s sl i e).net = s.net := rfl
@[simp] theorem putPen_ports (s : State) (sl : SliceId) (i : Nat) (e : Option PenBuf) : (putPen s sl i e).ports = s.ports := rfl
@[simp] theorem putPen_parts (s : State) (sl : SliceId) (i : Nat) (e : Option PenBuf) : (putPen s sl i e).parts = s.parts := rfl
@[simp] theorem putPen_ctrs (s : State) (sl : SliceId) (i : Nat) (e : Option PenBuf) : (putPen s sl i e).ctrs = s.ctrs := rfl
@[simp] theorem putPen_mem (s : State) (sl : SliceId) (i : Nat) (e : Option PenBuf) : (putPen s sl i e).mem = s.mem := rfl
@[simp] theorem putPen_tmo (s : State) (sl : SliceId) (i : Nat) (e : Option PenBuf) : (putPen s sl i e).tmo = s.tmo := rfl
@[simp] theorem putPen_refl (s : State) (sl : SliceId) (i : Nat) (e : Option PenBuf) : (putPen s sl i e).refl = s.refl := rfl
@[simp] theorem putPen_out (s : State) (sl : SliceId) (i : Nat) (e : Option PenBuf) : (putPen s sl i e).out = s.out := rfl
@[simp] theorem putPen_ctrlOut (s : State) (sl : SliceId) (i : Nat) (e : Option PenBuf) : (putPen s sl i e).ctrlOut = s.ctrlOut := rfl
@[simp] theorem putPen_reports (s : State) (sl : SliceId) (i : Nat) (e : Option PenBuf) : (putPen s sl i e).reports = s.reports := rfl
@[simp] theorem putPen_unwired (s : State) (sl : SliceId) (i : Nat) (e : Option PenBuf) : (putPen s sl i e).unwired = s.unwired := rfl
@[simp] theorem putPen_snpReady (s : State) (sl : SliceId) (i : Nat) (e : Option PenBuf) : (putPen s sl i e).snpReady = s.snpReady := rfl
@[simp] theorem putPen_ddrWrr (s : State) (sl : SliceId) (i : Nat) (e : Option PenBuf) : (putPen s sl i e).ddrWrr = s.ddrWrr := rfl
@[simp] theorem putPen_capacity (s : State) (sl : SliceId) (i : Nat) (e : Option PenBuf) : (putPen s sl i e).capacity = s.capacity := rfl
@[simp] theorem putPen_slow (s : State) (sl : SliceId) (i : Nat) (e : Option PenBuf) : (putPen s sl i e).slow = s.slow := rfl
@[simp] theorem putPen_ddrFour (s : State) (sl : SliceId) (i : Nat) (e : Option PenBuf) : (putPen s sl i e).ddrFour = s.ddrFour := rfl
@[simp] theorem putPen_ddrHigh (s : State) (sl : SliceId) (i : Nat) (e : Option PenBuf) : (putPen s sl i e).ddrHigh = s.ddrHigh := rfl
@[simp] theorem putPen_ddrRet (s : State) (sl : SliceId) (i : Nat) (e : Option PenBuf) : (putPen s sl i e).ddrRet = s.ddrRet := rfl
@[simp] theorem putPen_ddrq (s : State) (sl : SliceId) (i : Nat) (e : Option PenBuf) : (putPen s sl i e).ddrq = s.ddrq := rfl
@[simp] theorem putPen_chans (s : State) (sl : SliceId) (i : Nat) (e : Option PenBuf) : (putPen s sl i e).chans = s.chans := rfl
@[simp] theorem putPen_hbms (s : State) (sl : SliceId) (i : Nat) (e : Option PenBuf) : (putPen s sl i e).hbms = s.hbms := rfl
@[simp] theorem putPen_lan (s : State) (sl : SliceId) (i : Nat) (e : Option PenBuf) : (putPen s sl i e).lan = s.lan := rfl
@[simp] theorem putPen_beams (s : State) (sl : SliceId) (i : Nat) (e : Option PenBuf) : (putPen s sl i e).beams = s.beams := rfl
@[simp] theorem putPen_engines (s : State) (sl : SliceId) (i : Nat) (e : Option PenBuf) : (putPen s sl i e).engines = s.engines := rfl
@[simp] theorem putPen_engMem (s : State) (sl : SliceId) (i : Nat) (e : Option PenBuf) : (putPen s sl i e).engMem = s.engMem := rfl
@[simp] theorem putPen_tim (s : State) (sl : SliceId) (i : Nat) (e : Option PenBuf) : (putPen s sl i e).tim = s.tim := rfl
@[simp] theorem putPen_regs (s : State) (sl : SliceId) (i : Nat) (e : Option PenBuf) : (putPen s sl i e).regs = s.regs := rfl
@[simp] theorem putPen_pwr (s : State) (sl : SliceId) (i : Nat) (e : Option PenBuf) : (putPen s sl i e).pwr = s.pwr := rfl
@[simp] theorem putPen_boot (s : State) (sl : SliceId) (i : Nat) (e : Option PenBuf) : (putPen s sl i e).boot = s.boot := rfl
@[simp] theorem putPen_move (s : State) (sl : SliceId) (i : Nat) (e : Option PenBuf) : (putPen s sl i e).move = s.move := rfl
@[simp] theorem putWc_pending (s : State) (sl : SliceId) (i : Nat) (e : Option WcBuf) : (putWc s sl i e).pending = s.pending := rfl
@[simp] theorem putWc_now (s : State) (sl : SliceId) (i : Nat) (e : Option WcBuf) : (putWc s sl i e).now = s.now := rfl
@[simp] theorem putWc_serial (s : State) (sl : SliceId) (i : Nat) (e : Option WcBuf) : (putWc s sl i e).serial = s.serial := rfl
@[simp] theorem putWc_free (s : State) (sl : SliceId) (i : Nat) (e : Option WcBuf) : (putWc s sl i e).free = s.free := rfl
@[simp] theorem putWc_home (s : State) (sl : SliceId) (i : Nat) (e : Option WcBuf) : (putWc s sl i e).home = s.home := rfl
@[simp] theorem putWc_net (s : State) (sl : SliceId) (i : Nat) (e : Option WcBuf) : (putWc s sl i e).net = s.net := rfl
@[simp] theorem putWc_ports (s : State) (sl : SliceId) (i : Nat) (e : Option WcBuf) : (putWc s sl i e).ports = s.ports := rfl
@[simp] theorem putWc_parts (s : State) (sl : SliceId) (i : Nat) (e : Option WcBuf) : (putWc s sl i e).parts = s.parts := rfl
@[simp] theorem putWc_ctrs (s : State) (sl : SliceId) (i : Nat) (e : Option WcBuf) : (putWc s sl i e).ctrs = s.ctrs := rfl
@[simp] theorem putWc_mem (s : State) (sl : SliceId) (i : Nat) (e : Option WcBuf) : (putWc s sl i e).mem = s.mem := rfl
@[simp] theorem putWc_tmo (s : State) (sl : SliceId) (i : Nat) (e : Option WcBuf) : (putWc s sl i e).tmo = s.tmo := rfl
@[simp] theorem putWc_refl (s : State) (sl : SliceId) (i : Nat) (e : Option WcBuf) : (putWc s sl i e).refl = s.refl := rfl
@[simp] theorem putWc_out (s : State) (sl : SliceId) (i : Nat) (e : Option WcBuf) : (putWc s sl i e).out = s.out := rfl
@[simp] theorem putWc_ctrlOut (s : State) (sl : SliceId) (i : Nat) (e : Option WcBuf) : (putWc s sl i e).ctrlOut = s.ctrlOut := rfl
@[simp] theorem putWc_reports (s : State) (sl : SliceId) (i : Nat) (e : Option WcBuf) : (putWc s sl i e).reports = s.reports := rfl
@[simp] theorem putWc_unwired (s : State) (sl : SliceId) (i : Nat) (e : Option WcBuf) : (putWc s sl i e).unwired = s.unwired := rfl
@[simp] theorem putWc_snpReady (s : State) (sl : SliceId) (i : Nat) (e : Option WcBuf) : (putWc s sl i e).snpReady = s.snpReady := rfl
@[simp] theorem putWc_ddrWrr (s : State) (sl : SliceId) (i : Nat) (e : Option WcBuf) : (putWc s sl i e).ddrWrr = s.ddrWrr := rfl
@[simp] theorem putWc_capacity (s : State) (sl : SliceId) (i : Nat) (e : Option WcBuf) : (putWc s sl i e).capacity = s.capacity := rfl
@[simp] theorem putWc_slow (s : State) (sl : SliceId) (i : Nat) (e : Option WcBuf) : (putWc s sl i e).slow = s.slow := rfl
@[simp] theorem putWc_ddrFour (s : State) (sl : SliceId) (i : Nat) (e : Option WcBuf) : (putWc s sl i e).ddrFour = s.ddrFour := rfl
@[simp] theorem putWc_ddrHigh (s : State) (sl : SliceId) (i : Nat) (e : Option WcBuf) : (putWc s sl i e).ddrHigh = s.ddrHigh := rfl
@[simp] theorem putWc_ddrRet (s : State) (sl : SliceId) (i : Nat) (e : Option WcBuf) : (putWc s sl i e).ddrRet = s.ddrRet := rfl
@[simp] theorem putWc_ddrq (s : State) (sl : SliceId) (i : Nat) (e : Option WcBuf) : (putWc s sl i e).ddrq = s.ddrq := rfl
@[simp] theorem putWc_chans (s : State) (sl : SliceId) (i : Nat) (e : Option WcBuf) : (putWc s sl i e).chans = s.chans := rfl
@[simp] theorem putWc_hbms (s : State) (sl : SliceId) (i : Nat) (e : Option WcBuf) : (putWc s sl i e).hbms = s.hbms := rfl
@[simp] theorem putWc_lan (s : State) (sl : SliceId) (i : Nat) (e : Option WcBuf) : (putWc s sl i e).lan = s.lan := rfl
@[simp] theorem putWc_beams (s : State) (sl : SliceId) (i : Nat) (e : Option WcBuf) : (putWc s sl i e).beams = s.beams := rfl
@[simp] theorem putWc_engines (s : State) (sl : SliceId) (i : Nat) (e : Option WcBuf) : (putWc s sl i e).engines = s.engines := rfl
@[simp] theorem putWc_engMem (s : State) (sl : SliceId) (i : Nat) (e : Option WcBuf) : (putWc s sl i e).engMem = s.engMem := rfl
@[simp] theorem putWc_tim (s : State) (sl : SliceId) (i : Nat) (e : Option WcBuf) : (putWc s sl i e).tim = s.tim := rfl
@[simp] theorem putWc_regs (s : State) (sl : SliceId) (i : Nat) (e : Option WcBuf) : (putWc s sl i e).regs = s.regs := rfl
@[simp] theorem putWc_pwr (s : State) (sl : SliceId) (i : Nat) (e : Option WcBuf) : (putWc s sl i e).pwr = s.pwr := rfl
@[simp] theorem putWc_boot (s : State) (sl : SliceId) (i : Nat) (e : Option WcBuf) : (putWc s sl i e).boot = s.boot := rfl
@[simp] theorem putWc_move (s : State) (sl : SliceId) (i : Nat) (e : Option WcBuf) : (putWc s sl i e).move = s.move := rfl
@[simp] theorem putRing_pending (s : State) (p : RingPort) (x : RingPortSt) : (putRing s p x).pending = s.pending := rfl
@[simp] theorem putRing_now (s : State) (p : RingPort) (x : RingPortSt) : (putRing s p x).now = s.now := rfl
@[simp] theorem putRing_serial (s : State) (p : RingPort) (x : RingPortSt) : (putRing s p x).serial = s.serial := rfl
@[simp] theorem putRing_free (s : State) (p : RingPort) (x : RingPortSt) : (putRing s p x).free = s.free := rfl
@[simp] theorem putRing_cache (s : State) (p : RingPort) (x : RingPortSt) : (putRing s p x).cache = s.cache := rfl
@[simp] theorem putRing_home (s : State) (p : RingPort) (x : RingPortSt) : (putRing s p x).home = s.home := rfl
@[simp] theorem putRing_ports (s : State) (p : RingPort) (x : RingPortSt) : (putRing s p x).ports = s.ports := rfl
@[simp] theorem putRing_parts (s : State) (p : RingPort) (x : RingPortSt) : (putRing s p x).parts = s.parts := rfl
@[simp] theorem putRing_ctrs (s : State) (p : RingPort) (x : RingPortSt) : (putRing s p x).ctrs = s.ctrs := rfl
@[simp] theorem putRing_mem (s : State) (p : RingPort) (x : RingPortSt) : (putRing s p x).mem = s.mem := rfl
@[simp] theorem putRing_tmo (s : State) (p : RingPort) (x : RingPortSt) : (putRing s p x).tmo = s.tmo := rfl
@[simp] theorem putRing_refl (s : State) (p : RingPort) (x : RingPortSt) : (putRing s p x).refl = s.refl := rfl
@[simp] theorem putRing_out (s : State) (p : RingPort) (x : RingPortSt) : (putRing s p x).out = s.out := rfl
@[simp] theorem putRing_ctrlOut (s : State) (p : RingPort) (x : RingPortSt) : (putRing s p x).ctrlOut = s.ctrlOut := rfl
@[simp] theorem putRing_reports (s : State) (p : RingPort) (x : RingPortSt) : (putRing s p x).reports = s.reports := rfl
@[simp] theorem putRing_unwired (s : State) (p : RingPort) (x : RingPortSt) : (putRing s p x).unwired = s.unwired := rfl
@[simp] theorem putRing_snpReady (s : State) (p : RingPort) (x : RingPortSt) : (putRing s p x).snpReady = s.snpReady := rfl
@[simp] theorem putRing_ddrWrr (s : State) (p : RingPort) (x : RingPortSt) : (putRing s p x).ddrWrr = s.ddrWrr := rfl
@[simp] theorem putRing_capacity (s : State) (p : RingPort) (x : RingPortSt) : (putRing s p x).capacity = s.capacity := rfl
@[simp] theorem putRing_slow (s : State) (p : RingPort) (x : RingPortSt) : (putRing s p x).slow = s.slow := rfl
@[simp] theorem putRing_ddrFour (s : State) (p : RingPort) (x : RingPortSt) : (putRing s p x).ddrFour = s.ddrFour := rfl
@[simp] theorem putRing_ddrHigh (s : State) (p : RingPort) (x : RingPortSt) : (putRing s p x).ddrHigh = s.ddrHigh := rfl
@[simp] theorem putRing_ddrRet (s : State) (p : RingPort) (x : RingPortSt) : (putRing s p x).ddrRet = s.ddrRet := rfl
@[simp] theorem putRing_ddrq (s : State) (p : RingPort) (x : RingPortSt) : (putRing s p x).ddrq = s.ddrq := rfl
@[simp] theorem putRing_chans (s : State) (p : RingPort) (x : RingPortSt) : (putRing s p x).chans = s.chans := rfl
@[simp] theorem putRing_hbms (s : State) (p : RingPort) (x : RingPortSt) : (putRing s p x).hbms = s.hbms := rfl
@[simp] theorem putRing_lan (s : State) (p : RingPort) (x : RingPortSt) : (putRing s p x).lan = s.lan := rfl
@[simp] theorem putRing_beams (s : State) (p : RingPort) (x : RingPortSt) : (putRing s p x).beams = s.beams := rfl
@[simp] theorem putRing_engines (s : State) (p : RingPort) (x : RingPortSt) : (putRing s p x).engines = s.engines := rfl
@[simp] theorem putRing_engMem (s : State) (p : RingPort) (x : RingPortSt) : (putRing s p x).engMem = s.engMem := rfl
@[simp] theorem putRing_tim (s : State) (p : RingPort) (x : RingPortSt) : (putRing s p x).tim = s.tim := rfl
@[simp] theorem putRing_regs (s : State) (p : RingPort) (x : RingPortSt) : (putRing s p x).regs = s.regs := rfl
@[simp] theorem putRing_pwr (s : State) (p : RingPort) (x : RingPortSt) : (putRing s p x).pwr = s.pwr := rfl
@[simp] theorem putRing_boot (s : State) (p : RingPort) (x : RingPortSt) : (putRing s p x).boot = s.boot := rfl
@[simp] theorem putRing_move (s : State) (p : RingPort) (x : RingPortSt) : (putRing s p x).move = s.move := rfl
@[simp] theorem putMbx_pending (s : State) (m : Mailbox) (x : MbxSt) : (putMbx s m x).pending = s.pending := rfl
@[simp] theorem putMbx_now (s : State) (m : Mailbox) (x : MbxSt) : (putMbx s m x).now = s.now := rfl
@[simp] theorem putMbx_serial (s : State) (m : Mailbox) (x : MbxSt) : (putMbx s m x).serial = s.serial := rfl
@[simp] theorem putMbx_free (s : State) (m : Mailbox) (x : MbxSt) : (putMbx s m x).free = s.free := rfl
@[simp] theorem putMbx_cache (s : State) (m : Mailbox) (x : MbxSt) : (putMbx s m x).cache = s.cache := rfl
@[simp] theorem putMbx_home (s : State) (m : Mailbox) (x : MbxSt) : (putMbx s m x).home = s.home := rfl
@[simp] theorem putMbx_net (s : State) (m : Mailbox) (x : MbxSt) : (putMbx s m x).net = s.net := rfl
@[simp] theorem putMbx_ports (s : State) (m : Mailbox) (x : MbxSt) : (putMbx s m x).ports = s.ports := rfl
@[simp] theorem putMbx_parts (s : State) (m : Mailbox) (x : MbxSt) : (putMbx s m x).parts = s.parts := rfl
@[simp] theorem putMbx_ctrs (s : State) (m : Mailbox) (x : MbxSt) : (putMbx s m x).ctrs = s.ctrs := rfl
@[simp] theorem putMbx_mem (s : State) (m : Mailbox) (x : MbxSt) : (putMbx s m x).mem = s.mem := rfl
@[simp] theorem putMbx_tmo (s : State) (m : Mailbox) (x : MbxSt) : (putMbx s m x).tmo = s.tmo := rfl
@[simp] theorem putMbx_refl (s : State) (m : Mailbox) (x : MbxSt) : (putMbx s m x).refl = s.refl := rfl
@[simp] theorem putMbx_out (s : State) (m : Mailbox) (x : MbxSt) : (putMbx s m x).out = s.out := rfl
@[simp] theorem putMbx_ctrlOut (s : State) (m : Mailbox) (x : MbxSt) : (putMbx s m x).ctrlOut = s.ctrlOut := rfl
@[simp] theorem putMbx_reports (s : State) (m : Mailbox) (x : MbxSt) : (putMbx s m x).reports = s.reports := rfl
@[simp] theorem putMbx_unwired (s : State) (m : Mailbox) (x : MbxSt) : (putMbx s m x).unwired = s.unwired := rfl
@[simp] theorem putMbx_snpReady (s : State) (m : Mailbox) (x : MbxSt) : (putMbx s m x).snpReady = s.snpReady := rfl
@[simp] theorem putMbx_ddrWrr (s : State) (m : Mailbox) (x : MbxSt) : (putMbx s m x).ddrWrr = s.ddrWrr := rfl
@[simp] theorem putMbx_capacity (s : State) (m : Mailbox) (x : MbxSt) : (putMbx s m x).capacity = s.capacity := rfl
@[simp] theorem putMbx_slow (s : State) (m : Mailbox) (x : MbxSt) : (putMbx s m x).slow = s.slow := rfl
@[simp] theorem putMbx_ddrFour (s : State) (m : Mailbox) (x : MbxSt) : (putMbx s m x).ddrFour = s.ddrFour := rfl
@[simp] theorem putMbx_ddrHigh (s : State) (m : Mailbox) (x : MbxSt) : (putMbx s m x).ddrHigh = s.ddrHigh := rfl
@[simp] theorem putMbx_ddrRet (s : State) (m : Mailbox) (x : MbxSt) : (putMbx s m x).ddrRet = s.ddrRet := rfl
@[simp] theorem putMbx_ddrq (s : State) (m : Mailbox) (x : MbxSt) : (putMbx s m x).ddrq = s.ddrq := rfl
@[simp] theorem putMbx_chans (s : State) (m : Mailbox) (x : MbxSt) : (putMbx s m x).chans = s.chans := rfl
@[simp] theorem putMbx_hbms (s : State) (m : Mailbox) (x : MbxSt) : (putMbx s m x).hbms = s.hbms := rfl
@[simp] theorem putMbx_beams (s : State) (m : Mailbox) (x : MbxSt) : (putMbx s m x).beams = s.beams := rfl
@[simp] theorem putMbx_engines (s : State) (m : Mailbox) (x : MbxSt) : (putMbx s m x).engines = s.engines := rfl
@[simp] theorem putMbx_engMem (s : State) (m : Mailbox) (x : MbxSt) : (putMbx s m x).engMem = s.engMem := rfl
@[simp] theorem putMbx_tim (s : State) (m : Mailbox) (x : MbxSt) : (putMbx s m x).tim = s.tim := rfl
@[simp] theorem putMbx_regs (s : State) (m : Mailbox) (x : MbxSt) : (putMbx s m x).regs = s.regs := rfl
@[simp] theorem putMbx_pwr (s : State) (m : Mailbox) (x : MbxSt) : (putMbx s m x).pwr = s.pwr := rfl
@[simp] theorem putMbx_boot (s : State) (m : Mailbox) (x : MbxSt) : (putMbx s m x).boot = s.boot := rfl
@[simp] theorem putMbx_move (s : State) (m : Mailbox) (x : MbxSt) : (putMbx s m x).move = s.move := rfl
@[simp] theorem putOp_pending (s : State) (k : SlotRef) (x : OpSlot) : (putOp s k x).pending = s.pending := rfl
@[simp] theorem putOp_now (s : State) (k : SlotRef) (x : OpSlot) : (putOp s k x).now = s.now := rfl
@[simp] theorem putOp_serial (s : State) (k : SlotRef) (x : OpSlot) : (putOp s k x).serial = s.serial := rfl
@[simp] theorem putOp_free (s : State) (k : SlotRef) (x : OpSlot) : (putOp s k x).free = s.free := rfl
@[simp] theorem putOp_cache (s : State) (k : SlotRef) (x : OpSlot) : (putOp s k x).cache = s.cache := rfl
@[simp] theorem putOp_home (s : State) (k : SlotRef) (x : OpSlot) : (putOp s k x).home = s.home := rfl
@[simp] theorem putOp_net (s : State) (k : SlotRef) (x : OpSlot) : (putOp s k x).net = s.net := rfl
@[simp] theorem putOp_ports (s : State) (k : SlotRef) (x : OpSlot) : (putOp s k x).ports = s.ports := rfl
@[simp] theorem putOp_parts (s : State) (k : SlotRef) (x : OpSlot) : (putOp s k x).parts = s.parts := rfl
@[simp] theorem putOp_ctrs (s : State) (k : SlotRef) (x : OpSlot) : (putOp s k x).ctrs = s.ctrs := rfl
@[simp] theorem putOp_mem (s : State) (k : SlotRef) (x : OpSlot) : (putOp s k x).mem = s.mem := rfl
@[simp] theorem putOp_tmo (s : State) (k : SlotRef) (x : OpSlot) : (putOp s k x).tmo = s.tmo := rfl
@[simp] theorem putOp_refl (s : State) (k : SlotRef) (x : OpSlot) : (putOp s k x).refl = s.refl := rfl
@[simp] theorem putOp_out (s : State) (k : SlotRef) (x : OpSlot) : (putOp s k x).out = s.out := rfl
@[simp] theorem putOp_ctrlOut (s : State) (k : SlotRef) (x : OpSlot) : (putOp s k x).ctrlOut = s.ctrlOut := rfl
@[simp] theorem putOp_reports (s : State) (k : SlotRef) (x : OpSlot) : (putOp s k x).reports = s.reports := rfl
@[simp] theorem putOp_unwired (s : State) (k : SlotRef) (x : OpSlot) : (putOp s k x).unwired = s.unwired := rfl
@[simp] theorem putOp_snpReady (s : State) (k : SlotRef) (x : OpSlot) : (putOp s k x).snpReady = s.snpReady := rfl
@[simp] theorem putOp_ddrWrr (s : State) (k : SlotRef) (x : OpSlot) : (putOp s k x).ddrWrr = s.ddrWrr := rfl
@[simp] theorem putOp_capacity (s : State) (k : SlotRef) (x : OpSlot) : (putOp s k x).capacity = s.capacity := rfl
@[simp] theorem putOp_slow (s : State) (k : SlotRef) (x : OpSlot) : (putOp s k x).slow = s.slow := rfl
@[simp] theorem putOp_ddrFour (s : State) (k : SlotRef) (x : OpSlot) : (putOp s k x).ddrFour = s.ddrFour := rfl
@[simp] theorem putOp_ddrHigh (s : State) (k : SlotRef) (x : OpSlot) : (putOp s k x).ddrHigh = s.ddrHigh := rfl
@[simp] theorem putOp_ddrRet (s : State) (k : SlotRef) (x : OpSlot) : (putOp s k x).ddrRet = s.ddrRet := rfl
@[simp] theorem putOp_ddrq (s : State) (k : SlotRef) (x : OpSlot) : (putOp s k x).ddrq = s.ddrq := rfl
@[simp] theorem putOp_chans (s : State) (k : SlotRef) (x : OpSlot) : (putOp s k x).chans = s.chans := rfl
@[simp] theorem putOp_hbms (s : State) (k : SlotRef) (x : OpSlot) : (putOp s k x).hbms = s.hbms := rfl
@[simp] theorem putOp_beams (s : State) (k : SlotRef) (x : OpSlot) : (putOp s k x).beams = s.beams := rfl
@[simp] theorem putOp_engines (s : State) (k : SlotRef) (x : OpSlot) : (putOp s k x).engines = s.engines := rfl
@[simp] theorem putOp_engMem (s : State) (k : SlotRef) (x : OpSlot) : (putOp s k x).engMem = s.engMem := rfl
@[simp] theorem putOp_tim (s : State) (k : SlotRef) (x : OpSlot) : (putOp s k x).tim = s.tim := rfl
@[simp] theorem putOp_regs (s : State) (k : SlotRef) (x : OpSlot) : (putOp s k x).regs = s.regs := rfl
@[simp] theorem putOp_pwr (s : State) (k : SlotRef) (x : OpSlot) : (putOp s k x).pwr = s.pwr := rfl
@[simp] theorem putOp_boot (s : State) (k : SlotRef) (x : OpSlot) : (putOp s k x).boot = s.boot := rfl
@[simp] theorem putOp_move (s : State) (k : SlotRef) (x : OpSlot) : (putOp s k x).move = s.move := rfl
@[simp] theorem putBeam_pending (s : State) (c : BitVec 8) (x : BeamCtx) : (putBeam s c x).pending = s.pending := rfl
@[simp] theorem putBeam_now (s : State) (c : BitVec 8) (x : BeamCtx) : (putBeam s c x).now = s.now := rfl
@[simp] theorem putBeam_serial (s : State) (c : BitVec 8) (x : BeamCtx) : (putBeam s c x).serial = s.serial := rfl
@[simp] theorem putBeam_free (s : State) (c : BitVec 8) (x : BeamCtx) : (putBeam s c x).free = s.free := rfl
@[simp] theorem putBeam_cache (s : State) (c : BitVec 8) (x : BeamCtx) : (putBeam s c x).cache = s.cache := rfl
@[simp] theorem putBeam_home (s : State) (c : BitVec 8) (x : BeamCtx) : (putBeam s c x).home = s.home := rfl
@[simp] theorem putBeam_net (s : State) (c : BitVec 8) (x : BeamCtx) : (putBeam s c x).net = s.net := rfl
@[simp] theorem putBeam_ports (s : State) (c : BitVec 8) (x : BeamCtx) : (putBeam s c x).ports = s.ports := rfl
@[simp] theorem putBeam_parts (s : State) (c : BitVec 8) (x : BeamCtx) : (putBeam s c x).parts = s.parts := rfl
@[simp] theorem putBeam_ctrs (s : State) (c : BitVec 8) (x : BeamCtx) : (putBeam s c x).ctrs = s.ctrs := rfl
@[simp] theorem putBeam_mem (s : State) (c : BitVec 8) (x : BeamCtx) : (putBeam s c x).mem = s.mem := rfl
@[simp] theorem putBeam_tmo (s : State) (c : BitVec 8) (x : BeamCtx) : (putBeam s c x).tmo = s.tmo := rfl
@[simp] theorem putBeam_refl (s : State) (c : BitVec 8) (x : BeamCtx) : (putBeam s c x).refl = s.refl := rfl
@[simp] theorem putBeam_out (s : State) (c : BitVec 8) (x : BeamCtx) : (putBeam s c x).out = s.out := rfl
@[simp] theorem putBeam_ctrlOut (s : State) (c : BitVec 8) (x : BeamCtx) : (putBeam s c x).ctrlOut = s.ctrlOut := rfl
@[simp] theorem putBeam_reports (s : State) (c : BitVec 8) (x : BeamCtx) : (putBeam s c x).reports = s.reports := rfl
@[simp] theorem putBeam_unwired (s : State) (c : BitVec 8) (x : BeamCtx) : (putBeam s c x).unwired = s.unwired := rfl
@[simp] theorem putBeam_snpReady (s : State) (c : BitVec 8) (x : BeamCtx) : (putBeam s c x).snpReady = s.snpReady := rfl
@[simp] theorem putBeam_ddrWrr (s : State) (c : BitVec 8) (x : BeamCtx) : (putBeam s c x).ddrWrr = s.ddrWrr := rfl
@[simp] theorem putBeam_capacity (s : State) (c : BitVec 8) (x : BeamCtx) : (putBeam s c x).capacity = s.capacity := rfl
@[simp] theorem putBeam_slow (s : State) (c : BitVec 8) (x : BeamCtx) : (putBeam s c x).slow = s.slow := rfl
@[simp] theorem putBeam_ddrFour (s : State) (c : BitVec 8) (x : BeamCtx) : (putBeam s c x).ddrFour = s.ddrFour := rfl
@[simp] theorem putBeam_ddrHigh (s : State) (c : BitVec 8) (x : BeamCtx) : (putBeam s c x).ddrHigh = s.ddrHigh := rfl
@[simp] theorem putBeam_ddrRet (s : State) (c : BitVec 8) (x : BeamCtx) : (putBeam s c x).ddrRet = s.ddrRet := rfl
@[simp] theorem putBeam_ddrq (s : State) (c : BitVec 8) (x : BeamCtx) : (putBeam s c x).ddrq = s.ddrq := rfl
@[simp] theorem putBeam_chans (s : State) (c : BitVec 8) (x : BeamCtx) : (putBeam s c x).chans = s.chans := rfl
@[simp] theorem putBeam_hbms (s : State) (c : BitVec 8) (x : BeamCtx) : (putBeam s c x).hbms = s.hbms := rfl
@[simp] theorem putBeam_lan (s : State) (c : BitVec 8) (x : BeamCtx) : (putBeam s c x).lan = s.lan := rfl
@[simp] theorem putBeam_engines (s : State) (c : BitVec 8) (x : BeamCtx) : (putBeam s c x).engines = s.engines := rfl
@[simp] theorem putBeam_engMem (s : State) (c : BitVec 8) (x : BeamCtx) : (putBeam s c x).engMem = s.engMem := rfl
@[simp] theorem putBeam_tim (s : State) (c : BitVec 8) (x : BeamCtx) : (putBeam s c x).tim = s.tim := rfl
@[simp] theorem putBeam_regs (s : State) (c : BitVec 8) (x : BeamCtx) : (putBeam s c x).regs = s.regs := rfl
@[simp] theorem putBeam_pwr (s : State) (c : BitVec 8) (x : BeamCtx) : (putBeam s c x).pwr = s.pwr := rfl
@[simp] theorem putBeam_boot (s : State) (c : BitVec 8) (x : BeamCtx) : (putBeam s c x).boot = s.boot := rfl
@[simp] theorem putBeam_move (s : State) (c : BitVec 8) (x : BeamCtx) : (putBeam s c x).move = s.move := rfl
@[simp] theorem putEngine_pending (s : State) (e : Nat) (x : Engine) : (putEngine s e x).pending = s.pending := rfl
@[simp] theorem putEngine_now (s : State) (e : Nat) (x : Engine) : (putEngine s e x).now = s.now := rfl
@[simp] theorem putEngine_serial (s : State) (e : Nat) (x : Engine) : (putEngine s e x).serial = s.serial := rfl
@[simp] theorem putEngine_free (s : State) (e : Nat) (x : Engine) : (putEngine s e x).free = s.free := rfl
@[simp] theorem putEngine_cache (s : State) (e : Nat) (x : Engine) : (putEngine s e x).cache = s.cache := rfl
@[simp] theorem putEngine_home (s : State) (e : Nat) (x : Engine) : (putEngine s e x).home = s.home := rfl
@[simp] theorem putEngine_net (s : State) (e : Nat) (x : Engine) : (putEngine s e x).net = s.net := rfl
@[simp] theorem putEngine_ports (s : State) (e : Nat) (x : Engine) : (putEngine s e x).ports = s.ports := rfl
@[simp] theorem putEngine_parts (s : State) (e : Nat) (x : Engine) : (putEngine s e x).parts = s.parts := rfl
@[simp] theorem putEngine_ctrs (s : State) (e : Nat) (x : Engine) : (putEngine s e x).ctrs = s.ctrs := rfl
@[simp] theorem putEngine_mem (s : State) (e : Nat) (x : Engine) : (putEngine s e x).mem = s.mem := rfl
@[simp] theorem putEngine_tmo (s : State) (e : Nat) (x : Engine) : (putEngine s e x).tmo = s.tmo := rfl
@[simp] theorem putEngine_refl (s : State) (e : Nat) (x : Engine) : (putEngine s e x).refl = s.refl := rfl
@[simp] theorem putEngine_out (s : State) (e : Nat) (x : Engine) : (putEngine s e x).out = s.out := rfl
@[simp] theorem putEngine_ctrlOut (s : State) (e : Nat) (x : Engine) : (putEngine s e x).ctrlOut = s.ctrlOut := rfl
@[simp] theorem putEngine_reports (s : State) (e : Nat) (x : Engine) : (putEngine s e x).reports = s.reports := rfl
@[simp] theorem putEngine_unwired (s : State) (e : Nat) (x : Engine) : (putEngine s e x).unwired = s.unwired := rfl
@[simp] theorem putEngine_snpReady (s : State) (e : Nat) (x : Engine) : (putEngine s e x).snpReady = s.snpReady := rfl
@[simp] theorem putEngine_ddrWrr (s : State) (e : Nat) (x : Engine) : (putEngine s e x).ddrWrr = s.ddrWrr := rfl
@[simp] theorem putEngine_capacity (s : State) (e : Nat) (x : Engine) : (putEngine s e x).capacity = s.capacity := rfl
@[simp] theorem putEngine_slow (s : State) (e : Nat) (x : Engine) : (putEngine s e x).slow = s.slow := rfl
@[simp] theorem putEngine_ddrFour (s : State) (e : Nat) (x : Engine) : (putEngine s e x).ddrFour = s.ddrFour := rfl
@[simp] theorem putEngine_ddrHigh (s : State) (e : Nat) (x : Engine) : (putEngine s e x).ddrHigh = s.ddrHigh := rfl
@[simp] theorem putEngine_ddrRet (s : State) (e : Nat) (x : Engine) : (putEngine s e x).ddrRet = s.ddrRet := rfl
@[simp] theorem putEngine_ddrq (s : State) (e : Nat) (x : Engine) : (putEngine s e x).ddrq = s.ddrq := rfl
@[simp] theorem putEngine_chans (s : State) (e : Nat) (x : Engine) : (putEngine s e x).chans = s.chans := rfl
@[simp] theorem putEngine_hbms (s : State) (e : Nat) (x : Engine) : (putEngine s e x).hbms = s.hbms := rfl
@[simp] theorem putEngine_lan (s : State) (e : Nat) (x : Engine) : (putEngine s e x).lan = s.lan := rfl
@[simp] theorem putEngine_beams (s : State) (e : Nat) (x : Engine) : (putEngine s e x).beams = s.beams := rfl
@[simp] theorem putEngine_engMem (s : State) (e : Nat) (x : Engine) : (putEngine s e x).engMem = s.engMem := rfl
@[simp] theorem putEngine_tim (s : State) (e : Nat) (x : Engine) : (putEngine s e x).tim = s.tim := rfl
@[simp] theorem putEngine_regs (s : State) (e : Nat) (x : Engine) : (putEngine s e x).regs = s.regs := rfl
@[simp] theorem putEngine_pwr (s : State) (e : Nat) (x : Engine) : (putEngine s e x).pwr = s.pwr := rfl
@[simp] theorem putEngine_boot (s : State) (e : Nat) (x : Engine) : (putEngine s e x).boot = s.boot := rfl
@[simp] theorem putEngine_move (s : State) (e : Nat) (x : Engine) : (putEngine s e x).move = s.move := rfl
@[simp] theorem putDom_pending (s : State) (d : Nat) (x : Dom) : (putDom s d x).pending = s.pending := rfl
@[simp] theorem putDom_now (s : State) (d : Nat) (x : Dom) : (putDom s d x).now = s.now := rfl
@[simp] theorem putDom_serial (s : State) (d : Nat) (x : Dom) : (putDom s d x).serial = s.serial := rfl
@[simp] theorem putDom_free (s : State) (d : Nat) (x : Dom) : (putDom s d x).free = s.free := rfl
@[simp] theorem putDom_cache (s : State) (d : Nat) (x : Dom) : (putDom s d x).cache = s.cache := rfl
@[simp] theorem putDom_home (s : State) (d : Nat) (x : Dom) : (putDom s d x).home = s.home := rfl
@[simp] theorem putDom_net (s : State) (d : Nat) (x : Dom) : (putDom s d x).net = s.net := rfl
@[simp] theorem putDom_ports (s : State) (d : Nat) (x : Dom) : (putDom s d x).ports = s.ports := rfl
@[simp] theorem putDom_parts (s : State) (d : Nat) (x : Dom) : (putDom s d x).parts = s.parts := rfl
@[simp] theorem putDom_ctrs (s : State) (d : Nat) (x : Dom) : (putDom s d x).ctrs = s.ctrs := rfl
@[simp] theorem putDom_mem (s : State) (d : Nat) (x : Dom) : (putDom s d x).mem = s.mem := rfl
@[simp] theorem putDom_tmo (s : State) (d : Nat) (x : Dom) : (putDom s d x).tmo = s.tmo := rfl
@[simp] theorem putDom_refl (s : State) (d : Nat) (x : Dom) : (putDom s d x).refl = s.refl := rfl
@[simp] theorem putDom_out (s : State) (d : Nat) (x : Dom) : (putDom s d x).out = s.out := rfl
@[simp] theorem putDom_ctrlOut (s : State) (d : Nat) (x : Dom) : (putDom s d x).ctrlOut = s.ctrlOut := rfl
@[simp] theorem putDom_reports (s : State) (d : Nat) (x : Dom) : (putDom s d x).reports = s.reports := rfl
@[simp] theorem putDom_unwired (s : State) (d : Nat) (x : Dom) : (putDom s d x).unwired = s.unwired := rfl
@[simp] theorem putDom_snpReady (s : State) (d : Nat) (x : Dom) : (putDom s d x).snpReady = s.snpReady := rfl
@[simp] theorem putDom_ddrWrr (s : State) (d : Nat) (x : Dom) : (putDom s d x).ddrWrr = s.ddrWrr := rfl
@[simp] theorem putDom_capacity (s : State) (d : Nat) (x : Dom) : (putDom s d x).capacity = s.capacity := rfl
@[simp] theorem putDom_slow (s : State) (d : Nat) (x : Dom) : (putDom s d x).slow = s.slow := rfl
@[simp] theorem putDom_ddrFour (s : State) (d : Nat) (x : Dom) : (putDom s d x).ddrFour = s.ddrFour := rfl
@[simp] theorem putDom_ddrHigh (s : State) (d : Nat) (x : Dom) : (putDom s d x).ddrHigh = s.ddrHigh := rfl
@[simp] theorem putDom_ddrRet (s : State) (d : Nat) (x : Dom) : (putDom s d x).ddrRet = s.ddrRet := rfl
@[simp] theorem putDom_ddrq (s : State) (d : Nat) (x : Dom) : (putDom s d x).ddrq = s.ddrq := rfl
@[simp] theorem putDom_chans (s : State) (d : Nat) (x : Dom) : (putDom s d x).chans = s.chans := rfl
@[simp] theorem putDom_hbms (s : State) (d : Nat) (x : Dom) : (putDom s d x).hbms = s.hbms := rfl
@[simp] theorem putDom_lan (s : State) (d : Nat) (x : Dom) : (putDom s d x).lan = s.lan := rfl
@[simp] theorem putDom_beams (s : State) (d : Nat) (x : Dom) : (putDom s d x).beams = s.beams := rfl
@[simp] theorem putDom_engines (s : State) (d : Nat) (x : Dom) : (putDom s d x).engines = s.engines := rfl
@[simp] theorem putDom_engMem (s : State) (d : Nat) (x : Dom) : (putDom s d x).engMem = s.engMem := rfl
@[simp] theorem putDom_tim (s : State) (d : Nat) (x : Dom) : (putDom s d x).tim = s.tim := rfl
@[simp] theorem putDom_regs (s : State) (d : Nat) (x : Dom) : (putDom s d x).regs = s.regs := rfl
@[simp] theorem putDom_boot (s : State) (d : Nat) (x : Dom) : (putDom s d x).boot = s.boot := rfl
@[simp] theorem putDom_move (s : State) (d : Nat) (x : Dom) : (putDom s d x).move = s.move := rfl
@[simp] theorem putChan_pending (s : State) (n : Nat) (x : DdrCh) : (putChan s n x).pending = s.pending := rfl
@[simp] theorem putChan_now (s : State) (n : Nat) (x : DdrCh) : (putChan s n x).now = s.now := rfl
@[simp] theorem putChan_serial (s : State) (n : Nat) (x : DdrCh) : (putChan s n x).serial = s.serial := rfl
@[simp] theorem putChan_free (s : State) (n : Nat) (x : DdrCh) : (putChan s n x).free = s.free := rfl
@[simp] theorem putChan_cache (s : State) (n : Nat) (x : DdrCh) : (putChan s n x).cache = s.cache := rfl
@[simp] theorem putChan_home (s : State) (n : Nat) (x : DdrCh) : (putChan s n x).home = s.home := rfl
@[simp] theorem putChan_net (s : State) (n : Nat) (x : DdrCh) : (putChan s n x).net = s.net := rfl
@[simp] theorem putChan_ports (s : State) (n : Nat) (x : DdrCh) : (putChan s n x).ports = s.ports := rfl
@[simp] theorem putChan_parts (s : State) (n : Nat) (x : DdrCh) : (putChan s n x).parts = s.parts := rfl
@[simp] theorem putChan_ctrs (s : State) (n : Nat) (x : DdrCh) : (putChan s n x).ctrs = s.ctrs := rfl
@[simp] theorem putChan_mem (s : State) (n : Nat) (x : DdrCh) : (putChan s n x).mem = s.mem := rfl
@[simp] theorem putChan_tmo (s : State) (n : Nat) (x : DdrCh) : (putChan s n x).tmo = s.tmo := rfl
@[simp] theorem putChan_refl (s : State) (n : Nat) (x : DdrCh) : (putChan s n x).refl = s.refl := rfl
@[simp] theorem putChan_out (s : State) (n : Nat) (x : DdrCh) : (putChan s n x).out = s.out := rfl
@[simp] theorem putChan_ctrlOut (s : State) (n : Nat) (x : DdrCh) : (putChan s n x).ctrlOut = s.ctrlOut := rfl
@[simp] theorem putChan_reports (s : State) (n : Nat) (x : DdrCh) : (putChan s n x).reports = s.reports := rfl
@[simp] theorem putChan_unwired (s : State) (n : Nat) (x : DdrCh) : (putChan s n x).unwired = s.unwired := rfl
@[simp] theorem putChan_snpReady (s : State) (n : Nat) (x : DdrCh) : (putChan s n x).snpReady = s.snpReady := rfl
@[simp] theorem putChan_ddrWrr (s : State) (n : Nat) (x : DdrCh) : (putChan s n x).ddrWrr = s.ddrWrr := rfl
@[simp] theorem putChan_capacity (s : State) (n : Nat) (x : DdrCh) : (putChan s n x).capacity = s.capacity := rfl
@[simp] theorem putChan_slow (s : State) (n : Nat) (x : DdrCh) : (putChan s n x).slow = s.slow := rfl
@[simp] theorem putChan_ddrFour (s : State) (n : Nat) (x : DdrCh) : (putChan s n x).ddrFour = s.ddrFour := rfl
@[simp] theorem putChan_ddrHigh (s : State) (n : Nat) (x : DdrCh) : (putChan s n x).ddrHigh = s.ddrHigh := rfl
@[simp] theorem putChan_ddrRet (s : State) (n : Nat) (x : DdrCh) : (putChan s n x).ddrRet = s.ddrRet := rfl
@[simp] theorem putChan_ddrq (s : State) (n : Nat) (x : DdrCh) : (putChan s n x).ddrq = s.ddrq := rfl
@[simp] theorem putChan_hbms (s : State) (n : Nat) (x : DdrCh) : (putChan s n x).hbms = s.hbms := rfl
@[simp] theorem putChan_lan (s : State) (n : Nat) (x : DdrCh) : (putChan s n x).lan = s.lan := rfl
@[simp] theorem putChan_beams (s : State) (n : Nat) (x : DdrCh) : (putChan s n x).beams = s.beams := rfl
@[simp] theorem putChan_engines (s : State) (n : Nat) (x : DdrCh) : (putChan s n x).engines = s.engines := rfl
@[simp] theorem putChan_engMem (s : State) (n : Nat) (x : DdrCh) : (putChan s n x).engMem = s.engMem := rfl
@[simp] theorem putChan_tim (s : State) (n : Nat) (x : DdrCh) : (putChan s n x).tim = s.tim := rfl
@[simp] theorem putChan_regs (s : State) (n : Nat) (x : DdrCh) : (putChan s n x).regs = s.regs := rfl
@[simp] theorem putChan_pwr (s : State) (n : Nat) (x : DdrCh) : (putChan s n x).pwr = s.pwr := rfl
@[simp] theorem putChan_boot (s : State) (n : Nat) (x : DdrCh) : (putChan s n x).boot = s.boot := rfl
@[simp] theorem putChan_move (s : State) (n : Nat) (x : DdrCh) : (putChan s n x).move = s.move := rfl
@[simp] theorem putHbmSt_pending (s : State) (k : Nat) (x : HbmSt) : (putHbmSt s k x).pending = s.pending := rfl
@[simp] theorem putHbmSt_now (s : State) (k : Nat) (x : HbmSt) : (putHbmSt s k x).now = s.now := rfl
@[simp] theorem putHbmSt_serial (s : State) (k : Nat) (x : HbmSt) : (putHbmSt s k x).serial = s.serial := rfl
@[simp] theorem putHbmSt_free (s : State) (k : Nat) (x : HbmSt) : (putHbmSt s k x).free = s.free := rfl
@[simp] theorem putHbmSt_cache (s : State) (k : Nat) (x : HbmSt) : (putHbmSt s k x).cache = s.cache := rfl
@[simp] theorem putHbmSt_home (s : State) (k : Nat) (x : HbmSt) : (putHbmSt s k x).home = s.home := rfl
@[simp] theorem putHbmSt_net (s : State) (k : Nat) (x : HbmSt) : (putHbmSt s k x).net = s.net := rfl
@[simp] theorem putHbmSt_ports (s : State) (k : Nat) (x : HbmSt) : (putHbmSt s k x).ports = s.ports := rfl
@[simp] theorem putHbmSt_parts (s : State) (k : Nat) (x : HbmSt) : (putHbmSt s k x).parts = s.parts := rfl
@[simp] theorem putHbmSt_ctrs (s : State) (k : Nat) (x : HbmSt) : (putHbmSt s k x).ctrs = s.ctrs := rfl
@[simp] theorem putHbmSt_mem (s : State) (k : Nat) (x : HbmSt) : (putHbmSt s k x).mem = s.mem := rfl
@[simp] theorem putHbmSt_tmo (s : State) (k : Nat) (x : HbmSt) : (putHbmSt s k x).tmo = s.tmo := rfl
@[simp] theorem putHbmSt_refl (s : State) (k : Nat) (x : HbmSt) : (putHbmSt s k x).refl = s.refl := rfl
@[simp] theorem putHbmSt_out (s : State) (k : Nat) (x : HbmSt) : (putHbmSt s k x).out = s.out := rfl
@[simp] theorem putHbmSt_ctrlOut (s : State) (k : Nat) (x : HbmSt) : (putHbmSt s k x).ctrlOut = s.ctrlOut := rfl
@[simp] theorem putHbmSt_reports (s : State) (k : Nat) (x : HbmSt) : (putHbmSt s k x).reports = s.reports := rfl
@[simp] theorem putHbmSt_unwired (s : State) (k : Nat) (x : HbmSt) : (putHbmSt s k x).unwired = s.unwired := rfl
@[simp] theorem putHbmSt_snpReady (s : State) (k : Nat) (x : HbmSt) : (putHbmSt s k x).snpReady = s.snpReady := rfl
@[simp] theorem putHbmSt_ddrWrr (s : State) (k : Nat) (x : HbmSt) : (putHbmSt s k x).ddrWrr = s.ddrWrr := rfl
@[simp] theorem putHbmSt_capacity (s : State) (k : Nat) (x : HbmSt) : (putHbmSt s k x).capacity = s.capacity := rfl
@[simp] theorem putHbmSt_slow (s : State) (k : Nat) (x : HbmSt) : (putHbmSt s k x).slow = s.slow := rfl
@[simp] theorem putHbmSt_ddrFour (s : State) (k : Nat) (x : HbmSt) : (putHbmSt s k x).ddrFour = s.ddrFour := rfl
@[simp] theorem putHbmSt_ddrHigh (s : State) (k : Nat) (x : HbmSt) : (putHbmSt s k x).ddrHigh = s.ddrHigh := rfl
@[simp] theorem putHbmSt_ddrRet (s : State) (k : Nat) (x : HbmSt) : (putHbmSt s k x).ddrRet = s.ddrRet := rfl
@[simp] theorem putHbmSt_ddrq (s : State) (k : Nat) (x : HbmSt) : (putHbmSt s k x).ddrq = s.ddrq := rfl
@[simp] theorem putHbmSt_chans (s : State) (k : Nat) (x : HbmSt) : (putHbmSt s k x).chans = s.chans := rfl
@[simp] theorem putHbmSt_lan (s : State) (k : Nat) (x : HbmSt) : (putHbmSt s k x).lan = s.lan := rfl
@[simp] theorem putHbmSt_beams (s : State) (k : Nat) (x : HbmSt) : (putHbmSt s k x).beams = s.beams := rfl
@[simp] theorem putHbmSt_engines (s : State) (k : Nat) (x : HbmSt) : (putHbmSt s k x).engines = s.engines := rfl
@[simp] theorem putHbmSt_engMem (s : State) (k : Nat) (x : HbmSt) : (putHbmSt s k x).engMem = s.engMem := rfl
@[simp] theorem putHbmSt_tim (s : State) (k : Nat) (x : HbmSt) : (putHbmSt s k x).tim = s.tim := rfl
@[simp] theorem putHbmSt_regs (s : State) (k : Nat) (x : HbmSt) : (putHbmSt s k x).regs = s.regs := rfl
@[simp] theorem putHbmSt_pwr (s : State) (k : Nat) (x : HbmSt) : (putHbmSt s k x).pwr = s.pwr := rfl
@[simp] theorem putHbmSt_boot (s : State) (k : Nat) (x : HbmSt) : (putHbmSt s k x).boot = s.boot := rfl
@[simp] theorem putHbmSt_move (s : State) (k : Nat) (x : HbmSt) : (putHbmSt s k x).move = s.move := rfl
@[simp] theorem putAcc_pending (s : State) (b : Nat) (x : AccBlk) : (putAcc s b x).pending = s.pending := rfl
@[simp] theorem putAcc_now (s : State) (b : Nat) (x : AccBlk) : (putAcc s b x).now = s.now := rfl
@[simp] theorem putAcc_serial (s : State) (b : Nat) (x : AccBlk) : (putAcc s b x).serial = s.serial := rfl
@[simp] theorem putAcc_free (s : State) (b : Nat) (x : AccBlk) : (putAcc s b x).free = s.free := rfl
@[simp] theorem putAcc_cache (s : State) (b : Nat) (x : AccBlk) : (putAcc s b x).cache = s.cache := rfl
@[simp] theorem putAcc_home (s : State) (b : Nat) (x : AccBlk) : (putAcc s b x).home = s.home := rfl
@[simp] theorem putAcc_net (s : State) (b : Nat) (x : AccBlk) : (putAcc s b x).net = s.net := rfl
@[simp] theorem putAcc_ports (s : State) (b : Nat) (x : AccBlk) : (putAcc s b x).ports = s.ports := rfl
@[simp] theorem putAcc_parts (s : State) (b : Nat) (x : AccBlk) : (putAcc s b x).parts = s.parts := rfl
@[simp] theorem putAcc_ctrs (s : State) (b : Nat) (x : AccBlk) : (putAcc s b x).ctrs = s.ctrs := rfl
@[simp] theorem putAcc_mem (s : State) (b : Nat) (x : AccBlk) : (putAcc s b x).mem = s.mem := rfl
@[simp] theorem putAcc_tmo (s : State) (b : Nat) (x : AccBlk) : (putAcc s b x).tmo = s.tmo := rfl
@[simp] theorem putAcc_refl (s : State) (b : Nat) (x : AccBlk) : (putAcc s b x).refl = s.refl := rfl
@[simp] theorem putAcc_out (s : State) (b : Nat) (x : AccBlk) : (putAcc s b x).out = s.out := rfl
@[simp] theorem putAcc_ctrlOut (s : State) (b : Nat) (x : AccBlk) : (putAcc s b x).ctrlOut = s.ctrlOut := rfl
@[simp] theorem putAcc_reports (s : State) (b : Nat) (x : AccBlk) : (putAcc s b x).reports = s.reports := rfl
@[simp] theorem putAcc_unwired (s : State) (b : Nat) (x : AccBlk) : (putAcc s b x).unwired = s.unwired := rfl
@[simp] theorem putAcc_snpReady (s : State) (b : Nat) (x : AccBlk) : (putAcc s b x).snpReady = s.snpReady := rfl
@[simp] theorem putAcc_ddrWrr (s : State) (b : Nat) (x : AccBlk) : (putAcc s b x).ddrWrr = s.ddrWrr := rfl
@[simp] theorem putAcc_capacity (s : State) (b : Nat) (x : AccBlk) : (putAcc s b x).capacity = s.capacity := rfl
@[simp] theorem putAcc_slow (s : State) (b : Nat) (x : AccBlk) : (putAcc s b x).slow = s.slow := rfl
@[simp] theorem putAcc_ddrFour (s : State) (b : Nat) (x : AccBlk) : (putAcc s b x).ddrFour = s.ddrFour := rfl
@[simp] theorem putAcc_ddrHigh (s : State) (b : Nat) (x : AccBlk) : (putAcc s b x).ddrHigh = s.ddrHigh := rfl
@[simp] theorem putAcc_ddrRet (s : State) (b : Nat) (x : AccBlk) : (putAcc s b x).ddrRet = s.ddrRet := rfl
@[simp] theorem putAcc_ddrq (s : State) (b : Nat) (x : AccBlk) : (putAcc s b x).ddrq = s.ddrq := rfl
@[simp] theorem putAcc_chans (s : State) (b : Nat) (x : AccBlk) : (putAcc s b x).chans = s.chans := rfl
@[simp] theorem putAcc_hbms (s : State) (b : Nat) (x : AccBlk) : (putAcc s b x).hbms = s.hbms := rfl
@[simp] theorem putAcc_lan (s : State) (b : Nat) (x : AccBlk) : (putAcc s b x).lan = s.lan := rfl
@[simp] theorem putAcc_beams (s : State) (b : Nat) (x : AccBlk) : (putAcc s b x).beams = s.beams := rfl
@[simp] theorem putAcc_engines (s : State) (b : Nat) (x : AccBlk) : (putAcc s b x).engines = s.engines := rfl
@[simp] theorem putAcc_engMem (s : State) (b : Nat) (x : AccBlk) : (putAcc s b x).engMem = s.engMem := rfl
@[simp] theorem putAcc_tim (s : State) (b : Nat) (x : AccBlk) : (putAcc s b x).tim = s.tim := rfl
@[simp] theorem putAcc_pwr (s : State) (b : Nat) (x : AccBlk) : (putAcc s b x).pwr = s.pwr := rfl
@[simp] theorem putAcc_boot (s : State) (b : Nat) (x : AccBlk) : (putAcc s b x).boot = s.boot := rfl
@[simp] theorem putAcc_move (s : State) (b : Nat) (x : AccBlk) : (putAcc s b x).move = s.move := rfl
@[simp] theorem setRead_pending (s : State) (a : Master) (v : BitVec 64) : (setRead s a v).pending = s.pending := rfl
@[simp] theorem setRead_now (s : State) (a : Master) (v : BitVec 64) : (setRead s a v).now = s.now := rfl
@[simp] theorem setRead_serial (s : State) (a : Master) (v : BitVec 64) : (setRead s a v).serial = s.serial := rfl
@[simp] theorem setRead_free (s : State) (a : Master) (v : BitVec 64) : (setRead s a v).free = s.free := rfl
@[simp] theorem setRead_cache (s : State) (a : Master) (v : BitVec 64) : (setRead s a v).cache = s.cache := rfl
@[simp] theorem setRead_home (s : State) (a : Master) (v : BitVec 64) : (setRead s a v).home = s.home := rfl
@[simp] theorem setRead_net (s : State) (a : Master) (v : BitVec 64) : (setRead s a v).net = s.net := rfl
@[simp] theorem setRead_ports (s : State) (a : Master) (v : BitVec 64) : (setRead s a v).ports = s.ports := rfl
@[simp] theorem setRead_parts (s : State) (a : Master) (v : BitVec 64) : (setRead s a v).parts = s.parts := rfl
@[simp] theorem setRead_ctrs (s : State) (a : Master) (v : BitVec 64) : (setRead s a v).ctrs = s.ctrs := rfl
@[simp] theorem setRead_mem (s : State) (a : Master) (v : BitVec 64) : (setRead s a v).mem = s.mem := rfl
@[simp] theorem setRead_tmo (s : State) (a : Master) (v : BitVec 64) : (setRead s a v).tmo = s.tmo := rfl
@[simp] theorem setRead_refl (s : State) (a : Master) (v : BitVec 64) : (setRead s a v).refl = s.refl := rfl
@[simp] theorem setRead_out (s : State) (a : Master) (v : BitVec 64) : (setRead s a v).out = s.out := rfl
@[simp] theorem setRead_ctrlOut (s : State) (a : Master) (v : BitVec 64) : (setRead s a v).ctrlOut = s.ctrlOut := rfl
@[simp] theorem setRead_reports (s : State) (a : Master) (v : BitVec 64) : (setRead s a v).reports = s.reports := rfl
@[simp] theorem setRead_unwired (s : State) (a : Master) (v : BitVec 64) : (setRead s a v).unwired = s.unwired := rfl
@[simp] theorem setRead_snpReady (s : State) (a : Master) (v : BitVec 64) : (setRead s a v).snpReady = s.snpReady := rfl
@[simp] theorem setRead_ddrWrr (s : State) (a : Master) (v : BitVec 64) : (setRead s a v).ddrWrr = s.ddrWrr := rfl
@[simp] theorem setRead_capacity (s : State) (a : Master) (v : BitVec 64) : (setRead s a v).capacity = s.capacity := rfl
@[simp] theorem setRead_slow (s : State) (a : Master) (v : BitVec 64) : (setRead s a v).slow = s.slow := rfl
@[simp] theorem setRead_ddrFour (s : State) (a : Master) (v : BitVec 64) : (setRead s a v).ddrFour = s.ddrFour := rfl
@[simp] theorem setRead_ddrHigh (s : State) (a : Master) (v : BitVec 64) : (setRead s a v).ddrHigh = s.ddrHigh := rfl
@[simp] theorem setRead_ddrRet (s : State) (a : Master) (v : BitVec 64) : (setRead s a v).ddrRet = s.ddrRet := rfl
@[simp] theorem setRead_ddrq (s : State) (a : Master) (v : BitVec 64) : (setRead s a v).ddrq = s.ddrq := rfl
@[simp] theorem setRead_chans (s : State) (a : Master) (v : BitVec 64) : (setRead s a v).chans = s.chans := rfl
@[simp] theorem setRead_hbms (s : State) (a : Master) (v : BitVec 64) : (setRead s a v).hbms = s.hbms := rfl
@[simp] theorem setRead_lan (s : State) (a : Master) (v : BitVec 64) : (setRead s a v).lan = s.lan := rfl
@[simp] theorem setRead_beams (s : State) (a : Master) (v : BitVec 64) : (setRead s a v).beams = s.beams := rfl
@[simp] theorem setRead_engines (s : State) (a : Master) (v : BitVec 64) : (setRead s a v).engines = s.engines := rfl
@[simp] theorem setRead_engMem (s : State) (a : Master) (v : BitVec 64) : (setRead s a v).engMem = s.engMem := rfl
@[simp] theorem setRead_tim (s : State) (a : Master) (v : BitVec 64) : (setRead s a v).tim = s.tim := rfl
@[simp] theorem setRead_pwr (s : State) (a : Master) (v : BitVec 64) : (setRead s a v).pwr = s.pwr := rfl
@[simp] theorem setRead_boot (s : State) (a : Master) (v : BitVec 64) : (setRead s a v).boot = s.boot := rfl
@[simp] theorem setRead_move (s : State) (a : Master) (v : BitVec 64) : (setRead s a v).move = s.move := rfl
@[simp] theorem settle_pending (s : State) : (settle s).pending = s.pending := rfl
@[simp] theorem settle_now (s : State) : (settle s).now = s.now := rfl
@[simp] theorem settle_serial (s : State) : (settle s).serial = s.serial := rfl
@[simp] theorem settle_free (s : State) : (settle s).free = s.free := rfl
@[simp] theorem settle_cache (s : State) : (settle s).cache = s.cache := rfl
@[simp] theorem settle_home (s : State) : (settle s).home = s.home := rfl
@[simp] theorem settle_net (s : State) : (settle s).net = s.net := rfl
@[simp] theorem settle_ports (s : State) : (settle s).ports = s.ports := rfl
@[simp] theorem settle_parts (s : State) : (settle s).parts = s.parts := rfl
@[simp] theorem settle_ctrs (s : State) : (settle s).ctrs = s.ctrs := rfl
@[simp] theorem settle_mem (s : State) : (settle s).mem = s.mem := rfl
@[simp] theorem settle_tmo (s : State) : (settle s).tmo = s.tmo := rfl
@[simp] theorem settle_refl (s : State) : (settle s).refl = s.refl := rfl
@[simp] theorem settle_out (s : State) : (settle s).out = s.out := rfl
@[simp] theorem settle_ctrlOut (s : State) : (settle s).ctrlOut = s.ctrlOut := rfl
@[simp] theorem settle_reports (s : State) : (settle s).reports = s.reports := rfl
@[simp] theorem settle_unwired (s : State) : (settle s).unwired = s.unwired := rfl
@[simp] theorem settle_snpReady (s : State) : (settle s).snpReady = s.snpReady := rfl
@[simp] theorem settle_ddrWrr (s : State) : (settle s).ddrWrr = s.ddrWrr := rfl
@[simp] theorem settle_capacity (s : State) : (settle s).capacity = s.capacity := rfl
@[simp] theorem settle_slow (s : State) : (settle s).slow = s.slow := rfl
@[simp] theorem settle_ddrFour (s : State) : (settle s).ddrFour = s.ddrFour := rfl
@[simp] theorem settle_ddrHigh (s : State) : (settle s).ddrHigh = s.ddrHigh := rfl
@[simp] theorem settle_ddrRet (s : State) : (settle s).ddrRet = s.ddrRet := rfl
@[simp] theorem settle_ddrq (s : State) : (settle s).ddrq = s.ddrq := rfl
@[simp] theorem settle_chans (s : State) : (settle s).chans = s.chans := rfl
@[simp] theorem settle_hbms (s : State) : (settle s).hbms = s.hbms := rfl
@[simp] theorem settle_lan (s : State) : (settle s).lan = s.lan := rfl
@[simp] theorem settle_beams (s : State) : (settle s).beams = s.beams := rfl
@[simp] theorem settle_engines (s : State) : (settle s).engines = s.engines := rfl
@[simp] theorem settle_engMem (s : State) : (settle s).engMem = s.engMem := rfl
@[simp] theorem settle_tim (s : State) : (settle s).tim = s.tim := rfl
@[simp] theorem settle_regs (s : State) : (settle s).regs = s.regs := rfl
@[simp] theorem settle_pwr (s : State) : (settle s).pwr = s.pwr := rfl
@[simp] theorem settle_move (s : State) : (settle s).move = s.move := rfl

/-! What is read back. -/

@[simp] theorem portSt_putPort_self (s : State) (p : PortId) (x : PortSt) : portSt (putPort s p x) p = x := tget_tset_self ..
@[simp] theorem partSt_putPart_self (s : State) (p : PartId) (x : PartSt) : partSt (putPart s p x) p = x := tget_tset_self ..
@[simp] theorem sliceSt_putSlice_self (s : State) (sl : SliceId) (x : SliceSt) : sliceSt (putSlice s sl x) sl = x := tget_tset_self ..
@[simp] theorem tagAt_putTag_self (s : State) (sl : SliceId) (set : BitVec 14) (w : Nat) (e : TagEntry) :
    tagAt (putTag s sl set w e) sl set w = e := tget_tset_self ..
@[simp] theorem missAt_putMiss_self (s : State) (sl : SliceId) (i : Nat) (e : Option MissEntry) :
    missAt (putMiss s sl i e) sl i = e := tget_tset_self ..
@[simp] theorem penAt_putPen_self (s : State) (sl : SliceId) (i : Nat) (e : Option PenBuf) :
    penAt (putPen s sl i e) sl i = e := tget_tset_self ..
@[simp] theorem mbxSt_putMbx_self (s : State) (m : Mailbox) (x : MbxSt) : mbxSt (putMbx s m x) m = x := tget_tset_self ..
@[simp] theorem opSlot_putOp_self (s : State) (k : SlotRef) (x : OpSlot) : opSlot (putOp s k x) k = x := tget_tset_self ..
@[simp] theorem beamCtx_putBeam_self (s : State) (c : BitVec 8) (x : BeamCtx) : beamCtx (putBeam s c x) c = x := tget_tset_self ..
@[simp] theorem engineSt_putEngine_self (s : State) (e : Nat) (x : Engine) : engineSt (putEngine s e x) e = x := tget_tset_self ..
@[simp] theorem domSt_putDom_self (s : State) (d : Nat) (x : Dom) :
    domSt (putDom s d x) d = if unwiredDom s d then { dom0 with state := 3 } else x := by
  unfold domSt putDom unwiredDom; dsimp only; split
  · rfl
  · exact tget_tset_self ..
@[simp] theorem chanSt_putChan_self (s : State) (n : Nat) (x : DdrCh) : chanSt (putChan s n x) n = x := tget_tset_self ..
@[simp] theorem hbmSt_putHbmSt_self (s : State) (k : Nat) (x : HbmSt) : hbmSt (putHbmSt s k x) k = x := tget_tset_self ..
@[simp] theorem accSt_putAcc_self (s : State) (b : Nat) (x : AccBlk) : accSt (putAcc s b x) b = x := tget_tset_self ..

/-- Another partition. -/
theorem partSt_putPart_of_ne (s : State) {p q : PartId} (h : p ≠ q) (x : PartSt) : partSt (putPart s p x) q = partSt s q := by
  refine tget_tset_of_ne _ _ ?_ _
  exact fun e => h (BitVec.eq_of_toNat_eq e)
/-- Another port. -/
theorem portSt_putPort_of_ne (s : State) {p q : PortId} (h : p ≠ q) (x : PortSt) : portSt (putPort s p x) q = portSt s q := by
  refine tget_tset_of_ne _ _ ?_ _
  exact fun e => h (BitVec.eq_of_toNat_eq e)
/-- Another operation slot. -/
theorem opSlot_putOp_of_ne (s : State) {k j : SlotRef} (h : k ≠ j) (x : OpSlot) : opSlot (putOp s k x) j = opSlot s j := by
  refine tget_tset_of_ne _ _ ?_ _
  exact fun e => h (BitVec.eq_of_toNat_eq e)

/-! Raising, counting and logging change the counters, the log and what goes out, and nothing else. -/

@[simp] theorem raiseEvt_pending (s : State) (v : Nat) : (raiseEvt s v).pending = s.pending := rfl
@[simp] theorem raiseEvt_now (s : State) (v : Nat) : (raiseEvt s v).now = s.now := rfl
@[simp] theorem raiseEvt_serial (s : State) (v : Nat) : (raiseEvt s v).serial = s.serial := rfl
@[simp] theorem raiseEvt_free (s : State) (v : Nat) : (raiseEvt s v).free = s.free := rfl
@[simp] theorem raiseEvt_cache (s : State) (v : Nat) : (raiseEvt s v).cache = s.cache := rfl
@[simp] theorem raiseEvt_home (s : State) (v : Nat) : (raiseEvt s v).home = s.home := rfl
@[simp] theorem raiseEvt_net (s : State) (v : Nat) : (raiseEvt s v).net = s.net := rfl
@[simp] theorem raiseEvt_ports (s : State) (v : Nat) : (raiseEvt s v).ports = s.ports := rfl
@[simp] theorem raiseEvt_parts (s : State) (v : Nat) : (raiseEvt s v).parts = s.parts := rfl
@[simp] theorem raiseEvt_mem (s : State) (v : Nat) : (raiseEvt s v).mem = s.mem := rfl
@[simp] theorem raiseEvt_tmo (s : State) (v : Nat) : (raiseEvt s v).tmo = s.tmo := rfl
@[simp] theorem raiseEvt_refl (s : State) (v : Nat) : (raiseEvt s v).refl = s.refl := rfl
@[simp] theorem raiseEvt_ctrlOut (s : State) (v : Nat) : (raiseEvt s v).ctrlOut = s.ctrlOut := rfl
@[simp] theorem raiseEvt_reports (s : State) (v : Nat) : (raiseEvt s v).reports = s.reports := rfl
@[simp] theorem raiseEvt_unwired (s : State) (v : Nat) : (raiseEvt s v).unwired = s.unwired := rfl
@[simp] theorem raiseEvt_snpReady (s : State) (v : Nat) : (raiseEvt s v).snpReady = s.snpReady := rfl
@[simp] theorem raiseEvt_ddrWrr (s : State) (v : Nat) : (raiseEvt s v).ddrWrr = s.ddrWrr := rfl
@[simp] theorem raiseEvt_capacity (s : State) (v : Nat) : (raiseEvt s v).capacity = s.capacity := rfl
@[simp] theorem raiseEvt_slow (s : State) (v : Nat) : (raiseEvt s v).slow = s.slow := rfl
@[simp] theorem raiseEvt_ddrFour (s : State) (v : Nat) : (raiseEvt s v).ddrFour = s.ddrFour := rfl
@[simp] theorem raiseEvt_ddrHigh (s : State) (v : Nat) : (raiseEvt s v).ddrHigh = s.ddrHigh := rfl
@[simp] theorem raiseEvt_ddrRet (s : State) (v : Nat) : (raiseEvt s v).ddrRet = s.ddrRet := rfl
@[simp] theorem raiseEvt_ddrq (s : State) (v : Nat) : (raiseEvt s v).ddrq = s.ddrq := rfl
@[simp] theorem raiseEvt_chans (s : State) (v : Nat) : (raiseEvt s v).chans = s.chans := rfl
@[simp] theorem raiseEvt_hbms (s : State) (v : Nat) : (raiseEvt s v).hbms = s.hbms := rfl
@[simp] theorem raiseEvt_lan (s : State) (v : Nat) : (raiseEvt s v).lan = s.lan := rfl
@[simp] theorem raiseEvt_beams (s : State) (v : Nat) : (raiseEvt s v).beams = s.beams := rfl
@[simp] theorem raiseEvt_engines (s : State) (v : Nat) : (raiseEvt s v).engines = s.engines := rfl
@[simp] theorem raiseEvt_engMem (s : State) (v : Nat) : (raiseEvt s v).engMem = s.engMem := rfl
@[simp] theorem raiseEvt_tim (s : State) (v : Nat) : (raiseEvt s v).tim = s.tim := rfl
@[simp] theorem raiseEvt_regs (s : State) (v : Nat) : (raiseEvt s v).regs = s.regs := rfl
@[simp] theorem raiseEvt_pwr (s : State) (v : Nat) : (raiseEvt s v).pwr = s.pwr := rfl
@[simp] theorem raiseEvt_boot (s : State) (v : Nat) : (raiseEvt s v).boot = s.boot := rfl
@[simp] theorem raiseEvt_move (s : State) (v : Nat) : (raiseEvt s v).move = s.move := rfl
@[simp] theorem logAdd_pending (s : State) (c : BitVec 8) (ws : List Word) : (logAdd s c ws).pending = s.pending := by
  unfold logAdd; dsimp only; split <;> rfl
@[simp] theorem logAdd_now (s : State) (c : BitVec 8) (ws : List Word) : (logAdd s c ws).now = s.now := by
  unfold logAdd; dsimp only; split <;> rfl
@[simp] theorem logAdd_serial (s : State) (c : BitVec 8) (ws : List Word) : (logAdd s c ws).serial = s.serial := by
  unfold logAdd; dsimp only; split <;> rfl
@[simp] theorem logAdd_free (s : State) (c : BitVec 8) (ws : List Word) : (logAdd s c ws).free = s.free := by
  unfold logAdd; dsimp only; split <;> rfl
@[simp] theorem logAdd_cache (s : State) (c : BitVec 8) (ws : List Word) : (logAdd s c ws).cache = s.cache := by
  unfold logAdd; dsimp only; split <;> rfl
@[simp] theorem logAdd_home (s : State) (c : BitVec 8) (ws : List Word) : (logAdd s c ws).home = s.home := by
  unfold logAdd; dsimp only; split <;> rfl
@[simp] theorem logAdd_net (s : State) (c : BitVec 8) (ws : List Word) : (logAdd s c ws).net = s.net := by
  unfold logAdd; dsimp only; split <;> rfl
@[simp] theorem logAdd_ports (s : State) (c : BitVec 8) (ws : List Word) : (logAdd s c ws).ports = s.ports := by
  unfold logAdd; dsimp only; split <;> rfl
@[simp] theorem logAdd_parts (s : State) (c : BitVec 8) (ws : List Word) : (logAdd s c ws).parts = s.parts := by
  unfold logAdd; dsimp only; split <;> rfl
@[simp] theorem logAdd_mem (s : State) (c : BitVec 8) (ws : List Word) : (logAdd s c ws).mem = s.mem := by
  unfold logAdd; dsimp only; split <;> rfl
@[simp] theorem logAdd_tmo (s : State) (c : BitVec 8) (ws : List Word) : (logAdd s c ws).tmo = s.tmo := by
  unfold logAdd; dsimp only; split <;> rfl
@[simp] theorem logAdd_refl (s : State) (c : BitVec 8) (ws : List Word) : (logAdd s c ws).refl = s.refl := by
  unfold logAdd; dsimp only; split <;> rfl
@[simp] theorem logAdd_ctrlOut (s : State) (c : BitVec 8) (ws : List Word) : (logAdd s c ws).ctrlOut = s.ctrlOut := by
  unfold logAdd; dsimp only; split <;> rfl
@[simp] theorem logAdd_reports (s : State) (c : BitVec 8) (ws : List Word) : (logAdd s c ws).reports = s.reports := by
  unfold logAdd; dsimp only; split <;> rfl
@[simp] theorem logAdd_unwired (s : State) (c : BitVec 8) (ws : List Word) : (logAdd s c ws).unwired = s.unwired := by
  unfold logAdd; dsimp only; split <;> rfl
@[simp] theorem logAdd_snpReady (s : State) (c : BitVec 8) (ws : List Word) : (logAdd s c ws).snpReady = s.snpReady := by
  unfold logAdd; dsimp only; split <;> rfl
@[simp] theorem logAdd_ddrWrr (s : State) (c : BitVec 8) (ws : List Word) : (logAdd s c ws).ddrWrr = s.ddrWrr := by
  unfold logAdd; dsimp only; split <;> rfl
@[simp] theorem logAdd_capacity (s : State) (c : BitVec 8) (ws : List Word) : (logAdd s c ws).capacity = s.capacity := by
  unfold logAdd; dsimp only; split <;> rfl
@[simp] theorem logAdd_slow (s : State) (c : BitVec 8) (ws : List Word) : (logAdd s c ws).slow = s.slow := by
  unfold logAdd; dsimp only; split <;> rfl
@[simp] theorem logAdd_ddrFour (s : State) (c : BitVec 8) (ws : List Word) : (logAdd s c ws).ddrFour = s.ddrFour := by
  unfold logAdd; dsimp only; split <;> rfl
@[simp] theorem logAdd_ddrHigh (s : State) (c : BitVec 8) (ws : List Word) : (logAdd s c ws).ddrHigh = s.ddrHigh := by
  unfold logAdd; dsimp only; split <;> rfl
@[simp] theorem logAdd_ddrRet (s : State) (c : BitVec 8) (ws : List Word) : (logAdd s c ws).ddrRet = s.ddrRet := by
  unfold logAdd; dsimp only; split <;> rfl
@[simp] theorem logAdd_ddrq (s : State) (c : BitVec 8) (ws : List Word) : (logAdd s c ws).ddrq = s.ddrq := by
  unfold logAdd; dsimp only; split <;> rfl
@[simp] theorem logAdd_chans (s : State) (c : BitVec 8) (ws : List Word) : (logAdd s c ws).chans = s.chans := by
  unfold logAdd; dsimp only; split <;> rfl
@[simp] theorem logAdd_hbms (s : State) (c : BitVec 8) (ws : List Word) : (logAdd s c ws).hbms = s.hbms := by
  unfold logAdd; dsimp only; split <;> rfl
@[simp] theorem logAdd_lan (s : State) (c : BitVec 8) (ws : List Word) : (logAdd s c ws).lan = s.lan := by
  unfold logAdd; dsimp only; split <;> rfl
@[simp] theorem logAdd_beams (s : State) (c : BitVec 8) (ws : List Word) : (logAdd s c ws).beams = s.beams := by
  unfold logAdd; dsimp only; split <;> rfl
@[simp] theorem logAdd_engines (s : State) (c : BitVec 8) (ws : List Word) : (logAdd s c ws).engines = s.engines := by
  unfold logAdd; dsimp only; split <;> rfl
@[simp] theorem logAdd_engMem (s : State) (c : BitVec 8) (ws : List Word) : (logAdd s c ws).engMem = s.engMem := by
  unfold logAdd; dsimp only; split <;> rfl
@[simp] theorem logAdd_tim (s : State) (c : BitVec 8) (ws : List Word) : (logAdd s c ws).tim = s.tim := by
  unfold logAdd; dsimp only; split <;> rfl
@[simp] theorem logAdd_regs (s : State) (c : BitVec 8) (ws : List Word) : (logAdd s c ws).regs = s.regs := by
  unfold logAdd; dsimp only; split <;> rfl
@[simp] theorem logAdd_pwr (s : State) (c : BitVec 8) (ws : List Word) : (logAdd s c ws).pwr = s.pwr := by
  unfold logAdd; dsimp only; split <;> rfl
@[simp] theorem logAdd_move (s : State) (c : BitVec 8) (ws : List Word) : (logAdd s c ws).move = s.move := by
  unfold logAdd; dsimp only; split <;> rfl
@[simp] theorem raiseErr_pending (s : State) (b e : Nat) : (raiseErr s b e).pending = s.pending := by
  unfold raiseErr; dsimp only; rw [logAdd_pending]; split <;> rfl
@[simp] theorem raiseErr_now (s : State) (b e : Nat) : (raiseErr s b e).now = s.now := by
  unfold raiseErr; dsimp only; rw [logAdd_now]; split <;> rfl
@[simp] theorem raiseErr_serial (s : State) (b e : Nat) : (raiseErr s b e).serial = s.serial := by
  unfold raiseErr; dsimp only; rw [logAdd_serial]; split <;> rfl
@[simp] theorem raiseErr_free (s : State) (b e : Nat) : (raiseErr s b e).free = s.free := by
  unfold raiseErr; dsimp only; rw [logAdd_free]; split <;> rfl
@[simp] theorem raiseErr_cache (s : State) (b e : Nat) : (raiseErr s b e).cache = s.cache := by
  unfold raiseErr; dsimp only; rw [logAdd_cache]; split <;> rfl
@[simp] theorem raiseErr_home (s : State) (b e : Nat) : (raiseErr s b e).home = s.home := by
  unfold raiseErr; dsimp only; rw [logAdd_home]; split <;> rfl
@[simp] theorem raiseErr_net (s : State) (b e : Nat) : (raiseErr s b e).net = s.net := by
  unfold raiseErr; dsimp only; rw [logAdd_net]; split <;> rfl
@[simp] theorem raiseErr_ports (s : State) (b e : Nat) : (raiseErr s b e).ports = s.ports := by
  unfold raiseErr; dsimp only; rw [logAdd_ports]; split <;> rfl
@[simp] theorem raiseErr_parts (s : State) (b e : Nat) : (raiseErr s b e).parts = s.parts := by
  unfold raiseErr; dsimp only; rw [logAdd_parts]; split <;> rfl
@[simp] theorem raiseErr_mem (s : State) (b e : Nat) : (raiseErr s b e).mem = s.mem := by
  unfold raiseErr; dsimp only; rw [logAdd_mem]; split <;> rfl
@[simp] theorem raiseErr_tmo (s : State) (b e : Nat) : (raiseErr s b e).tmo = s.tmo := by
  unfold raiseErr; dsimp only; rw [logAdd_tmo]; split <;> rfl
@[simp] theorem raiseErr_refl (s : State) (b e : Nat) : (raiseErr s b e).refl = s.refl := by
  unfold raiseErr; dsimp only; rw [logAdd_refl]; split <;> rfl
@[simp] theorem raiseErr_ctrlOut (s : State) (b e : Nat) : (raiseErr s b e).ctrlOut = s.ctrlOut := by
  unfold raiseErr; dsimp only; rw [logAdd_ctrlOut]; split <;> rfl
@[simp] theorem raiseErr_reports (s : State) (b e : Nat) : (raiseErr s b e).reports = s.reports := by
  unfold raiseErr; dsimp only; rw [logAdd_reports]; split <;> rfl
@[simp] theorem raiseErr_unwired (s : State) (b e : Nat) : (raiseErr s b e).unwired = s.unwired := by
  unfold raiseErr; dsimp only; rw [logAdd_unwired]; split <;> rfl
@[simp] theorem raiseErr_snpReady (s : State) (b e : Nat) : (raiseErr s b e).snpReady = s.snpReady := by
  unfold raiseErr; dsimp only; rw [logAdd_snpReady]; split <;> rfl
@[simp] theorem raiseErr_ddrWrr (s : State) (b e : Nat) : (raiseErr s b e).ddrWrr = s.ddrWrr := by
  unfold raiseErr; dsimp only; rw [logAdd_ddrWrr]; split <;> rfl
@[simp] theorem raiseErr_capacity (s : State) (b e : Nat) : (raiseErr s b e).capacity = s.capacity := by
  unfold raiseErr; dsimp only; rw [logAdd_capacity]; split <;> rfl
@[simp] theorem raiseErr_slow (s : State) (b e : Nat) : (raiseErr s b e).slow = s.slow := by
  unfold raiseErr; dsimp only; rw [logAdd_slow]; split <;> rfl
@[simp] theorem raiseErr_ddrFour (s : State) (b e : Nat) : (raiseErr s b e).ddrFour = s.ddrFour := by
  unfold raiseErr; dsimp only; rw [logAdd_ddrFour]; split <;> rfl
@[simp] theorem raiseErr_ddrHigh (s : State) (b e : Nat) : (raiseErr s b e).ddrHigh = s.ddrHigh := by
  unfold raiseErr; dsimp only; rw [logAdd_ddrHigh]; split <;> rfl
@[simp] theorem raiseErr_ddrRet (s : State) (b e : Nat) : (raiseErr s b e).ddrRet = s.ddrRet := by
  unfold raiseErr; dsimp only; rw [logAdd_ddrRet]; split <;> rfl
@[simp] theorem raiseErr_ddrq (s : State) (b e : Nat) : (raiseErr s b e).ddrq = s.ddrq := by
  unfold raiseErr; dsimp only; rw [logAdd_ddrq]; split <;> rfl
@[simp] theorem raiseErr_chans (s : State) (b e : Nat) : (raiseErr s b e).chans = s.chans := by
  unfold raiseErr; dsimp only; rw [logAdd_chans]; split <;> rfl
@[simp] theorem raiseErr_hbms (s : State) (b e : Nat) : (raiseErr s b e).hbms = s.hbms := by
  unfold raiseErr; dsimp only; rw [logAdd_hbms]; split <;> rfl
@[simp] theorem raiseErr_lan (s : State) (b e : Nat) : (raiseErr s b e).lan = s.lan := by
  unfold raiseErr; dsimp only; rw [logAdd_lan]; split <;> rfl
@[simp] theorem raiseErr_beams (s : State) (b e : Nat) : (raiseErr s b e).beams = s.beams := by
  unfold raiseErr; dsimp only; rw [logAdd_beams]; split <;> rfl
@[simp] theorem raiseErr_engines (s : State) (b e : Nat) : (raiseErr s b e).engines = s.engines := by
  unfold raiseErr; dsimp only; rw [logAdd_engines]; split <;> rfl
@[simp] theorem raiseErr_engMem (s : State) (b e : Nat) : (raiseErr s b e).engMem = s.engMem := by
  unfold raiseErr; dsimp only; rw [logAdd_engMem]; split <;> rfl
@[simp] theorem raiseErr_tim (s : State) (b e : Nat) : (raiseErr s b e).tim = s.tim := by
  unfold raiseErr; dsimp only; rw [logAdd_tim]; split <;> rfl
@[simp] theorem raiseErr_regs (s : State) (b e : Nat) : (raiseErr s b e).regs = s.regs := by
  unfold raiseErr; dsimp only; rw [logAdd_regs]; split <;> rfl
@[simp] theorem raiseErr_pwr (s : State) (b e : Nat) : (raiseErr s b e).pwr = s.pwr := by
  unfold raiseErr; dsimp only; rw [logAdd_pwr]; split <;> rfl
@[simp] theorem raiseErr_move (s : State) (b e : Nat) : (raiseErr s b e).move = s.move := by
  unfold raiseErr; dsimp only; rw [logAdd_move]; split <;> rfl
@[simp] theorem trouble_pending (s : State) (b k : Nat) : (trouble s b k).pending = s.pending := by
  unfold trouble; dsimp only; split <;> rfl
@[simp] theorem trouble_now (s : State) (b k : Nat) : (trouble s b k).now = s.now := by
  unfold trouble; dsimp only; split <;> rfl
@[simp] theorem trouble_serial (s : State) (b k : Nat) : (trouble s b k).serial = s.serial := by
  unfold trouble; dsimp only; split <;> rfl
@[simp] theorem trouble_free (s : State) (b k : Nat) : (trouble s b k).free = s.free := by
  unfold trouble; dsimp only; split <;> rfl
@[simp] theorem trouble_cache (s : State) (b k : Nat) : (trouble s b k).cache = s.cache := by
  unfold trouble; dsimp only; split <;> rfl
@[simp] theorem trouble_home (s : State) (b k : Nat) : (trouble s b k).home = s.home := by
  unfold trouble; dsimp only; split <;> rfl
@[simp] theorem trouble_net (s : State) (b k : Nat) : (trouble s b k).net = s.net := by
  unfold trouble; dsimp only; split <;> rfl
@[simp] theorem trouble_ports (s : State) (b k : Nat) : (trouble s b k).ports = s.ports := by
  unfold trouble; dsimp only; split <;> rfl
@[simp] theorem trouble_parts (s : State) (b k : Nat) : (trouble s b k).parts = s.parts := by
  unfold trouble; dsimp only; split <;> rfl
@[simp] theorem trouble_mem (s : State) (b k : Nat) : (trouble s b k).mem = s.mem := by
  unfold trouble; dsimp only; split <;> rfl
@[simp] theorem trouble_tmo (s : State) (b k : Nat) : (trouble s b k).tmo = s.tmo := by
  unfold trouble; dsimp only; split <;> rfl
@[simp] theorem trouble_refl (s : State) (b k : Nat) : (trouble s b k).refl = s.refl := by
  unfold trouble; dsimp only; split <;> rfl
@[simp] theorem trouble_ctrlOut (s : State) (b k : Nat) : (trouble s b k).ctrlOut = s.ctrlOut := by
  unfold trouble; dsimp only; split <;> rfl
@[simp] theorem trouble_reports (s : State) (b k : Nat) : (trouble s b k).reports = s.reports := by
  unfold trouble; dsimp only; split <;> rfl
@[simp] theorem trouble_unwired (s : State) (b k : Nat) : (trouble s b k).unwired = s.unwired := by
  unfold trouble; dsimp only; split <;> rfl
@[simp] theorem trouble_snpReady (s : State) (b k : Nat) : (trouble s b k).snpReady = s.snpReady := by
  unfold trouble; dsimp only; split <;> rfl
@[simp] theorem trouble_ddrWrr (s : State) (b k : Nat) : (trouble s b k).ddrWrr = s.ddrWrr := by
  unfold trouble; dsimp only; split <;> rfl
@[simp] theorem trouble_capacity (s : State) (b k : Nat) : (trouble s b k).capacity = s.capacity := by
  unfold trouble; dsimp only; split <;> rfl
@[simp] theorem trouble_slow (s : State) (b k : Nat) : (trouble s b k).slow = s.slow := by
  unfold trouble; dsimp only; split <;> rfl
@[simp] theorem trouble_ddrFour (s : State) (b k : Nat) : (trouble s b k).ddrFour = s.ddrFour := by
  unfold trouble; dsimp only; split <;> rfl
@[simp] theorem trouble_ddrHigh (s : State) (b k : Nat) : (trouble s b k).ddrHigh = s.ddrHigh := by
  unfold trouble; dsimp only; split <;> rfl
@[simp] theorem trouble_ddrRet (s : State) (b k : Nat) : (trouble s b k).ddrRet = s.ddrRet := by
  unfold trouble; dsimp only; split <;> rfl
@[simp] theorem trouble_ddrq (s : State) (b k : Nat) : (trouble s b k).ddrq = s.ddrq := by
  unfold trouble; dsimp only; split <;> rfl
@[simp] theorem trouble_chans (s : State) (b k : Nat) : (trouble s b k).chans = s.chans := by
  unfold trouble; dsimp only; split <;> rfl
@[simp] theorem trouble_hbms (s : State) (b k : Nat) : (trouble s b k).hbms = s.hbms := by
  unfold trouble; dsimp only; split <;> rfl
@[simp] theorem trouble_lan (s : State) (b k : Nat) : (trouble s b k).lan = s.lan := by
  unfold trouble; dsimp only; split <;> rfl
@[simp] theorem trouble_beams (s : State) (b k : Nat) : (trouble s b k).beams = s.beams := by
  unfold trouble; dsimp only; split <;> rfl
@[simp] theorem trouble_engines (s : State) (b k : Nat) : (trouble s b k).engines = s.engines := by
  unfold trouble; dsimp only; split <;> rfl
@[simp] theorem trouble_engMem (s : State) (b k : Nat) : (trouble s b k).engMem = s.engMem := by
  unfold trouble; dsimp only; split <;> rfl
@[simp] theorem trouble_tim (s : State) (b k : Nat) : (trouble s b k).tim = s.tim := by
  unfold trouble; dsimp only; split <;> rfl
@[simp] theorem trouble_regs (s : State) (b k : Nat) : (trouble s b k).regs = s.regs := by
  unfold trouble; dsimp only; split <;> rfl
@[simp] theorem trouble_pwr (s : State) (b k : Nat) : (trouble s b k).pwr = s.pwr := by
  unfold trouble; dsimp only; split <;> rfl
@[simp] theorem trouble_boot (s : State) (b k : Nat) : (trouble s b k).boot = s.boot := by
  unfold trouble; dsimp only; split <;> rfl
@[simp] theorem trouble_move (s : State) (b k : Nat) : (trouble s b k).move = s.move := by
  unfold trouble; dsimp only; split <;> rfl
@[simp] theorem smpCount_pending (s : State) (i n : Nat) : (smpCount s i n).pending = s.pending := by
  unfold smpCount; dsimp only; split <;> rfl
@[simp] theorem smpAll_pending (s : State) (e n : Nat) (p : Option PartId) (k : Nat) : (smpAll s e n p k).pending = s.pending := by
  induction k with
  | zero => rfl
  | succ k ih => unfold smpAll; dsimp only; split <;> simp [ih]
@[simp] theorem countFor_pending (s : State) (e n : Nat) (p : Option PartId) : (countFor s e n p).pending = s.pending := by
  unfold countFor; split
  · rfl
  · dsimp only; split <;> simp
@[simp] theorem count_pending (s : State) (e : Nat) : (count s e).pending = s.pending := countFor_pending ..
@[simp] theorem smpCount_now (s : State) (i n : Nat) : (smpCount s i n).now = s.now := by
  unfold smpCount; dsimp only; split <;> rfl
@[simp] theorem smpAll_now (s : State) (e n : Nat) (p : Option PartId) (k : Nat) : (smpAll s e n p k).now = s.now := by
  induction k with
  | zero => rfl
  | succ k ih => unfold smpAll; dsimp only; split <;> simp [ih]
@[simp] theorem countFor_now (s : State) (e n : Nat) (p : Option PartId) : (countFor s e n p).now = s.now := by
  unfold countFor; split
  · rfl
  · dsimp only; split <;> simp
@[simp] theorem count_now (s : State) (e : Nat) : (count s e).now = s.now := countFor_now ..
@[simp] theorem smpCount_serial (s : State) (i n : Nat) : (smpCount s i n).serial = s.serial := by
  unfold smpCount; dsimp only; split <;> rfl
@[simp] theorem smpAll_serial (s : State) (e n : Nat) (p : Option PartId) (k : Nat) : (smpAll s e n p k).serial = s.serial := by
  induction k with
  | zero => rfl
  | succ k ih => unfold smpAll; dsimp only; split <;> simp [ih]
@[simp] theorem countFor_serial (s : State) (e n : Nat) (p : Option PartId) : (countFor s e n p).serial = s.serial := by
  unfold countFor; split
  · rfl
  · dsimp only; split <;> simp
@[simp] theorem count_serial (s : State) (e : Nat) : (count s e).serial = s.serial := countFor_serial ..
@[simp] theorem smpCount_free (s : State) (i n : Nat) : (smpCount s i n).free = s.free := by
  unfold smpCount; dsimp only; split <;> rfl
@[simp] theorem smpAll_free (s : State) (e n : Nat) (p : Option PartId) (k : Nat) : (smpAll s e n p k).free = s.free := by
  induction k with
  | zero => rfl
  | succ k ih => unfold smpAll; dsimp only; split <;> simp [ih]
@[simp] theorem countFor_free (s : State) (e n : Nat) (p : Option PartId) : (countFor s e n p).free = s.free := by
  unfold countFor; split
  · rfl
  · dsimp only; split <;> simp
@[simp] theorem count_free (s : State) (e : Nat) : (count s e).free = s.free := countFor_free ..
@[simp] theorem smpCount_cache (s : State) (i n : Nat) : (smpCount s i n).cache = s.cache := by
  unfold smpCount; dsimp only; split <;> rfl
@[simp] theorem smpAll_cache (s : State) (e n : Nat) (p : Option PartId) (k : Nat) : (smpAll s e n p k).cache = s.cache := by
  induction k with
  | zero => rfl
  | succ k ih => unfold smpAll; dsimp only; split <;> simp [ih]
@[simp] theorem countFor_cache (s : State) (e n : Nat) (p : Option PartId) : (countFor s e n p).cache = s.cache := by
  unfold countFor; split
  · rfl
  · dsimp only; split <;> simp
@[simp] theorem count_cache (s : State) (e : Nat) : (count s e).cache = s.cache := countFor_cache ..
@[simp] theorem smpCount_home (s : State) (i n : Nat) : (smpCount s i n).home = s.home := by
  unfold smpCount; dsimp only; split <;> rfl
@[simp] theorem smpAll_home (s : State) (e n : Nat) (p : Option PartId) (k : Nat) : (smpAll s e n p k).home = s.home := by
  induction k with
  | zero => rfl
  | succ k ih => unfold smpAll; dsimp only; split <;> simp [ih]
@[simp] theorem countFor_home (s : State) (e n : Nat) (p : Option PartId) : (countFor s e n p).home = s.home := by
  unfold countFor; split
  · rfl
  · dsimp only; split <;> simp
@[simp] theorem count_home (s : State) (e : Nat) : (count s e).home = s.home := countFor_home ..
@[simp] theorem smpCount_net (s : State) (i n : Nat) : (smpCount s i n).net = s.net := by
  unfold smpCount; dsimp only; split <;> rfl
@[simp] theorem smpAll_net (s : State) (e n : Nat) (p : Option PartId) (k : Nat) : (smpAll s e n p k).net = s.net := by
  induction k with
  | zero => rfl
  | succ k ih => unfold smpAll; dsimp only; split <;> simp [ih]
@[simp] theorem countFor_net (s : State) (e n : Nat) (p : Option PartId) : (countFor s e n p).net = s.net := by
  unfold countFor; split
  · rfl
  · dsimp only; split <;> simp
@[simp] theorem count_net (s : State) (e : Nat) : (count s e).net = s.net := countFor_net ..
@[simp] theorem smpCount_ports (s : State) (i n : Nat) : (smpCount s i n).ports = s.ports := by
  unfold smpCount; dsimp only; split <;> rfl
@[simp] theorem smpAll_ports (s : State) (e n : Nat) (p : Option PartId) (k : Nat) : (smpAll s e n p k).ports = s.ports := by
  induction k with
  | zero => rfl
  | succ k ih => unfold smpAll; dsimp only; split <;> simp [ih]
@[simp] theorem countFor_ports (s : State) (e n : Nat) (p : Option PartId) : (countFor s e n p).ports = s.ports := by
  unfold countFor; split
  · rfl
  · dsimp only; split <;> simp
@[simp] theorem count_ports (s : State) (e : Nat) : (count s e).ports = s.ports := countFor_ports ..
@[simp] theorem smpCount_parts (s : State) (i n : Nat) : (smpCount s i n).parts = s.parts := by
  unfold smpCount; dsimp only; split <;> rfl
@[simp] theorem smpAll_parts (s : State) (e n : Nat) (p : Option PartId) (k : Nat) : (smpAll s e n p k).parts = s.parts := by
  induction k with
  | zero => rfl
  | succ k ih => unfold smpAll; dsimp only; split <;> simp [ih]
@[simp] theorem countFor_parts (s : State) (e n : Nat) (p : Option PartId) : (countFor s e n p).parts = s.parts := by
  unfold countFor; split
  · rfl
  · dsimp only; split <;> simp
@[simp] theorem count_parts (s : State) (e : Nat) : (count s e).parts = s.parts := countFor_parts ..
@[simp] theorem smpCount_mem (s : State) (i n : Nat) : (smpCount s i n).mem = s.mem := by
  unfold smpCount; dsimp only; split <;> rfl
@[simp] theorem smpAll_mem (s : State) (e n : Nat) (p : Option PartId) (k : Nat) : (smpAll s e n p k).mem = s.mem := by
  induction k with
  | zero => rfl
  | succ k ih => unfold smpAll; dsimp only; split <;> simp [ih]
@[simp] theorem countFor_mem (s : State) (e n : Nat) (p : Option PartId) : (countFor s e n p).mem = s.mem := by
  unfold countFor; split
  · rfl
  · dsimp only; split <;> simp
@[simp] theorem count_mem (s : State) (e : Nat) : (count s e).mem = s.mem := countFor_mem ..
@[simp] theorem smpCount_tmo (s : State) (i n : Nat) : (smpCount s i n).tmo = s.tmo := by
  unfold smpCount; dsimp only; split <;> rfl
@[simp] theorem smpAll_tmo (s : State) (e n : Nat) (p : Option PartId) (k : Nat) : (smpAll s e n p k).tmo = s.tmo := by
  induction k with
  | zero => rfl
  | succ k ih => unfold smpAll; dsimp only; split <;> simp [ih]
@[simp] theorem countFor_tmo (s : State) (e n : Nat) (p : Option PartId) : (countFor s e n p).tmo = s.tmo := by
  unfold countFor; split
  · rfl
  · dsimp only; split <;> simp
@[simp] theorem count_tmo (s : State) (e : Nat) : (count s e).tmo = s.tmo := countFor_tmo ..
@[simp] theorem smpCount_refl (s : State) (i n : Nat) : (smpCount s i n).refl = s.refl := by
  unfold smpCount; dsimp only; split <;> rfl
@[simp] theorem smpAll_refl (s : State) (e n : Nat) (p : Option PartId) (k : Nat) : (smpAll s e n p k).refl = s.refl := by
  induction k with
  | zero => rfl
  | succ k ih => unfold smpAll; dsimp only; split <;> simp [ih]
@[simp] theorem countFor_refl (s : State) (e n : Nat) (p : Option PartId) : (countFor s e n p).refl = s.refl := by
  unfold countFor; split
  · rfl
  · dsimp only; split <;> simp
@[simp] theorem count_refl (s : State) (e : Nat) : (count s e).refl = s.refl := countFor_refl ..
@[simp] theorem smpCount_ctrlOut (s : State) (i n : Nat) : (smpCount s i n).ctrlOut = s.ctrlOut := by
  unfold smpCount; dsimp only; split <;> rfl
@[simp] theorem smpAll_ctrlOut (s : State) (e n : Nat) (p : Option PartId) (k : Nat) : (smpAll s e n p k).ctrlOut = s.ctrlOut := by
  induction k with
  | zero => rfl
  | succ k ih => unfold smpAll; dsimp only; split <;> simp [ih]
@[simp] theorem countFor_ctrlOut (s : State) (e n : Nat) (p : Option PartId) : (countFor s e n p).ctrlOut = s.ctrlOut := by
  unfold countFor; split
  · rfl
  · dsimp only; split <;> simp
@[simp] theorem count_ctrlOut (s : State) (e : Nat) : (count s e).ctrlOut = s.ctrlOut := countFor_ctrlOut ..
@[simp] theorem smpCount_reports (s : State) (i n : Nat) : (smpCount s i n).reports = s.reports := by
  unfold smpCount; dsimp only; split <;> rfl
@[simp] theorem smpAll_reports (s : State) (e n : Nat) (p : Option PartId) (k : Nat) : (smpAll s e n p k).reports = s.reports := by
  induction k with
  | zero => rfl
  | succ k ih => unfold smpAll; dsimp only; split <;> simp [ih]
@[simp] theorem countFor_reports (s : State) (e n : Nat) (p : Option PartId) : (countFor s e n p).reports = s.reports := by
  unfold countFor; split
  · rfl
  · dsimp only; split <;> simp
@[simp] theorem count_reports (s : State) (e : Nat) : (count s e).reports = s.reports := countFor_reports ..
@[simp] theorem smpCount_unwired (s : State) (i n : Nat) : (smpCount s i n).unwired = s.unwired := by
  unfold smpCount; dsimp only; split <;> rfl
@[simp] theorem smpCount_snpReady (s : State) (i n : Nat) : (smpCount s i n).snpReady = s.snpReady := by
  unfold smpCount; dsimp only; split <;> rfl
@[simp] theorem smpCount_ddrWrr (s : State) (i n : Nat) : (smpCount s i n).ddrWrr = s.ddrWrr := by
  unfold smpCount; dsimp only; split <;> rfl
@[simp] theorem smpAll_unwired (s : State) (e n : Nat) (p : Option PartId) (k : Nat) : (smpAll s e n p k).unwired = s.unwired := by
  induction k with
  | zero => rfl
  | succ k ih => unfold smpAll; dsimp only; split <;> simp [ih]
@[simp] theorem smpAll_snpReady (s : State) (e n : Nat) (p : Option PartId) (k : Nat) : (smpAll s e n p k).snpReady = s.snpReady := by
  induction k with
  | zero => rfl
  | succ k ih => unfold smpAll; dsimp only; split <;> simp [ih]
@[simp] theorem smpAll_ddrWrr (s : State) (e n : Nat) (p : Option PartId) (k : Nat) : (smpAll s e n p k).ddrWrr = s.ddrWrr := by
  induction k with
  | zero => rfl
  | succ k ih => unfold smpAll; dsimp only; split <;> simp [ih]
@[simp] theorem countFor_unwired (s : State) (e n : Nat) (p : Option PartId) : (countFor s e n p).unwired = s.unwired := by
  unfold countFor; split
  · rfl
  · dsimp only; split <;> simp
@[simp] theorem countFor_snpReady (s : State) (e n : Nat) (p : Option PartId) : (countFor s e n p).snpReady = s.snpReady := by
  unfold countFor; split
  · rfl
  · dsimp only; split <;> simp
@[simp] theorem countFor_ddrWrr (s : State) (e n : Nat) (p : Option PartId) : (countFor s e n p).ddrWrr = s.ddrWrr := by
  unfold countFor; split
  · rfl
  · dsimp only; split <;> simp
@[simp] theorem count_unwired (s : State) (e : Nat) : (count s e).unwired = s.unwired := countFor_unwired ..
@[simp] theorem count_snpReady (s : State) (e : Nat) : (count s e).snpReady = s.snpReady := countFor_snpReady ..
@[simp] theorem count_ddrWrr (s : State) (e : Nat) : (count s e).ddrWrr = s.ddrWrr := countFor_ddrWrr ..
@[simp] theorem smpCount_capacity (s : State) (i n : Nat) : (smpCount s i n).capacity = s.capacity := by
  unfold smpCount; dsimp only; split <;> rfl
@[simp] theorem smpAll_capacity (s : State) (e n : Nat) (p : Option PartId) (k : Nat) : (smpAll s e n p k).capacity = s.capacity := by
  induction k with
  | zero => rfl
  | succ k ih => unfold smpAll; dsimp only; split <;> simp [ih]
@[simp] theorem countFor_capacity (s : State) (e n : Nat) (p : Option PartId) : (countFor s e n p).capacity = s.capacity := by
  unfold countFor; split
  · rfl
  · dsimp only; split <;> simp
@[simp] theorem count_capacity (s : State) (e : Nat) : (count s e).capacity = s.capacity := countFor_capacity ..
@[simp] theorem smpCount_slow (s : State) (i n : Nat) : (smpCount s i n).slow = s.slow := by
  unfold smpCount; dsimp only; split <;> rfl
@[simp] theorem smpAll_slow (s : State) (e n : Nat) (p : Option PartId) (k : Nat) : (smpAll s e n p k).slow = s.slow := by
  induction k with
  | zero => rfl
  | succ k ih => unfold smpAll; dsimp only; split <;> simp [ih]
@[simp] theorem countFor_slow (s : State) (e n : Nat) (p : Option PartId) : (countFor s e n p).slow = s.slow := by
  unfold countFor; split
  · rfl
  · dsimp only; split <;> simp
@[simp] theorem count_slow (s : State) (e : Nat) : (count s e).slow = s.slow := countFor_slow ..
@[simp] theorem smpCount_ddrFour (s : State) (i n : Nat) : (smpCount s i n).ddrFour = s.ddrFour := by
  unfold smpCount; dsimp only; split <;> rfl
@[simp] theorem smpAll_ddrFour (s : State) (e n : Nat) (p : Option PartId) (k : Nat) : (smpAll s e n p k).ddrFour = s.ddrFour := by
  induction k with
  | zero => rfl
  | succ k ih => unfold smpAll; dsimp only; split <;> simp [ih]
@[simp] theorem countFor_ddrFour (s : State) (e n : Nat) (p : Option PartId) : (countFor s e n p).ddrFour = s.ddrFour := by
  unfold countFor; split
  · rfl
  · dsimp only; split <;> simp
@[simp] theorem count_ddrFour (s : State) (e : Nat) : (count s e).ddrFour = s.ddrFour := countFor_ddrFour ..
@[simp] theorem smpCount_ddrHigh (s : State) (i n : Nat) : (smpCount s i n).ddrHigh = s.ddrHigh := by
  unfold smpCount; dsimp only; split <;> rfl
@[simp] theorem smpAll_ddrHigh (s : State) (e n : Nat) (p : Option PartId) (k : Nat) : (smpAll s e n p k).ddrHigh = s.ddrHigh := by
  induction k with
  | zero => rfl
  | succ k ih => unfold smpAll; dsimp only; split <;> simp [ih]
@[simp] theorem countFor_ddrHigh (s : State) (e n : Nat) (p : Option PartId) : (countFor s e n p).ddrHigh = s.ddrHigh := by
  unfold countFor; split
  · rfl
  · dsimp only; split <;> simp
@[simp] theorem count_ddrHigh (s : State) (e : Nat) : (count s e).ddrHigh = s.ddrHigh := countFor_ddrHigh ..
@[simp] theorem smpCount_ddrRet (s : State) (i n : Nat) : (smpCount s i n).ddrRet = s.ddrRet := by
  unfold smpCount; dsimp only; split <;> rfl
@[simp] theorem smpAll_ddrRet (s : State) (e n : Nat) (p : Option PartId) (k : Nat) : (smpAll s e n p k).ddrRet = s.ddrRet := by
  induction k with
  | zero => rfl
  | succ k ih => unfold smpAll; dsimp only; split <;> simp [ih]
@[simp] theorem countFor_ddrRet (s : State) (e n : Nat) (p : Option PartId) : (countFor s e n p).ddrRet = s.ddrRet := by
  unfold countFor; split
  · rfl
  · dsimp only; split <;> simp
@[simp] theorem count_ddrRet (s : State) (e : Nat) : (count s e).ddrRet = s.ddrRet := countFor_ddrRet ..
@[simp] theorem smpCount_ddrq (s : State) (i n : Nat) : (smpCount s i n).ddrq = s.ddrq := by
  unfold smpCount; dsimp only; split <;> rfl
@[simp] theorem smpAll_ddrq (s : State) (e n : Nat) (p : Option PartId) (k : Nat) : (smpAll s e n p k).ddrq = s.ddrq := by
  induction k with
  | zero => rfl
  | succ k ih => unfold smpAll; dsimp only; split <;> simp [ih]
@[simp] theorem countFor_ddrq (s : State) (e n : Nat) (p : Option PartId) : (countFor s e n p).ddrq = s.ddrq := by
  unfold countFor; split
  · rfl
  · dsimp only; split <;> simp
@[simp] theorem count_ddrq (s : State) (e : Nat) : (count s e).ddrq = s.ddrq := countFor_ddrq ..
@[simp] theorem smpCount_chans (s : State) (i n : Nat) : (smpCount s i n).chans = s.chans := by
  unfold smpCount; dsimp only; split <;> rfl
@[simp] theorem smpAll_chans (s : State) (e n : Nat) (p : Option PartId) (k : Nat) : (smpAll s e n p k).chans = s.chans := by
  induction k with
  | zero => rfl
  | succ k ih => unfold smpAll; dsimp only; split <;> simp [ih]
@[simp] theorem countFor_chans (s : State) (e n : Nat) (p : Option PartId) : (countFor s e n p).chans = s.chans := by
  unfold countFor; split
  · rfl
  · dsimp only; split <;> simp
@[simp] theorem count_chans (s : State) (e : Nat) : (count s e).chans = s.chans := countFor_chans ..
@[simp] theorem smpCount_hbms (s : State) (i n : Nat) : (smpCount s i n).hbms = s.hbms := by
  unfold smpCount; dsimp only; split <;> rfl
@[simp] theorem smpAll_hbms (s : State) (e n : Nat) (p : Option PartId) (k : Nat) : (smpAll s e n p k).hbms = s.hbms := by
  induction k with
  | zero => rfl
  | succ k ih => unfold smpAll; dsimp only; split <;> simp [ih]
@[simp] theorem countFor_hbms (s : State) (e n : Nat) (p : Option PartId) : (countFor s e n p).hbms = s.hbms := by
  unfold countFor; split
  · rfl
  · dsimp only; split <;> simp
@[simp] theorem count_hbms (s : State) (e : Nat) : (count s e).hbms = s.hbms := countFor_hbms ..
@[simp] theorem smpCount_lan (s : State) (i n : Nat) : (smpCount s i n).lan = s.lan := by
  unfold smpCount; dsimp only; split <;> rfl
@[simp] theorem smpAll_lan (s : State) (e n : Nat) (p : Option PartId) (k : Nat) : (smpAll s e n p k).lan = s.lan := by
  induction k with
  | zero => rfl
  | succ k ih => unfold smpAll; dsimp only; split <;> simp [ih]
@[simp] theorem countFor_lan (s : State) (e n : Nat) (p : Option PartId) : (countFor s e n p).lan = s.lan := by
  unfold countFor; split
  · rfl
  · dsimp only; split <;> simp
@[simp] theorem count_lan (s : State) (e : Nat) : (count s e).lan = s.lan := countFor_lan ..
@[simp] theorem smpCount_beams (s : State) (i n : Nat) : (smpCount s i n).beams = s.beams := by
  unfold smpCount; dsimp only; split <;> rfl
@[simp] theorem smpAll_beams (s : State) (e n : Nat) (p : Option PartId) (k : Nat) : (smpAll s e n p k).beams = s.beams := by
  induction k with
  | zero => rfl
  | succ k ih => unfold smpAll; dsimp only; split <;> simp [ih]
@[simp] theorem countFor_beams (s : State) (e n : Nat) (p : Option PartId) : (countFor s e n p).beams = s.beams := by
  unfold countFor; split
  · rfl
  · dsimp only; split <;> simp
@[simp] theorem count_beams (s : State) (e : Nat) : (count s e).beams = s.beams := countFor_beams ..
@[simp] theorem smpCount_engines (s : State) (i n : Nat) : (smpCount s i n).engines = s.engines := by
  unfold smpCount; dsimp only; split <;> rfl
@[simp] theorem smpAll_engines (s : State) (e n : Nat) (p : Option PartId) (k : Nat) : (smpAll s e n p k).engines = s.engines := by
  induction k with
  | zero => rfl
  | succ k ih => unfold smpAll; dsimp only; split <;> simp [ih]
@[simp] theorem countFor_engines (s : State) (e n : Nat) (p : Option PartId) : (countFor s e n p).engines = s.engines := by
  unfold countFor; split
  · rfl
  · dsimp only; split <;> simp
@[simp] theorem count_engines (s : State) (e : Nat) : (count s e).engines = s.engines := countFor_engines ..
@[simp] theorem smpCount_engMem (s : State) (i n : Nat) : (smpCount s i n).engMem = s.engMem := by
  unfold smpCount; dsimp only; split <;> rfl
@[simp] theorem smpAll_engMem (s : State) (e n : Nat) (p : Option PartId) (k : Nat) : (smpAll s e n p k).engMem = s.engMem := by
  induction k with
  | zero => rfl
  | succ k ih => unfold smpAll; dsimp only; split <;> simp [ih]
@[simp] theorem countFor_engMem (s : State) (e n : Nat) (p : Option PartId) : (countFor s e n p).engMem = s.engMem := by
  unfold countFor; split
  · rfl
  · dsimp only; split <;> simp
@[simp] theorem count_engMem (s : State) (e : Nat) : (count s e).engMem = s.engMem := countFor_engMem ..
@[simp] theorem smpCount_tim (s : State) (i n : Nat) : (smpCount s i n).tim = s.tim := by
  unfold smpCount; dsimp only; split <;> rfl
@[simp] theorem smpAll_tim (s : State) (e n : Nat) (p : Option PartId) (k : Nat) : (smpAll s e n p k).tim = s.tim := by
  induction k with
  | zero => rfl
  | succ k ih => unfold smpAll; dsimp only; split <;> simp [ih]
@[simp] theorem countFor_tim (s : State) (e n : Nat) (p : Option PartId) : (countFor s e n p).tim = s.tim := by
  unfold countFor; split
  · rfl
  · dsimp only; split <;> simp
@[simp] theorem count_tim (s : State) (e : Nat) : (count s e).tim = s.tim := countFor_tim ..
@[simp] theorem smpCount_regs (s : State) (i n : Nat) : (smpCount s i n).regs = s.regs := by
  unfold smpCount; dsimp only; split <;> rfl
@[simp] theorem smpAll_regs (s : State) (e n : Nat) (p : Option PartId) (k : Nat) : (smpAll s e n p k).regs = s.regs := by
  induction k with
  | zero => rfl
  | succ k ih => unfold smpAll; dsimp only; split <;> simp [ih]
@[simp] theorem countFor_regs (s : State) (e n : Nat) (p : Option PartId) : (countFor s e n p).regs = s.regs := by
  unfold countFor; split
  · rfl
  · dsimp only; split <;> simp
@[simp] theorem count_regs (s : State) (e : Nat) : (count s e).regs = s.regs := countFor_regs ..
@[simp] theorem smpCount_pwr (s : State) (i n : Nat) : (smpCount s i n).pwr = s.pwr := by
  unfold smpCount; dsimp only; split <;> rfl
@[simp] theorem smpAll_pwr (s : State) (e n : Nat) (p : Option PartId) (k : Nat) : (smpAll s e n p k).pwr = s.pwr := by
  induction k with
  | zero => rfl
  | succ k ih => unfold smpAll; dsimp only; split <;> simp [ih]
@[simp] theorem countFor_pwr (s : State) (e n : Nat) (p : Option PartId) : (countFor s e n p).pwr = s.pwr := by
  unfold countFor; split
  · rfl
  · dsimp only; split <;> simp
@[simp] theorem count_pwr (s : State) (e : Nat) : (count s e).pwr = s.pwr := countFor_pwr ..
@[simp] theorem smpCount_boot (s : State) (i n : Nat) : (smpCount s i n).boot = s.boot := by
  unfold smpCount; dsimp only; split <;> rfl
@[simp] theorem smpAll_boot (s : State) (e n : Nat) (p : Option PartId) (k : Nat) : (smpAll s e n p k).boot = s.boot := by
  induction k with
  | zero => rfl
  | succ k ih => unfold smpAll; dsimp only; split <;> simp [ih]
@[simp] theorem countFor_boot (s : State) (e n : Nat) (p : Option PartId) : (countFor s e n p).boot = s.boot := by
  unfold countFor; split
  · rfl
  · dsimp only; split <;> simp
@[simp] theorem count_boot (s : State) (e : Nat) : (count s e).boot = s.boot := countFor_boot ..
@[simp] theorem smpCount_move (s : State) (i n : Nat) : (smpCount s i n).move = s.move := by
  unfold smpCount; dsimp only; split <;> rfl
@[simp] theorem smpAll_move (s : State) (e n : Nat) (p : Option PartId) (k : Nat) : (smpAll s e n p k).move = s.move := by
  induction k with
  | zero => rfl
  | succ k ih => unfold smpAll; dsimp only; split <;> simp [ih]
@[simp] theorem countFor_move (s : State) (e n : Nat) (p : Option PartId) : (countFor s e n p).move = s.move := by
  unfold countFor; split
  · rfl
  · dsimp only; split <;> simp
@[simp] theorem count_move (s : State) (e : Nat) : (count s e).move = s.move := countFor_move ..
@[simp] theorem wakeDom_pending (s : State) (d : Nat) (b : Bool) : (wakeDom s d b).pending = s.pending := by
  unfold wakeDom; dsimp only; split
  · rfl
  · split
    · simp
    · split
      · simp
      · split <;> simp
@[simp] theorem wakeDom_now (s : State) (d : Nat) (b : Bool) : (wakeDom s d b).now = s.now := by
  unfold wakeDom; dsimp only; split
  · rfl
  · split
    · simp
    · split
      · simp
      · split <;> simp
@[simp] theorem wakeDom_serial (s : State) (d : Nat) (b : Bool) : (wakeDom s d b).serial = s.serial := by
  unfold wakeDom; dsimp only; split
  · rfl
  · split
    · simp
    · split
      · simp
      · split <;> simp
@[simp] theorem wakeDom_free (s : State) (d : Nat) (b : Bool) : (wakeDom s d b).free = s.free := by
  unfold wakeDom; dsimp only; split
  · rfl
  · split
    · simp
    · split
      · simp
      · split <;> simp
@[simp] theorem wakeDom_cache (s : State) (d : Nat) (b : Bool) : (wakeDom s d b).cache = s.cache := by
  unfold wakeDom; dsimp only; split
  · rfl
  · split
    · simp
    · split
      · simp
      · split <;> simp
@[simp] theorem wakeDom_home (s : State) (d : Nat) (b : Bool) : (wakeDom s d b).home = s.home := by
  unfold wakeDom; dsimp only; split
  · rfl
  · split
    · simp
    · split
      · simp
      · split <;> simp
@[simp] theorem wakeDom_net (s : State) (d : Nat) (b : Bool) : (wakeDom s d b).net = s.net := by
  unfold wakeDom; dsimp only; split
  · rfl
  · split
    · simp
    · split
      · simp
      · split <;> simp
@[simp] theorem wakeDom_ports (s : State) (d : Nat) (b : Bool) : (wakeDom s d b).ports = s.ports := by
  unfold wakeDom; dsimp only; split
  · rfl
  · split
    · simp
    · split
      · simp
      · split <;> simp
@[simp] theorem wakeDom_parts (s : State) (d : Nat) (b : Bool) : (wakeDom s d b).parts = s.parts := by
  unfold wakeDom; dsimp only; split
  · rfl
  · split
    · simp
    · split
      · simp
      · split <;> simp
@[simp] theorem wakeDom_mem (s : State) (d : Nat) (b : Bool) : (wakeDom s d b).mem = s.mem := by
  unfold wakeDom; dsimp only; split
  · rfl
  · split
    · simp
    · split
      · simp
      · split <;> simp
@[simp] theorem wakeDom_tmo (s : State) (d : Nat) (b : Bool) : (wakeDom s d b).tmo = s.tmo := by
  unfold wakeDom; dsimp only; split
  · rfl
  · split
    · simp
    · split
      · simp
      · split <;> simp
@[simp] theorem wakeDom_refl (s : State) (d : Nat) (b : Bool) : (wakeDom s d b).refl = s.refl := by
  unfold wakeDom; dsimp only; split
  · rfl
  · split
    · simp
    · split
      · simp
      · split <;> simp
@[simp] theorem wakeDom_ctrlOut (s : State) (d : Nat) (b : Bool) : (wakeDom s d b).ctrlOut = s.ctrlOut := by
  unfold wakeDom; dsimp only; split
  · rfl
  · split
    · simp
    · split
      · simp
      · split <;> simp
@[simp] theorem wakeDom_reports (s : State) (d : Nat) (b : Bool) : (wakeDom s d b).reports = s.reports := by
  unfold wakeDom; dsimp only; split
  · rfl
  · split
    · simp
    · split
      · simp
      · split <;> simp
@[simp] theorem wakeDom_unwired (s : State) (d : Nat) (b : Bool) : (wakeDom s d b).unwired = s.unwired := by
  unfold wakeDom; dsimp only; split
  · rfl
  · split
    · simp
    · split
      · simp
      · split <;> simp
@[simp] theorem wakeDom_snpReady (s : State) (d : Nat) (b : Bool) : (wakeDom s d b).snpReady = s.snpReady := by
  unfold wakeDom; dsimp only; split
  · rfl
  · split
    · simp
    · split
      · simp
      · split <;> simp
@[simp] theorem wakeDom_ddrWrr (s : State) (d : Nat) (b : Bool) : (wakeDom s d b).ddrWrr = s.ddrWrr := by
  unfold wakeDom; dsimp only; split
  · rfl
  · split
    · simp
    · split
      · simp
      · split <;> simp
@[simp] theorem wakeDom_capacity (s : State) (d : Nat) (b : Bool) : (wakeDom s d b).capacity = s.capacity := by
  unfold wakeDom; dsimp only; split
  · rfl
  · split
    · simp
    · split
      · simp
      · split <;> simp
@[simp] theorem wakeDom_slow (s : State) (d : Nat) (b : Bool) : (wakeDom s d b).slow = s.slow := by
  unfold wakeDom; dsimp only; split
  · rfl
  · split
    · simp
    · split
      · simp
      · split <;> simp
@[simp] theorem wakeDom_ddrFour (s : State) (d : Nat) (b : Bool) : (wakeDom s d b).ddrFour = s.ddrFour := by
  unfold wakeDom; dsimp only; split
  · rfl
  · split
    · simp
    · split
      · simp
      · split <;> simp
@[simp] theorem wakeDom_ddrHigh (s : State) (d : Nat) (b : Bool) : (wakeDom s d b).ddrHigh = s.ddrHigh := by
  unfold wakeDom; dsimp only; split
  · rfl
  · split
    · simp
    · split
      · simp
      · split <;> simp
@[simp] theorem wakeDom_ddrRet (s : State) (d : Nat) (b : Bool) : (wakeDom s d b).ddrRet = s.ddrRet := by
  unfold wakeDom; dsimp only; split
  · rfl
  · split
    · simp
    · split
      · simp
      · split <;> simp
@[simp] theorem wakeDom_ddrq (s : State) (d : Nat) (b : Bool) : (wakeDom s d b).ddrq = s.ddrq := by
  unfold wakeDom; dsimp only; split
  · rfl
  · split
    · simp
    · split
      · simp
      · split <;> simp
@[simp] theorem wakeDom_chans (s : State) (d : Nat) (b : Bool) : (wakeDom s d b).chans = s.chans := by
  unfold wakeDom; dsimp only; split
  · rfl
  · split
    · simp
    · split
      · simp
      · split <;> simp
@[simp] theorem wakeDom_hbms (s : State) (d : Nat) (b : Bool) : (wakeDom s d b).hbms = s.hbms := by
  unfold wakeDom; dsimp only; split
  · rfl
  · split
    · simp
    · split
      · simp
      · split <;> simp
@[simp] theorem wakeDom_lan (s : State) (d : Nat) (b : Bool) : (wakeDom s d b).lan = s.lan := by
  unfold wakeDom; dsimp only; split
  · rfl
  · split
    · simp
    · split
      · simp
      · split <;> simp
@[simp] theorem wakeDom_beams (s : State) (d : Nat) (b : Bool) : (wakeDom s d b).beams = s.beams := by
  unfold wakeDom; dsimp only; split
  · rfl
  · split
    · simp
    · split
      · simp
      · split <;> simp
@[simp] theorem wakeDom_engines (s : State) (d : Nat) (b : Bool) : (wakeDom s d b).engines = s.engines := by
  unfold wakeDom; dsimp only; split
  · rfl
  · split
    · simp
    · split
      · simp
      · split <;> simp
@[simp] theorem wakeDom_engMem (s : State) (d : Nat) (b : Bool) : (wakeDom s d b).engMem = s.engMem := by
  unfold wakeDom; dsimp only; split
  · rfl
  · split
    · simp
    · split
      · simp
      · split <;> simp
@[simp] theorem wakeDom_tim (s : State) (d : Nat) (b : Bool) : (wakeDom s d b).tim = s.tim := by
  unfold wakeDom; dsimp only; split
  · rfl
  · split
    · simp
    · split
      · simp
      · split <;> simp
@[simp] theorem wakeDom_regs (s : State) (d : Nat) (b : Bool) : (wakeDom s d b).regs = s.regs := by
  unfold wakeDom; dsimp only; split
  · rfl
  · split
    · simp
    · split
      · simp
      · split <;> simp
@[simp] theorem wakeDom_boot (s : State) (d : Nat) (b : Bool) : (wakeDom s d b).boot = s.boot := by
  unfold wakeDom; dsimp only; split
  · rfl
  · split
    · simp
    · split
      · simp
      · split <;> simp
@[simp] theorem wakeDom_move (s : State) (d : Nat) (b : Bool) : (wakeDom s d b).move = s.move := by
  unfold wakeDom; dsimp only; split
  · rfl
  · split
    · simp
    · split
      · simp
      · split <;> simp
@[simp] theorem logPart_pending (s t u : State) (p : Nat) : (logPart s t u p).pending = u.pending := by
  unfold logPart; split <;> simp
@[simp] theorem logParts_pending (s t : State) : (logParts s t).pending = t.pending := by
  have h : ∀ (l : List (Nat × PartSt)) (u : State), (l.foldl (fun (u : State) (e : Nat × PartSt) => logPart s t u e.1) u).pending = u.pending := by
    intro l
    induction l with
    | nil => intro u; rfl
    | cons e l ih => intro u; rw [List.foldl_cons, ih, logPart_pending]
  exact h _ _
@[simp] theorem logPart_now (s t u : State) (p : Nat) : (logPart s t u p).now = u.now := by
  unfold logPart; split <;> simp
@[simp] theorem logParts_now (s t : State) : (logParts s t).now = t.now := by
  have h : ∀ (l : List (Nat × PartSt)) (u : State), (l.foldl (fun (u : State) (e : Nat × PartSt) => logPart s t u e.1) u).now = u.now := by
    intro l
    induction l with
    | nil => intro u; rfl
    | cons e l ih => intro u; rw [List.foldl_cons, ih, logPart_now]
  exact h _ _
@[simp] theorem logPart_serial (s t u : State) (p : Nat) : (logPart s t u p).serial = u.serial := by
  unfold logPart; split <;> simp
@[simp] theorem logParts_serial (s t : State) : (logParts s t).serial = t.serial := by
  have h : ∀ (l : List (Nat × PartSt)) (u : State), (l.foldl (fun (u : State) (e : Nat × PartSt) => logPart s t u e.1) u).serial = u.serial := by
    intro l
    induction l with
    | nil => intro u; rfl
    | cons e l ih => intro u; rw [List.foldl_cons, ih, logPart_serial]
  exact h _ _
@[simp] theorem logPart_free (s t u : State) (p : Nat) : (logPart s t u p).free = u.free := by
  unfold logPart; split <;> simp
@[simp] theorem logParts_free (s t : State) : (logParts s t).free = t.free := by
  have h : ∀ (l : List (Nat × PartSt)) (u : State), (l.foldl (fun (u : State) (e : Nat × PartSt) => logPart s t u e.1) u).free = u.free := by
    intro l
    induction l with
    | nil => intro u; rfl
    | cons e l ih => intro u; rw [List.foldl_cons, ih, logPart_free]
  exact h _ _
@[simp] theorem logPart_cache (s t u : State) (p : Nat) : (logPart s t u p).cache = u.cache := by
  unfold logPart; split <;> simp
@[simp] theorem logParts_cache (s t : State) : (logParts s t).cache = t.cache := by
  have h : ∀ (l : List (Nat × PartSt)) (u : State), (l.foldl (fun (u : State) (e : Nat × PartSt) => logPart s t u e.1) u).cache = u.cache := by
    intro l
    induction l with
    | nil => intro u; rfl
    | cons e l ih => intro u; rw [List.foldl_cons, ih, logPart_cache]
  exact h _ _
@[simp] theorem logPart_home (s t u : State) (p : Nat) : (logPart s t u p).home = u.home := by
  unfold logPart; split <;> simp
@[simp] theorem logParts_home (s t : State) : (logParts s t).home = t.home := by
  have h : ∀ (l : List (Nat × PartSt)) (u : State), (l.foldl (fun (u : State) (e : Nat × PartSt) => logPart s t u e.1) u).home = u.home := by
    intro l
    induction l with
    | nil => intro u; rfl
    | cons e l ih => intro u; rw [List.foldl_cons, ih, logPart_home]
  exact h _ _
@[simp] theorem logPart_net (s t u : State) (p : Nat) : (logPart s t u p).net = u.net := by
  unfold logPart; split <;> simp
@[simp] theorem logParts_net (s t : State) : (logParts s t).net = t.net := by
  have h : ∀ (l : List (Nat × PartSt)) (u : State), (l.foldl (fun (u : State) (e : Nat × PartSt) => logPart s t u e.1) u).net = u.net := by
    intro l
    induction l with
    | nil => intro u; rfl
    | cons e l ih => intro u; rw [List.foldl_cons, ih, logPart_net]
  exact h _ _
@[simp] theorem logPart_ports (s t u : State) (p : Nat) : (logPart s t u p).ports = u.ports := by
  unfold logPart; split <;> simp
@[simp] theorem logParts_ports (s t : State) : (logParts s t).ports = t.ports := by
  have h : ∀ (l : List (Nat × PartSt)) (u : State), (l.foldl (fun (u : State) (e : Nat × PartSt) => logPart s t u e.1) u).ports = u.ports := by
    intro l
    induction l with
    | nil => intro u; rfl
    | cons e l ih => intro u; rw [List.foldl_cons, ih, logPart_ports]
  exact h _ _
@[simp] theorem logPart_parts (s t u : State) (p : Nat) : (logPart s t u p).parts = u.parts := by
  unfold logPart; split <;> simp
@[simp] theorem logParts_parts (s t : State) : (logParts s t).parts = t.parts := by
  have h : ∀ (l : List (Nat × PartSt)) (u : State), (l.foldl (fun (u : State) (e : Nat × PartSt) => logPart s t u e.1) u).parts = u.parts := by
    intro l
    induction l with
    | nil => intro u; rfl
    | cons e l ih => intro u; rw [List.foldl_cons, ih, logPart_parts]
  exact h _ _
@[simp] theorem logPart_mem (s t u : State) (p : Nat) : (logPart s t u p).mem = u.mem := by
  unfold logPart; split <;> simp
@[simp] theorem logParts_mem (s t : State) : (logParts s t).mem = t.mem := by
  have h : ∀ (l : List (Nat × PartSt)) (u : State), (l.foldl (fun (u : State) (e : Nat × PartSt) => logPart s t u e.1) u).mem = u.mem := by
    intro l
    induction l with
    | nil => intro u; rfl
    | cons e l ih => intro u; rw [List.foldl_cons, ih, logPart_mem]
  exact h _ _
@[simp] theorem logPart_tmo (s t u : State) (p : Nat) : (logPart s t u p).tmo = u.tmo := by
  unfold logPart; split <;> simp
@[simp] theorem logParts_tmo (s t : State) : (logParts s t).tmo = t.tmo := by
  have h : ∀ (l : List (Nat × PartSt)) (u : State), (l.foldl (fun (u : State) (e : Nat × PartSt) => logPart s t u e.1) u).tmo = u.tmo := by
    intro l
    induction l with
    | nil => intro u; rfl
    | cons e l ih => intro u; rw [List.foldl_cons, ih, logPart_tmo]
  exact h _ _
@[simp] theorem logPart_refl (s t u : State) (p : Nat) : (logPart s t u p).refl = u.refl := by
  unfold logPart; split <;> simp
@[simp] theorem logParts_refl (s t : State) : (logParts s t).refl = t.refl := by
  have h : ∀ (l : List (Nat × PartSt)) (u : State), (l.foldl (fun (u : State) (e : Nat × PartSt) => logPart s t u e.1) u).refl = u.refl := by
    intro l
    induction l with
    | nil => intro u; rfl
    | cons e l ih => intro u; rw [List.foldl_cons, ih, logPart_refl]
  exact h _ _
@[simp] theorem logPart_ctrlOut (s t u : State) (p : Nat) : (logPart s t u p).ctrlOut = u.ctrlOut := by
  unfold logPart; split <;> simp
@[simp] theorem logParts_ctrlOut (s t : State) : (logParts s t).ctrlOut = t.ctrlOut := by
  have h : ∀ (l : List (Nat × PartSt)) (u : State), (l.foldl (fun (u : State) (e : Nat × PartSt) => logPart s t u e.1) u).ctrlOut = u.ctrlOut := by
    intro l
    induction l with
    | nil => intro u; rfl
    | cons e l ih => intro u; rw [List.foldl_cons, ih, logPart_ctrlOut]
  exact h _ _
@[simp] theorem logPart_reports (s t u : State) (p : Nat) : (logPart s t u p).reports = u.reports := by
  unfold logPart; split <;> simp
@[simp] theorem logParts_reports (s t : State) : (logParts s t).reports = t.reports := by
  have h : ∀ (l : List (Nat × PartSt)) (u : State), (l.foldl (fun (u : State) (e : Nat × PartSt) => logPart s t u e.1) u).reports = u.reports := by
    intro l
    induction l with
    | nil => intro u; rfl
    | cons e l ih => intro u; rw [List.foldl_cons, ih, logPart_reports]
  exact h _ _
@[simp] theorem logPart_unwired (s t u : State) (p : Nat) : (logPart s t u p).unwired = u.unwired := by
  unfold logPart; split <;> simp
@[simp] theorem logPart_snpReady (s t u : State) (p : Nat) : (logPart s t u p).snpReady = u.snpReady := by
  unfold logPart; split <;> simp
@[simp] theorem logPart_ddrWrr (s t u : State) (p : Nat) : (logPart s t u p).ddrWrr = u.ddrWrr := by
  unfold logPart; split <;> simp
@[simp] theorem logParts_unwired (s t : State) : (logParts s t).unwired = t.unwired := by
  have h : ∀ (l : List (Nat × PartSt)) (u : State), (l.foldl (fun (u : State) (e : Nat × PartSt) => logPart s t u e.1) u).unwired = u.unwired := by
    intro l
    induction l with
    | nil => intro u; rfl
    | cons e l ih => intro u; rw [List.foldl_cons, ih, logPart_unwired]
  exact h _ _
@[simp] theorem logParts_snpReady (s t : State) : (logParts s t).snpReady = t.snpReady := by
  have h : ∀ (l : List (Nat × PartSt)) (u : State), (l.foldl (fun (u : State) (e : Nat × PartSt) => logPart s t u e.1) u).snpReady = u.snpReady := by
    intro l
    induction l with
    | nil => intro u; rfl
    | cons e l ih => intro u; rw [List.foldl_cons, ih, logPart_snpReady]
  exact h _ _
@[simp] theorem logParts_ddrWrr (s t : State) : (logParts s t).ddrWrr = t.ddrWrr := by
  have h : ∀ (l : List (Nat × PartSt)) (u : State), (l.foldl (fun (u : State) (e : Nat × PartSt) => logPart s t u e.1) u).ddrWrr = u.ddrWrr := by
    intro l
    induction l with
    | nil => intro u; rfl
    | cons e l ih => intro u; rw [List.foldl_cons, ih, logPart_ddrWrr]
  exact h _ _
@[simp] theorem logPart_capacity (s t u : State) (p : Nat) : (logPart s t u p).capacity = u.capacity := by
  unfold logPart; split <;> simp
@[simp] theorem logParts_capacity (s t : State) : (logParts s t).capacity = t.capacity := by
  have h : ∀ (l : List (Nat × PartSt)) (u : State), (l.foldl (fun (u : State) (e : Nat × PartSt) => logPart s t u e.1) u).capacity = u.capacity := by
    intro l
    induction l with
    | nil => intro u; rfl
    | cons e l ih => intro u; rw [List.foldl_cons, ih, logPart_capacity]
  exact h _ _
@[simp] theorem logPart_slow (s t u : State) (p : Nat) : (logPart s t u p).slow = u.slow := by
  unfold logPart; split <;> simp
@[simp] theorem logParts_slow (s t : State) : (logParts s t).slow = t.slow := by
  have h : ∀ (l : List (Nat × PartSt)) (u : State), (l.foldl (fun (u : State) (e : Nat × PartSt) => logPart s t u e.1) u).slow = u.slow := by
    intro l
    induction l with
    | nil => intro u; rfl
    | cons e l ih => intro u; rw [List.foldl_cons, ih, logPart_slow]
  exact h _ _
@[simp] theorem logPart_ddrFour (s t u : State) (p : Nat) : (logPart s t u p).ddrFour = u.ddrFour := by
  unfold logPart; split <;> simp
@[simp] theorem logParts_ddrFour (s t : State) : (logParts s t).ddrFour = t.ddrFour := by
  have h : ∀ (l : List (Nat × PartSt)) (u : State), (l.foldl (fun (u : State) (e : Nat × PartSt) => logPart s t u e.1) u).ddrFour = u.ddrFour := by
    intro l
    induction l with
    | nil => intro u; rfl
    | cons e l ih => intro u; rw [List.foldl_cons, ih, logPart_ddrFour]
  exact h _ _
@[simp] theorem logPart_ddrHigh (s t u : State) (p : Nat) : (logPart s t u p).ddrHigh = u.ddrHigh := by
  unfold logPart; split <;> simp
@[simp] theorem logParts_ddrHigh (s t : State) : (logParts s t).ddrHigh = t.ddrHigh := by
  have h : ∀ (l : List (Nat × PartSt)) (u : State), (l.foldl (fun (u : State) (e : Nat × PartSt) => logPart s t u e.1) u).ddrHigh = u.ddrHigh := by
    intro l
    induction l with
    | nil => intro u; rfl
    | cons e l ih => intro u; rw [List.foldl_cons, ih, logPart_ddrHigh]
  exact h _ _
@[simp] theorem logPart_ddrRet (s t u : State) (p : Nat) : (logPart s t u p).ddrRet = u.ddrRet := by
  unfold logPart; split <;> simp
@[simp] theorem logParts_ddrRet (s t : State) : (logParts s t).ddrRet = t.ddrRet := by
  have h : ∀ (l : List (Nat × PartSt)) (u : State), (l.foldl (fun (u : State) (e : Nat × PartSt) => logPart s t u e.1) u).ddrRet = u.ddrRet := by
    intro l
    induction l with
    | nil => intro u; rfl
    | cons e l ih => intro u; rw [List.foldl_cons, ih, logPart_ddrRet]
  exact h _ _
@[simp] theorem logPart_ddrq (s t u : State) (p : Nat) : (logPart s t u p).ddrq = u.ddrq := by
  unfold logPart; split <;> simp
@[simp] theorem logParts_ddrq (s t : State) : (logParts s t).ddrq = t.ddrq := by
  have h : ∀ (l : List (Nat × PartSt)) (u : State), (l.foldl (fun (u : State) (e : Nat × PartSt) => logPart s t u e.1) u).ddrq = u.ddrq := by
    intro l
    induction l with
    | nil => intro u; rfl
    | cons e l ih => intro u; rw [List.foldl_cons, ih, logPart_ddrq]
  exact h _ _
@[simp] theorem logPart_chans (s t u : State) (p : Nat) : (logPart s t u p).chans = u.chans := by
  unfold logPart; split <;> simp
@[simp] theorem logParts_chans (s t : State) : (logParts s t).chans = t.chans := by
  have h : ∀ (l : List (Nat × PartSt)) (u : State), (l.foldl (fun (u : State) (e : Nat × PartSt) => logPart s t u e.1) u).chans = u.chans := by
    intro l
    induction l with
    | nil => intro u; rfl
    | cons e l ih => intro u; rw [List.foldl_cons, ih, logPart_chans]
  exact h _ _
@[simp] theorem logPart_hbms (s t u : State) (p : Nat) : (logPart s t u p).hbms = u.hbms := by
  unfold logPart; split <;> simp
@[simp] theorem logParts_hbms (s t : State) : (logParts s t).hbms = t.hbms := by
  have h : ∀ (l : List (Nat × PartSt)) (u : State), (l.foldl (fun (u : State) (e : Nat × PartSt) => logPart s t u e.1) u).hbms = u.hbms := by
    intro l
    induction l with
    | nil => intro u; rfl
    | cons e l ih => intro u; rw [List.foldl_cons, ih, logPart_hbms]
  exact h _ _
@[simp] theorem logPart_lan (s t u : State) (p : Nat) : (logPart s t u p).lan = u.lan := by
  unfold logPart; split <;> simp
@[simp] theorem logParts_lan (s t : State) : (logParts s t).lan = t.lan := by
  have h : ∀ (l : List (Nat × PartSt)) (u : State), (l.foldl (fun (u : State) (e : Nat × PartSt) => logPart s t u e.1) u).lan = u.lan := by
    intro l
    induction l with
    | nil => intro u; rfl
    | cons e l ih => intro u; rw [List.foldl_cons, ih, logPart_lan]
  exact h _ _
@[simp] theorem logPart_beams (s t u : State) (p : Nat) : (logPart s t u p).beams = u.beams := by
  unfold logPart; split <;> simp
@[simp] theorem logParts_beams (s t : State) : (logParts s t).beams = t.beams := by
  have h : ∀ (l : List (Nat × PartSt)) (u : State), (l.foldl (fun (u : State) (e : Nat × PartSt) => logPart s t u e.1) u).beams = u.beams := by
    intro l
    induction l with
    | nil => intro u; rfl
    | cons e l ih => intro u; rw [List.foldl_cons, ih, logPart_beams]
  exact h _ _
@[simp] theorem logPart_engines (s t u : State) (p : Nat) : (logPart s t u p).engines = u.engines := by
  unfold logPart; split <;> simp
@[simp] theorem logParts_engines (s t : State) : (logParts s t).engines = t.engines := by
  have h : ∀ (l : List (Nat × PartSt)) (u : State), (l.foldl (fun (u : State) (e : Nat × PartSt) => logPart s t u e.1) u).engines = u.engines := by
    intro l
    induction l with
    | nil => intro u; rfl
    | cons e l ih => intro u; rw [List.foldl_cons, ih, logPart_engines]
  exact h _ _
@[simp] theorem logPart_engMem (s t u : State) (p : Nat) : (logPart s t u p).engMem = u.engMem := by
  unfold logPart; split <;> simp
@[simp] theorem logParts_engMem (s t : State) : (logParts s t).engMem = t.engMem := by
  have h : ∀ (l : List (Nat × PartSt)) (u : State), (l.foldl (fun (u : State) (e : Nat × PartSt) => logPart s t u e.1) u).engMem = u.engMem := by
    intro l
    induction l with
    | nil => intro u; rfl
    | cons e l ih => intro u; rw [List.foldl_cons, ih, logPart_engMem]
  exact h _ _
@[simp] theorem logPart_tim (s t u : State) (p : Nat) : (logPart s t u p).tim = u.tim := by
  unfold logPart; split <;> simp
@[simp] theorem logParts_tim (s t : State) : (logParts s t).tim = t.tim := by
  have h : ∀ (l : List (Nat × PartSt)) (u : State), (l.foldl (fun (u : State) (e : Nat × PartSt) => logPart s t u e.1) u).tim = u.tim := by
    intro l
    induction l with
    | nil => intro u; rfl
    | cons e l ih => intro u; rw [List.foldl_cons, ih, logPart_tim]
  exact h _ _
@[simp] theorem logPart_regs (s t u : State) (p : Nat) : (logPart s t u p).regs = u.regs := by
  unfold logPart; split <;> simp
@[simp] theorem logParts_regs (s t : State) : (logParts s t).regs = t.regs := by
  have h : ∀ (l : List (Nat × PartSt)) (u : State), (l.foldl (fun (u : State) (e : Nat × PartSt) => logPart s t u e.1) u).regs = u.regs := by
    intro l
    induction l with
    | nil => intro u; rfl
    | cons e l ih => intro u; rw [List.foldl_cons, ih, logPart_regs]
  exact h _ _
@[simp] theorem logPart_pwr (s t u : State) (p : Nat) : (logPart s t u p).pwr = u.pwr := by
  unfold logPart; split <;> simp
@[simp] theorem logParts_pwr (s t : State) : (logParts s t).pwr = t.pwr := by
  have h : ∀ (l : List (Nat × PartSt)) (u : State), (l.foldl (fun (u : State) (e : Nat × PartSt) => logPart s t u e.1) u).pwr = u.pwr := by
    intro l
    induction l with
    | nil => intro u; rfl
    | cons e l ih => intro u; rw [List.foldl_cons, ih, logPart_pwr]
  exact h _ _
@[simp] theorem logPart_move (s t u : State) (p : Nat) : (logPart s t u p).move = u.move := by
  unfold logPart; split <;> simp
@[simp] theorem logParts_move (s t : State) : (logParts s t).move = t.move := by
  have h : ∀ (l : List (Nat × PartSt)) (u : State), (l.foldl (fun (u : State) (e : Nat × PartSt) => logPart s t u e.1) u).move = u.move := by
    intro l
    induction l with
    | nil => intro u; rfl
    | cons e l ih => intro u; rw [List.foldl_cons, ih, logPart_move]
  exact h _ _
@[simp] theorem settled_now (s t : State) : (settled s t).now = t.now := by
  simp [settled]
@[simp] theorem settled_serial (s t : State) : (settled s t).serial = t.serial := by
  simp [settled]
@[simp] theorem settled_free (s t : State) : (settled s t).free = t.free := by
  simp [settled]
@[simp] theorem settled_cache (s t : State) : (settled s t).cache = t.cache := by
  simp [settled]
@[simp] theorem settled_home (s t : State) : (settled s t).home = t.home := by
  simp [settled]
@[simp] theorem settled_net (s t : State) : (settled s t).net = t.net := by
  simp [settled]
@[simp] theorem settled_ports (s t : State) : (settled s t).ports = t.ports := by
  simp [settled]
@[simp] theorem settled_parts (s t : State) : (settled s t).parts = t.parts := by
  simp [settled]
@[simp] theorem settled_mem (s t : State) : (settled s t).mem = t.mem := by
  simp [settled]
@[simp] theorem settled_tmo (s t : State) : (settled s t).tmo = t.tmo := by
  simp [settled]
@[simp] theorem settled_refl (s t : State) : (settled s t).refl = t.refl := by
  simp [settled]
@[simp] theorem settled_ctrlOut (s t : State) : (settled s t).ctrlOut = t.ctrlOut := by
  simp [settled]
@[simp] theorem settled_reports (s t : State) : (settled s t).reports = t.reports := by
  simp [settled]
@[simp] theorem settled_unwired (s t : State) : (settled s t).unwired = t.unwired := by
  simp [settled]
@[simp] theorem settled_snpReady (s t : State) : (settled s t).snpReady = t.snpReady ++ newlyReady s t := rfl
@[simp] theorem settled_ddrWrr (s t : State) : (settled s t).ddrWrr = t.ddrWrr := by
  simp [settled]
@[simp] theorem settled_capacity (s t : State) : (settled s t).capacity = t.capacity := by
  simp [settled]
@[simp] theorem settled_slow (s t : State) : (settled s t).slow = t.slow := by
  simp [settled]
@[simp] theorem settled_ddrFour (s t : State) : (settled s t).ddrFour = t.ddrFour := by
  simp [settled]
@[simp] theorem settled_ddrHigh (s t : State) : (settled s t).ddrHigh = t.ddrHigh := by
  simp [settled]
@[simp] theorem settled_ddrRet (s t : State) : (settled s t).ddrRet = t.ddrRet := by
  simp [settled]
@[simp] theorem settled_ddrq (s t : State) : (settled s t).ddrq = t.ddrq := by
  simp [settled]
@[simp] theorem settled_chans (s t : State) : (settled s t).chans = t.chans := by
  simp [settled]
@[simp] theorem settled_hbms (s t : State) : (settled s t).hbms = t.hbms := by
  simp [settled]
@[simp] theorem settled_lan (s t : State) : (settled s t).lan = t.lan := by
  simp [settled]
@[simp] theorem settled_beams (s t : State) : (settled s t).beams = t.beams := by
  simp [settled]
@[simp] theorem settled_engines (s t : State) : (settled s t).engines = t.engines := by
  simp [settled]
@[simp] theorem settled_engMem (s t : State) : (settled s t).engMem = t.engMem := by
  simp [settled]
@[simp] theorem settled_tim (s t : State) : (settled s t).tim = t.tim := by
  simp [settled]
@[simp] theorem settled_regs (s t : State) : (settled s t).regs = t.regs := by
  simp [settled]
@[simp] theorem settled_pwr (s t : State) : (settled s t).pwr = t.pwr := by
  simp [settled]
@[simp] theorem settled_move (s t : State) : (settled s t).move = t.move := by
  simp [settled]

/-! Of the start-up state, the log alone changes with a record; of the counters, the event registers alone. -/

@[simp] theorem logAdd_boot_pwrOk (s : State) (c : BitVec 8) (ws : List Word) : (logAdd s c ws).boot.pwrOk = s.boot.pwrOk := by
  unfold logAdd; dsimp only; split <;> rfl
@[simp] theorem logAdd_boot_sysRst (s : State) (c : BitVec 8) (ws : List Word) : (logAdd s c ws).boot.sysRst = s.boot.sysRst := by
  unfold logAdd; dsimp only; split <;> rfl
@[simp] theorem logAdd_boot_perst (s : State) (c : BitVec 8) (ws : List Word) : (logAdd s c ws).boot.perst = s.boot.perst := by
  unfold logAdd; dsimp only; split <;> rfl
@[simp] theorem logAdd_boot_ready (s : State) (c : BitVec 8) (ws : List Word) : (logAdd s c ws).boot.ready = s.boot.ready := by
  unfold logAdd; dsimp only; split <;> rfl
@[simp] theorem logAdd_boot_ddrDegraded (s : State) (c : BitVec 8) (ws : List Word) : (logAdd s c ws).boot.ddrDegraded = s.boot.ddrDegraded := by
  unfold logAdd; dsimp only; split <;> rfl
@[simp] theorem logAdd_boot_fwB (s : State) (c : BitVec 8) (ws : List Word) : (logAdd s c ws).boot.fwB = s.boot.fwB := by
  unfold logAdd; dsimp only; split <;> rfl
@[simp] theorem logAdd_boot_stage (s : State) (c : BitVec 8) (ws : List Word) : (logAdd s c ws).boot.stage = s.boot.stage := by
  unfold logAdd; dsimp only; split <;> rfl
@[simp] theorem logAdd_boot_bootErr (s : State) (c : BitVec 8) (ws : List Word) : (logAdd s c ws).boot.bootErr = s.boot.bootErr := by
  unfold logAdd; dsimp only; split <;> rfl
@[simp] theorem logAdd_boot_stopped (s : State) (c : BitVec 8) (ws : List Word) : (logAdd s c ws).boot.stopped = s.boot.stopped := by
  unfold logAdd; dsimp only; split <;> rfl
@[simp] theorem logAdd_boot_recovery (s : State) (c : BitVec 8) (ws : List Word) : (logAdd s c ws).boot.recovery = s.boot.recovery := by
  unfold logAdd; dsimp only; split <;> rfl
@[simp] theorem logAdd_boot_attempts (s : State) (c : BitVec 8) (ws : List Word) : (logAdd s c ws).boot.attempts = s.boot.attempts := by
  unfold logAdd; dsimp only; split <;> rfl
@[simp] theorem logAdd_boot_cause (s : State) (c : BitVec 8) (ws : List Word) : (logAdd s c ws).boot.cause = s.boot.cause := by
  unfold logAdd; dsimp only; split <;> rfl
@[simp] theorem logAdd_boot_upTime (s : State) (c : BitVec 8) (ws : List Word) : (logAdd s c ws).boot.upTime = s.boot.upTime := by
  unfold logAdd; dsimp only; split <;> rfl
@[simp] theorem logAdd_boot_version (s : State) (c : BitVec 8) (ws : List Word) : (logAdd s c ws).boot.version = s.boot.version := by
  unfold logAdd; dsimp only; split <;> rfl
@[simp] theorem logAdd_boot_runSvn (s : State) (c : BitVec 8) (ws : List Word) : (logAdd s c ws).boot.runSvn = s.boot.runSvn := by
  unfold logAdd; dsimp only; split <;> rfl
@[simp] theorem logAdd_boot_raiseSvn (s : State) (c : BitVec 8) (ws : List Word) : (logAdd s c ws).boot.raiseSvn = s.boot.raiseSvn := by
  unfold logAdd; dsimp only; split <;> rfl
@[simp] theorem logAdd_boot_runDigest (s : State) (c : BitVec 8) (ws : List Word) : (logAdd s c ws).boot.runDigest = s.boot.runDigest := by
  unfold logAdd; dsimp only; split <;> rfl
@[simp] theorem logAdd_boot_runSect (s : State) (c : BitVec 8) (ws : List Word) : (logAdd s c ws).boot.runSect = s.boot.runSect := by
  unfold logAdd; dsimp only; split <;> rfl
@[simp] theorem logAdd_boot_svnFloor (s : State) (c : BitVec 8) (ws : List Word) : (logAdd s c ws).boot.svnFloor = s.boot.svnFloor := by
  unfold logAdd; dsimp only; split <;> rfl
@[simp] theorem logAdd_boot_revoked (s : State) (c : BitVec 8) (ws : List Word) : (logAdd s c ws).boot.revoked = s.boot.revoked := by
  unfold logAdd; dsimp only; split <;> rfl
@[simp] theorem logAdd_boot_upd (s : State) (c : BitVec 8) (ws : List Word) : (logAdd s c ws).boot.upd = s.boot.upd := by
  unfold logAdd; dsimp only; split <;> rfl
@[simp] theorem logAdd_boot_apply (s : State) (c : BitVec 8) (ws : List Word) : (logAdd s c ws).boot.apply = s.boot.apply := by
  unfold logAdd; dsimp only; split <;> rfl
@[simp] theorem logAdd_boot_overlayed (s : State) (c : BitVec 8) (ws : List Word) : (logAdd s c ws).boot.overlayed = s.boot.overlayed := by
  unfold logAdd; dsimp only; split <;> rfl
@[simp] theorem logAdd_boot_railTrip (s : State) (c : BitVec 8) (ws : List Word) : (logAdd s c ws).boot.railTrip = s.boot.railTrip := by
  unfold logAdd; dsimp only; split <;> rfl
@[simp] theorem logAdd_boot_thermtrip (s : State) (c : BitVec 8) (ws : List Word) : (logAdd s c ws).boot.thermtrip = s.boot.thermtrip := by
  unfold logAdd; dsimp only; split <;> rfl
@[simp] theorem logAdd_boot_lostClk (s : State) (c : BitVec 8) (ws : List Word) : (logAdd s c ws).boot.lostClk = s.boot.lostClk := by
  unfold logAdd; dsimp only; split <;> rfl
@[simp] theorem raiseEvt_ctrs_trouble (s : State) (v : Nat) : (raiseEvt s v).ctrs.trouble = s.ctrs.trouble := rfl
@[simp] theorem logAdd_ctrs_trouble (s : State) (c : BitVec 8) (ws : List Word) : (logAdd s c ws).ctrs.trouble = s.ctrs.trouble := by
  unfold logAdd; dsimp only; split <;> rfl
@[simp] theorem raiseEvt_ctrs_fixed (s : State) (v : Nat) : (raiseEvt s v).ctrs.fixed = s.ctrs.fixed := rfl
@[simp] theorem logAdd_ctrs_fixed (s : State) (c : BitVec 8) (ws : List Word) : (logAdd s c ws).ctrs.fixed = s.ctrs.fixed := by
  unfold logAdd; dsimp only; split <;> rfl
@[simp] theorem raiseEvt_ctrs_mode (s : State) (v : Nat) : (raiseEvt s v).ctrs.mode = s.ctrs.mode := rfl
@[simp] theorem logAdd_ctrs_mode (s : State) (c : BitVec 8) (ws : List Word) : (logAdd s c ws).ctrs.mode = s.ctrs.mode := by
  unfold logAdd; dsimp only; split <;> rfl
@[simp] theorem raiseEvt_ctrs_cond (s : State) (v : Nat) : (raiseEvt s v).ctrs.cond = s.ctrs.cond := rfl
@[simp] theorem logAdd_ctrs_cond (s : State) (c : BitVec 8) (ws : List Word) : (logAdd s c ws).ctrs.cond = s.ctrs.cond := by
  unfold logAdd; dsimp only; split <;> rfl
@[simp] theorem raiseEvt_ctrs_smp (s : State) (v : Nat) : (raiseEvt s v).ctrs.smp = s.ctrs.smp := rfl
@[simp] theorem logAdd_ctrs_smp (s : State) (c : BitVec 8) (ws : List Word) : (logAdd s c ws).ctrs.smp = s.ctrs.smp := by
  unfold logAdd; dsimp only; split <;> rfl
@[simp] theorem raiseEvt_ctrs_dump (s : State) (v : Nat) : (raiseEvt s v).ctrs.dump = s.ctrs.dump := rfl
@[simp] theorem logAdd_ctrs_dump (s : State) (c : BitVec 8) (ws : List Word) : (logAdd s c ws).ctrs.dump = s.ctrs.dump := by
  unfold logAdd; dsimp only; split <;> rfl
@[simp] theorem raiseEvt_ctrs_errEvent (s : State) (v : Nat) : (raiseEvt s v).ctrs.errEvent = s.ctrs.errEvent := rfl
@[simp] theorem logAdd_ctrs_errEvent (s : State) (c : BitVec 8) (ws : List Word) : (logAdd s c ws).ctrs.errEvent = s.ctrs.errEvent := by
  unfold logAdd; dsimp only; split <;> rfl
@[simp] theorem raiseEvt_ctrs_captBlock (s : State) (v : Nat) : (raiseEvt s v).ctrs.captBlock = s.ctrs.captBlock := rfl
@[simp] theorem logAdd_ctrs_captBlock (s : State) (c : BitVec 8) (ws : List Word) : (logAdd s c ws).ctrs.captBlock = s.ctrs.captBlock := by
  unfold logAdd; dsimp only; split <;> rfl
@[simp] theorem raiseEvt_ctrs_captEvent (s : State) (v : Nat) : (raiseEvt s v).ctrs.captEvent = s.ctrs.captEvent := rfl
@[simp] theorem logAdd_ctrs_captEvent (s : State) (c : BitVec 8) (ws : List Word) : (logAdd s c ws).ctrs.captEvent = s.ctrs.captEvent := by
  unfold logAdd; dsimp only; split <;> rfl
@[simp] theorem raiseEvt_ctrs_captValid (s : State) (v : Nat) : (raiseEvt s v).ctrs.captValid = s.ctrs.captValid := rfl
@[simp] theorem logAdd_ctrs_captValid (s : State) (c : BitVec 8) (ws : List Word) : (logAdd s c ws).ctrs.captValid = s.ctrs.captValid := by
  unfold logAdd; dsimp only; split <;> rfl
@[simp] theorem raiseEvt_ctrs_ceThresh (s : State) (v : Nat) : (raiseEvt s v).ctrs.ceThresh = s.ctrs.ceThresh := rfl
@[simp] theorem logAdd_ctrs_ceThresh (s : State) (c : BitVec 8) (ws : List Word) : (logAdd s c ws).ctrs.ceThresh = s.ctrs.ceThresh := by
  unfold logAdd; dsimp only; split <;> rfl
@[simp] theorem raiseEvt_ctrs_evtEn (s : State) (v : Nat) : (raiseEvt s v).ctrs.evtEn = s.ctrs.evtEn := rfl
@[simp] theorem logAdd_ctrs_evtEn (s : State) (c : BitVec 8) (ws : List Word) : (logAdd s c ws).ctrs.evtEn = s.ctrs.evtEn := by
  unfold logAdd; dsimp only; split <;> rfl
@[simp] theorem raiseEvt_ctrs_intEn (s : State) (v : Nat) : (raiseEvt s v).ctrs.intEn = s.ctrs.intEn := rfl
@[simp] theorem logAdd_ctrs_intEn (s : State) (c : BitVec 8) (ws : List Word) : (logAdd s c ws).ctrs.intEn = s.ctrs.intEn := by
  unfold logAdd; dsimp only; split <;> rfl
@[simp] theorem logParts_boot_pwrOk (s t : State) : (logParts s t).boot.pwrOk = t.boot.pwrOk := by
  have h1 : ∀ (u : State) (p : Nat), (logPart s t u p).boot.pwrOk = u.boot.pwrOk := by
    intro u p; unfold logPart; split <;> simp
  have h : ∀ (l : List (Nat × PartSt)) (u : State), (l.foldl (fun (u : State) (e : Nat × PartSt) => logPart s t u e.1) u).boot.pwrOk = u.boot.pwrOk := by
    intro l
    induction l with
    | nil => intro u; rfl
    | cons e l ih => intro u; rw [List.foldl_cons, ih, h1]
  exact h _ _
@[simp] theorem settled_boot_pwrOk (s t : State) : (settled s t).boot.pwrOk = t.boot.pwrOk := logParts_boot_pwrOk s t
@[simp] theorem logParts_boot_sysRst (s t : State) : (logParts s t).boot.sysRst = t.boot.sysRst := by
  have h1 : ∀ (u : State) (p : Nat), (logPart s t u p).boot.sysRst = u.boot.sysRst := by
    intro u p; unfold logPart; split <;> simp
  have h : ∀ (l : List (Nat × PartSt)) (u : State), (l.foldl (fun (u : State) (e : Nat × PartSt) => logPart s t u e.1) u).boot.sysRst = u.boot.sysRst := by
    intro l
    induction l with
    | nil => intro u; rfl
    | cons e l ih => intro u; rw [List.foldl_cons, ih, h1]
  exact h _ _
@[simp] theorem settled_boot_sysRst (s t : State) : (settled s t).boot.sysRst = t.boot.sysRst := logParts_boot_sysRst s t
@[simp] theorem logParts_boot_perst (s t : State) : (logParts s t).boot.perst = t.boot.perst := by
  have h1 : ∀ (u : State) (p : Nat), (logPart s t u p).boot.perst = u.boot.perst := by
    intro u p; unfold logPart; split <;> simp
  have h : ∀ (l : List (Nat × PartSt)) (u : State), (l.foldl (fun (u : State) (e : Nat × PartSt) => logPart s t u e.1) u).boot.perst = u.boot.perst := by
    intro l
    induction l with
    | nil => intro u; rfl
    | cons e l ih => intro u; rw [List.foldl_cons, ih, h1]
  exact h _ _
@[simp] theorem settled_boot_perst (s t : State) : (settled s t).boot.perst = t.boot.perst := logParts_boot_perst s t
@[simp] theorem logParts_boot_ready (s t : State) : (logParts s t).boot.ready = t.boot.ready := by
  have h1 : ∀ (u : State) (p : Nat), (logPart s t u p).boot.ready = u.boot.ready := by
    intro u p; unfold logPart; split <;> simp
  have h : ∀ (l : List (Nat × PartSt)) (u : State), (l.foldl (fun (u : State) (e : Nat × PartSt) => logPart s t u e.1) u).boot.ready = u.boot.ready := by
    intro l
    induction l with
    | nil => intro u; rfl
    | cons e l ih => intro u; rw [List.foldl_cons, ih, h1]
  exact h _ _
@[simp] theorem settled_boot_ready (s t : State) : (settled s t).boot.ready = t.boot.ready := logParts_boot_ready s t
@[simp] theorem logParts_boot_ddrDegraded (s t : State) : (logParts s t).boot.ddrDegraded = t.boot.ddrDegraded := by
  have h1 : ∀ (u : State) (p : Nat), (logPart s t u p).boot.ddrDegraded = u.boot.ddrDegraded := by
    intro u p; unfold logPart; split <;> simp
  have h : ∀ (l : List (Nat × PartSt)) (u : State), (l.foldl (fun (u : State) (e : Nat × PartSt) => logPart s t u e.1) u).boot.ddrDegraded = u.boot.ddrDegraded := by
    intro l
    induction l with
    | nil => intro u; rfl
    | cons e l ih => intro u; rw [List.foldl_cons, ih, h1]
  exact h _ _
@[simp] theorem settled_boot_ddrDegraded (s t : State) : (settled s t).boot.ddrDegraded = t.boot.ddrDegraded := logParts_boot_ddrDegraded s t
@[simp] theorem logParts_boot_fwB (s t : State) : (logParts s t).boot.fwB = t.boot.fwB := by
  have h1 : ∀ (u : State) (p : Nat), (logPart s t u p).boot.fwB = u.boot.fwB := by
    intro u p; unfold logPart; split <;> simp
  have h : ∀ (l : List (Nat × PartSt)) (u : State), (l.foldl (fun (u : State) (e : Nat × PartSt) => logPart s t u e.1) u).boot.fwB = u.boot.fwB := by
    intro l
    induction l with
    | nil => intro u; rfl
    | cons e l ih => intro u; rw [List.foldl_cons, ih, h1]
  exact h _ _
@[simp] theorem settled_boot_fwB (s t : State) : (settled s t).boot.fwB = t.boot.fwB := logParts_boot_fwB s t
@[simp] theorem logParts_boot_stage (s t : State) : (logParts s t).boot.stage = t.boot.stage := by
  have h1 : ∀ (u : State) (p : Nat), (logPart s t u p).boot.stage = u.boot.stage := by
    intro u p; unfold logPart; split <;> simp
  have h : ∀ (l : List (Nat × PartSt)) (u : State), (l.foldl (fun (u : State) (e : Nat × PartSt) => logPart s t u e.1) u).boot.stage = u.boot.stage := by
    intro l
    induction l with
    | nil => intro u; rfl
    | cons e l ih => intro u; rw [List.foldl_cons, ih, h1]
  exact h _ _
@[simp] theorem settled_boot_stage (s t : State) : (settled s t).boot.stage = t.boot.stage := logParts_boot_stage s t
@[simp] theorem logParts_boot_bootErr (s t : State) : (logParts s t).boot.bootErr = t.boot.bootErr := by
  have h1 : ∀ (u : State) (p : Nat), (logPart s t u p).boot.bootErr = u.boot.bootErr := by
    intro u p; unfold logPart; split <;> simp
  have h : ∀ (l : List (Nat × PartSt)) (u : State), (l.foldl (fun (u : State) (e : Nat × PartSt) => logPart s t u e.1) u).boot.bootErr = u.boot.bootErr := by
    intro l
    induction l with
    | nil => intro u; rfl
    | cons e l ih => intro u; rw [List.foldl_cons, ih, h1]
  exact h _ _
@[simp] theorem settled_boot_bootErr (s t : State) : (settled s t).boot.bootErr = t.boot.bootErr := logParts_boot_bootErr s t
@[simp] theorem logParts_boot_stopped (s t : State) : (logParts s t).boot.stopped = t.boot.stopped := by
  have h1 : ∀ (u : State) (p : Nat), (logPart s t u p).boot.stopped = u.boot.stopped := by
    intro u p; unfold logPart; split <;> simp
  have h : ∀ (l : List (Nat × PartSt)) (u : State), (l.foldl (fun (u : State) (e : Nat × PartSt) => logPart s t u e.1) u).boot.stopped = u.boot.stopped := by
    intro l
    induction l with
    | nil => intro u; rfl
    | cons e l ih => intro u; rw [List.foldl_cons, ih, h1]
  exact h _ _
@[simp] theorem settled_boot_stopped (s t : State) : (settled s t).boot.stopped = t.boot.stopped := logParts_boot_stopped s t
@[simp] theorem logParts_boot_recovery (s t : State) : (logParts s t).boot.recovery = t.boot.recovery := by
  have h1 : ∀ (u : State) (p : Nat), (logPart s t u p).boot.recovery = u.boot.recovery := by
    intro u p; unfold logPart; split <;> simp
  have h : ∀ (l : List (Nat × PartSt)) (u : State), (l.foldl (fun (u : State) (e : Nat × PartSt) => logPart s t u e.1) u).boot.recovery = u.boot.recovery := by
    intro l
    induction l with
    | nil => intro u; rfl
    | cons e l ih => intro u; rw [List.foldl_cons, ih, h1]
  exact h _ _
@[simp] theorem settled_boot_recovery (s t : State) : (settled s t).boot.recovery = t.boot.recovery := logParts_boot_recovery s t
@[simp] theorem logParts_boot_attempts (s t : State) : (logParts s t).boot.attempts = t.boot.attempts := by
  have h1 : ∀ (u : State) (p : Nat), (logPart s t u p).boot.attempts = u.boot.attempts := by
    intro u p; unfold logPart; split <;> simp
  have h : ∀ (l : List (Nat × PartSt)) (u : State), (l.foldl (fun (u : State) (e : Nat × PartSt) => logPart s t u e.1) u).boot.attempts = u.boot.attempts := by
    intro l
    induction l with
    | nil => intro u; rfl
    | cons e l ih => intro u; rw [List.foldl_cons, ih, h1]
  exact h _ _
@[simp] theorem settled_boot_attempts (s t : State) : (settled s t).boot.attempts = t.boot.attempts := logParts_boot_attempts s t
@[simp] theorem logParts_boot_cause (s t : State) : (logParts s t).boot.cause = t.boot.cause := by
  have h1 : ∀ (u : State) (p : Nat), (logPart s t u p).boot.cause = u.boot.cause := by
    intro u p; unfold logPart; split <;> simp
  have h : ∀ (l : List (Nat × PartSt)) (u : State), (l.foldl (fun (u : State) (e : Nat × PartSt) => logPart s t u e.1) u).boot.cause = u.boot.cause := by
    intro l
    induction l with
    | nil => intro u; rfl
    | cons e l ih => intro u; rw [List.foldl_cons, ih, h1]
  exact h _ _
@[simp] theorem settled_boot_cause (s t : State) : (settled s t).boot.cause = t.boot.cause := logParts_boot_cause s t
@[simp] theorem logParts_boot_upTime (s t : State) : (logParts s t).boot.upTime = t.boot.upTime := by
  have h1 : ∀ (u : State) (p : Nat), (logPart s t u p).boot.upTime = u.boot.upTime := by
    intro u p; unfold logPart; split <;> simp
  have h : ∀ (l : List (Nat × PartSt)) (u : State), (l.foldl (fun (u : State) (e : Nat × PartSt) => logPart s t u e.1) u).boot.upTime = u.boot.upTime := by
    intro l
    induction l with
    | nil => intro u; rfl
    | cons e l ih => intro u; rw [List.foldl_cons, ih, h1]
  exact h _ _
@[simp] theorem settled_boot_upTime (s t : State) : (settled s t).boot.upTime = t.boot.upTime := logParts_boot_upTime s t
@[simp] theorem logParts_boot_version (s t : State) : (logParts s t).boot.version = t.boot.version := by
  have h1 : ∀ (u : State) (p : Nat), (logPart s t u p).boot.version = u.boot.version := by
    intro u p; unfold logPart; split <;> simp
  have h : ∀ (l : List (Nat × PartSt)) (u : State), (l.foldl (fun (u : State) (e : Nat × PartSt) => logPart s t u e.1) u).boot.version = u.boot.version := by
    intro l
    induction l with
    | nil => intro u; rfl
    | cons e l ih => intro u; rw [List.foldl_cons, ih, h1]
  exact h _ _
@[simp] theorem settled_boot_version (s t : State) : (settled s t).boot.version = t.boot.version := logParts_boot_version s t
@[simp] theorem logParts_boot_runSvn (s t : State) : (logParts s t).boot.runSvn = t.boot.runSvn := by
  have h1 : ∀ (u : State) (p : Nat), (logPart s t u p).boot.runSvn = u.boot.runSvn := by
    intro u p; unfold logPart; split <;> simp
  have h : ∀ (l : List (Nat × PartSt)) (u : State), (l.foldl (fun (u : State) (e : Nat × PartSt) => logPart s t u e.1) u).boot.runSvn = u.boot.runSvn := by
    intro l
    induction l with
    | nil => intro u; rfl
    | cons e l ih => intro u; rw [List.foldl_cons, ih, h1]
  exact h _ _
@[simp] theorem settled_boot_runSvn (s t : State) : (settled s t).boot.runSvn = t.boot.runSvn := logParts_boot_runSvn s t
@[simp] theorem logParts_boot_raiseSvn (s t : State) : (logParts s t).boot.raiseSvn = t.boot.raiseSvn := by
  have h1 : ∀ (u : State) (p : Nat), (logPart s t u p).boot.raiseSvn = u.boot.raiseSvn := by
    intro u p; unfold logPart; split <;> simp
  have h : ∀ (l : List (Nat × PartSt)) (u : State), (l.foldl (fun (u : State) (e : Nat × PartSt) => logPart s t u e.1) u).boot.raiseSvn = u.boot.raiseSvn := by
    intro l
    induction l with
    | nil => intro u; rfl
    | cons e l ih => intro u; rw [List.foldl_cons, ih, h1]
  exact h _ _
@[simp] theorem settled_boot_raiseSvn (s t : State) : (settled s t).boot.raiseSvn = t.boot.raiseSvn := logParts_boot_raiseSvn s t
@[simp] theorem logParts_boot_runDigest (s t : State) : (logParts s t).boot.runDigest = t.boot.runDigest := by
  have h1 : ∀ (u : State) (p : Nat), (logPart s t u p).boot.runDigest = u.boot.runDigest := by
    intro u p; unfold logPart; split <;> simp
  have h : ∀ (l : List (Nat × PartSt)) (u : State), (l.foldl (fun (u : State) (e : Nat × PartSt) => logPart s t u e.1) u).boot.runDigest = u.boot.runDigest := by
    intro l
    induction l with
    | nil => intro u; rfl
    | cons e l ih => intro u; rw [List.foldl_cons, ih, h1]
  exact h _ _
@[simp] theorem settled_boot_runDigest (s t : State) : (settled s t).boot.runDigest = t.boot.runDigest := logParts_boot_runDigest s t
@[simp] theorem logParts_boot_runSect (s t : State) : (logParts s t).boot.runSect = t.boot.runSect := by
  have h1 : ∀ (u : State) (p : Nat), (logPart s t u p).boot.runSect = u.boot.runSect := by
    intro u p; unfold logPart; split <;> simp
  have h : ∀ (l : List (Nat × PartSt)) (u : State), (l.foldl (fun (u : State) (e : Nat × PartSt) => logPart s t u e.1) u).boot.runSect = u.boot.runSect := by
    intro l
    induction l with
    | nil => intro u; rfl
    | cons e l ih => intro u; rw [List.foldl_cons, ih, h1]
  exact h _ _
@[simp] theorem settled_boot_runSect (s t : State) : (settled s t).boot.runSect = t.boot.runSect := logParts_boot_runSect s t
@[simp] theorem logParts_boot_svnFloor (s t : State) : (logParts s t).boot.svnFloor = t.boot.svnFloor := by
  have h1 : ∀ (u : State) (p : Nat), (logPart s t u p).boot.svnFloor = u.boot.svnFloor := by
    intro u p; unfold logPart; split <;> simp
  have h : ∀ (l : List (Nat × PartSt)) (u : State), (l.foldl (fun (u : State) (e : Nat × PartSt) => logPart s t u e.1) u).boot.svnFloor = u.boot.svnFloor := by
    intro l
    induction l with
    | nil => intro u; rfl
    | cons e l ih => intro u; rw [List.foldl_cons, ih, h1]
  exact h _ _
@[simp] theorem settled_boot_svnFloor (s t : State) : (settled s t).boot.svnFloor = t.boot.svnFloor := logParts_boot_svnFloor s t
@[simp] theorem logParts_boot_revoked (s t : State) : (logParts s t).boot.revoked = t.boot.revoked := by
  have h1 : ∀ (u : State) (p : Nat), (logPart s t u p).boot.revoked = u.boot.revoked := by
    intro u p; unfold logPart; split <;> simp
  have h : ∀ (l : List (Nat × PartSt)) (u : State), (l.foldl (fun (u : State) (e : Nat × PartSt) => logPart s t u e.1) u).boot.revoked = u.boot.revoked := by
    intro l
    induction l with
    | nil => intro u; rfl
    | cons e l ih => intro u; rw [List.foldl_cons, ih, h1]
  exact h _ _
@[simp] theorem settled_boot_revoked (s t : State) : (settled s t).boot.revoked = t.boot.revoked := logParts_boot_revoked s t
@[simp] theorem logParts_boot_upd (s t : State) : (logParts s t).boot.upd = t.boot.upd := by
  have h1 : ∀ (u : State) (p : Nat), (logPart s t u p).boot.upd = u.boot.upd := by
    intro u p; unfold logPart; split <;> simp
  have h : ∀ (l : List (Nat × PartSt)) (u : State), (l.foldl (fun (u : State) (e : Nat × PartSt) => logPart s t u e.1) u).boot.upd = u.boot.upd := by
    intro l
    induction l with
    | nil => intro u; rfl
    | cons e l ih => intro u; rw [List.foldl_cons, ih, h1]
  exact h _ _
@[simp] theorem settled_boot_upd (s t : State) : (settled s t).boot.upd = t.boot.upd := logParts_boot_upd s t
@[simp] theorem logParts_boot_apply (s t : State) : (logParts s t).boot.apply = t.boot.apply := by
  have h1 : ∀ (u : State) (p : Nat), (logPart s t u p).boot.apply = u.boot.apply := by
    intro u p; unfold logPart; split <;> simp
  have h : ∀ (l : List (Nat × PartSt)) (u : State), (l.foldl (fun (u : State) (e : Nat × PartSt) => logPart s t u e.1) u).boot.apply = u.boot.apply := by
    intro l
    induction l with
    | nil => intro u; rfl
    | cons e l ih => intro u; rw [List.foldl_cons, ih, h1]
  exact h _ _
@[simp] theorem settled_boot_apply (s t : State) : (settled s t).boot.apply = t.boot.apply := logParts_boot_apply s t
@[simp] theorem logParts_boot_overlayed (s t : State) : (logParts s t).boot.overlayed = t.boot.overlayed := by
  have h1 : ∀ (u : State) (p : Nat), (logPart s t u p).boot.overlayed = u.boot.overlayed := by
    intro u p; unfold logPart; split <;> simp
  have h : ∀ (l : List (Nat × PartSt)) (u : State), (l.foldl (fun (u : State) (e : Nat × PartSt) => logPart s t u e.1) u).boot.overlayed = u.boot.overlayed := by
    intro l
    induction l with
    | nil => intro u; rfl
    | cons e l ih => intro u; rw [List.foldl_cons, ih, h1]
  exact h _ _
@[simp] theorem settled_boot_overlayed (s t : State) : (settled s t).boot.overlayed = t.boot.overlayed := logParts_boot_overlayed s t
@[simp] theorem logParts_boot_railTrip (s t : State) : (logParts s t).boot.railTrip = t.boot.railTrip := by
  have h1 : ∀ (u : State) (p : Nat), (logPart s t u p).boot.railTrip = u.boot.railTrip := by
    intro u p; unfold logPart; split <;> simp
  have h : ∀ (l : List (Nat × PartSt)) (u : State), (l.foldl (fun (u : State) (e : Nat × PartSt) => logPart s t u e.1) u).boot.railTrip = u.boot.railTrip := by
    intro l
    induction l with
    | nil => intro u; rfl
    | cons e l ih => intro u; rw [List.foldl_cons, ih, h1]
  exact h _ _
@[simp] theorem settled_boot_railTrip (s t : State) : (settled s t).boot.railTrip = t.boot.railTrip := logParts_boot_railTrip s t
@[simp] theorem logParts_boot_thermtrip (s t : State) : (logParts s t).boot.thermtrip = t.boot.thermtrip := by
  have h1 : ∀ (u : State) (p : Nat), (logPart s t u p).boot.thermtrip = u.boot.thermtrip := by
    intro u p; unfold logPart; split <;> simp
  have h : ∀ (l : List (Nat × PartSt)) (u : State), (l.foldl (fun (u : State) (e : Nat × PartSt) => logPart s t u e.1) u).boot.thermtrip = u.boot.thermtrip := by
    intro l
    induction l with
    | nil => intro u; rfl
    | cons e l ih => intro u; rw [List.foldl_cons, ih, h1]
  exact h _ _
@[simp] theorem settled_boot_thermtrip (s t : State) : (settled s t).boot.thermtrip = t.boot.thermtrip := logParts_boot_thermtrip s t
@[simp] theorem logParts_boot_lostClk (s t : State) : (logParts s t).boot.lostClk = t.boot.lostClk := by
  have h1 : ∀ (u : State) (p : Nat), (logPart s t u p).boot.lostClk = u.boot.lostClk := by
    intro u p; unfold logPart; split <;> simp
  have h : ∀ (l : List (Nat × PartSt)) (u : State), (l.foldl (fun (u : State) (e : Nat × PartSt) => logPart s t u e.1) u).boot.lostClk = u.boot.lostClk := by
    intro l
    induction l with
    | nil => intro u; rfl
    | cons e l ih => intro u; rw [List.foldl_cons, ih, h1]
  exact h _ _
@[simp] theorem settled_boot_lostClk (s t : State) : (settled s t).boot.lostClk = t.boot.lostClk := logParts_boot_lostClk s t
@[simp] theorem logParts_ctrs_trouble (s t : State) : (logParts s t).ctrs.trouble = t.ctrs.trouble := by
  have h1 : ∀ (u : State) (p : Nat), (logPart s t u p).ctrs.trouble = u.ctrs.trouble := by
    intro u p; unfold logPart; split <;> simp
  have h : ∀ (l : List (Nat × PartSt)) (u : State), (l.foldl (fun (u : State) (e : Nat × PartSt) => logPart s t u e.1) u).ctrs.trouble = u.ctrs.trouble := by
    intro l
    induction l with
    | nil => intro u; rfl
    | cons e l ih => intro u; rw [List.foldl_cons, ih, h1]
  exact h _ _
@[simp] theorem settled_ctrs_trouble (s t : State) : (settled s t).ctrs.trouble = t.ctrs.trouble := logParts_ctrs_trouble s t
@[simp] theorem logParts_ctrs_fixed (s t : State) : (logParts s t).ctrs.fixed = t.ctrs.fixed := by
  have h1 : ∀ (u : State) (p : Nat), (logPart s t u p).ctrs.fixed = u.ctrs.fixed := by
    intro u p; unfold logPart; split <;> simp
  have h : ∀ (l : List (Nat × PartSt)) (u : State), (l.foldl (fun (u : State) (e : Nat × PartSt) => logPart s t u e.1) u).ctrs.fixed = u.ctrs.fixed := by
    intro l
    induction l with
    | nil => intro u; rfl
    | cons e l ih => intro u; rw [List.foldl_cons, ih, h1]
  exact h _ _
@[simp] theorem settled_ctrs_fixed (s t : State) : (settled s t).ctrs.fixed = t.ctrs.fixed := logParts_ctrs_fixed s t
@[simp] theorem logParts_ctrs_mode (s t : State) : (logParts s t).ctrs.mode = t.ctrs.mode := by
  have h1 : ∀ (u : State) (p : Nat), (logPart s t u p).ctrs.mode = u.ctrs.mode := by
    intro u p; unfold logPart; split <;> simp
  have h : ∀ (l : List (Nat × PartSt)) (u : State), (l.foldl (fun (u : State) (e : Nat × PartSt) => logPart s t u e.1) u).ctrs.mode = u.ctrs.mode := by
    intro l
    induction l with
    | nil => intro u; rfl
    | cons e l ih => intro u; rw [List.foldl_cons, ih, h1]
  exact h _ _
@[simp] theorem settled_ctrs_mode (s t : State) : (settled s t).ctrs.mode = t.ctrs.mode := logParts_ctrs_mode s t
@[simp] theorem logParts_ctrs_cond (s t : State) : (logParts s t).ctrs.cond = t.ctrs.cond := by
  have h1 : ∀ (u : State) (p : Nat), (logPart s t u p).ctrs.cond = u.ctrs.cond := by
    intro u p; unfold logPart; split <;> simp
  have h : ∀ (l : List (Nat × PartSt)) (u : State), (l.foldl (fun (u : State) (e : Nat × PartSt) => logPart s t u e.1) u).ctrs.cond = u.ctrs.cond := by
    intro l
    induction l with
    | nil => intro u; rfl
    | cons e l ih => intro u; rw [List.foldl_cons, ih, h1]
  exact h _ _
@[simp] theorem settled_ctrs_cond (s t : State) : (settled s t).ctrs.cond = t.ctrs.cond := logParts_ctrs_cond s t
@[simp] theorem logParts_ctrs_smp (s t : State) : (logParts s t).ctrs.smp = t.ctrs.smp := by
  have h1 : ∀ (u : State) (p : Nat), (logPart s t u p).ctrs.smp = u.ctrs.smp := by
    intro u p; unfold logPart; split <;> simp
  have h : ∀ (l : List (Nat × PartSt)) (u : State), (l.foldl (fun (u : State) (e : Nat × PartSt) => logPart s t u e.1) u).ctrs.smp = u.ctrs.smp := by
    intro l
    induction l with
    | nil => intro u; rfl
    | cons e l ih => intro u; rw [List.foldl_cons, ih, h1]
  exact h _ _
@[simp] theorem settled_ctrs_smp (s t : State) : (settled s t).ctrs.smp = t.ctrs.smp := logParts_ctrs_smp s t
@[simp] theorem logParts_ctrs_dump (s t : State) : (logParts s t).ctrs.dump = t.ctrs.dump := by
  have h1 : ∀ (u : State) (p : Nat), (logPart s t u p).ctrs.dump = u.ctrs.dump := by
    intro u p; unfold logPart; split <;> simp
  have h : ∀ (l : List (Nat × PartSt)) (u : State), (l.foldl (fun (u : State) (e : Nat × PartSt) => logPart s t u e.1) u).ctrs.dump = u.ctrs.dump := by
    intro l
    induction l with
    | nil => intro u; rfl
    | cons e l ih => intro u; rw [List.foldl_cons, ih, h1]
  exact h _ _
@[simp] theorem settled_ctrs_dump (s t : State) : (settled s t).ctrs.dump = t.ctrs.dump := logParts_ctrs_dump s t
@[simp] theorem logParts_ctrs_errEvent (s t : State) : (logParts s t).ctrs.errEvent = t.ctrs.errEvent := by
  have h1 : ∀ (u : State) (p : Nat), (logPart s t u p).ctrs.errEvent = u.ctrs.errEvent := by
    intro u p; unfold logPart; split <;> simp
  have h : ∀ (l : List (Nat × PartSt)) (u : State), (l.foldl (fun (u : State) (e : Nat × PartSt) => logPart s t u e.1) u).ctrs.errEvent = u.ctrs.errEvent := by
    intro l
    induction l with
    | nil => intro u; rfl
    | cons e l ih => intro u; rw [List.foldl_cons, ih, h1]
  exact h _ _
@[simp] theorem settled_ctrs_errEvent (s t : State) : (settled s t).ctrs.errEvent = t.ctrs.errEvent := logParts_ctrs_errEvent s t
@[simp] theorem logParts_ctrs_captBlock (s t : State) : (logParts s t).ctrs.captBlock = t.ctrs.captBlock := by
  have h1 : ∀ (u : State) (p : Nat), (logPart s t u p).ctrs.captBlock = u.ctrs.captBlock := by
    intro u p; unfold logPart; split <;> simp
  have h : ∀ (l : List (Nat × PartSt)) (u : State), (l.foldl (fun (u : State) (e : Nat × PartSt) => logPart s t u e.1) u).ctrs.captBlock = u.ctrs.captBlock := by
    intro l
    induction l with
    | nil => intro u; rfl
    | cons e l ih => intro u; rw [List.foldl_cons, ih, h1]
  exact h _ _
@[simp] theorem settled_ctrs_captBlock (s t : State) : (settled s t).ctrs.captBlock = t.ctrs.captBlock := logParts_ctrs_captBlock s t
@[simp] theorem logParts_ctrs_captEvent (s t : State) : (logParts s t).ctrs.captEvent = t.ctrs.captEvent := by
  have h1 : ∀ (u : State) (p : Nat), (logPart s t u p).ctrs.captEvent = u.ctrs.captEvent := by
    intro u p; unfold logPart; split <;> simp
  have h : ∀ (l : List (Nat × PartSt)) (u : State), (l.foldl (fun (u : State) (e : Nat × PartSt) => logPart s t u e.1) u).ctrs.captEvent = u.ctrs.captEvent := by
    intro l
    induction l with
    | nil => intro u; rfl
    | cons e l ih => intro u; rw [List.foldl_cons, ih, h1]
  exact h _ _
@[simp] theorem settled_ctrs_captEvent (s t : State) : (settled s t).ctrs.captEvent = t.ctrs.captEvent := logParts_ctrs_captEvent s t
@[simp] theorem logParts_ctrs_captValid (s t : State) : (logParts s t).ctrs.captValid = t.ctrs.captValid := by
  have h1 : ∀ (u : State) (p : Nat), (logPart s t u p).ctrs.captValid = u.ctrs.captValid := by
    intro u p; unfold logPart; split <;> simp
  have h : ∀ (l : List (Nat × PartSt)) (u : State), (l.foldl (fun (u : State) (e : Nat × PartSt) => logPart s t u e.1) u).ctrs.captValid = u.ctrs.captValid := by
    intro l
    induction l with
    | nil => intro u; rfl
    | cons e l ih => intro u; rw [List.foldl_cons, ih, h1]
  exact h _ _
@[simp] theorem settled_ctrs_captValid (s t : State) : (settled s t).ctrs.captValid = t.ctrs.captValid := logParts_ctrs_captValid s t
@[simp] theorem logParts_ctrs_ceThresh (s t : State) : (logParts s t).ctrs.ceThresh = t.ctrs.ceThresh := by
  have h1 : ∀ (u : State) (p : Nat), (logPart s t u p).ctrs.ceThresh = u.ctrs.ceThresh := by
    intro u p; unfold logPart; split <;> simp
  have h : ∀ (l : List (Nat × PartSt)) (u : State), (l.foldl (fun (u : State) (e : Nat × PartSt) => logPart s t u e.1) u).ctrs.ceThresh = u.ctrs.ceThresh := by
    intro l
    induction l with
    | nil => intro u; rfl
    | cons e l ih => intro u; rw [List.foldl_cons, ih, h1]
  exact h _ _
@[simp] theorem settled_ctrs_ceThresh (s t : State) : (settled s t).ctrs.ceThresh = t.ctrs.ceThresh := logParts_ctrs_ceThresh s t
@[simp] theorem logParts_ctrs_evtEn (s t : State) : (logParts s t).ctrs.evtEn = t.ctrs.evtEn := by
  have h1 : ∀ (u : State) (p : Nat), (logPart s t u p).ctrs.evtEn = u.ctrs.evtEn := by
    intro u p; unfold logPart; split <;> simp
  have h : ∀ (l : List (Nat × PartSt)) (u : State), (l.foldl (fun (u : State) (e : Nat × PartSt) => logPart s t u e.1) u).ctrs.evtEn = u.ctrs.evtEn := by
    intro l
    induction l with
    | nil => intro u; rfl
    | cons e l ih => intro u; rw [List.foldl_cons, ih, h1]
  exact h _ _
@[simp] theorem settled_ctrs_evtEn (s t : State) : (settled s t).ctrs.evtEn = t.ctrs.evtEn := logParts_ctrs_evtEn s t
@[simp] theorem logParts_ctrs_intEn (s t : State) : (logParts s t).ctrs.intEn = t.ctrs.intEn := by
  have h1 : ∀ (u : State) (p : Nat), (logPart s t u p).ctrs.intEn = u.ctrs.intEn := by
    intro u p; unfold logPart; split <;> simp
  have h : ∀ (l : List (Nat × PartSt)) (u : State), (l.foldl (fun (u : State) (e : Nat × PartSt) => logPart s t u e.1) u).ctrs.intEn = u.ctrs.intEn := by
    intro l
    induction l with
    | nil => intro u; rfl
    | cons e l ih => intro u; rw [List.foldl_cons, ih, h1]
  exact h _ _
@[simp] theorem settled_ctrs_intEn (s t : State) : (settled s t).ctrs.intEn = t.ctrs.intEn := logParts_ctrs_intEn s t

/-! The answer of a meaning. -/

/-- No partition changed: nothing is logged. -/
theorem logPart_of_eq (s t u : State) (p : Nat) (h : partStateAt s p = partStateAt t p) : logPart s t u p = u := by
  unfold logPart; rw [if_pos h]
/-- Partitions as they were leave the log as it was. -/
theorem logParts_of_parts (s t : State) (h : t.parts = s.parts) : logParts s t = t := by
  have hp : ∀ p, partStateAt s p = partStateAt t p := fun p => by unfold partStateAt; rw [h]
  have hl : ∀ (l : List (Nat × PartSt)), l.foldl (fun (u : State) (e : Nat × PartSt) => logPart s t u e.1) t = t := by
    intro l
    induction l with
    | nil => rfl
    | cons e l ih => rw [List.foldl_cons, logPart_of_eq s t t e.1 (hp e.1), ih]
  exact hl _
/-- The answer where no partition changes: the new state with the queue as it was, the snoops that became ready and INT_n settled. -/
theorem settled_of_parts (s t : State) (h : t.parts = s.parts) :
    settled s t = settle { t with pending := s.pending, snpReady := t.snpReady ++ newlyReady s t } := by
  unfold settled; rw [logParts_of_parts s t h]
/-- Where nothing changes, no snoop becomes ready. -/
@[simp] theorem newlyReady_self (s : State) : newlyReady s s = [] := by
  unfold newlyReady
  rw [List.flatMap_eq_nil_iff]
  intro k _
  rw [List.map_eq_nil_iff, List.filter_eq_nil_iff]
  intro w hw h
  simp only [Bool.and_eq_true, Bool.not_eq_true', List.any_eq_false] at h
  exact h.2 w hw (by simp [h.1.1])
/-- A meaning that changes nothing leaves the state, with INT_n settled. -/
theorem settled_self (s : State) : settled s s = settle s := by
  rw [settled_of_parts s s rfl, newlyReady_self, List.append_nil]
/-- A meaning leaves the queue alone. -/
@[simp] theorem settled_pending (s t : State) : (settled s t).pending = s.pending := rfl
/-- INT_n follows the event registers (R441). -/
theorem settled_intLow (s t : State) :
    (settled s t).boot.intLow = decide ((settled s t).ctrs.intStatus &&& (settled s t).ctrs.intEn ≠ 0) := rfl
/-- Outside a reset a meaning answers what it made. -/
theorem finish_of_running {s : State} (h : inReset s = false) (t : State) : finish s t = .next (settled s t) := by
  unfold finish; rw [h]; rfl
/-- While a reset is held nothing acts. -/
theorem finish_of_reset {s : State} (h : inReset s = true) (t : State) : finish s t = .next (settled s s) := by
  unfold finish; rw [h]; rfl
/-- An access where the endpoint is up, or by another master. -/
theorem finishAt_of_up {s : State} {a : Master} (h : inReset s = false) (hu : (a == .mgmt && endpointDown s) = false) (t : State) :
    finishAt s a t = .next (settled s t) := by
  unfold finishAt; rw [hu, finish_of_running h]; rfl

end Sys2Proof.Machine
end

