-- ==== Sys2Proof/Laws/Lantern.lean ====
section
/-! SUPPORT. What Lantern's shared operations can change: replies, operation slots and the taking of a command. -/

namespace Sys2Proof.Machine

/-! A reply changes its mailbox, the event registers and what goes out. -/

@[simp] theorem pumpReplies_pending (s : State) (m : Mailbox) (n : Nat) : (pumpReplies s m n).pending = s.pending := by
  induction n generalizing s with
  | zero => rfl
  | succ n ih =>
    unfold pumpReplies
    dsimp only
    split
    · split
      · rw [ih]; split
        · cases m <;> simp
        · rfl
      · rfl
    · rfl
theorem reply_pending (s : State) (m : Mailbox) (hm : m ≠ .peer) (src : CtrlId) (st q : BitVec 8) (ws : List Word) :
    (reply s m src st q ws).pending = s.pending := by
  cases m <;> first | exact absurd rfl hm | (unfold reply; dsimp only; rw [pumpReplies_pending]; rfl)
@[simp] theorem pumpReplies_now (s : State) (m : Mailbox) (n : Nat) : (pumpReplies s m n).now = s.now := by
  induction n generalizing s with
  | zero => rfl
  | succ n ih =>
    unfold pumpReplies
    dsimp only
    split
    · split
      · rw [ih]; split
        · cases m <;> simp
        · rfl
      · rfl
    · rfl
theorem reply_now (s : State) (m : Mailbox) (hm : m ≠ .peer) (src : CtrlId) (st q : BitVec 8) (ws : List Word) :
    (reply s m src st q ws).now = s.now := by
  cases m <;> first | exact absurd rfl hm | (unfold reply; dsimp only; rw [pumpReplies_now]; rfl)
@[simp] theorem pumpReplies_serial (s : State) (m : Mailbox) (n : Nat) : (pumpReplies s m n).serial = s.serial := by
  induction n generalizing s with
  | zero => rfl
  | succ n ih =>
    unfold pumpReplies
    dsimp only
    split
    · split
      · rw [ih]; split
        · cases m <;> simp
        · rfl
      · rfl
    · rfl
theorem reply_serial (s : State) (m : Mailbox) (hm : m ≠ .peer) (src : CtrlId) (st q : BitVec 8) (ws : List Word) :
    (reply s m src st q ws).serial = s.serial := by
  cases m <;> first | exact absurd rfl hm | (unfold reply; dsimp only; rw [pumpReplies_serial]; rfl)
@[simp] theorem pumpReplies_free (s : State) (m : Mailbox) (n : Nat) : (pumpReplies s m n).free = s.free := by
  induction n generalizing s with
  | zero => rfl
  | succ n ih =>
    unfold pumpReplies
    dsimp only
    split
    · split
      · rw [ih]; split
        · cases m <;> simp
        · rfl
      · rfl
    · rfl
theorem reply_free (s : State) (m : Mailbox) (hm : m ≠ .peer) (src : CtrlId) (st q : BitVec 8) (ws : List Word) :
    (reply s m src st q ws).free = s.free := by
  cases m <;> first | exact absurd rfl hm | (unfold reply; dsimp only; rw [pumpReplies_free]; rfl)
@[simp] theorem pumpReplies_cache (s : State) (m : Mailbox) (n : Nat) : (pumpReplies s m n).cache = s.cache := by
  induction n generalizing s with
  | zero => rfl
  | succ n ih =>
    unfold pumpReplies
    dsimp only
    split
    · split
      · rw [ih]; split
        · cases m <;> simp
        · rfl
      · rfl
    · rfl
theorem reply_cache (s : State) (m : Mailbox) (hm : m ≠ .peer) (src : CtrlId) (st q : BitVec 8) (ws : List Word) :
    (reply s m src st q ws).cache = s.cache := by
  cases m <;> first | exact absurd rfl hm | (unfold reply; dsimp only; rw [pumpReplies_cache]; rfl)
@[simp] theorem pumpReplies_home (s : State) (m : Mailbox) (n : Nat) : (pumpReplies s m n).home = s.home := by
  induction n generalizing s with
  | zero => rfl
  | succ n ih =>
    unfold pumpReplies
    dsimp only
    split
    · split
      · rw [ih]; split
        · cases m <;> simp
        · rfl
      · rfl
    · rfl
theorem reply_home (s : State) (m : Mailbox) (hm : m ≠ .peer) (src : CtrlId) (st q : BitVec 8) (ws : List Word) :
    (reply s m src st q ws).home = s.home := by
  cases m <;> first | exact absurd rfl hm | (unfold reply; dsimp only; rw [pumpReplies_home]; rfl)
@[simp] theorem pumpReplies_net (s : State) (m : Mailbox) (n : Nat) : (pumpReplies s m n).net = s.net := by
  induction n generalizing s with
  | zero => rfl
  | succ n ih =>
    unfold pumpReplies
    dsimp only
    split
    · split
      · rw [ih]; split
        · cases m <;> simp
        · rfl
      · rfl
    · rfl
theorem reply_net (s : State) (m : Mailbox) (hm : m ≠ .peer) (src : CtrlId) (st q : BitVec 8) (ws : List Word) :
    (reply s m src st q ws).net = s.net := by
  cases m <;> first | exact absurd rfl hm | (unfold reply; dsimp only; rw [pumpReplies_net]; rfl)
@[simp] theorem pumpReplies_ports (s : State) (m : Mailbox) (n : Nat) : (pumpReplies s m n).ports = s.ports := by
  induction n generalizing s with
  | zero => rfl
  | succ n ih =>
    unfold pumpReplies
    dsimp only
    split
    · split
      · rw [ih]; split
        · cases m <;> simp
        · rfl
      · rfl
    · rfl
theorem reply_ports (s : State) (m : Mailbox) (hm : m ≠ .peer) (src : CtrlId) (st q : BitVec 8) (ws : List Word) :
    (reply s m src st q ws).ports = s.ports := by
  cases m <;> first | exact absurd rfl hm | (unfold reply; dsimp only; rw [pumpReplies_ports]; rfl)
@[simp] theorem pumpReplies_parts (s : State) (m : Mailbox) (n : Nat) : (pumpReplies s m n).parts = s.parts := by
  induction n generalizing s with
  | zero => rfl
  | succ n ih =>
    unfold pumpReplies
    dsimp only
    split
    · split
      · rw [ih]; split
        · cases m <;> simp
        · rfl
      · rfl
    · rfl
theorem reply_parts (s : State) (m : Mailbox) (hm : m ≠ .peer) (src : CtrlId) (st q : BitVec 8) (ws : List Word) :
    (reply s m src st q ws).parts = s.parts := by
  cases m <;> first | exact absurd rfl hm | (unfold reply; dsimp only; rw [pumpReplies_parts]; rfl)
@[simp] theorem pumpReplies_mem (s : State) (m : Mailbox) (n : Nat) : (pumpReplies s m n).mem = s.mem := by
  induction n generalizing s with
  | zero => rfl
  | succ n ih =>
    unfold pumpReplies
    dsimp only
    split
    · split
      · rw [ih]; split
        · cases m <;> simp
        · rfl
      · rfl
    · rfl
theorem reply_mem (s : State) (m : Mailbox) (hm : m ≠ .peer) (src : CtrlId) (st q : BitVec 8) (ws : List Word) :
    (reply s m src st q ws).mem = s.mem := by
  cases m <;> first | exact absurd rfl hm | (unfold reply; dsimp only; rw [pumpReplies_mem]; rfl)
@[simp] theorem pumpReplies_tmo (s : State) (m : Mailbox) (n : Nat) : (pumpReplies s m n).tmo = s.tmo := by
  induction n generalizing s with
  | zero => rfl
  | succ n ih =>
    unfold pumpReplies
    dsimp only
    split
    · split
      · rw [ih]; split
        · cases m <;> simp
        · rfl
      · rfl
    · rfl
theorem reply_tmo (s : State) (m : Mailbox) (hm : m ≠ .peer) (src : CtrlId) (st q : BitVec 8) (ws : List Word) :
    (reply s m src st q ws).tmo = s.tmo := by
  cases m <;> first | exact absurd rfl hm | (unfold reply; dsimp only; rw [pumpReplies_tmo]; rfl)
@[simp] theorem pumpReplies_refl (s : State) (m : Mailbox) (n : Nat) : (pumpReplies s m n).refl = s.refl := by
  induction n generalizing s with
  | zero => rfl
  | succ n ih =>
    unfold pumpReplies
    dsimp only
    split
    · split
      · rw [ih]; split
        · cases m <;> simp
        · rfl
      · rfl
    · rfl
theorem reply_refl (s : State) (m : Mailbox) (hm : m ≠ .peer) (src : CtrlId) (st q : BitVec 8) (ws : List Word) :
    (reply s m src st q ws).refl = s.refl := by
  cases m <;> first | exact absurd rfl hm | (unfold reply; dsimp only; rw [pumpReplies_refl]; rfl)
@[simp] theorem pumpReplies_ctrlOut (s : State) (m : Mailbox) (n : Nat) : (pumpReplies s m n).ctrlOut = s.ctrlOut := by
  induction n generalizing s with
  | zero => rfl
  | succ n ih =>
    unfold pumpReplies
    dsimp only
    split
    · split
      · rw [ih]; split
        · cases m <;> simp
        · rfl
      · rfl
    · rfl
theorem reply_ctrlOut (s : State) (m : Mailbox) (hm : m ≠ .peer) (src : CtrlId) (st q : BitVec 8) (ws : List Word) :
    (reply s m src st q ws).ctrlOut = s.ctrlOut := by
  cases m <;> first | exact absurd rfl hm | (unfold reply; dsimp only; rw [pumpReplies_ctrlOut]; rfl)
@[simp] theorem pumpReplies_reports (s : State) (m : Mailbox) (n : Nat) : (pumpReplies s m n).reports = s.reports := by
  induction n generalizing s with
  | zero => rfl
  | succ n ih =>
    unfold pumpReplies
    dsimp only
    split
    · split
      · rw [ih]; split
        · cases m <;> simp
        · rfl
      · rfl
    · rfl
theorem reply_reports (s : State) (m : Mailbox) (hm : m ≠ .peer) (src : CtrlId) (st q : BitVec 8) (ws : List Word) :
    (reply s m src st q ws).reports = s.reports := by
  cases m <;> first | exact absurd rfl hm | (unfold reply; dsimp only; rw [pumpReplies_reports]; rfl)
@[simp] theorem pumpReplies_unwired (s : State) (m : Mailbox) (n : Nat) : (pumpReplies s m n).unwired = s.unwired := by
  induction n generalizing s with
  | zero => rfl
  | succ n ih =>
    unfold pumpReplies
    dsimp only
    split
    · split
      · rw [ih]; split
        · cases m <;> simp
        · rfl
      · rfl
    · rfl
@[simp] theorem pumpReplies_snpReady (s : State) (m : Mailbox) (n : Nat) : (pumpReplies s m n).snpReady = s.snpReady := by
  induction n generalizing s with
  | zero => rfl
  | succ n ih =>
    unfold pumpReplies
    dsimp only
    split
    · split
      · rw [ih]; split
        · cases m <;> simp
        · rfl
      · rfl
    · rfl
@[simp] theorem pumpReplies_ddrWrr (s : State) (m : Mailbox) (n : Nat) : (pumpReplies s m n).ddrWrr = s.ddrWrr := by
  induction n generalizing s with
  | zero => rfl
  | succ n ih =>
    unfold pumpReplies
    dsimp only
    split
    · split
      · rw [ih]; split
        · cases m <;> simp
        · rfl
      · rfl
    · rfl
theorem reply_unwired (s : State) (m : Mailbox) (hm : m ≠ .peer) (src : CtrlId) (st q : BitVec 8) (ws : List Word) :
    (reply s m src st q ws).unwired = s.unwired := by
  cases m <;> first | exact absurd rfl hm | (unfold reply; dsimp only; rw [pumpReplies_unwired]; rfl)
theorem reply_snpReady (s : State) (m : Mailbox) (hm : m ≠ .peer) (src : CtrlId) (st q : BitVec 8) (ws : List Word) :
    (reply s m src st q ws).snpReady = s.snpReady := by
  cases m <;> first | exact absurd rfl hm | (unfold reply; dsimp only; rw [pumpReplies_snpReady]; rfl)
theorem reply_ddrWrr (s : State) (m : Mailbox) (hm : m ≠ .peer) (src : CtrlId) (st q : BitVec 8) (ws : List Word) :
    (reply s m src st q ws).ddrWrr = s.ddrWrr := by
  cases m <;> first | exact absurd rfl hm | (unfold reply; dsimp only; rw [pumpReplies_ddrWrr]; rfl)
@[simp] theorem pumpReplies_capacity (s : State) (m : Mailbox) (n : Nat) : (pumpReplies s m n).capacity = s.capacity := by
  induction n generalizing s with
  | zero => rfl
  | succ n ih =>
    unfold pumpReplies
    dsimp only
    split
    · split
      · rw [ih]; split
        · cases m <;> simp
        · rfl
      · rfl
    · rfl
theorem reply_capacity (s : State) (m : Mailbox) (hm : m ≠ .peer) (src : CtrlId) (st q : BitVec 8) (ws : List Word) :
    (reply s m src st q ws).capacity = s.capacity := by
  cases m <;> first | exact absurd rfl hm | (unfold reply; dsimp only; rw [pumpReplies_capacity]; rfl)
@[simp] theorem pumpReplies_slow (s : State) (m : Mailbox) (n : Nat) : (pumpReplies s m n).slow = s.slow := by
  induction n generalizing s with
  | zero => rfl
  | succ n ih =>
    unfold pumpReplies
    dsimp only
    split
    · split
      · rw [ih]; split
        · cases m <;> simp
        · rfl
      · rfl
    · rfl
theorem reply_slow (s : State) (m : Mailbox) (hm : m ≠ .peer) (src : CtrlId) (st q : BitVec 8) (ws : List Word) :
    (reply s m src st q ws).slow = s.slow := by
  cases m <;> first | exact absurd rfl hm | (unfold reply; dsimp only; rw [pumpReplies_slow]; rfl)
@[simp] theorem pumpReplies_ddrFour (s : State) (m : Mailbox) (n : Nat) : (pumpReplies s m n).ddrFour = s.ddrFour := by
  induction n generalizing s with
  | zero => rfl
  | succ n ih =>
    unfold pumpReplies
    dsimp only
    split
    · split
      · rw [ih]; split
        · cases m <;> simp
        · rfl
      · rfl
    · rfl
theorem reply_ddrFour (s : State) (m : Mailbox) (hm : m ≠ .peer) (src : CtrlId) (st q : BitVec 8) (ws : List Word) :
    (reply s m src st q ws).ddrFour = s.ddrFour := by
  cases m <;> first | exact absurd rfl hm | (unfold reply; dsimp only; rw [pumpReplies_ddrFour]; rfl)
@[simp] theorem pumpReplies_ddrHigh (s : State) (m : Mailbox) (n : Nat) : (pumpReplies s m n).ddrHigh = s.ddrHigh := by
  induction n generalizing s with
  | zero => rfl
  | succ n ih =>
    unfold pumpReplies
    dsimp only
    split
    · split
      · rw [ih]; split
        · cases m <;> simp
        · rfl
      · rfl
    · rfl
theorem reply_ddrHigh (s : State) (m : Mailbox) (hm : m ≠ .peer) (src : CtrlId) (st q : BitVec 8) (ws : List Word) :
    (reply s m src st q ws).ddrHigh = s.ddrHigh := by
  cases m <;> first | exact absurd rfl hm | (unfold reply; dsimp only; rw [pumpReplies_ddrHigh]; rfl)
@[simp] theorem pumpReplies_ddrRet (s : State) (m : Mailbox) (n : Nat) : (pumpReplies s m n).ddrRet = s.ddrRet := by
  induction n generalizing s with
  | zero => rfl
  | succ n ih =>
    unfold pumpReplies
    dsimp only
    split
    · split
      · rw [ih]; split
        · cases m <;> simp
        · rfl
      · rfl
    · rfl
theorem reply_ddrRet (s : State) (m : Mailbox) (hm : m ≠ .peer) (src : CtrlId) (st q : BitVec 8) (ws : List Word) :
    (reply s m src st q ws).ddrRet = s.ddrRet := by
  cases m <;> first | exact absurd rfl hm | (unfold reply; dsimp only; rw [pumpReplies_ddrRet]; rfl)
@[simp] theorem pumpReplies_ddrq (s : State) (m : Mailbox) (n : Nat) : (pumpReplies s m n).ddrq = s.ddrq := by
  induction n generalizing s with
  | zero => rfl
  | succ n ih =>
    unfold pumpReplies
    dsimp only
    split
    · split
      · rw [ih]; split
        · cases m <;> simp
        · rfl
      · rfl
    · rfl
theorem reply_ddrq (s : State) (m : Mailbox) (hm : m ≠ .peer) (src : CtrlId) (st q : BitVec 8) (ws : List Word) :
    (reply s m src st q ws).ddrq = s.ddrq := by
  cases m <;> first | exact absurd rfl hm | (unfold reply; dsimp only; rw [pumpReplies_ddrq]; rfl)
@[simp] theorem pumpReplies_chans (s : State) (m : Mailbox) (n : Nat) : (pumpReplies s m n).chans = s.chans := by
  induction n generalizing s with
  | zero => rfl
  | succ n ih =>
    unfold pumpReplies
    dsimp only
    split
    · split
      · rw [ih]; split
        · cases m <;> simp
        · rfl
      · rfl
    · rfl
theorem reply_chans (s : State) (m : Mailbox) (hm : m ≠ .peer) (src : CtrlId) (st q : BitVec 8) (ws : List Word) :
    (reply s m src st q ws).chans = s.chans := by
  cases m <;> first | exact absurd rfl hm | (unfold reply; dsimp only; rw [pumpReplies_chans]; rfl)
@[simp] theorem pumpReplies_hbms (s : State) (m : Mailbox) (n : Nat) : (pumpReplies s m n).hbms = s.hbms := by
  induction n generalizing s with
  | zero => rfl
  | succ n ih =>
    unfold pumpReplies
    dsimp only
    split
    · split
      · rw [ih]; split
        · cases m <;> simp
        · rfl
      · rfl
    · rfl
theorem reply_hbms (s : State) (m : Mailbox) (hm : m ≠ .peer) (src : CtrlId) (st q : BitVec 8) (ws : List Word) :
    (reply s m src st q ws).hbms = s.hbms := by
  cases m <;> first | exact absurd rfl hm | (unfold reply; dsimp only; rw [pumpReplies_hbms]; rfl)
@[simp] theorem pumpReplies_beams (s : State) (m : Mailbox) (n : Nat) : (pumpReplies s m n).beams = s.beams := by
  induction n generalizing s with
  | zero => rfl
  | succ n ih =>
    unfold pumpReplies
    dsimp only
    split
    · split
      · rw [ih]; split
        · cases m <;> simp
        · rfl
      · rfl
    · rfl
theorem reply_beams (s : State) (m : Mailbox) (hm : m ≠ .peer) (src : CtrlId) (st q : BitVec 8) (ws : List Word) :
    (reply s m src st q ws).beams = s.beams := by
  cases m <;> first | exact absurd rfl hm | (unfold reply; dsimp only; rw [pumpReplies_beams]; rfl)
@[simp] theorem pumpReplies_engines (s : State) (m : Mailbox) (n : Nat) : (pumpReplies s m n).engines = s.engines := by
  induction n generalizing s with
  | zero => rfl
  | succ n ih =>
    unfold pumpReplies
    dsimp only
    split
    · split
      · rw [ih]; split
        · cases m <;> simp
        · rfl
      · rfl
    · rfl
theorem reply_engines (s : State) (m : Mailbox) (hm : m ≠ .peer) (src : CtrlId) (st q : BitVec 8) (ws : List Word) :
    (reply s m src st q ws).engines = s.engines := by
  cases m <;> first | exact absurd rfl hm | (unfold reply; dsimp only; rw [pumpReplies_engines]; rfl)
@[simp] theorem pumpReplies_engMem (s : State) (m : Mailbox) (n : Nat) : (pumpReplies s m n).engMem = s.engMem := by
  induction n generalizing s with
  | zero => rfl
  | succ n ih =>
    unfold pumpReplies
    dsimp only
    split
    · split
      · rw [ih]; split
        · cases m <;> simp
        · rfl
      · rfl
    · rfl
theorem reply_engMem (s : State) (m : Mailbox) (hm : m ≠ .peer) (src : CtrlId) (st q : BitVec 8) (ws : List Word) :
    (reply s m src st q ws).engMem = s.engMem := by
  cases m <;> first | exact absurd rfl hm | (unfold reply; dsimp only; rw [pumpReplies_engMem]; rfl)
@[simp] theorem pumpReplies_tim (s : State) (m : Mailbox) (n : Nat) : (pumpReplies s m n).tim = s.tim := by
  induction n generalizing s with
  | zero => rfl
  | succ n ih =>
    unfold pumpReplies
    dsimp only
    split
    · split
      · rw [ih]; split
        · cases m <;> simp
        · rfl
      · rfl
    · rfl
theorem reply_tim (s : State) (m : Mailbox) (hm : m ≠ .peer) (src : CtrlId) (st q : BitVec 8) (ws : List Word) :
    (reply s m src st q ws).tim = s.tim := by
  cases m <;> first | exact absurd rfl hm | (unfold reply; dsimp only; rw [pumpReplies_tim]; rfl)
@[simp] theorem pumpReplies_regs (s : State) (m : Mailbox) (n : Nat) : (pumpReplies s m n).regs = s.regs := by
  induction n generalizing s with
  | zero => rfl
  | succ n ih =>
    unfold pumpReplies
    dsimp only
    split
    · split
      · rw [ih]; split
        · cases m <;> simp
        · rfl
      · rfl
    · rfl
theorem reply_regs (s : State) (m : Mailbox) (hm : m ≠ .peer) (src : CtrlId) (st q : BitVec 8) (ws : List Word) :
    (reply s m src st q ws).regs = s.regs := by
  cases m <;> first | exact absurd rfl hm | (unfold reply; dsimp only; rw [pumpReplies_regs]; rfl)
@[simp] theorem pumpReplies_pwr (s : State) (m : Mailbox) (n : Nat) : (pumpReplies s m n).pwr = s.pwr := by
  induction n generalizing s with
  | zero => rfl
  | succ n ih =>
    unfold pumpReplies
    dsimp only
    split
    · split
      · rw [ih]; split
        · cases m <;> simp
        · rfl
      · rfl
    · rfl
theorem reply_pwr (s : State) (m : Mailbox) (hm : m ≠ .peer) (src : CtrlId) (st q : BitVec 8) (ws : List Word) :
    (reply s m src st q ws).pwr = s.pwr := by
  cases m <;> first | exact absurd rfl hm | (unfold reply; dsimp only; rw [pumpReplies_pwr]; rfl)
@[simp] theorem pumpReplies_boot (s : State) (m : Mailbox) (n : Nat) : (pumpReplies s m n).boot = s.boot := by
  induction n generalizing s with
  | zero => rfl
  | succ n ih =>
    unfold pumpReplies
    dsimp only
    split
    · split
      · rw [ih]; split
        · cases m <;> simp
        · rfl
      · rfl
    · rfl
theorem reply_boot (s : State) (m : Mailbox) (hm : m ≠ .peer) (src : CtrlId) (st q : BitVec 8) (ws : List Word) :
    (reply s m src st q ws).boot = s.boot := by
  cases m <;> first | exact absurd rfl hm | (unfold reply; dsimp only; rw [pumpReplies_boot]; rfl)
@[simp] theorem pumpReplies_move (s : State) (m : Mailbox) (n : Nat) : (pumpReplies s m n).move = s.move := by
  induction n generalizing s with
  | zero => rfl
  | succ n ih =>
    unfold pumpReplies
    dsimp only
    split
    · split
      · rw [ih]; split
        · cases m <;> simp
        · rfl
      · rfl
    · rfl
theorem reply_move (s : State) (m : Mailbox) (hm : m ≠ .peer) (src : CtrlId) (st q : BitVec 8) (ws : List Word) :
    (reply s m src st q ws).move = s.move := by
  cases m <;> first | exact absurd rfl hm | (unfold reply; dsimp only; rw [pumpReplies_move]; rfl)
@[simp] theorem pumpReplies_lan_slots (s : State) (m : Mailbox) (n : Nat) : (pumpReplies s m n).lan.slots = s.lan.slots := by
  induction n generalizing s with
  | zero => rfl
  | succ n ih =>
    unfold pumpReplies
    dsimp only
    split
    · split
      · rw [ih]; split
        · cases m <;> rfl
        · rfl
      · rfl
    · rfl
theorem reply_lan_slots (s : State) (m : Mailbox) (hm : m ≠ .peer) (src : CtrlId) (st q : BitVec 8) (ws : List Word) :
    (reply s m src st q ws).lan.slots = s.lan.slots := by
  cases m <;> first | exact absurd rfl hm | (unfold reply; dsimp only; rw [pumpReplies_lan_slots]; rfl)
@[simp] theorem pumpReplies_lan_latches (s : State) (m : Mailbox) (n : Nat) : (pumpReplies s m n).lan.latches = s.lan.latches := by
  induction n generalizing s with
  | zero => rfl
  | succ n ih =>
    unfold pumpReplies
    dsimp only
    split
    · split
      · rw [ih]; split
        · cases m <;> rfl
        · rfl
      · rfl
    · rfl
theorem reply_lan_latches (s : State) (m : Mailbox) (hm : m ≠ .peer) (src : CtrlId) (st q : BitVec 8) (ws : List Word) :
    (reply s m src st q ws).lan.latches = s.lan.latches := by
  cases m <;> first | exact absurd rfl hm | (unfold reply; dsimp only; rw [pumpReplies_lan_latches]; rfl)
@[simp] theorem pumpReplies_lan_limits (s : State) (m : Mailbox) (n : Nat) : (pumpReplies s m n).lan.limits = s.lan.limits := by
  induction n generalizing s with
  | zero => rfl
  | succ n ih =>
    unfold pumpReplies
    dsimp only
    split
    · split
      · rw [ih]; split
        · cases m <;> rfl
        · rfl
      · rfl
    · rfl
theorem reply_lan_limits (s : State) (m : Mailbox) (hm : m ≠ .peer) (src : CtrlId) (st q : BitVec 8) (ws : List Word) :
    (reply s m src st q ws).lan.limits = s.lan.limits := by
  cases m <;> first | exact absurd rfl hm | (unfold reply; dsimp only; rw [pumpReplies_lan_limits]; rfl)
@[simp] theorem pumpReplies_lan_slotDone (s : State) (m : Mailbox) (n : Nat) : (pumpReplies s m n).lan.slotDone = s.lan.slotDone := by
  induction n generalizing s with
  | zero => rfl
  | succ n ih =>
    unfold pumpReplies
    dsimp only
    split
    · split
      · rw [ih]; split
        · cases m <;> rfl
        · rfl
      · rfl
    · rfl
theorem reply_lan_slotDone (s : State) (m : Mailbox) (hm : m ≠ .peer) (src : CtrlId) (st q : BitVec 8) (ws : List Word) :
    (reply s m src st q ws).lan.slotDone = s.lan.slotDone := by
  cases m <;> first | exact absurd rfl hm | (unfold reply; dsimp only; rw [pumpReplies_lan_slotDone]; rfl)
@[simp] theorem pumpReplies_lan_recheckDue (s : State) (m : Mailbox) (n : Nat) : (pumpReplies s m n).lan.recheckDue = s.lan.recheckDue := by
  induction n generalizing s with
  | zero => rfl
  | succ n ih =>
    unfold pumpReplies
    dsimp only
    split
    · split
      · rw [ih]; split
        · cases m <;> rfl
        · rfl
      · rfl
    · rfl
theorem reply_lan_recheckDue (s : State) (m : Mailbox) (hm : m ≠ .peer) (src : CtrlId) (st q : BitVec 8) (ws : List Word) :
    (reply s m src st q ws).lan.recheckDue = s.lan.recheckDue := by
  cases m <;> first | exact absurd rfl hm | (unfold reply; dsimp only; rw [pumpReplies_lan_recheckDue]; rfl)
@[simp] theorem pumpReplies_lan_peerSrc (s : State) (m : Mailbox) (n : Nat) : (pumpReplies s m n).lan.peerSrc = s.lan.peerSrc := by
  induction n generalizing s with
  | zero => rfl
  | succ n ih =>
    unfold pumpReplies
    dsimp only
    split
    · split
      · rw [ih]; split
        · cases m <;> rfl
        · rfl
      · rfl
    · rfl
theorem reply_lan_peerSrc (s : State) (m : Mailbox) (hm : m ≠ .peer) (src : CtrlId) (st q : BitVec 8) (ws : List Word) :
    (reply s m src st q ws).lan.peerSrc = s.lan.peerSrc := by
  cases m <;> first | exact absurd rfl hm | (unfold reply; dsimp only; rw [pumpReplies_lan_peerSrc]; rfl)

/-! Mailboxes and slots other than the one named. -/

theorem mbxNo_inj {m n : Mailbox} (h : mbxNo m = mbxNo n) : m = n := by
  cases m <;> cases n <;> first | rfl | exact absurd h (by decide)
/-- Another mailbox. -/
theorem mbxSt_putMbx_of_ne (s : State) {m n : Mailbox} (h : m ≠ n) (x : MbxSt) : mbxSt (putMbx s m x) n = mbxSt s n :=
  tget_tset_of_ne _ _ (fun e => h (mbxNo_inj e)) _
/-- A running operation that ends: its slot keeps its code, SEQ, progress and results (R424). -/
theorem opSlot_endOp_self (s : State) (k : SlotRef) (st : OpState) (err : BitVec 8) (h : (opSlot s k).state = .running) :
    opSlot (endOp s k st err) k = { opSlot s k with state := st, error := err, job := .none, objs := [] } := by
  unfold endOp
  simp only [h, ne_eq, not_true, if_false]
  split
  · exact opSlot_putOp_self ..
  · split <;> exact opSlot_putOp_self ..
/-- An operation that does not run cannot end. -/
theorem endOp_of_not_running (s : State) (k : SlotRef) (st : OpState) (err : BitVec 8) (h : (opSlot s k).state ≠ .running) :
    endOp s k st err = s := by
  unfold endOp
  simp [h]
/-- The end of an operation leaves the other slots. -/
theorem opSlot_endOp_of_ne (s : State) {k j : SlotRef} (hk : k ≠ j) (st : OpState) (err : BitVec 8) :
    opSlot (endOp s k st err) j = opSlot s j := by
  unfold endOp
  dsimp only
  split
  · rfl
  · split
    · exact opSlot_putOp_of_ne s hk _
    · split <;> exact opSlot_putOp_of_ne s hk _

/-! The taking of a command (R420). -/

/-- What Lantern-A answers to a command that it takes. -/
theorem lciTake_of_taken (s : State) (m : Mailbox) (src : CtrlId) (q : BitVec 8) (c : LciCmd) (ok : Bool)
    (h1 : mbxServed s m = true) (h2 : (mbxSt s m).held.isEmpty = true ∨ emergencyCmd m c = true) :
    lciTake s m src q c ok = lciReply m src q (lciRun (count (wakeDom s 59 true) 0x177) m src q c ok true) := by
  unfold lciTake
  rcases h2 with h2 | h2 <;> simp [h1, h2]
/-- A command of a mailbox other than PEER is given in this controller's time. -/
@[simp] theorem ownCmd_of_ne (s : State) {m : Mailbox} (h : m ≠ .peer) (src : CtrlId) (c : LciCmd) : ownCmd s m src c = c := if_neg h
/-- A command that passes its checks and runs in the background. -/
theorem lciRun_of_background (s : State) (m : Mailbox) (src : CtrlId) (q : BitVec 8) (c : LciCmd) (ok : Bool) (k : SlotRef)
    (h0 : ownCmd s m src c = c) (h1 : lciCheck s m c true = 0) (h2 : background c = true) (h3 : freeSlot s m = some k) :
    lciRun s m src q c ok true =
      (lciStart (putOp s k { state := .running, error := 0, opcode := lciOpcode c, seq := q, progress := 0, result := 0, job := .hw
                             objs := lciObjs s c }) k c ok, some (0x01, [fieldAt (k.extractLsb' 0 3) 0])) := by
  unfold lciRun
  simp [h0, h1, h2, h3]
/-- A command that passes its checks and is carried out at once. -/
theorem lciRun_of_immediate (s : State) (m : Mailbox) (src : CtrlId) (q : BitVec 8) (c : LciCmd) (ok : Bool)
    (h0 : ownCmd s m src c = c) (h1 : lciCheck s m c true = 0) (h2 : background c = false) :
    lciRun s m src q c ok true = lciNow s m src q c ok := by
  unfold lciRun
  simp [h0, h1, h2]
/-- A command that fails a check. -/
theorem lciRun_of_refused (s : State) (m : Mailbox) (src : CtrlId) (q : BitVec 8) (c : LciCmd) (ok : Bool)
    (h0 : ownCmd s m src c = c) (h : lciCheck s m c true ≠ 0) :
    lciRun s m src q c ok true = (s, some (lciCheck s m c true, [])) := by
  unfold lciRun
  dsimp only
  rw [h0, if_pos h]

end Sys2Proof.Machine
end

