-- ==== Sys2Proof/Laws/Share.lean ====
section
/-! SUPPORT. What the weighted round robin of R285 can do. -/

namespace Sys2Proof.Machine

/-- The partition served next is one that waits; its turn is then on, and the next turn has as many requests as its weight. -/
theorem wrrPick_cases {w : PartId → Nat} {x y : Wrr} {ps : List PartId} {p : PartId} (h : wrrPick w x ps = some (p, y)) :
    p ∈ ps ∧ y.turn = p ∧
      ((p = x.turn ∧ 0 < x.left ∧ y.left = x.left - 1) ∨ (¬ (x.turn ∈ ps ∧ 0 < x.left) ∧ y.left = w p - 1)) := by
  unfold wrrPick at h
  split at h
  · rename_i c
    obtain ⟨rfl, rfl⟩ := Prod.mk.inj (Option.some.inj h)
    exact ⟨List.contains_iff_mem.mp c.1, rfl, .inl ⟨rfl, c.2, rfl⟩⟩
  · rename_i c
    obtain ⟨q, hq, e⟩ := Option.map_eq_some_iff.mp h
    obtain ⟨rfl, rfl⟩ := Prod.mk.inj e
    exact ⟨List.contains_iff_mem.mp (List.find?_some hq), rfl, .inr ⟨by simpa using c, rfl⟩⟩
/-- Every weight is at least 1 (R285). -/
theorem one_le_weightOf (s : State) (k : SharePoint) (p : PartId) : 1 ≤ weightOf s k p := Nat.le_max_left _ _
/-- A point never idles while a partition waits there (R285). -/
theorem wrrPick_isSome {w : PartId → Nat} {x : Wrr} {ps : List PartId} (h : ps ≠ []) : (wrrPick w x ps).isSome = true := by
  obtain ⟨p, hp⟩ := List.exists_mem_of_ne_nil ps h
  unfold wrrPick
  split
  · rfl
  · rw [Option.isSome_map, List.find?_isSome]
    refine ⟨p, List.mem_map.mpr ⟨(p - x.turn - 1).toNat, by simpa using (p - x.turn - 1).isLt, ?_⟩, List.contains_iff_mem.mpr hp⟩
    rw [BitVec.ofNat_toNat, BitVec.setWidth_eq]
    bv_omega

end Sys2Proof.Machine
end

