-- ==== Sys2Proof/Tests/Slice0.lean ====
section
/-! SUPPORT. Tests of this model's own: a term that is ill formed for each check, single commands with results taken from the
    spec's rules, and for every statement states and operands that meet its hypotheses. -/

set_option maxRecDepth 20000

namespace Sys2Proof.Tests

set_option Elab.async false

open Sys2Proof Sys2Proof.Machine Sys2Proof.Safety

/-- A controller that has started and is READY, at tick 1,000,000. -/
def up : State := { State.reset with now := 1000000, boot := { bootReset with ready := true, stage := 8 }, capacity := 0x1000000 }
def inRes : State := { up with boot := { up.boot with sysRst := false } }
def lostClk : State := { up with boot := { up.boot with lostClk := 1 } }
def boot0 : State := { up with boot := { up.boot with ready := false, stage := 0 } }
def boot7 : State := { up with boot := { up.boot with ready := false, stage := 7 } }
def bootLate : State := { up with boot := { up.boot with ready := false, stage := 7, upTime := 10000000000 } }
def report0 : StepReport :=
  { chans := [], rate := 0, chanBytes := 0, hbmOk := 3, hbmRate0 := 0, hbmRate1 := 0, pcLost := 0, repairs := [], badWays := [], syncLimit := false }
def epDown : State := { up with boot := { up.boot with perst := false } }
def powerOff : State := { up with boot := { up.boot with pwrOk := false } }
def lost156 : State := { up with boot := { up.boot with lostClk := 4 } }
def lost156Res : State := { lost156 with boot := { lost156.boot with sysRst := false } }
/-- Start-up before step `n + 1`. -/
def bootAt (n : BitVec 4) : State := { boot0 with boot := { boot0.boot with stage := n } }
def boot2 : State := bootAt 2
def boot3 : State := bootAt 3
def boot4 : State := bootAt 4
def boot5 : State := bootAt 5
def boot6 : State := bootAt 6
def boot6chain : State :=
  putPos { boot6 with net := { boot6.net with syncLocked := false } } false
    { posOf boot6 false with node := 3, cur := { (posOf boot6 false).cur with order := [1, 3] } }
def reportBad : StepReport := { report0 with hbmOk := 0 }
def reportLimit : StepReport := { report0 with syncLimit := true }
/-- A base image with no record, for controller 5. -/
def imageHead : List Word := [0x47464352, 1, 17, 3, 5, 0, 0, 0, 0, 0, 0, 0, 0, 0, 0, 0]
def boot4img : State := { boot4 with mem := { boot4.mem with nor := writeWords [] (norBase 0) (imageHead ++ [wordsCrc imageHead]) } }
def bootImg : CfgImage := { kind := 0, serial := 3, ctrlId := 5, index := 0, recs := [] }
def tripped : State := { up with boot := { up.boot with thermtrip := true } }
def level (n : BitVec 3) : State := { up with pwr := { up.pwr with level := n } }
def level4 : State := level 4
def level5 : State := level 5
def level6 : State := level 6
/-- HOST's mailbox as `x`. -/
def host (x : MbxSt) : State := putMbx up .host x
def hostFull : State := host { mbxSt up .host with cmds := [⟨0, List.replicate 255 0⟩] }
def hostAsm : State := host { mbxSt up .host with asm := some ⟨mkHeader 0x01 2 0 0, [7]⟩ }
def hostReply : State := host { mbxSt up .host with rplq := [5, 6] }
def traced : State := putMbx up .debug { mbxSt up .debug with trcq := [9] }
def slotIs (k : SlotRef) (st : OpState) (j : Job) (o : List Obj) : State :=
  putOp up k { opSlot up k with state := st, job := j, objs := o }
def opDoneSt : State := slotIs 0 .done .none []
def opLog : State := slotIs 0 .running (.log [1, 2] 0 5 6) [.bar2 0 8]
def opLogEnd : State := putOp opLog 0 { opSlot opLog 0 with progress := 1 }
def hostAsm1 : State := host { mbxSt up .host with asm := some ⟨mkHeader 0x01 3 0 0, [7]⟩ }
def cmdW : Word := mkHeader 0x01 1 0 3
/-- Partition `p` as `x`. -/
def part (p : PartId) (x : PartSt) : State := putPart up p x
def part1 : PartSt := { partBase with state := 1 }
def sP1 : State := part 1 part1
def sP1q : State := part 1 { part1 with state := 3 }
def sP1z : State := part 1 { part1 with state := 4 }
def image1 : List Word := partImage sP1z 1 [] false 0
def sImage : State := { up with mem := { up.mem with slots := writeWords [] 0 image1 } }
def cacheOn : State := { up with cache := { up.cache with drains := [] } }
/-- A fixed beam of partition 1 by port 0, stream 3: 4 rows of 2 lines, 100 µs apart, from tick 2,000,000. -/
def desc1 : BitVec 512 := BitVec.ofNat 512
  (0x00300101 + 2 ^ 96 * 1 + 2 ^ 104 * 2 + 2 ^ 160 * 32 + 2 ^ 192 * 4 + 2 ^ 224 * 2 + 2 ^ 256 * 4 + 2 ^ 320 * 2000000
    + 2 ^ 384 * 6553600000 + 2 ^ 448 * 1000 + 2 ^ 480)
def ctx1 : BeamCtx := { beamCtx up 0 with state := 1, part := 1, desc := desc1 }
def sBeam (x : BeamCtx) : State := putBeam (putPort sP1 0 { portSt sP1 0 with stream := [(3, 0x41)] }) 0 x
def sBeam1 : State := sBeam ctx1
def folded3 : State := { up with home := { up.home with foldLive := 8 } }
def portRet : State := putPort up 2 { portSt up 2 with retired := true }
def ringSt (x : RpState) : State := putRing up .ringE { ringPort up .ringE with state := x }
def ringActive : State := ringSt .active
def ringDown : State := ringSt .down
def updOpen : State := { up with boot := { up.boot with upd := some ⟨256, 0, [], []⟩ } }
def updDone : State := { up with boot := { up.boot with upd := some ⟨256, 256, [], []⟩ } }
/-- A state whose read latch of `dump.t0` holds a word for MGMT, one whose write latch does. -/
def latchRd : State := putLatch up .mgmt 4 ⟨some (latchTag 0 0x410, 9), none⟩
def latchWr : State := putLatch up .mgmt 4 ⟨none, some (latchTag 0 0x410, 9)⟩
def dom (d : Nat) (x : Dom) : State := putDom up d x
def asleep0 : State := dom 0 { domSt up 0 with state := 3 }
def busyCommit : State := { up with regs := { up.regs with busy := some up.now } }
def armedSt : State := { up with regs := { up.regs with armed := true, armMask := 0x11, armTick := 900000 } }
def foldPairSt : State := { up with home := { up.home with foldStaged := 0x0101 } }
def hinted : State := { up with pwr := { up.pwr with hint := 0 } }
def idx0 (x : IdxChan) : State := { up with regs := { up.regs with idx := [(0, x)] } }
def idxHome : State := idx0 { idxCh up 0 with space := 0x10, autoInc := true, word := 8 }
def idxEnd : State := idx0 { idxCh up 0 with space := 0x10, autoInc := true, word := 1024 }
def idxArmed : State := { idxHome with regs := { idxHome.regs with armed := true, armMask := 1 } }
def opCommit : State := slotIs 0 .running (.commitAt 3 1 5 [] [9]) [.config]
def opSave : State := slotIs 0 .running (.save 1 [] [7, 8] none 9 0 none) [.part 1]
def lanternHalted : State := putEngine up 62 { engineSt up 62 with halted := true }
def hostCmd : State := host { mbxSt up .host with cmds := [⟨mkHeader 0x01 0 0 3, []⟩] }
def cnt (k : Nat) (c : Cnt) : State := { up with ctrs := { up.ctrs with fixed := [(k, c)] } }
def cntFull : State := cnt 0x20 ⟨BitVec.allOnes 48, false, false⟩
def smp0 : Smp := smpSt up 0
def smp (x : Smp) : State := { up with ctrs := { up.ctrs with smp := [(2, x)] } }
def smpFull : State := smp { smp0 with en := true, event := 5, count := BitVec.allOnes 48, reload := 100 }
def smpHeld : State := smp { smp0 with en := true, event := 5, count := BitVec.allOnes 48, reload := 100, recValid := true }
def smpArmed : State := smp { smp0 with en := true, event := 5, takenEvent := 5, armed := true }
def dump (d : Dump) : State := { up with ctrs := { up.ctrs with dump := d } }
def dumpDue : State := dump { up.ctrs.dump with en := true, nbuf := 3, next := 1, nextTick := 500000, tBase := 0x5000, tPeriod := 100000, tNbuf := 3 }
def dumpFull : State := dump { up.ctrs.dump with en := true, nbuf := 3, next := 1, done := 1, nextTick := 500000, tBase := 0x5000, tPeriod := 100000 }
def emergency : State := { level6 with pwr := { level6.pwr with emergency := true } }
def hot : State := { up with pwr := { up.pwr with tjMax := 120, tj := 120 } }
def ramping : State := { up with pwr := { up.pwr with ramp := [(2, 2200)] } }
def slow2 : State := { up with pwr := { up.pwr with mhz := [(2, 1600)] } }
def openReq (p : PortId) (f : PortSt → PortSt) : State := putPort up p (f (portSt up p))
def work32 : State := openReq 0 fun x => { x with open_ := [(1, 1)] }
def entering60 : State := dom 60 { domSt up 60 with entering := some (2, 900000) }
def entering32 : State := putDom work32 32 { domSt up 32 with entering := some (2, 900000) }
def alarm2 (t : Tick) : State := dom 2 { domSt up 2 with state := 2, alarm := some t }
def alarmDue : State := alarm2 900000
def alarmLater : State := alarm2 2000000
def waking2 (t : Tick) : State := dom 2 { domSt up 2 with state := 2, waking := some t }
def wakingDue : State := waking2 900000
def wakingNow : State := waking2 1000000
def chan0 : DdrCh := { chanSt up 0 with trained := true }
def chan (x : DdrCh) : State := putChan up 0 x
def chanUp : State := chan chan0
def chanRetry : State := chan { chan0 with retryWin := 1 }
def read0 : DdrRead := { chan := 0, la := 0, slice := 0, far := false, entry := 0, serial := 0, beam := false, part := 0, old := none }
def chanBeam : State := { chanUp with ddrq := [{ read0 with beam := true }] }
def chanRaa : State := chan { chan0 with raa := [(3, 90)] }
def chanRead : State := { chanUp with ddrq := [read0] }
def chanPoison : State := { chanRead with mem := { chanRead.mem with ddrPsn := [(0, true)] } }
def chanReissued : State := chan { chan0 with reissues := 3 }
def chanTraining : State := chan { chan0 with retraining := true }
def chanReturning : State := chan { chan0 with retraining := true, returning := true }
def chanScrub : State := chan { chan0 with scrubEn := true }
def tracked : State := { up with pwr := { up.pwr with trackAt := 5000000 } }
def engineDead : State := putEngine up 3 { engineSt up 3 with dead := true }
/-- Port 1 as `x`; a port in L0, initialised. -/
def port (x : PortSt) : State := putPort up 1 x
def portNew : PortSt := { portSt up 1 with en := true, trainOk := true }
def portL0 : PortSt := { portNew with ltssm := .l0, prbOffer := 8, prbCred := 8 }
def portUp : PortSt := { portL0 with initDone := true }
def sNew : State := port portNew
def sPolling : State := port { portNew with ltssm := .polling }
def sRecovery : State := port { portNew with ltssm := .recovery }
def sL0 : State := port portL0
def sL0early : State := { sL0 with boot := { sL0.boot with ready := false } }
def sPort : State := port portUp
def flit0 : PcpFrame := { hdr := 0, slots := 0, trailer := 0 }
def flitOk : PcpFrame := { flit0 with trailer := crc64 (flitBytes flit0) ++ (0 : BitVec 64) }
def flitBad : PcpFrame := { flit0 with trailer := (~~~ crc64 (flitBytes flit0)) ++ (0 : BitVec 64) }
def sNaked : State := port { portUp with nakSent := true }
def sUnacked : State := port { portUp with unacked := [(0, 0, .cmp 1 .I false 0 0)] }
def sDown : State := port { portNew with down := true, trainOk := false, purge := some 0 }
def sRetire (r : Retire) : State := port { portUp with retiring := true, retire := some r }
def sRetireDue : State := { sRetire ⟨none, true, 0, 0, 0⟩ with now := 20000000 }
def sRetireNew : State := sRetire ⟨none, true, 0, 0, 0⟩
def sReturning : State := { port { portNew with returning := some (0, 0) } with now := 200000000 }
def sRingReturning : State :=
  { putRing up .ringE { ringPort up .ringE with state := .training, returning := some (0, 0) } with now := 200000000 }
def sPurge : State := { sDown with cache := { sDown.cache with pf := [(0, { ptag := 0, hold := 2, exh := false, fsl := false, err := .none })] } }
/-- A request header that names tag 5, stream 3 and an address. -/
def hdr (a : Addr) : PcpHdr :=
  { ptag := 5, stream := 3, addr := a, size := 2, bmask := 0xF, data := line0, aop := 0, aw := 0, place := 0, keep := false, opA := 0, opB := 0 }
def h0 : PcpHdr := hdr 0x2000
def portMapped (e : BitVec 8) : PortSt := { portUp with stream := [(3, e)] }
def sMapped : State := port (portMapped 0x40)
def sTagOpen : State := port { portMapped 0x40 with open_ := [(5, 0)] }
def sRetiring : State := port { portMapped 0x40 with retiring := true }
def sWindow : State := port { portMapped 0x40 with dbEn := true, dbBase := 7 }
def hDb : PcpHdr := hdr (7 * 2 ^ 18 + 0x80)
def hBad : PcpHdr := { h0 with addr := 0x2001 }
def sAbsent : State := port (portMapped 0x41)
def sRestoring : State := putPart sAbsent 1 { part1 with state := 7 }
def sQuiesced : State := putPart sAbsent 1 { part1 with state := 3 }
def sFull : State := port { portMapped 0x40 with rxq := [{ src := .port 1, op := .rdSh, hdr := h0, part := 0, cons := false, rel := false, dead := false }] }
/-- The release doorbell of context 0 in the page of partition 0. -/
def hRel : PcpHdr := { hdr (7 * 2 ^ 18 + 0x800) with bmask := 0xFF }
def sRunning : State := putBeam sWindow 0 { beamCtx sWindow 0 with state := 2, part := 0, desc := desc1 }
def probe0 : Probe := { kind := .inv, laddr := 9, owner := .none, exh := false, taken := none, after := [] }
def sProbe : State := putProbe sPort 1 4 (some probe0)
def sUnmapped : State := port (portMapped 0)
/-- Line 0, in slice 0, set 0: home map entry 0 gives it to this controller. -/
def homeMap0 : HomeMapEntry := { hmap0 with valid := true, last := 0, home := 0 }
def mapped : State := { sMapped with home := { sMapped.home with mapLive := [(0, homeMap0)] }, cache := { sMapped.cache with drains := [] } }
def hdrAt0 : PcpHdr := { hdr 0 with ptag := 5 }
def req (op : PcpOp) : Req := { src := .port 1, op := op, hdr := hdrAt0, part := 0, cons := false, rel := false, dead := false }
def relReq (c : Bool) : Req := { req .beamRel with cons := c }
def at0 : Place := place mapped 0
/-- Line 0 present in way 0 in the state of code `c`, with its PIN bit. -/
def line (c : BitVec 96) (p : BitVec 32) : State :=
  putTag mapped 0 0 0 { tag := 0, sv := true, part := 0, rqh := false, pin := p, st := c, err := .none }
def lineM : State := line 4 0
def linePin : State := line 4 1
def lineS : State := line 1 0
def missE (r : Req) : MissEntry := entry0 r 7 .shared
def miss (e : MissEntry) : State := putMiss mapped 0 0 (some e)
def waiting0 : MissEntry := missE (req .drop)
def sWaiting : State := miss waiting0
def waitRd : MissEntry := missE (req .rdSh)
def sWaitRd : State := miss waitRd
def waitAlloc : MissEntry := { waiting0 with waitOn := .alloc 0 }
def sWaitAlloc : State := miss waitAlloc
def ringE0 : MissEntry := { missE (req .rdSh) with kind := .ring, reqSent := true }
def sRing : State := miss ringE0
def ringNew : MissEntry := { ringE0 with start := 999999 }
def sRingNew : State := miss ringNew
def granted : MissEntry := { ringE0 with grant := some ⟨.S, 0, 0, false, true, false⟩ }
def sGranted : State := miss granted
def waitData : MissEntry := { ringE0 with grant := some ⟨.S, 2, 0, false, true, false⟩, grantTick := 0 }
def sWaitData : State := miss waitData
def supplied : MissEntry := { ringNew with supData := true }
def sSupplied : State := miss supplied
def atomE : MissEntry := { missE (req .atom) with kind := .bare, fillV := 0xF }
def sAtom : State := putMiss lineM 0 0 (some atomE)
def late (s : State) : State := { s with now := 1000000000000 }
def sRingLate : State := late sRing
def ringFar : MissEntry := { ringE0 with far := true }
def sRingFarLate : State := late (miss ringFar)
def sWaitDataLate : State := late sWaitData
/-- Slice 0 as `x`. -/
def slice (s : State) (x : SliceSt) : State := putSlice s 0 x
def sStalled : State := slice mapped { slice0 with stalled := [(1, req .drop)] }
def snp0 : SnpBody :=
  { rqid := 0, rqtxn := 0, crit := 0, ddh := false, west := false, retry := false, upg := false, turns := 0, cr := cr0 }
def rh : RingHdr := { src := 0, dst := 0, epoch := 0, txn := 0, htag := 0, hkind := 0, laddr := 0 }
def waitSnp : WaitSnp := { serial := 7, input := .fabric, kind := .sh, hdr := rh, body := snp0, waitOn := .ready }
def sSnp : State := slice mapped { slice0 with snps := [waitSnp] }
def sRepairGone : State := slice mapped { slice0 with repairs := [0] }
def sRepair : State := slice lineM { slice0 with repairs := [0] }
def sClearing : State := slice mapped { slice0 with clrBusy := true }
def hbmRd : HbmOp :=
  { write := false, laddr := 0, set := 0, way := 0, chunk := 0, dest := .deliv 1, data := 0, mask := 0, poison := false, beam := false, part := 0 }
def hbmWr : HbmOp := { hbmRd with write := true, dest := .none, mask := 0xF, data := 7 }
def sHbmRd : State := putHbmq mapped 0 0 [hbmRd]
def sHbmWr : State := putHbmq mapped 0 0 [hbmWr]
def pen0 : PenBuf := { penNew mapped 0 .victim .M 0 0 with chv := 0xF }
def pen (b : PenBuf) : State := putPen mapped 0 0 (some b)
def sPen : State := pen pen0
def penHeld : PenBuf := { pen0 with holdt := 9 }
def sPenHeld : State := pen penHeld
def penMif : PenBuf := { pen0 with mif := true }
def sPenMif : State := pen penMif
def sPenLate : State := late sPenMif
def sHalted : State := putEngine up 40 { engineSt up 40 with halted := true }
def flush0 : FlushWalk := ⟨none, 0, 9, [], 0, 0, none⟩
def sFlush : State := { lineM with cache := { lineM.cache with flushes := [flush0] } }
def drain0 : Drain := { scope := none, pos := [], ended := false, count := 0, slot := none, cancels := [] }
def sDrain : State := { lineM with cache := { lineM.cache with drains := [drain0] } }
def drainFull : Drain := { drain0 with pos := (List.range 16).map fun k => (k, 16384) }
def sDrainFull : State := { up with cache := { up.cache with drains := [drainFull] } }
def fold0 : FoldWalk := { slice := 0, ret := false, cursor := 0, slot := none, held := [], restage := [] }
def sFold (s : State) : State := { s with cache := { s.cache with folds := [fold0] }, home := { s.home with foldStaged := 1 } }
def sFoldLine : State := sFold lineM
def sFoldEmpty : State := sFold mapped
def move0 : MoveWalk := { stepNo := 3, action := 1, pos := [], nextLine := 0, reply := none }
def sMove (m : MoveWalk) : State := { up with move := some m }
def sMoveRead : State := sMove move0
def move2 : MoveWalk := { move0 with action := 2, stepNo := 4 }
def sMoveSet : State := sMove move2
/-- The state that a pass of the pipeline leaves. -/
def outSt : PipeOut → State
  | .passed s => s
  | .stalled _ => up
/-- Every miss-table entry that port 1 may take is in use, by other lines. -/
def sFullTable : State :=
  let e (k : Nat) (p : Pool) : MissEntry := { missE { req .rdSh with hdr := hdr (BitVec.ofNat 48 (2 ^ 30 * k)) } with pool := p, kind := .ring, serial := 100 + k }
  { sWaitRd with cache := { sWaitRd.cache with miss := (0, some waitRd) ::
      ((List.range 160).map fun k => (k + 1, some (e (k + 1) .shared))) ++ (List.range 8).map fun k => (k + 161, some (e (k + 161) (.port 1))) } }
def opQuiesce : State := putPart (slotIs 0 .running (.quiesce 1 3) [.part 1]) 1 { part1 with state := 2 }
def opFreeze (t : Tick) : State := putPart (slotIs 0 .running (.freeze 1) [.part 1]) 1 { part1 with state := 3, freezeTick := t }
def opFreezeDue : State := opFreeze 900000
def opFreezeLater : State := opFreeze 2000000
def opSnap : State := putPart (slotIs 0 .running (.save 1 [] [] none 9 0 (some 900000)) [.part 1]) 1 { part1 with state := 1 }
def edgeIn : State := { up with tim := { up.tim with tsCtl := 1 } }
/-- Context 0 runs: its next row is `r`, with the open rows `l`. -/
def running (r : BitVec 48) (l : List BeamRow) : BeamCtx := { ctx1 with state := 2, nextRow := r, rows := l }
def sRun (x : BeamCtx) : State := { putBeam mapped 0 x with now := 3000000 }
def sRun0 : State := sRun (running 0 [])
def row0 : BeamRow :=
  { row := 0, open_ := 0, deadline := 2000000, next := 0, held := [], reading := [], got := 0, late := false, counted := false
    lastTick := none, rel := none, relNext := 0, relHeld := [], restage := [] }

def sExpire : State := sRun (running 4 [row0])
def sRead : State := { sExpire with beams := { sExpire.beams with reads := [⟨0, 0, 0, 5⟩] } }
def rowReading : BeamRow := { row0 with next := 1, reading := [0] }
def report1 : Report := { ctx := 0, row := 0, idx := 0, tick := 2500000, error := true, poisoned := false, pinned := false }
def sReport : State := { sRun (running 4 [rowReading]) with reports := [report1] }
def sReportGone : State := { sRun (running 4 []) with parts := [], reports := [report1] }
def rowRel : BeamRow := { row0 with rel := some .doorbell, relNext := 0 }
def sRel : State := sRun (running 4 [rowRel])
def sCancelling : State := sRun { running 4 [] with state := 3 }
/-- Route table entries: this ring, and over the bridge (R173). -/
def routeHere : BitVec 6 := 0x10
def routeOver : BitVec 6 := 0x30
/-- A ring of nodes 0 (this one) and 1, to the east; ring 5 lies over the bridge; port RING_E is ACTIVE. -/
def epoch2 : EpSlot :=
  { slotReset with members := 3, dirs := [(1, 1)], routes := [(0, routeHere), (5, routeOver)], order := [0, 1], folded := true, east := true }
def ring (x : RingPortSt) : State := putRing (putPos mapped false { posOf mapped false with cur := epoch2 }) .ringE x
def rp0 : RingPortSt := { ringPort up .ringE with en := true, state := .active, lanes := 0xFF, partnerId := 1, partnerValid := true }
def sRing2 : State := ring rp0
def rp (st : RpState) : State := ring { rp0 with state := st }
def sTraining : State := rp .training
def auth0 : Auth := { start := 0, nonce := 3, offered := 1, chal := none, sentDone := false, gotDone := false, failed := none }
def auth (a : Auth) : State := ring { rp0 with state := .auth, auth := some a }
def sAuth : State := auth auth0
def sAuthKey : State := { sAuth with net := { sAuth.net with key0 := ⟨7, 1, true⟩ } }
def authCh : Auth := { auth0 with chal := some (1, 1, 1, 9) }
def sAuthCh : State := auth authCh
def sAuthChKey : State := { sAuthCh with net := { sAuthCh.net with key0 := ⟨7, 1, true⟩ } }
def mac1 : BitVec 128 := macOf 7 (macMessage 1 1 0 (portCode .ringE) 1 3 9)
def authFailed : Auth := { auth0 with failed := some 0 }
def sAuthFailed : State := late (auth authFailed)
def authBoth : Auth := { auth0 with sentDone := true, gotDone := true }
def sAuthBoth : State := auth authBoth
def body0 : ReqBody :=
  { part := 0, crit := 0, beam := false, bmask := 1, data := line0, aop := 0, aw := 0, ofs := 0, opA := 0, opB := 0 }
def rhTo (c : CtrlId) : RingHdr := { rh with src := 1, dst := c }
def msgHere : RingMsg := .gack (rhTo 0)
def msgOn : RingMsg := .gack (rhTo 1)
def msgOver : RingMsg := .gack (rhTo 0x50)
def msgLost : RingMsg := .gack (rhTo 0x70)
def sBridge : State := { sRing2 with net := { sRing2.net with isBridge := true } }
def hEntry (op : ReqOp) : HomeEntry :=
  { serial := 3, far := false, evict := false, op := op, hdr := rh, body := body0, gate := 0, state := .waiting, needWay := false
    circ := circ0, rcl := ⟨[], cr0, none, [], false, 0, 0, 0⟩, ddrAsked := false, ddr := none, toHome := none, held := [], fdBefore := fd0
    cont := false, gackDue := false, penDue := none, atomGot := 0, atomLine := line0, way := 0, wrPend := 0, sent := false, fdWay := none }
def home (e : HomeEntry) : State := putHome mapped 0 false 0 (some e)
def homeSh : HomeEntry := hEntry .sh
def sHomeSh : State := home homeSh
def homeNcwr : HomeEntry := hEntry .ncwr
def sHomeNcwr : State := home homeNcwr
def homeRun : HomeEntry := { hEntry .sh with state := .hqS }
def sHomeRun : State := home homeRun
def homeSnp (k : Nat) : HomeEntry := { homeRun with circ := { circ0 with running := true, launches := k } }
def homeSnp2 : HomeEntry := homeSnp 2
def sHomeSnp2 : State := home homeSnp2
def homeRcl : HomeEntry := { homeRun with rcl := { homeRun.rcl with open_ := [9], start := 1000000 } }
def sHomeRcl : State := home homeRcl
def sHomeRclLate : State := late sHomeRcl
def homeRcl1 : HomeEntry := { homeRcl with rcl := { homeRcl.rcl with fired := 1 } }
def sHomeRcl1 : State := late (home homeRcl1)
def evictE : HomeEntry := { homeRcl with evict := true }
def sEvict : State := late { mapped with home := { mapped.home with evict := [(0, some evictE)] } }
def wb0 : WbBody := ⟨0, false, false, line0⟩
def sPrivate : State := { mapped with home := { mapped.home with mapLive := [(0, { homeMap0 with priv := true })] } }
def data0 : DataBody := { crit := 0, srck := 0, dirty := false, tohome := false, line := line0 }
def dataHome : DataBody := { data0 with tohome := true }
def grant0 : GrantBody := ⟨.S, 0, 0, false, true, false⟩
def recallB : RecallBody := { kind := .sh, ddh := false, bcast := false, upg := false, rqid := 0, rqtxn := 0, crit := 0 }
def recall0 (n : Nat) : RecallEntry := ⟨0, rh, recallB, false, { circ0 with running := true, launches := n }, [], cr0, none, false, 0, false, false⟩
def recall2 : RecallEntry := recall0 2
def sRecall : State := putRecall mapped 0 (some recall2)
def sRecallLate : State := late sRecall
def far0 : FarAckBody := { crd := false, lost := false, bcast := false, cr := cr0, supring := 0, slice := 0, nfar := 0 }
def farCrd : FarAckBody := { far0 with crd := true }
def rhFrom9 : RingHdr := { rh with src := 9 }
def rhGate : RingHdr := { rh with hkind := 3 }
def rhFar : RingHdr := { rh with src := 0x50 }
def recallNew : RecallEntry := { recall2 with circ := { recall2.circ with running := false } }
def sRecallNew : State := putRecall mapped 0 (some recallNew)
def rpUnacked (n : Nat) : RingPortSt := { rp0 with unacked := [(0, 0, .mgmt .sync)], replays := n }
def sUnackedRp : State := late (ring (rpUnacked 0))
def sReplayed : State := late (ring (rpUnacked 4))
def frame0 : PrlFrame := { hdr := 0, slots := 0, trailer := 0, ucw := none }
def sLanes : State := ring { rp0 with lanes := 3 }
def sProp (t : Tick) : State := ring { rp0 with laneProp := some (3, t) }
def sPropDue : State := sProp 0
def sPropNew : State := sProp 1000000
def sStarved : State := late (ring { rp0 with starved := [(0, 1)] })
def sSlow : State := late (ring { rp0 with slow := true })
/-- Both ring ports are ACTIVE. -/
def sBoth : State := putRing sRing2 .ringW rp0
def sFailed : State := late (ring { rp0 with state := .down, autoReturn := true, failedAt := some 0 })
def census (c : CtrlId) (n : BitVec 2) : Census := { initiator := c, turns := n, recs := [] }
def sCensus : State := putPos sRing2 false { posOf sRing2 false with censusRun := true }
def sPrep : State := putPos sRing2 false { posOf sRing2 false with prepBy := 0, unacked := [1] }
def sPrepDone : State := putPos sRing2 false { posOf sRing2 false with next := some epoch2, nextTm := some 900000 }
def sPrepLater : State := putPos sRing2 false { posOf sRing2 false with next := some epoch2, nextTm := some 2000000 }
def sPrepEmpty : State := { sPrepDone with home := { sPrepDone.home with mapLive := [] } }
def sOld : State := putPos sRing2 false { posOf sRing2 false with old := some slotReset, tm := 900000 }
def sOldSum : State := putPos sRing2 false { posOf sRing2 false with old := some slotReset, drainSeen := [0], tm := 900000 }
def dsum (c : CtrlId) : DrainSum := { origin := c, epoch := 0, injected := 2, ended := 2 }
def sLost (t : Tick) : State := { late sPen with home := { sPen.home with lostHomes := [(0, t)] } }
def sLostDue : State := sLost 0
def sLostNew : State := sLost 900000000000
def syncNew : State := { sRing2 with net := { sRing2.net with syncSent := 1000000 } }
def wbIn (s : State) : State := { s with home := { s.home with wbkUsed := s.home.wbkUsed + 1 } }
def commitRec : State := { up with regs := { up.regs with overlap := false, armedConflict := false } }
def sUnstalled : State := tookPort (slice mapped slice0) 0 (req .drop)
def drainedTo (s : State) : State :=
  plannedDown (plannedDown (putPos s false { posOf s false with old := none, spare := slotReset, drainSeen := [] }) (eastPort false)) (westPort false)
/-- The old epoch closed on its time limit: the writebacks it carried go again (R368). -/
def resentTo (s : State) : State :=
  let t := resendWbs (putPos s false { posOf s false with old := none, spare := slotReset, drainSeen := [] }) false slotReset.epoch
  plannedDown (plannedDown t (eastPort false)) (westPort false)
/-- The message has taken its entry of the receive buffer at RING_E (R132). -/
def taken (s : State) (m : RingMsg) : State :=
  putRing s .ringE { ringPort s .ringE with rxUsed := tset 0 (ringPort s .ringE).rxUsed (creditIx m) (tget 0 (ringPort s .ringE).rxUsed (creditIx m) + 1) }
/-- The exchange with the neighbour at RING_E is known (R377). -/
def syncedOf (s : State) : State := count (putRing s .ringE { ringPort s .ringE with syncDelay := sat16 1, t1 := none }) 0x17C
def hostTaken : State :=
  takeRaw (putMbx (ledgerTaken (putMbx hostCmd .bmc (mbxSt hostCmd .bmc))) .host { mbxSt hostCmd .host with cmds := [] }) .host hostCmd.net.ctrlId ⟨mkHeader 0x01 0 0 3, []⟩ true
/-- The state that an outcome leaves. -/
def nextOf : Host.Outcome State Fault Refusal → State
  | .next t => t
  | _ => up
def cmd2 : CmdAsm := ⟨mkHeader 0x01 2 0 0, [7]⟩
def cmd3 : CmdAsm := ⟨mkHeader 0x01 3 0 0, [7]⟩
def retire0 : Retire := ⟨none, true, 0, 0, 0⟩
def cand0 : Candidate := ⟨2000000, 0, 0, 0⟩
def grant2 : GrantBody := ⟨.S, 2, 0, false, true, false⟩
def filter0 : Nat × PfEntry := (0, { ptag := 0, hold := 2, exh := false, fsl := false, err := .none })
def cmd0 : CmdAsm := ⟨mkHeader 0x01 0 0 3, []⟩
def read1 : StagingRead := ⟨0, 0, 0, 5⟩
def readY : Wrr := (readTurn chanRead 0 0 read0).getD wrr0
/-- The read has left its queue (R390). -/
def readDone (s : State) : State :=
  let t := { s with ddrq := s.ddrq.erase read0, ddrWrr := tset wrr0 s.ddrWrr 0 readY }
  putChan t 0 { chanSt t 0 with reissues := 0 }
def hDbOther : PcpHdr := hdr (7 * 2 ^ 18 + 0x1080)
def hDbBad : PcpHdr := { hDb with size := 5 }
def hDbWr : PcpHdr := { hDb with bmask := 0xFF }
def hDbWrBad : PcpHdr := { hDb with bmask := 0x5 }
def owed0 : OwedPsn := { laddr := 0, part := 0, frm := .M, data := line0, prb := 0, dirty := true }
def sOwed : State := slice mapped { slice0 with owedPoison := [owed0] }
def sPenShort : State :=
  { mapped with cache := { mapped.cache with pen := (List.range 8).map fun k => (120 + k, some (penNew mapped 0 .poison .M 0 0)) } }
def wc0 : WcBuf :=
  { serial := 3, laddr := 0, port := 1, part := 0, data := line0, mask := 1, ptags := [5], state := .opened }
def sWcFull : State := putWc sFullTable 0 0 (some wc0)
def hbmY (s : State) (pos : Nat) : Wrr := (hbmTurn s 0 0 pos).getD wrr0
def sHbmTwo : State := putHbmq mapped 0 0 [hbmWr, hbmRd]
def sRepairShort : State := { sRepair with cache := { sRepair.cache with pen := sPenShort.cache.pen } }
def sRunEarly : State := { sRun0 with now := 1000 }
def sExpireEarly : State := { sRun (running 2 [row0]) with now := 1000 }
def expiry0 : Nat := (expiryTick (running 4 [row0]) 0).getD 0
def reportOk : Report := { report1 with error := false, pinned := true }
def sReportOk : State := { sReport with reports := [reportOk] }
def reportNoPin : Report := { report1 with error := false }
def sReportNoPin : State := { sReport with reports := [reportNoPin] }
def sRelCancel : State := sRun { running 4 [rowRel] with state := 3, cancelSlot := some 0 }
def sHomeFull : State := { mapped with home := { mapped.home with homeq := (List.range 64).map fun k => (k, some homeSh) } }
def sArrWait : State := { mapped with home := { mapped.home with arrWait := [⟨false, 0, .sh, rh, body0⟩] } }
def ringNewT : MissEntry := { ringNew with tmo := 1000 }
def sRingNewT : State := miss ringNewT
def suppliedT : MissEntry := { supplied with tmo := 1000 }
def sSuppliedT : State := miss suppliedT
def grantD : GrantBody := ⟨.S, 2, 0, false, true, false⟩
def rhFar1 : RingHdr := { rh with hkind := 1 }
def rhEv : RingHdr := { rh with hkind := 2 }
def rhEv9 : RingHdr := { rhFrom9 with hkind := 2 }
def rhGate9 : RingHdr := { rhFrom9 with hkind := 3 }
def recallCopies : RecallEntry := { recall2 with copies := [9] }
def sRecallCopies : State := putRecall mapped 0 (some recallCopies)
def recallFirst : RecallEntry := recall0 1
def sRecallFirst : State := late (putRecall mapped 0 (some recallFirst))
def sRecallsFull : State := { mapped with home := { mapped.home with recalls := (List.range 64).map fun k => (k, some recall2) } }
def evict1 : HomeEntry := { evictE with rcl := { evictE.rcl with fired := 1 } }
def sEvict1 : State := late { mapped with home := { mapped.home with evict := [(0, some evict1)] } }
def homeSnp1 : HomeEntry := homeSnp 1
def sHomeSnp1 : State := late (home homeSnp1)
/-- Lantern-B does not run. -/
def noB (s : State) : State := putEngine s 63 { engineSt s 63 with halted := true }
def sNoB : State := noB sRing2
def sFollow : State := let t := putPos sRing2 false { posOf sRing2 false with node := 1 }; { t with net := { t.net with ctrlId := 1 } }
def sFollowEarly : State := { sFollow with boot := { sFollow.boot with ready := false } }
def sOldLate : State := late sOld
def epRes : EpochResult := ⟨[], true⟩
def sOldSumW : State := putPos sOldSum false { posOf sOldSum false with waiting := some epRes }
def sOldLateW : State := putPos sOldLate false { posOf sOldLate false with waiting := some epRes }
def opFull : State := { up with lan := { up.lan with slots := (List.range 8).map fun k => (k, { opSlot up 0 with state := .running, job := .hw }) } }
/-- Firmware A, a header with one empty section. -/
def fwHead : List Word :=
  [fwMagic, 0x02000001, 512, 1, 0x03B10960, 0] ++ List.replicate 12 0 ++ [1, 2, 512, 0, 0] ++ List.replicate 105 0
def boot2fw : State := { boot2 with mem := { boot2.mem with nor := writeWords [] 0 fwHead } }
def reqDead (op : PcpOp) : Req := { req op with dead := true }

/-- The sticky slice repair of line 0 has read its set (R594). -/
def repairOn (s : State) : State := readStages (putSlice s 0 { sliceSt s 0 with repairs := [] }) (place s 0) 0
/-- The release step of the first line of the row has cleared the pin (R265). -/
def stepped (s : State) : State :=
  let l := beamLine (beamCtx s 0).desc rowRel.row 0
  let u := readStages s (place s l) l
  let hit : Bool := (findWay u (place s l)).isSome && pinned u (place s l)
  let v := countFor u (evSlc 0 (place s l).sl) 1 (some (beamCtx s 0).part)
  count (if hit then putPin v (place s l) false else v) (evBeam 1 (clusterOf (beamCtx s 0).engine))
def sNoLp : State := putEngine sTraining 56 (engineSt sNoB 63)
def sUnwired : State := { sTraining with unwired := 1 }

theorem test_witness_NothingActsUnderReset :
    ((inReset inRes = true) ∧ (isPin (Instr.cmdFlush Mailbox.host Master.mgmt) = false)) ∧
    ((masterOf (Instr.cmdFlush Mailbox.host Master.mgmt) = some Master.mgmt) ∧ (endpointDown epDown = true)) := by
  repeat' apply And.intro
  all_goals decide +kernel

theorem test_witness_AnEmptyQueueTicks :
    ((up.pending = []) ∧ (Running up) ∧ (up.ctrlOut = false)) ∧
    ((up.pending = [])) ∧
    ((inRes.pending = []) ∧ (inReset inRes = true)) := by
  repeat' apply And.intro
  all_goals decide +kernel

theorem test_witness_ResetValues :
    ((3 ≠ 0)) := by
  repeat' apply And.intro
  all_goals decide +kernel

theorem test_witness_ResetsReturnTheController :
    ((Running up)) ∧
    ((inReset inRes = true)) ∧
    ((up.boot.pwrOk = true)) ∧
    ((powerOff.boot.pwrOk = false)) ∧
    ((Refclk.r25 ≠ Refclk.r156)) ∧
    ((Refclk.r25 ≠ Refclk.r156) ∧ (lostClk.boot.lostClk.getLsbD (clkBit Refclk.r25) = true)) ∧
    ((Running lost156) ∧ (lost156.boot.lostClk.getLsbD 2 = true)) ∧
    ((inReset lost156Res = true) ∧ (lost156Res.boot.lostClk.getLsbD 2 = true)) ∧
    ((up.boot.lostClk.getLsbD (clkBit Refclk.r25) = false)) ∧
    ((Running hostFull)) := by
  repeat' apply And.intro
  all_goals decide +kernel

theorem test_witness_StartupAdvances :
    ((Running boot0) ∧ (boot0.boot.stopped = false) ∧ (boot0.boot.ready = false) ∧ (boot0.boot.stage.toNat < 2)) ∧
    ((Running boot7) ∧ (boot7.boot.stopped = false) ∧ (boot7.boot.ready = false) ∧ (boot7.boot.stage = 7)) ∧
    ((Running boot2) ∧ (boot2.boot.stopped = false) ∧ (boot2.boot.ready = false) ∧ (boot2.boot.stage = 2) ∧ ((chooseFw boot2).2 =
      none)) ∧
    ((Running boot3) ∧ (boot3.boot.stopped = false) ∧ (boot3.boot.ready = false) ∧ (boot3.boot.stage = 3) ∧ ((trainedBy boot3
      reportBad).hbmOk = 0)) ∧
    ((Running boot3) ∧ (boot3.boot.stopped = false) ∧ (boot3.boot.ready = false) ∧ (boot3.boot.stage = 3) ∧ ((trainedBy boot3
      report0).hbmOk ≠ 0)) ∧
    ((Running boot4) ∧ (boot4.boot.stopped = false) ∧ (boot4.boot.ready = false) ∧ (boot4.boot.stage = 4) ∧ (boot4.boot.apply =
      none) ∧ (baseImage boot4 = none)) ∧
    ((Running boot4img) ∧ (boot4img.boot.stopped = false) ∧ (boot4img.boot.ready = false) ∧ (boot4img.boot.stage = 4) ∧
      (boot4img.boot.apply = none) ∧ (baseImage boot4img = some bootImg)) ∧
    ((Running boot5) ∧ (boot5.boot.stopped = false) ∧ (boot5.boot.ready = false) ∧ (boot5.boot.stage = 5)) ∧
    ((Running boot6) ∧ (boot6.boot.stopped = false) ∧ (boot6.boot.ready = false) ∧ (boot6.boot.stage = 6) ∧ ((syncStatus boot6
      false).net.syncLocked = true ∨ (syncStatus boot6 false).net.syncIsMaster = true)) ∧
    ((Running boot6chain) ∧ (boot6chain.boot.stopped = false) ∧ (boot6chain.boot.ready = false) ∧ (boot6chain.boot.stage = 6) ∧
      (¬((syncStatus boot6chain false).net.syncLocked = true ∨ (syncStatus boot6chain false).net.syncIsMaster = true)) ∧
      (reportLimit.syncLimit = true)) ∧
    ((Running boot6chain) ∧ (boot6chain.boot.stopped = false) ∧ (boot6chain.boot.ready = false) ∧ (boot6chain.boot.stage = 6) ∧
      (¬((syncStatus boot6chain false).net.syncLocked = true ∨ (syncStatus boot6chain false).net.syncIsMaster = true)) ∧
      (report0.syncLimit = false)) ∧
    ((up.boot.stopped = true ∨ up.boot.ready = true)) := by
  repeat' apply And.intro
  all_goals decide +kernel

theorem test_witness_BootWatchdogResets :
    ((Running bootLate) ∧ (bootLate.boot.ready = false) ∧ (bootLate.boot.stopped = false) ∧ (10000000000 ≤ bootLate.boot.upTime)) ∧
    ((up.boot.ready = true ∨ up.boot.stopped = true ∨ up.boot.upTime < 10000000000)) := by
  repeat' apply And.intro
  all_goals decide +kernel

theorem test_witness_TripAndBackstopLatch :
    ((Running up) ∧ (125 ≤ celsius 125)) ∧
    ((celsius 124 < 125)) ∧
    ((tripped.boot.thermtrip = true)) := by
  repeat' apply And.intro
  all_goals decide +kernel

theorem test_witness_MailboxesCarryWords :
    ((Reaches hostFull Master.mgmt) ∧ (ownsMbx Mailbox.host Master.mgmt = true) ∧ (256 ≤ cmdWords (mbxSt hostFull Mailbox.host))) ∧
    ((Reaches up Master.mgmt) ∧ (ownsMbx Mailbox.host Master.mgmt = true) ∧ (cmdWords (mbxSt up Mailbox.host) < 256) ∧ ((mbxSt up
      Mailbox.host).asm = none) ∧ (headerChk (mkHeader 1 0 0 3) = BitVec.extractLsb' 28 4 (mkHeader 1 0 0 3)) ∧ (BitVec.extractLsb'
      16 4 (mkHeader 1 0 0 3) = (mbxSt up Mailbox.host).cmdEpoch) ∧ (headerLen (mkHeader 1 0 0 3) = 0)) ∧
    ((Reaches up Master.mgmt) ∧ (ownsMbx Mailbox.host Master.mgmt = true) ∧ (cmdWords (mbxSt up Mailbox.host) < 256) ∧ ((mbxSt up
      Mailbox.host).asm = none) ∧ (headerChk cmdW = BitVec.extractLsb' 28 4 cmdW) ∧ (BitVec.extractLsb' 16 4 cmdW = (mbxSt up
      Mailbox.host).cmdEpoch) ∧ (headerLen cmdW ≠ 0)) ∧
    ((Reaches up Master.mgmt) ∧ (ownsMbx Mailbox.host Master.mgmt = true) ∧ (cmdWords (mbxSt up Mailbox.host) < (256 : Nat)) ∧
      ((mbxSt up Mailbox.host).asm = none) ∧ (headerChk (0 : Word) ≠ BitVec.extractLsb' (28 : Nat) (4 : Nat) (0 : Word) ∨
      BitVec.extractLsb' (16 : Nat) (4 : Nat) (0 : Word) ≠ (mbxSt up Mailbox.host).cmdEpoch)) ∧
    ((Reaches up Master.mgmt) ∧ (ownsMbx Mailbox.host Master.mgmt = true) ∧ (cmdWords (mbxSt up Mailbox.host) < (256 : Nat)) ∧
      ((mbxSt up Mailbox.host).asm = none) ∧ (headerChk (mkHeader (1 : BitVec (8 : Nat)) (0 : BitVec (8 : Nat)) (3 : BitVec (4 :
      Nat)) (3 : BitVec (8 : Nat))) ≠ BitVec.extractLsb' (28 : Nat) (4 : Nat) (mkHeader (1 : BitVec (8 : Nat)) (0 : BitVec (8 :
      Nat)) (3 : BitVec (4 : Nat)) (3 : BitVec (8 : Nat))) ∨ BitVec.extractLsb' (16 : Nat) (4 : Nat) (mkHeader (1 : BitVec (8 :
      Nat)) (0 : BitVec (8 : Nat)) (3 : BitVec (4 : Nat)) (3 : BitVec (8 : Nat))) ≠ (mbxSt up Mailbox.host).cmdEpoch)) ∧
    ((Reaches hostAsm Master.mgmt) ∧ (ownsMbx Mailbox.host Master.mgmt = true) ∧ (cmdWords (mbxSt hostAsm Mailbox.host) < 256) ∧
      ((mbxSt hostAsm Mailbox.host).asm = some cmd2) ∧ (headerLen cmd2.header ≤ cmd2.args.length + 1)) ∧
    ((Reaches hostAsm1 Master.mgmt) ∧ (ownsMbx Mailbox.host Master.mgmt = true) ∧ (cmdWords (mbxSt hostAsm1 Mailbox.host) < 256) ∧
      ((mbxSt hostAsm1 Mailbox.host).asm = some cmd3) ∧ (cmd3.args.length + 1 < headerLen cmd3.header)) ∧
    ((Reaches up Master.mgmt) ∧ (mayReadMbx Mailbox.host Master.mgmt = true) ∧ ((mbxSt up Mailbox.host).rplq = [])) ∧
    ((Reaches hostReply Master.mgmt) ∧ (mayReadMbx Mailbox.host Master.mgmt = true) ∧ ((mbxSt hostReply Mailbox.host).rplq = [5,
      6])) ∧
    ((Reaches hostReply Master.mgmt) ∧ (mayReadMbx Mailbox.host Master.mgmt = true) ∧ ((mbxSt hostReply Mailbox.host).rplq = [5,
      6]) ∧ ((mbxSt hostReply Mailbox.host).held = [])) ∧
    ((Reaches up Master.jtag) ∧ (mayReadMbx Mailbox.debug Master.jtag = true) ∧ ((mbxSt up Mailbox.debug).trcq = [])) ∧
    ((Reaches traced Master.jtag) ∧ (mayReadMbx Mailbox.debug Master.jtag = true) ∧ ((mbxSt traced Mailbox.debug).trcq = [9])) ∧
    ((Reaches hostFull Master.mgmt) ∧ (mayCtl Mailbox.host Master.mgmt = true)) ∧
    ((Reaches hostReply Master.mgmt) ∧ (mayCtl Mailbox.host Master.mgmt = true)) ∧
    ((Reaches traced Master.jtag) ∧ (mayCtl Mailbox.debug Master.jtag = true) ∧ (Mailbox.debug = Mailbox.debug)) := by
  repeat' apply And.intro
  all_goals decide +kernel

theorem test_witness_OperationSlotsAndBar2 :
    ((Reaches opDoneSt Master.mgmt) ∧ (mayReadMbx Mailbox.host Master.mgmt = true)) ∧
    ((Reaches opDoneSt Master.mgmt) ∧ (ownsMbx Mailbox.host Master.mgmt = true) ∧ ((opSlot opDoneSt (slotRef Mailbox.host
      0)).state ≠ OpState.idle) ∧ ((opSlot opDoneSt (slotRef Mailbox.host 0)).state ≠ OpState.running)) ∧
    ((Reaches opLog Master.mgmt) ∧ (ownsMbx Mailbox.host Master.mgmt = true) ∧ ((opSlot opLog (slotRef Mailbox.host 0)).state =
      OpState.idle ∨ (opSlot opLog (slotRef Mailbox.host 0)).state = OpState.running)) ∧
    ((Reaches up Master.mgmt) ∧ (bar2Held up 4 (4 + (List.take (524288 - 4) [1, 2, 3]).length) = false)) ∧
    ((Reaches opLog Master.mgmt) ∧ (bar2Held opLog 4 (4 + (List.take (524288 - 4) [1, 2, 3]).length) = true)) := by
  repeat' apply And.intro
  all_goals decide +kernel

theorem test_witness_QueriesAreAnswered :
    ((Taken up Mailbox.host LciCmd.sysInfo)) ∧
    ((Taken up Mailbox.host (LciCmd.beamStatus 0))) ∧
    ((Taken up Mailbox.host (LciCmd.ringCensus true 0))) ∧
    ((Taken up Mailbox.host (LciCmd.beamAdmit true desc1))) ∧
    ((Taken up Mailbox.host (LciCmd.logRead false 4 0 0))) ∧
    ((Taken up Mailbox.peer (LciCmd.peerQuery 7 1))) := by
  repeat' apply And.intro
  all_goals decide +kernel

theorem test_witness_ImmediateCommandsAct :
    ((Taken up Mailbox.host (LciCmd.thermal 4 0))) ∧
    ((Taken level6 Mailbox.host (LciCmd.thermal 2 0)) ∧ (Mailbox.host ≠ Mailbox.peer) ∧ (level6.pwr.level = 6)) ∧
    ((Taken up Mailbox.host (LciCmd.thermal 2 0))) ∧
    ((Taken up Mailbox.bmc (LciCmd.thermal 3 0))) ∧
    ((Taken up Mailbox.host (LciCmd.cacheEnable true 0))) ∧
    ((Taken up Mailbox.host (LciCmd.partCreate 1 255 4 1052688 [(3, 1)]))) ∧
    ((Taken sP1 Mailbox.host (LciCmd.partSetWays 1 true 3 15))) ∧
    ((Taken sP1 Mailbox.host (LciCmd.partSetShare 1 1052688 7))) ∧
    ((Taken sP1 Mailbox.host (LciCmd.partSetShare 1 2105376 0))) ∧
    ((Taken sP1q Mailbox.host (LciCmd.partQuiesce 1 true))) ∧
    ((Taken sBeam1 Mailbox.host (LciCmd.beamStart 0 0))) ∧
    ((Taken up Mailbox.host (LciCmd.beamAdmit false 0))) ∧
    ((Taken up Mailbox.host (LciCmd.ringKeySet true 1 true false 77))) ∧
    ((Taken up Mailbox.host (LciCmd.ringKeySet true 0 false true 0))) ∧
    ((Taken up Mailbox.peer (LciCmd.commitAt 0 0 true 0))) ∧
    ((Taken up Mailbox.peer (LciCmd.peerImg 1 true 0 [1, 2]))) ∧
    ((Taken up Mailbox.peer (LciCmd.peerLedger true 3 9 [(1, 2)]))) ∧
    ((Taken up Mailbox.peer (LciCmd.peerFence true [(1, 2)]))) ∧
    ((Taken up Mailbox.peer (LciCmd.peerHomestep 2 1 0))) ∧
    ((Taken up Mailbox.peer (LciCmd.peerHomestep 1 1 0))) ∧
    ((freeSlot sP1q Mailbox.host = some 0) ∧ (Mailbox.host ≠ Mailbox.peer) ∧ (Taken sP1q Mailbox.host (LciCmd.partFreeze 1))) ∧
    ((Taken up Mailbox.host (LciCmd.thermal 1 500))) := by
  repeat' apply And.intro
  all_goals decide +kernel

theorem test_witness_BackgroundCommandsStart :
    ((freeSlot up Mailbox.host = some 0) ∧ (Taken up Mailbox.host (LciCmd.cacheFlush true 0 3 9))) ∧
    ((freeSlot cacheOn Mailbox.host = some 0) ∧ (Taken cacheOn Mailbox.host (LciCmd.cacheDisable true 0))) ∧
    ((freeSlot sP1 Mailbox.host = some 0) ∧ (Taken sP1 Mailbox.host (LciCmd.partQuiesce 1 false))) ∧
    ((freeSlot sP1q Mailbox.host = some 0) ∧ (Taken sP1q Mailbox.host (LciCmd.partFreeze 1))) ∧
    ((freeSlot sP1z Mailbox.host = some 0) ∧ (Taken sP1z Mailbox.host (LciCmd.partSave 1 true false 0 9 1 []))) ∧
    ((freeSlot sImage Mailbox.host = some 0) ∧ (Taken sImage Mailbox.host (LciCmd.partRestore true 0 2 false 0 false 0 0 0))) ∧
    ((freeSlot sP1q Mailbox.host = some 0) ∧ (Taken sP1q Mailbox.host (LciCmd.partRemove 1))) ∧
    ((freeSlot sBeam1 Mailbox.host = some 0) ∧ (Taken sBeam1 Mailbox.host (LciCmd.beamCancel 0))) ∧
    ((freeSlot up Mailbox.host = some 0) ∧ (Taken up Mailbox.host (LciCmd.sliceRetire 3))) ∧
    ((freeSlot folded3 Mailbox.host = some 0) ∧ (Taken folded3 Mailbox.host (LciCmd.sliceReturn 3))) ∧
    ((freeSlot up Mailbox.host = some 0) ∧ (Taken up Mailbox.host (LciCmd.portRetire 3 true))) ∧
    ((freeSlot portRet Mailbox.host = some 0) ∧ (Taken portRet Mailbox.host (LciCmd.portReturn 2))) ∧
    ((freeSlot up Mailbox.host = some 0) ∧ (Taken up Mailbox.host (LciCmd.ringCensus false 0))) ∧
    ((freeSlot ringActive Mailbox.host = some 0) ∧ (Taken ringActive Mailbox.host (LciCmd.ringFold 8))) ∧
    ((freeSlot ringDown Mailbox.host = some 0) ∧ (Taken ringDown Mailbox.host (LciCmd.ringUnfold 8))) ∧
    ((freeSlot up Mailbox.host = some 0) ∧ (Taken up Mailbox.host (LciCmd.applyOverlay 1 false 0 0))) ∧
    ((freeSlot up Mailbox.host = some 0)) ∧
    ((freeSlot up Mailbox.host = some 0) ∧ (Taken up Mailbox.host (LciCmd.logRead true 16 0 0))) ∧
    ((freeSlot up Mailbox.host = some 0) ∧ (Taken up Mailbox.host (LciCmd.fwBegin 256))) ∧
    ((freeSlot updOpen Mailbox.host = some 0) ∧ (Taken updOpen Mailbox.host (LciCmd.fwWrite 0 0 256))) ∧
    ((freeSlot updDone Mailbox.host = some 0) ∧ (Taken updDone Mailbox.host LciCmd.fwCommit)) ∧
    ((freeSlot updOpen Mailbox.host = some 0) ∧ (Taken updOpen Mailbox.host LciCmd.fwCancel)) ∧
    ((freeSlot opFull Mailbox.host = none) ∧ (background (LciCmd.cacheFlush true 0 3 9) = true) ∧ (Taken opFull Mailbox.host
      (LciCmd.cacheFlush true 0 3 9)) ∧ (ownCmd (atLantern opFull) Mailbox.host opFull.net.ctrlId (LciCmd.cacheFlush true 0 3 9) =
      LciCmd.cacheFlush true 0 3 9)) := by
  repeat' apply And.intro
  all_goals decide +kernel

theorem test_witness_RefusedCommandsChangeNothing :
    ((mbxServed up Mailbox.host = true) ∧ ((mbxSt up Mailbox.host).held = []) ∧ (lciCheck (atLantern up) Mailbox.host (ownCmd
      (atLantern up) Mailbox.host up.net.ctrlId (LciCmd.partQuiesce 0 false)) true ≠ 0)) ∧
    ((mbxServed up Mailbox.host = true) ∧ ((mbxSt up Mailbox.host).held = []) ∧ (lciCheck (atLantern up) Mailbox.host (ownCmd
      (atLantern up) Mailbox.host up.net.ctrlId (LciCmd.partQuiesce 0 false)) true ≠ 0) ∧ (Mailbox.host ≠ Mailbox.peer)) ∧
    ((mbxServed (noB up) Mailbox.peer = false ∨ (mbxSt (noB up) Mailbox.peer).held ≠ [] ∧ emergencyCmd Mailbox.peer
      (LciCmd.partQuiesce 0 false) = false)) := by
  repeat' apply And.intro
  all_goals decide +kernel

theorem test_witness_RegisterAccessesAreChecked :
    ((Reaches up Master.smbus) ∧ (4 ≠ 0) ∧ (mayWrite Master.smbus (decodeAddr 112).1 (decodeAddr 112).2.2 = false) ∧ ((regGet up
      false (decodeAddr 112).1 (decodeAddr 112).2.1 (decodeAddr 112).2.2).isSome = true)) ∧
    ((Reaches up Master.mgmt) ∧ (12 ≠ 0) ∧ (mayWrite Master.mgmt (decodeAddr 112).1 (decodeAddr 112).2.2 = true) ∧ (accessShape
      112 12 (decodeAddr 112).1 (decodeAddr 112).2.2 = Shape.width)) ∧
    ((Reaches up Master.mgmt) ∧ (4 ≠ 0) ∧ (mayWrite Master.mgmt (decodeAddr 113).1 (decodeAddr 113).2.2 = true) ∧ (accessShape 113
      4 (decodeAddr 113).1 (decodeAddr 113).2.2 = Shape.unaligned)) ∧
    ((Reaches up Master.mgmt) ∧ (2 ≠ 0) ∧ (mayWrite Master.mgmt (decodeAddr 32).1 (decodeAddr 32).2.2 = true) ∧ (accessShape 32 2
      (decodeAddr 32).1 (decodeAddr 32).2.2 = Shape.narrow) ∧ ((regGet up false (decodeAddr 32).1 (decodeAddr 32).2.1 (decodeAddr
      32).2.2).isSome = true) ∧ (noNarrow (decodeAddr 32).1 (decodeAddr 32).2.2 = true)) ∧
    ((Reaches up Master.mgmt) ∧ (4 ≠ 0) ∧ (mayWrite Master.mgmt (decodeAddr 3840).1 (decodeAddr 3840).2.2 = true) ∧ (accessShape
      3840 4 (decodeAddr 3840).1 (decodeAddr 3840).2.2 = Shape.word) ∧ (regGet up false (decodeAddr 3840).1 (decodeAddr 3840).2.1
      (decodeAddr 3840).2.2 = none)) ∧
    ((Reaches asleep0 Master.mgmt) ∧ (4 ≠ 0) ∧ (mayWrite Master.mgmt (decodeAddr 1048592).1 (decodeAddr 1048592).2.2 = true) ∧
      (accessShape 1048592 4 (decodeAddr 1048592).1 (decodeAddr 1048592).2.2 = Shape.word) ∧ ((regGet asleep0 false (decodeAddr
      1048592).1 (decodeAddr 1048592).2.1 (decodeAddr 1048592).2.2).isSome = true) ∧ (reflLive asleep0 (decodeAddr 1048592).1
      (decodeAddr 1048592).2.2 = none ∨ accOffset (decodeAddr 1048592).1 (decodeAddr 1048592).2.2 = true) ∧ (∃ d, regDomain
      (decodeAddr 1048592).1 (decodeAddr 1048592).2.2 = some d ∧ (domSt asleep0 d).state = 3)) ∧
    ((Reaches up Master.mgmt) ∧ (4 ≠ 0) ∧ (mayWrite Master.mgmt (decodeAddr 112).1 (decodeAddr 112).2.2 = true) ∧ (accessShape 112
      4 (decodeAddr 112).1 (decodeAddr 112).2.2 = Shape.word) ∧ ((regGet up false (decodeAddr 112).1 (decodeAddr 112).2.1
      (decodeAddr 112).2.2).isSome = true) ∧ (∀ (d : Nat), regDomain (decodeAddr 112).1 (decodeAddr 112).2.2 = some d → (domSt up
      d).state.toNat < 2)) ∧
    ((Reaches up Master.mgmt) ∧ (4 ≠ 0) ∧ (mayWrite Master.mgmt (decodeAddr 1048592).1 (decodeAddr 1048592).2.2 = true) ∧
      (accessShape 1048592 4 (decodeAddr 1048592).1 (decodeAddr 1048592).2.2 = Shape.word) ∧ ((regGet up false (decodeAddr
      1048592).1 (decodeAddr 1048592).2.1 (decodeAddr 1048592).2.2).isSome = true) ∧ (∀ (d : Nat), regDomain (decodeAddr 1048592).1
      (decodeAddr 1048592).2.2 = some d → (domSt up d).state.toNat < 2)) ∧
    ((Reaches up Master.jtag) ∧ (4 ≠ 0) ∧ (mayRead Master.jtag (decodeAddr 112).1 (decodeAddr 112).2.2 = false)) ∧
    ((Reaches up Master.mgmt) ∧ (12 ≠ 0) ∧ (mayRead Master.mgmt (decodeAddr 112).1 (decodeAddr 112).2.2 = true) ∧ (accessShape 112
      12 (decodeAddr 112).1 (decodeAddr 112).2.2 = Shape.width)) ∧
    ((Reaches up Master.mgmt) ∧ (4 ≠ 0) ∧ (mayRead Master.mgmt (decodeAddr 113).1 (decodeAddr 113).2.2 = true) ∧ (accessShape 113
      4 (decodeAddr 113).1 (decodeAddr 113).2.2 = Shape.unaligned)) ∧
    ((Reaches up Master.mgmt) ∧ (4 ≠ 0) ∧ (mayRead Master.mgmt (decodeAddr 3840).1 (decodeAddr 3840).2.2 = true) ∧ (accessShape
      3840 4 (decodeAddr 3840).1 (decodeAddr 3840).2.2 = Shape.word) ∧ (regGet up false (decodeAddr 3840).1 (decodeAddr 3840).2.1
      (decodeAddr 3840).2.2 = none)) ∧
    ((Reaches asleep0 Master.mgmt) ∧ (4 ≠ 0) ∧ (mayRead Master.mgmt (decodeAddr 1048592).1 (decodeAddr 1048592).2.2 = true) ∧
      (accessShape 1048592 4 (decodeAddr 1048592).1 (decodeAddr 1048592).2.2 = Shape.word) ∧ (∃ d, regDomain (decodeAddr 1048592).1
      (decodeAddr 1048592).2.2 = some d ∧ (domSt asleep0 d).state = 3) ∧ (reflLive asleep0 (decodeAddr 1048592).1 (decodeAddr
      1048592).2.2 = none ∨ accOffset (decodeAddr 1048592).1 (decodeAddr 1048592).2.2 = true) ∧ ((regGet asleep0 false (decodeAddr
      1048592).1 (decodeAddr 1048592).2.1 (decodeAddr 1048592).2.2).isSome = true)) ∧
    ((Reaches up Master.mgmt) ∧ (4 ≠ 0) ∧ (mayRead Master.mgmt (decodeAddr 112).1 (decodeAddr 112).2.2 = true) ∧ (accessShape 112
      4 (decodeAddr 112).1 (decodeAddr 112).2.2 = Shape.word) ∧ (∀ (d : Nat), regDomain (decodeAddr 112).1 (decodeAddr 112).2.2 =
      some d → (domSt up d).state.toNat < 2) ∧ ((regGet up false (decodeAddr 112).1 (decodeAddr 112).2.1 (decodeAddr
      112).2.2).isSome = true) ∧ ((decodeAddr 112).1 ≠ 1) ∧ ((decodeAddr 112).1 ≠ 6) ∧ (isPair (decodeAddr 112).1 ((decodeAddr
      112).2.2 / 8 * 8) = false)) ∧
    ((Reaches up Master.mgmt) ∧ (4 ≠ 0) ∧ (mayRead Master.mgmt (decodeAddr 1048592).1 (decodeAddr 1048592).2.2 = true) ∧
      (accessShape 1048592 4 (decodeAddr 1048592).1 (decodeAddr 1048592).2.2 = Shape.word) ∧ (∀ (d : Nat), regDomain (decodeAddr
      1048592).1 (decodeAddr 1048592).2.2 = some d → (domSt up d).state.toNat < 2) ∧ ((regGet up false (decodeAddr 1048592).1
      (decodeAddr 1048592).2.1 (decodeAddr 1048592).2.2).isSome = true) ∧ ((decodeAddr 1048592).1 ≠ 1) ∧ ((decodeAddr 1048592).1 ≠
      6) ∧ (isPair (decodeAddr 1048592).1 ((decodeAddr 1048592).2.2 / 8 * 8) = false)) := by
  repeat' apply And.intro
  all_goals decide +kernel

theorem test_witness_PairsAreReadAndWrittenWhole :
    ((Reaches up Master.mgmt)) ∧
    ((Reaches latchRd Master.mgmt) ∧ ((pairLatch latchRd Master.mgmt 4).rd = some (latchTag 0 1040, 9))) ∧
    ((Reaches latchWr Master.mgmt) ∧ ((pairLatch latchWr Master.mgmt 4).wr = some (latchTag 0 1040, 9))) := by
  repeat' apply And.intro
  all_goals decide +kernel

theorem test_witness_StagedAndControlWritesAct :
    ((Reaches busyCommit Master.mgmt) ∧ (commitBusy busyCommit = true)) ∧
    ((Reaches up Master.mgmt) ∧ (commitBusy up = false) ∧ (up.regs.armed = false)) ∧
    ((Reaches armedSt Master.mgmt) ∧ (commitBusy armedSt = false) ∧ (armedSt.regs.armed = true) ∧ (3 &&& armedSt.regs.armMask ≠ 0)) ∧
    ((Reaches up Master.mgmt) ∧ (applyCommit up 16 = applyCommit up 16)) ∧
    ((Reaches foldPairSt Master.mgmt) ∧ (applyCommit foldPairSt 2 = applyCommit foldPairSt 2) ∧ (foldPair
      foldPairSt.home.foldStaged = true)) ∧
    ((Reaches armedSt Master.mgmt) ∧ (Running armedSt) ∧ (armedSt.regs.armed = true) ∧ (BitVec.toNat armedSt.regs.armTick ≤
      BitVec.toNat armedSt.now) ∧ (armedSt.regs.armSlot = none)) ∧
    ((Reaches up Master.mgmt) ∧ (Running up) ∧ (up.regs.armed = false ∨ BitVec.toNat up.now < BitVec.toNat up.regs.armTick)) ∧
    ((Reaches up Master.mgmt)) ∧
    ((Reaches sP1 Master.mgmt) ∧ ((domSt sP1 60).state.toNat < 2)) ∧
    ((Reaches up Master.mgmt) ∧ ((domSt up (32 + 1)).state.toNat < 2)) ∧
    ((Reaches up Master.mgmt) ∧ ((domSt up (40 + ringIx RingPort.ringE)).state.toNat < 2)) ∧
    ((Reaches up Master.mgmt) ∧ ((domSt up (44 + 1)).state.toNat < 2)) ∧
    ((Reaches up Master.mgmt) ∧ ((domSt up 1).state.toNat < 2)) ∧
    ((Reaches up Master.mgmt) ∧ (up.pwr.hint &&& ~~~1 = 0)) := by
  repeat' apply And.intro
  all_goals decide +kernel

theorem test_witness_CounterRegistersAreWritten :
    ((Reaches up Master.mgmt) ∧ (32 < 384) ∧ (∀ (d : Nat), regDomain 47 (8 * 32) = some d → (domSt up d).state.toNat < 2)) ∧
    ((Reaches up Master.mgmt) ∧ (11 < 12)) ∧
    ((Reaches up Master.mgmt)) := by
  repeat' apply And.intro
  all_goals decide +kernel

theorem test_witness_IndexedAndReadEffects :
    ((Reaches idxEnd Master.mgmt) ∧ (1024 ≤ BitVec.toNat (idxCh idxEnd 0).word) ∧ ((idxCh idxEnd 0).space = 16)) ∧
    ((Reaches idxHome Master.mgmt) ∧ (BitVec.toNat (idxCh idxHome 0).word < 1024) ∧ (BitVec.toNat (idxCh idxHome 0).word % 4 = 0)
      ∧ ((idxCh idxHome 0).space = 16)) ∧
    ((Reaches idxHome Master.mgmt) ∧ (BitVec.toNat (idxCh idxHome 0).word < 1024) ∧ ((idxCh idxHome 0).space = 16) ∧ (groupArmed
      idxHome 0 = false)) ∧
    ((Reaches idxArmed Master.mgmt) ∧ (BitVec.toNat (idxCh idxArmed 0).word < 1024) ∧ ((idxCh idxArmed 0).space = 16) ∧
      (groupArmed idxArmed 0 = true)) ∧
    ((Reaches up Master.mgmt)) := by
  repeat' apply And.intro
  all_goals decide +kernel

theorem test_witness_AccSumShowsTheFlaggedBlocks :
    ((Reaches up Master.mgmt)) ∧
    ((5 < 48)) := by
  repeat' apply And.intro
  all_goals decide +kernel

theorem test_witness_SmbusAndConfigurationRecords :
    ((Running up)) ∧
    ((Running up) ∧ (5 < 1024) ∧ (groupArmed up 0 = false)) ∧
    ((Running up) ∧ (headerLen (769 : Word) ≠ ([] : List Word).length)) ∧
    ((Running up) ∧ (recCmdCheck up (1 : Word) [] up.boot.ready = (0 : BitVec (8 : Nat))) ∧ (lciParse (BitVec.extractLsb' (0 :
      Nat) (8 : Nat) (1 : Word)) [] = some LciCmd.sysInfo)) ∧
    ((Running up) ∧ (commitBusy up = false) ∧ (up.regs.armed = false) ∧ ((applyCommit commitRec 3).regs.overlap = false) ∧
      ((applyCommit commitRec 3).regs.armedConflict = false)) ∧
    ((Running busyCommit) ∧ (commitBusy busyCommit = true)) ∧
    ((Running up) ∧ (0 < 40 ∧ 40 < 60 ∨ 1180 < 500)) := by
  repeat' apply And.intro
  all_goals decide +kernel

theorem test_witness_OperationsAndTicksGoOn :
    ((Running opLog) ∧ ((opSlot opLog 0).state = OpState.running) ∧ (LanternRuns opLog) ∧ ((opSlot opLog 0).job = Job.log [1, 2] 0
      5 6) ∧ (BitVec.toNat (opSlot opLog 0).progress + 1 < [1, 2].length) ∧ (BitVec.toNat (opSlot opLog 0).progress + 1 < 2 ^ 32)) ∧
    ((Running opLogEnd) ∧ ((opSlot opLogEnd 0).state = OpState.running) ∧ (LanternRuns opLogEnd) ∧ ((opSlot opLogEnd 0).job =
      Job.log [1, 2] 0 5 6) ∧ (BitVec.toNat (opSlot opLogEnd 0).progress + 1 = [1, 2].length) ∧ (BitVec.toNat (opSlot opLogEnd
      0).progress + 1 < 2 ^ 32)) ∧
    ((Running opCommit) ∧ ((opSlot opCommit 0).state = OpState.running) ∧ (LanternRuns opCommit) ∧ ((opSlot opCommit 0).job =
      Job.commitAt 3 1 5 [] [9]) ∧ (1 < 5)) ∧
    ((Running opCommit) ∧ ((opSlot opCommit 0).state = OpState.running) ∧ ((opSlot opCommit 0).job = Job.commitAt 3 1 5 [] [9])) ∧
    ((Running opSave) ∧ ((opSlot opSave 0).state = OpState.running) ∧ ((opSlot opSave 0).job = Job.save 1 [] [7, 8] none 9 0 none)) ∧
    ((Running lanternHalted) ∧ (engineRuns lanternHalted 62 = false)) := by
  repeat' apply And.intro
  all_goals decide +kernel

theorem test_witness_CountersSamplesAndDumps :
    ((Running cntFull) ∧ (32 < 384) ∧ (3 ≠ 0) ∧ (cntFull.ctrs.mode.getLsbD 32 = false) ∧ (cntFull.ctrs.smp = []) ∧ (2 ^ 48 ≤ (tget
      cnt0 cntFull.ctrs.fixed 32).count.toNat + 3)) ∧
    ((Running up) ∧ ((tget cnt0 up.ctrs.fixed 32).count.toNat + 3 < 2 ^ 48)) ∧
    ((Running smpFull) ∧ ((smpSt smpFull 2).en = true) ∧ (2 ^ 48 ≤ (smpSt smpFull 2).count.toNat + 3)) ∧
    ((Running smpHeld) ∧ ((smpSt smpHeld 2).en = true) ∧ (2 ^ 48 ≤ (smpSt smpHeld 2).count.toNat + 3)) ∧
    ((Running smpArmed) ∧ ((smpSt smpArmed 2).armed = true) ∧ ((smpSt smpArmed 2).recValid = false) ∧ ((smpSt smpArmed 2).pfilt =
      false ∨ 3 = (smpSt smpArmed 2).part) ∧ (9 ≤ 32)) ∧
    ((Running up) ∧ (up.ctrs.dump.en = false ∨ BitVec.toNat up.now < BitVec.toNat up.ctrs.dump.nextTick)) ∧
    ((Running dumpFull) ∧ (dumpFull.ctrs.dump.en = true) ∧ (BitVec.toNat dumpFull.ctrs.dump.nextTick ≤ BitVec.toNat dumpFull.now)
      ∧ (dumpFull.ctrs.dump.next = dumpFull.ctrs.dump.done ∨ true = false)) ∧
    ((Running dumpDue) ∧ (dumpDue.ctrs.dump.en = true) ∧ (BitVec.toNat dumpDue.ctrs.dump.nextTick ≤ BitVec.toNat dumpDue.now) ∧
      (dumpDue.ctrs.dump.next ≠ dumpDue.ctrs.dump.done) ∧ (true = true)) := by
  repeat' apply And.intro
  all_goals decide +kernel

theorem test_witness_ThermalLadder :
    ((Running up) ∧ (asleep up (44 + 2) = false) ∧ (celsius 50 < 85)) ∧
    ((Running up) ∧ (asleep up (44 + 2) = false) ∧ (85 ≤ celsius 90)) ∧
    ((Running up) ∧ (asleep up (52 + if true = true then 1 else 0) = false) ∧ (celsius 83 < 100 ∨ 5 ≤ up.pwr.level.toNat)) ∧
    ((Running up) ∧ (asleep up (52 + if true = true then 1 else 0) = false) ∧ (celsius 90 < 100 ∨ 5 ≤ up.pwr.level.toNat)) ∧
    ((Running up) ∧ (asleep up (52 + if true = true then 1 else 0) = false) ∧ (celsius 70 < 100 ∨ 5 ≤ up.pwr.level.toNat)) ∧
    ((Running emergency) ∧ (emergency.pwr.emergency = true)) := by
  repeat' apply And.intro
  all_goals decide +kernel

theorem test_witness_ClocksAndDomains :
    ((Running up) ∧ (min (if (75 : Nat) * BitVec.toNat (100 : Word) < (100 : Nat) * BitVec.toNat (10 : Word) then (2200 : BitVec
      (12 : Nat)) else if (100 : Nat) * BitVec.toNat (10 : Word) < (10 : Nat) * BitVec.toNat (100 : Word) ∧ beamInSlice up (2 :
      SliceId) = false then (1600 : BitVec (12 : Nat)) else (2000 : BitVec (12 : Nat))).toNat (capMhz up.pwr.level) ≤ mhzOf up (2 :
      SliceId))) ∧
    ((Running up) ∧ (min (if (75 : Nat) * BitVec.toNat (100 : Word) < (100 : Nat) * BitVec.toNat (0 : Word) then (2200 : BitVec
      (12 : Nat)) else if (100 : Nat) * BitVec.toNat (0 : Word) < (10 : Nat) * BitVec.toNat (100 : Word) ∧ beamInSlice up (2 :
      SliceId) = false then (1600 : BitVec (12 : Nat)) else (2000 : BitVec (12 : Nat))).toNat (capMhz up.pwr.level) ≤ mhzOf up (2 :
      SliceId))) ∧
    ((Running slow2) ∧ (mhzOf slow2 (2 : SliceId) < min (if (75 : Nat) * BitVec.toNat (100 : Word) < (100 : Nat) * BitVec.toNat
      (90 : Word) then (2200 : BitVec (12 : Nat)) else if (100 : Nat) * BitVec.toNat (90 : Word) < (10 : Nat) * BitVec.toNat (100 :
      Word) ∧ beamInSlice slow2 (2 : SliceId) = false then (1600 : BitVec (12 : Nat)) else (2000 : BitVec (12 : Nat))).toNat
      (capMhz slow2.pwr.level))) ∧
    ((Running ramping) ∧ (tget 0 ramping.pwr.ramp 2 ≠ 0)) ∧
    ((Running up) ∧ (tget 0 up.pwr.ramp 2 = 0)) ∧
    ((Running up) ∧ (2 ≠ 61) ∧ (domWork up 2 = false) ∧ ((domSt up 2).state = 0) ∧ ((domSt up 2).entering = none)) ∧
    ((Running work32) ∧ (domWork work32 32 = true)) ∧
    ((Running entering60) ∧ ((domSt entering60 60).entering = some (2, 900000)) ∧ (domWork entering60 60 = false) ∧ (900000 + 500
      ≤ BitVec.toNat entering60.now) ∧ (nextEvent entering60 60 = none)) ∧
    ((Running entering32) ∧ ((domSt entering32 32).entering = some (2, 900000)) ∧ (domWork entering32 32 = true)) ∧
    ((Running alarmDue) ∧ ((domSt alarmDue 2).alarm = some 900000) ∧ ((domSt alarmDue 2).state.toNat = 2) ∧ ((domSt alarmDue
      2).entering = none) ∧ ((domSt alarmDue 2).waking = none) ∧ (900000 ≤ BitVec.toNat alarmDue.now)) ∧
    ((Running alarmLater) ∧ ((domSt alarmLater 2).alarm = some 2000000) ∧ (BitVec.toNat alarmLater.now < 2000000)) ∧
    ((Running wakingDue) ∧ ((domSt wakingDue 2).waking = some 900000) ∧ ((domSt wakingDue 2).state = 2) ∧ (900000 + 1500 ≤
      BitVec.toNat wakingDue.now) ∧ (true = true ∨ 16 ≤ 2)) ∧
    ((Running wakingNow) ∧ ((domSt wakingNow 2).waking = some 1000000) ∧ ((domSt wakingNow 2).state = 2) ∧ (BitVec.toNat
      wakingNow.now < 1000000 + 1500)) := by
  repeat' apply And.intro
  all_goals decide +kernel

theorem test_witness_MemoryChannelsAreServed :
    ((Running up)) ∧
    ((Running up) ∧ (((chanReads up 0).any fun r => r.beam && ddrBank up 0 (ddrCa up r.la) == 3) = false)) ∧
    ((Running chanBeam) ∧ (((chanReads chanBeam 0).any fun r => r.beam && ddrBank chanBeam 0 (ddrCa chanBeam r.la) == 0) = true) ∧
      (tget 0 (chanSt chanBeam 0).postponed 0 < 4)) ∧
    ((Running chanRaa) ∧ (0 < 32) ∧ (32 ≤ tget 0 (chanSt chanRaa 0).raa 3)) ∧
    ((Running up) ∧ (tget 0 (chanSt up 0).raa 3 < 32)) ∧
    ((Running up) ∧ (((hbmq up 3 2).any fun o => o.beam) = false)) ∧
    ((Running chanRetry) ∧ (chanServes chanRetry 0 = true) ∧ ((chanSt chanRetry 0).reissues < 3) ∧ ((chanSt chanRetry 0).retryWin
      = BitVec.toNat chanRetry.now / 1000000) ∧ ((chanSt chanRetry 0).retries < 15)) ∧
    ((Running chanReissued) ∧ (chanServes chanReissued 0 = true) ∧ (3 ≤ (chanSt chanReissued 0).reissues)) ∧
    ((Running up) ∧ (chanServes up 0 = false)) ∧
    ((Running up) ∧ ((chanSt up 0).retraining = false ∨ (chanSt up 0).returning = true ∨ engineRuns up 60 = false)) ∧
    ((Running chanTraining) ∧ ((chanSt chanTraining 0).retraining = true) ∧ ((chanSt chanTraining 0).returning = false) ∧
      (engineRuns chanTraining 60 = true)) ∧
    (((chanSt up 0).returning = false ∨ engineRuns up 60 = false)) ∧
    ((Running chanReturning) ∧ ((chanSt chanReturning 0).returning = true) ∧ (engineRuns chanReturning 60 = true)) := by
  repeat' apply And.intro
  all_goals decide +kernel

theorem test_witness_MemoryReadsAreAnswered :
    (((chanReads up 0)[0]? = none ∨ chanServes up 0 = false ∨ ∃ r, (chanReads up 0)[0]? = some r ∧ readTurn up 0 0 r = none)) ∧
    ((Running chanRead) ∧ ((chanReads chanRead 0)[0]? = some read0) ∧ (chanServes chanRead 0 = true) ∧ (readTurn chanRead 0 0
      read0 = some readY) ∧ ((read0.old.getD (ddrLine (readDone chanRead) read0.la)).psn = 0)) ∧
    ((Running chanPoison) ∧ ((chanReads chanPoison 0)[0]? = some read0) ∧ (chanServes chanPoison 0 = true) ∧ (readTurn chanPoison
      0 0 read0 = some readY) ∧ ((read0.old.getD (ddrLine (readDone chanPoison) read0.la)).psn ≠ 0)) ∧
    ((Running tracked) ∧ (BitVec.toNat tracked.now < BitVec.toNat tracked.pwr.trackAt)) ∧
    ((Running up) ∧ (BitVec.toNat up.pwr.trackAt ≤ BitVec.toNat up.now)) ∧
    ((Running up) ∧ ((chanSt up 0).scrubEn = false ∨ chanServes up 0 = false ∨ BitVec.toNat up.now < tget 0 up.pwr.scrubAt 0)) ∧
    ((Running chanScrub) ∧ ((chanSt chanScrub 0).scrubEn = true) ∧ (chanServes chanScrub 0 = true) ∧ (tget 0 chanScrub.pwr.scrubAt
      0 ≤ BitVec.toNat chanScrub.now) ∧ ((chanSt chanScrub 0).scrubCa + 4096 < chanLines chanScrub)) := by
  repeat' apply And.intro
  all_goals decide +kernel

theorem test_witness_EnginesStopAndHalt :
    ((Running up)) ∧
    ((Running engineDead) ∧ ((engineSt engineDead 3).dead = true ∨ engineUp engineDead 3 = false)) ∧
    ((Running up) ∧ ((engineSt up 3).dead = false) ∧ (engineUp up 3 = true) ∧ (3 < 62) ∧ (stopsAgain up 3 = false)) ∧
    ((Running up) ∧ ((engineSt up 62).dead = false) ∧ (engineUp up 62 = true) ∧ (62 ≤ 62) ∧ (stopsAgain up 62 = false) ∧
      (runningOps up = [])) ∧
    ((Running up) ∧ ((engineSt up 62).dead = false) ∧ (engineUp up 62 = true) ∧ (62 ≤ 62)) := by
  repeat' apply And.intro
  all_goals decide +kernel

theorem test_witness_PortLinksComeUp :
    ((Running sNew) ∧ ((portSt sNew 1).ltssm = Ltssm.detect ∨ (portSt sNew 1).ltssm = Ltssm.polling ∨ (portSt sNew 1).ltssm =
      Ltssm.configuration) ∧ (mayTrain (portSt sNew 1) = true) ∧ (rateAllowed (portSt sNew 1).maxrate 0 = true) ∧ (false = false ∨
      (portSt sNew 1).x8ok = true)) ∧
    ((Running sPolling) ∧ ((portSt sPolling 1).ltssm = Ltssm.detect ∨ (portSt sPolling 1).ltssm = Ltssm.polling ∨ (portSt sPolling
      1).ltssm = Ltssm.configuration) ∧ (mayTrain (portSt sPolling 1) = true) ∧ (rateAllowed (portSt sPolling 1).maxrate 0 = true)
      ∧ (true = false ∨ (portSt sPolling 1).x8ok = true)) ∧
    ((Running up) ∧ (mayTrain (portSt up 1) = false)) ∧
    ((Running sNew) ∧ ((portSt sNew 1).ltssm = Ltssm.detect) ∧ (mayTrain (portSt sNew 1) = true)) ∧
    ((Running sPolling) ∧ ((portSt sPolling 1).ltssm = Ltssm.polling)) ∧
    ((Running sPolling) ∧ ((portSt sPolling 1).ltssm = Ltssm.polling ∨ (portSt sPolling 1).ltssm = Ltssm.configuration)) ∧
    ((Running sRecovery) ∧ ((portSt sRecovery 1).ltssm = Ltssm.recovery) ∧ ((portSt sRecovery 1).unacked = [])) ∧
    ((Running sPort) ∧ ((portSt sPort 1).ltssm = Ltssm.l0) ∧ ((portSt sPort 1).recoveries = [])) ∧
    ((Running sL0) ∧ ((portSt sL0 1).ltssm = Ltssm.l0) ∧ ((portSt sL0 1).initDone = false) ∧ (2 ≠ 1 ∨ false = true ∨ 8 < 8)) ∧
    ((Running sL0) ∧ ((portSt sL0 1).ltssm = Ltssm.l0) ∧ ((portSt sL0 1).initDone = false) ∧ (1 ≠ 1 ∨ true = true ∨ 8 < 8)) ∧
    ((Running sL0) ∧ ((portSt sL0 1).ltssm = Ltssm.l0) ∧ ((portSt sL0 1).initDone = false) ∧ (1 ≠ 1 ∨ false = true ∨ 3 < 8)) ∧
    ((Running sL0early) ∧ ((portSt sL0early 1).ltssm = Ltssm.l0) ∧ ((portSt sL0early 1).initDone = false) ∧ (1 = 1) ∧ (false =
      false) ∧ (8 ≤ 8) ∧ (sL0early.boot.ready = false)) ∧
    ((Running sL0) ∧ ((portSt sL0 1).ltssm = Ltssm.l0) ∧ ((portSt sL0 1).initDone = false) ∧ (1 = 1) ∧ (false = false) ∧ (8 ≤ 8) ∧
      (sL0.boot.ready = true) ∧ ((portSt sL0 1).returning = none)) := by
  repeat' apply And.intro
  all_goals decide +kernel

theorem test_witness_FlitsAreRetried :
    ((Running sNew) ∧ ((portSt sNew 1).ltssm ≠ Ltssm.l0)) ∧
    ((Running sNaked) ∧ ((portSt sNaked 1).ltssm = Ltssm.l0) ∧ (flitGood flitBad = false) ∧ ((portSt sNaked 1).nakSent = true)) ∧
    ((Running sPort) ∧ ((portSt sPort 1).ltssm = Ltssm.l0) ∧ (flitGood flitBad = false) ∧ ((portSt sPort 1).nakSent = false)) ∧
    ((Running sPort) ∧ ((portSt sPort 1).ltssm = Ltssm.l0) ∧ (flitGood flitOk = true) ∧ (BitVec.extractLsb' 12 3 flitOk.hdr = 0) ∧
      (BitVec.extractLsb' 0 12 flitOk.hdr = (portSt sPort 1).rxNext) ∧ ((portSt sPort 1).initDone = true) ∧ (BitVec.extractLsb' 16
      32 flitOk.hdr = 0) ∧ (BitVec.extractLsb' 0 64 flitOk.trailer = 0) ∧ ((portSt sPort 1).part = none) ∧ ((portSt sPort
      1).probeHold = [])) ∧
    ((Running sPort) ∧ (flitDue sPort (portSt sPort 1) = false)) ∧
    ((Running sUnacked) ∧ ((portSt sUnacked 1).ltssm = Ltssm.l0) ∧ (flitDue sUnacked (portSt sUnacked 1) = true) ∧ ((portSt
      sUnacked 1).replays < max 1 (portSt sUnacked 1).replayMax.toNat)) := by
  repeat' apply And.intro
  all_goals decide +kernel

theorem test_witness_PortsGoDownAndRetire :
    ((Running sNew) ∧ ((portSt sNew 1).ltssm ≠ Ltssm.l0) ∧ ((portSt sNew 1).ltssm ≠ Ltssm.recovery)) ∧
    ((Running sPort) ∧ ((portSt sPort 1).ltssm = Ltssm.l0 ∨ (portSt sPort 1).ltssm = Ltssm.recovery) ∧ (probesOf sPort 1 = []) ∧
      ((portSt sPort 1).probeHold = [])) ∧
    ((Running sDown) ∧ ((portSt sDown 1).down = true) ∧ (pfOfPort sDown 1 = []) ∧ ((portSt sDown 1).retire = none)) ∧
    ((Running sPort) ∧ ((portSt sPort 1).down = false ∨ pfOfPort sPort 1 ≠ [])) ∧
    ((Running sPurge) ∧ ((portSt sPurge 1).down = false ∨ pfOfPort sPurge 1 ≠ [])) ∧
    ((Running sRetireDue) ∧ ((portSt sRetireDue 1).retire = some retire0) ∧ (retire0.probing = true) ∧ (BitVec.toNat retire0.since
      + 10000000 ≤ BitVec.toNat sRetireDue.now) ∧ (retire0.slot = none) ∧ ((portSt sRetireDue 1).open_ = []) ∧ ((portSt sRetireDue
      1).down = false) ∧ (pfOfPort sRetireDue 1 = []) ∧ (probesOf sRetireDue 1 = []) ∧ ((portSt sRetireDue 1).probeHold = []) ∧
      ((portSt sRetireDue 1).cmpHold = [])) ∧
    ((Running sRetireNew) ∧ ((portSt sRetireNew 1).retire = some retire0) ∧ (retire0.probing = false ∨ BitVec.toNat sRetireNew.now
      < BitVec.toNat retire0.since + 10000000)) ∧
    ((Running sRingReturning) ∧ (ringPortOf 8 = some RingPort.ringE) ∧ ((ringPort sRingReturning RingPort.ringE).returning = some
      (0, 0)) ∧ ((ringPort sRingReturning RingPort.ringE).state = RpState.training) ∧ (0 + 100000000 ≤ BitVec.toNat
      sRingReturning.now)) ∧
    ((Running sReturning) ∧ (BitVec.toNat (1 : BitVec (4 : Nat)) < (8 : Nat)) ∧ ((portSt sReturning (BitVec.setWidth (3 : Nat) (1
      : BitVec (4 : Nat)))).returning = some ((0 : SlotRef), (0 : Tick))) ∧ ((portSt sReturning (BitVec.setWidth (3 : Nat) (1 :
      BitVec (4 : Nat)))).ltssm = Ltssm.detect) ∧ (BitVec.toNat (0 : Tick) + (100000000 : Nat) ≤ BitVec.toNat sReturning.now)) ∧
    ((Running up) ∧ (BitVec.toNat (1 : BitVec (4 : Nat)) < (8 : Nat)) ∧ ((portSt up (BitVec.setWidth (3 : Nat) (1 : BitVec (4 :
      Nat)))).returning = none)) ∧
    ((Running sDown) ∧ ((portSt sDown 1).purge.isSome = true) ∧ (List.find? (fun e => e.1 / 32768 == 0) (pfOfPort sDown 1) = none)) ∧
    ((Running sPurge) ∧ ((portSt sPurge 1).purge.isSome = true) ∧ (List.find? (fun e => e.1 / 32768 == 0) (pfOfPort sPurge 1) =
      some filter0)) := by
  repeat' apply And.intro
  all_goals decide +kernel

theorem test_witness_PortsDecodeRequests :
    ((Running sDown) ∧ ((portSt sDown 1).down = true)) ∧
    ((Running sTagOpen) ∧ ((portSt sTagOpen 1).down = false) ∧ (usesTag PcpOp.rdSh = true) ∧ (tagOpen sTagOpen 1 h0.ptag = true)) ∧
    ((Running sRetiring) ∧ ((portSt sRetiring 1).down = false) ∧ (usesTag PcpOp.rdSh = true) ∧ (tagOpen sRetiring 1 h0.ptag =
      false) ∧ ((portSt sRetiring 1).retiring = true ∨ sRetiring.ctrlOut = true)) ∧
    ((Running sWindow) ∧ ((portSt sWindow 1).down = false) ∧ (¬(usesTag PcpOp.rdSh = true ∧ tagOpen sWindow 1 hDb.ptag = true) ∧
      ¬(((portSt sWindow 1).retiring = true ∨ sWindow.ctrlOut = true) ∧ usesTag PcpOp.rdSh = true)) ∧ (inWindow35 (portSt sWindow
      1) hDb.addr = true) ∧ (PcpOp.rdSh ≠ PcpOp.rdNc) ∧ (PcpOp.rdSh ≠ PcpOp.wrNc)) ∧
    ((Running sWindow) ∧ ((portSt sWindow 1).down = false) ∧ (¬(usesTag PcpOp.rdNc = true ∧ tagOpen sWindow 1 hDb.ptag = true) ∧
      ¬(((portSt sWindow 1).retiring = true ∨ sWindow.ctrlOut = true) ∧ usesTag PcpOp.rdNc = true)) ∧ (inWindow35 (portSt sWindow
      1) hDb.addr = true) ∧ (PcpOp.rdNc = PcpOp.rdNc ∨ PcpOp.rdNc = PcpOp.wrNc)) ∧
    ((Running sWindow) ∧ ((portSt sWindow 1).down = false) ∧ (¬(usesTag PcpOp.rdNc = true ∧ tagOpen sWindow 1 hDbBad.ptag = true)
      ∧ ¬(((portSt sWindow 1).retiring = true ∨ sWindow.ctrlOut = true) ∧ usesTag PcpOp.rdNc = true)) ∧ (inWindow35 (portSt sWindow
      1) hDbBad.addr = true) ∧ (PcpOp.rdNc = PcpOp.rdNc ∨ PcpOp.rdNc = PcpOp.wrNc)) ∧
    ((Running sMapped) ∧ ((portSt sMapped 1).down = false) ∧ (¬(usesTag PcpOp.rdNc = true ∧ tagOpen sMapped 1 hBad.ptag = true) ∧
      ¬(((portSt sMapped 1).retiring = true ∨ sMapped.ctrlOut = true) ∧ usesTag PcpOp.rdNc = true)) ∧ (inWindow35 (portSt sMapped
      1) hBad.addr = false) ∧ (fieldsBad PcpOp.rdNc hBad = true)) ∧
    ((Running sUnmapped) ∧ ((portSt sUnmapped 1).down = false) ∧ ((¬(usesTag PcpOp.rdSh = true ∧ tagOpen sUnmapped 1 h0.ptag =
      true) ∧ ¬(((portSt sUnmapped 1).retiring = true ∨ sUnmapped.ctrlOut = true) ∧ usesTag PcpOp.rdSh = true)) ∧ inWindow35
      (portSt sUnmapped 1) h0.addr = false ∧ fieldsBad PcpOp.rdSh h0 = false) ∧ ((tget stream0 (portSt sUnmapped 1).stream
      h0.stream.toNat).getLsbD 6 = false)) ∧
    ((Running sAbsent) ∧ ((portSt sAbsent 1).down = false) ∧ ((¬(usesTag PcpOp.rdSh = true ∧ tagOpen sAbsent 1 h0.ptag = true) ∧
      ¬(((portSt sAbsent 1).retiring = true ∨ sAbsent.ctrlOut = true) ∧ usesTag PcpOp.rdSh = true)) ∧ inWindow35 (portSt sAbsent 1)
      h0.addr = false ∧ fieldsBad PcpOp.rdSh h0 = false) ∧ ((tget stream0 (portSt sAbsent 1).stream h0.stream.toNat).getLsbD 6 =
      true) ∧ ((partSt sAbsent (BitVec.extractLsb' 0 6 (tget stream0 (portSt sAbsent 1).stream h0.stream.toNat))).state = 0)) ∧
    ((Running sRestoring) ∧ ((portSt sRestoring 1).down = false) ∧ ((¬(usesTag PcpOp.rdSh = true ∧ tagOpen sRestoring 1 h0.ptag =
      true) ∧ ¬(((portSt sRestoring 1).retiring = true ∨ sRestoring.ctrlOut = true) ∧ usesTag PcpOp.rdSh = true)) ∧ inWindow35
      (portSt sRestoring 1) h0.addr = false ∧ fieldsBad PcpOp.rdSh h0 = false) ∧ ((tget stream0 (portSt sRestoring 1).stream
      h0.stream.toNat).getLsbD 6 = true) ∧ ((partSt sRestoring (BitVec.extractLsb' 0 6 (tget stream0 (portSt sRestoring 1).stream
      h0.stream.toNat))).state = 7)) ∧
    ((Running sQuiesced) ∧ ((portSt sQuiesced 1).down = false) ∧ ((¬(usesTag PcpOp.rdEx = true ∧ tagOpen sQuiesced 1 h0.ptag =
      true) ∧ ¬(((portSt sQuiesced 1).retiring = true ∨ sQuiesced.ctrlOut = true) ∧ usesTag PcpOp.rdEx = true)) ∧ inWindow35
      (portSt sQuiesced 1) h0.addr = false ∧ fieldsBad PcpOp.rdEx h0 = false) ∧ ((tget stream0 (portSt sQuiesced 1).stream
      h0.stream.toNat).getLsbD 6 = true) ∧ ((partSt sQuiesced (BitVec.extractLsb' 0 6 (tget stream0 (portSt sQuiesced 1).stream
      h0.stream.toNat))).state = 2 ∨ (partSt sQuiesced (BitVec.extractLsb' 0 6 (tget stream0 (portSt sQuiesced 1).stream
      h0.stream.toNat))).state = 3 ∨ (partSt sQuiesced (BitVec.extractLsb' 0 6 (tget stream0 (portSt sQuiesced 1).stream
      h0.stream.toNat))).state = 4) ∧ (quiesceServes sQuiesced 1 (BitVec.extractLsb' 0 6 (tget stream0 (portSt sQuiesced 1).stream
      h0.stream.toNat)) PcpOp.rdEx h0.stream = false)) ∧
    ((Running sMapped) ∧ ((portSt sMapped 1).down = false) ∧ ((¬(usesTag PcpOp.rdSh = true ∧ tagOpen sMapped 1 h0.ptag = true) ∧
      ¬(((portSt sMapped 1).retiring = true ∨ sMapped.ctrlOut = true) ∧ usesTag PcpOp.rdSh = true)) ∧ inWindow35 (portSt sMapped 1)
      h0.addr = false ∧ fieldsBad PcpOp.rdSh h0 = false) ∧ ((tget stream0 (portSt sMapped 1).stream h0.stream.toNat).getLsbD 6 =
      true) ∧ ((partSt sMapped (BitVec.extractLsb' 0 6 (tget stream0 (portSt sMapped 1).stream h0.stream.toNat))).state ≠ 0) ∧
      ((partSt sMapped (BitVec.extractLsb' 0 6 (tget stream0 (portSt sMapped 1).stream h0.stream.toNat))).state ≠ 7) ∧ ((partSt
      sMapped (BitVec.extractLsb' 0 6 (tget stream0 (portSt sMapped 1).stream h0.stream.toNat))).state ≠ 2 ∧ (partSt sMapped
      (BitVec.extractLsb' 0 6 (tget stream0 (portSt sMapped 1).stream h0.stream.toNat))).state ≠ 3 ∧ (partSt sMapped
      (BitVec.extractLsb' 0 6 (tget stream0 (portSt sMapped 1).stream h0.stream.toNat))).state ≠ 4 ∨ quiesceServes sMapped 1
      (BitVec.extractLsb' 0 6 (tget stream0 (portSt sMapped 1).stream h0.stream.toNat)) PcpOp.rdSh h0.stream = true) ∧ ((portSt
      sMapped 1).rxq = []) ∧ (fabricUsed sMapped 1 < 128)) ∧
    ((Running sMapped) ∧ ((portSt sMapped 1).down = false) ∧ ((¬(usesTag PcpOp.wbD = true ∧ tagOpen sMapped 1 h0.ptag = true) ∧
      ¬(((portSt sMapped 1).retiring = true ∨ sMapped.ctrlOut = true) ∧ usesTag PcpOp.wbD = true)) ∧ inWindow35 (portSt sMapped 1)
      h0.addr = false ∧ fieldsBad PcpOp.wbD h0 = false) ∧ ((tget stream0 (portSt sMapped 1).stream h0.stream.toNat).getLsbD 6 =
      true) ∧ ((partSt sMapped (BitVec.extractLsb' 0 6 (tget stream0 (portSt sMapped 1).stream h0.stream.toNat))).state ≠ 0) ∧
      ((partSt sMapped (BitVec.extractLsb' 0 6 (tget stream0 (portSt sMapped 1).stream h0.stream.toNat))).state ≠ 7) ∧ ((partSt
      sMapped (BitVec.extractLsb' 0 6 (tget stream0 (portSt sMapped 1).stream h0.stream.toNat))).state ≠ 2 ∧ (partSt sMapped
      (BitVec.extractLsb' 0 6 (tget stream0 (portSt sMapped 1).stream h0.stream.toNat))).state ≠ 3 ∧ (partSt sMapped
      (BitVec.extractLsb' 0 6 (tget stream0 (portSt sMapped 1).stream h0.stream.toNat))).state ≠ 4 ∨ quiesceServes sMapped 1
      (BitVec.extractLsb' 0 6 (tget stream0 (portSt sMapped 1).stream h0.stream.toNat)) PcpOp.wbD h0.stream = true) ∧ ((portSt
      sMapped 1).rxq = []) ∧ (fabricUsed sMapped 1 < 128)) ∧
    ((Running sFull) ∧ ((portSt sFull 1).down = false) ∧ ((¬(usesTag PcpOp.rdSh = true ∧ tagOpen sFull 1 h0.ptag = true) ∧
      ¬(((portSt sFull 1).retiring = true ∨ sFull.ctrlOut = true) ∧ usesTag PcpOp.rdSh = true)) ∧ inWindow35 (portSt sFull 1)
      h0.addr = false ∧ fieldsBad PcpOp.rdSh h0 = false) ∧ ((tget stream0 (portSt sFull 1).stream h0.stream.toNat).getLsbD 6 =
      true) ∧ ((partSt sFull (BitVec.extractLsb' 0 6 (tget stream0 (portSt sFull 1).stream h0.stream.toNat))).state ≠ 0) ∧ ((partSt
      sFull (BitVec.extractLsb' 0 6 (tget stream0 (portSt sFull 1).stream h0.stream.toNat))).state ≠ 7) ∧ ((partSt sFull
      (BitVec.extractLsb' 0 6 (tget stream0 (portSt sFull 1).stream h0.stream.toNat))).state ≠ 2 ∧ (partSt sFull
      (BitVec.extractLsb' 0 6 (tget stream0 (portSt sFull 1).stream h0.stream.toNat))).state ≠ 3 ∧ (partSt sFull
      (BitVec.extractLsb' 0 6 (tget stream0 (portSt sFull 1).stream h0.stream.toNat))).state ≠ 4 ∨ quiesceServes sFull 1
      (BitVec.extractLsb' 0 6 (tget stream0 (portSt sFull 1).stream h0.stream.toNat)) PcpOp.rdSh h0.stream = true) ∧ ((portSt sFull
      1).rxq ≠ [] ∨ 128 ≤ fabricUsed sFull 1)) := by
  repeat' apply And.intro
  all_goals decide +kernel

theorem test_witness_DoorbellsAreAnswered :
    ((Running sWindow) ∧ ((portSt sWindow 1).down = false) ∧ (tagOpen sWindow 1 hDb.ptag = false) ∧ ((portSt sWindow 1).retiring =
      false) ∧ (sWindow.ctrlOut = false) ∧ (inWindow35 (portSt sWindow 1) hDb.addr = true) ∧ ((tget stream0 (portSt sWindow
      1).stream hDb.stream.toNat).getLsbD 6 = true ∧ BitVec.extractLsb' 0 6 (tget stream0 (portSt sWindow 1).stream
      hDb.stream.toNat) = BitVec.extractLsb' 12 6 hDb.addr ∧ (partSt sWindow (BitVec.extractLsb' 12 6 hDb.addr)).state ≠ 0) ∧
      (dbShape PcpOp.rdNc hDb = some (0, 4))) ∧
    ((Running sWindow) ∧ ((portSt sWindow 1).down = false) ∧ (tagOpen sWindow 1 hDbOther.ptag = false) ∧ ((portSt sWindow
      1).retiring = false) ∧ (sWindow.ctrlOut = false) ∧ (inWindow35 (portSt sWindow 1) hDbOther.addr = true) ∧ (¬((tget stream0
      (portSt sWindow 1).stream hDbOther.stream.toNat).getLsbD 6 = true ∧ BitVec.extractLsb' 0 6 (tget stream0 (portSt sWindow
      1).stream hDbOther.stream.toNat) = BitVec.extractLsb' 12 6 hDbOther.addr ∧ (partSt sWindow (BitVec.extractLsb' 12 6
      hDbOther.addr)).state ≠ 0)) ∧ (dbShape PcpOp.rdNc hDbOther = some (0, 4))) ∧
    ((Running sWindow) ∧ ((portSt sWindow 1).down = false) ∧ (tagOpen sWindow 1 hDbBad.ptag = false) ∧ ((portSt sWindow
      1).retiring = false) ∧ (sWindow.ctrlOut = false) ∧ (inWindow35 (portSt sWindow 1) hDbBad.addr = true) ∧ (dbShape PcpOp.rdNc
      hDbBad = none)) ∧
    ((Running sWindow) ∧ ((portSt sWindow 1).down = false) ∧ (tagOpen sWindow 1 hDbOther.ptag = false) ∧ ((portSt sWindow
      1).retiring = false) ∧ (sWindow.ctrlOut = false) ∧ (inWindow35 (portSt sWindow 1) hDbOther.addr = true) ∧ (¬((tget stream0
      (portSt sWindow 1).stream hDbOther.stream.toNat).getLsbD 6 = true ∧ BitVec.extractLsb' 0 6 (tget stream0 (portSt sWindow
      1).stream hDbOther.stream.toNat) = BitVec.extractLsb' 12 6 hDbOther.addr ∧ (partSt sWindow (BitVec.extractLsb' 12 6
      hDbOther.addr)).state ≠ 0) ∨ dbShape PcpOp.wrNc hDbOther = none)) ∧
    ((Running sWindow) ∧ ((portSt sWindow 1).down = false) ∧ (tagOpen sWindow 1 hDbWrBad.ptag = false) ∧ ((portSt sWindow
      1).retiring = false) ∧ (sWindow.ctrlOut = false) ∧ (inWindow35 (portSt sWindow 1) hDbWrBad.addr = true) ∧ (¬((tget stream0
      (portSt sWindow 1).stream hDbWrBad.stream.toNat).getLsbD 6 = true ∧ BitVec.extractLsb' 0 6 (tget stream0 (portSt sWindow
      1).stream hDbWrBad.stream.toNat) = BitVec.extractLsb' 12 6 hDbWrBad.addr ∧ (partSt sWindow (BitVec.extractLsb' 12 6
      hDbWrBad.addr)).state ≠ 0) ∨ dbShape PcpOp.wrNc hDbWrBad = none)) ∧
    ((Running sWindow) ∧ ((portSt sWindow 1).down = false) ∧ (tagOpen sWindow 1 hDbWr.ptag = false) ∧ ((portSt sWindow 1).retiring
      = false) ∧ (sWindow.ctrlOut = false) ∧ (inWindow35 (portSt sWindow 1) hDbWr.addr = true) ∧ ((tget stream0 (portSt sWindow
      1).stream hDbWr.stream.toNat).getLsbD 6 = true ∧ BitVec.extractLsb' 0 6 (tget stream0 (portSt sWindow 1).stream
      hDbWr.stream.toNat) = BitVec.extractLsb' 12 6 hDbWr.addr ∧ (partSt sWindow (BitVec.extractLsb' 12 6 hDbWr.addr)).state ≠ 0) ∧
      (dbShape PcpOp.wrNc hDbWr = some (0, 8)) ∧ (BitVec.toNat hDbWr.addr % 4096 / 128 * 128 + 0 < 2048)) ∧
    ((Running sRunning) ∧ ((portSt sRunning 1).down = false) ∧ (tagOpen sRunning 1 hRel.ptag = false) ∧ ((portSt sRunning
      1).retiring = false) ∧ (sRunning.ctrlOut = false) ∧ (inWindow35 (portSt sRunning 1) hRel.addr = true) ∧ ((tget stream0
      (portSt sRunning 1).stream hRel.stream.toNat).getLsbD 6 = true ∧ BitVec.extractLsb' 0 6 (tget stream0 (portSt sRunning
      1).stream hRel.stream.toNat) = BitVec.extractLsb' 12 6 hRel.addr ∧ (partSt sRunning (BitVec.extractLsb' 12 6
      hRel.addr)).state ≠ 0) ∧ (dbShape PcpOp.wrNc hRel = some (0, 8)) ∧ (2048 ≤ BitVec.toNat hRel.addr % 4096 / 128 * 128 + 0) ∧
      (8 = 8 ∧ (beamCtx sRunning (BitVec.ofNat 8 ((BitVec.toNat hRel.addr % 4096 / 128 * 128 + 0 - 2048) / 8))).state = 2 ∧
      (beamCtx sRunning (BitVec.ofNat 8 ((BitVec.toNat hRel.addr % 4096 / 128 * 128 + 0 - 2048) / 8))).part = BitVec.extractLsb' 12
      6 hRel.addr)) ∧
    ((Running sWindow) ∧ ((portSt sWindow 1).down = false) ∧ (tagOpen sWindow 1 hRel.ptag = false) ∧ ((portSt sWindow 1).retiring
      = false) ∧ (sWindow.ctrlOut = false) ∧ (inWindow35 (portSt sWindow 1) hRel.addr = true) ∧ ((tget stream0 (portSt sWindow
      1).stream hRel.stream.toNat).getLsbD 6 = true ∧ BitVec.extractLsb' 0 6 (tget stream0 (portSt sWindow 1).stream
      hRel.stream.toNat) = BitVec.extractLsb' 12 6 hRel.addr ∧ (partSt sWindow (BitVec.extractLsb' 12 6 hRel.addr)).state ≠ 0) ∧
      (dbShape PcpOp.wrNc hRel = some (0, 8)) ∧ (2048 ≤ BitVec.toNat hRel.addr % 4096 / 128 * 128 + 0) ∧ (¬(8 = 8 ∧ (beamCtx
      sWindow (BitVec.ofNat 8 ((BitVec.toNat hRel.addr % 4096 / 128 * 128 + 0 - 2048) / 8))).state = 2 ∧ (beamCtx sWindow
      (BitVec.ofNat 8 ((BitVec.toNat hRel.addr % 4096 / 128 * 128 + 0 - 2048) / 8))).part = BitVec.extractLsb' 12 6 hRel.addr))) := by
  repeat' apply And.intro
  all_goals decide +kernel

theorem test_witness_ProbesAreAnswered :
    ((Running sDown) ∧ ((portSt sDown 1).down = true)) ∧
    ((Running sPort) ∧ ((portSt sPort 1).down = false) ∧ (probeAt sPort 1 4 = none)) ∧
    ((Running sProbe) ∧ ((portSt sProbe 1).down = false) ∧ (probeAt sProbe 1 4 = some probe0) ∧ (probe0.laddr ≠ 8)) ∧
    ((Running sProbe) ∧ ((portSt sProbe 1).down = false) ∧ (probeAt sProbe 1 4 = some probe0) ∧ (probe0.laddr = 9) ∧ ((portSt
      (probeAnswer (putProbe sProbe 1 4 none) probe0 1 probe0.taken) 1).probeHold = []) ∧ ((portSt (probeAnswer (putProbe sProbe 1
      4 none) probe0 1 probe0.taken) 1).cmpHold = []) ∧ ((portSt (probeAnswer (putProbe sProbe 1 4 none) probe0 1 probe0.taken)
      1).retire = none)) := by
  repeat' apply And.intro
  all_goals decide +kernel

theorem test_witness_BeamRelClearsThePin :
    (((relReq true).op = PcpOp.beamRel) ∧ ((relReq true).src = ReqSrc.port 1) ∧ ((relReq true).dead = false) ∧ ((relReq true).cons
      = true) ∧ (pinned (touchHit linePin at0) at0 = true)) ∧
    (((relReq true).op = PcpOp.beamRel) ∧ ((relReq true).src = ReqSrc.port 1) ∧ ((relReq true).dead = false) ∧ ((relReq true).cons
      = true) ∧ (pinned (touchHit lineM at0) at0 = false)) ∧
    (((relReq false).op = PcpOp.beamRel) ∧ ((relReq false).src = ReqSrc.port 1) ∧ ((relReq false).dead = false) ∧ ((relReq
      false).cons = false)) := by
  repeat' apply And.intro
  all_goals decide +kernel

theorem test_witness_UpgWithoutHoldIsServedAsRdEx :
    (((req PcpOp.upg).op = PcpOp.upg) ∧ ((req PcpOp.upg).src = ReqSrc.port 1) ∧ ((pfGet (demote lineM at0) at0 (req
      PcpOp.upg).laddr).hold.getLsbD 1 = false ∨ stateHere (demote lineM at0) at0 = LState.X ∨ stateHere (demote lineM at0) at0 =
      LState.I ∨ findWay (demote lineM at0) at0 = none)) ∧
    (((req PcpOp.upg).op = PcpOp.upg) ∧ ((req PcpOp.upg).src = ReqSrc.port 1) ∧ ((pfGet (demote lineS at0) at0 (req
      PcpOp.upg).laddr).hold.getLsbD 1 = false ∨ stateHere (demote lineS at0) at0 = LState.X ∨ stateHere (demote lineS at0) at0 =
      LState.I ∨ findWay (demote lineS at0) at0 = none)) ∧
    (((req PcpOp.upg).op = PcpOp.upg) ∧ ((req PcpOp.upg).src = ReqSrc.port 1) ∧ ((pfGet (demote mapped at0) at0 (req
      PcpOp.upg).laddr).hold.getLsbD 1 = false ∨ stateHere (demote mapped at0) at0 = LState.X ∨ stateHere (demote mapped at0) at0 =
      LState.I ∨ findWay (demote mapped at0) at0 = none)) := by
  repeat' apply And.intro
  all_goals decide +kernel

theorem test_witness_StaleAndUnmappedEndHere :
    (((req PcpOp.wbD).src = ReqSrc.port 1) ∧ (probeOpen lineM 1 (req PcpOp.wbD).laddr = false) ∧ ((pfGet lineM at0 (req
      PcpOp.wbD).laddr).hold.getLsbD 1 = false)) ∧
    (((req PcpOp.rdSh).src = ReqSrc.port 1) ∧ (homeOf (countFor (readStages sMapped (place sMapped (req PcpOp.rdSh).laddr) (req
      PcpOp.rdSh).laddr) (evSlc 0 (place sMapped (req PcpOp.rdSh).laddr).sl) 1 (some (req PcpOp.rdSh).part)) (req PcpOp.rdSh).laddr
      = none) ∧ (usesTag (req PcpOp.rdSh).op = true) ∧ ((req PcpOp.rdSh).dead = false)) ∧
    (((reqDead PcpOp.rdSh).src = ReqSrc.port 1) ∧ (homeOf (countFor (readStages sMapped (place sMapped (reqDead PcpOp.rdSh).laddr)
      (reqDead PcpOp.rdSh).laddr) (evSlc 0 (place sMapped (reqDead PcpOp.rdSh).laddr).sl) 1 (some (reqDead PcpOp.rdSh).part))
      (reqDead PcpOp.rdSh).laddr = none) ∧ (usesTag (reqDead PcpOp.rdSh).op = true) ∧ ((reqDead PcpOp.rdSh).dead = true)) ∧
    (((req PcpOp.wbD).src = ReqSrc.port 1) ∧ (homeOf (countFor (readStages sMapped (place sMapped (req PcpOp.wbD).laddr) (req
      PcpOp.wbD).laddr) (evSlc 0 (place sMapped (req PcpOp.wbD).laddr).sl) 1 (some (req PcpOp.wbD).part)) (req PcpOp.wbD).laddr =
      none) ∧ (usesTag (req PcpOp.wbD).op = false)) := by
  repeat' apply And.intro
  all_goals decide +kernel

theorem test_witness_SlicesReplayAndHbmCompletes :
    ((Running mapped) ∧ (oldestReady mapped 0 = none)) ∧
    ((Running sWaiting) ∧ (oldestReady sWaiting 0 = some (0, waiting0)) ∧ (pipe (putMiss sWaiting 0 0 none) waiting0.req (some
      waiting0.serial) = PipeOut.passed (outSt (pipe (putMiss sWaiting 0 0 none) waiting0.req (some waiting0.serial)))) ∧
      (waiting0.behind = false)) ∧
    ((Running sFullTable) ∧ (oldestReady sFullTable 0 = some (0, waitRd)) ∧ (pipe (putMiss sFullTable 0 0 none) waitRd.req (some
      waitRd.serial) = PipeOut.stalled Short.missEntry)) ∧
    ((Running sStalled) ∧ ((sliceSt sStalled 0).stalled = [(1, req PcpOp.drop)]) ∧ (pipe sUnstalled (req .drop) none = .passed
      (outSt (pipe sUnstalled (req .drop) none)))) ∧
    ((Running mapped)) ∧
    ((Running sOwed) ∧ (poisonShort sOwed 0 = false) ∧ ((sliceSt sOwed 0).owedPoison = [owed0])) ∧
    ((Running sPenShort) ∧ (poisonShort sPenShort 0 = true)) ∧
    ((Running mapped) ∧ ((sliceSt mapped 0).owedPoison = []) ∧ ((sliceSt mapped 0).sinks = [])) ∧
    ((Running sWaitAlloc) ∧ (missAt sWaitAlloc 0 0 = some waitAlloc) ∧ (waitAlloc.kind = MKind.waiting) ∧ (waitAlloc.waitOn =
      WaitOn.alloc 0)) ∧
    ((Running mapped) ∧ (missAt mapped 0 0 = none)) ∧
    ((Running mapped) ∧ (wcPerform (wcClose mapped 0 0) 0 0 = PipeOut.passed (outSt (wcPerform (wcClose mapped 0 0) 0 0)))) ∧
    ((Running sWcFull) ∧ (wcPerform (wcClose sWcFull 0 0) 0 0 = PipeOut.stalled Short.missEntry) ∧ (wcAt (wcClose sWcFull 0 0) 0 0
      = some ((wcAt (wcClose sWcFull 0 0) 0 0).getD wc0))) ∧
    ((Running mapped) ∧ (nextSnoop (launchHeld mapped 0) 0 = none)) ∧
    ((Running sSnp) ∧ (nextSnoop (launchHeld sSnp 0) 0 = some waitSnp)) ∧
    ((Running mapped) ∧ ((hbmq mapped 0 0)[0]? = none)) ∧
    ((Running sHbmRd) ∧ ((hbmq sHbmRd 0 0)[0]? = some hbmRd) ∧ (hbmRd.write = false) ∧ (hbmTurn sHbmRd 0 0 0 = some (hbmY sHbmRd
      0)) ∧ (hbmRd.dest = HbmDest.deliv 1) ∧ (hbmRd.beam = false) ∧ ((hbmCheck (if true = true then trouble (hbmTake sHbmRd 0 0 0
      false (hbmY sHbmRd 0)) (blkHbm (0 / 8)) kHbmHbmOdecc else hbmTake sHbmRd 0 0 0 false (hbmY sHbmRd 0)) 0 hbmRd
      EccOutcome.none).1 = EccOutcome.none) ∧ ((tget hbmSide0 sHbmRd.mem.hbmSide (sideIx 0 hbmRd)).poison = false)) ∧
    ((Running sHbmRd) ∧ ((hbmq sHbmRd 0 0)[0]? = some hbmRd) ∧ (hbmRd.write = false) ∧ (hbmTurn sHbmRd 0 0 0 = some (hbmY sHbmRd
      0)) ∧ (hbmRd.dest = HbmDest.deliv 1) ∧ (hbmRd.beam = false) ∧ ((hbmCheck (if false = true then trouble (hbmTake sHbmRd 0 0 0
      false (hbmY sHbmRd 0)) (blkHbm (0 / 8)) kHbmHbmOdecc else hbmTake sHbmRd 0 0 0 false (hbmY sHbmRd 0)) 0 hbmRd
      EccOutcome.none).1 = EccOutcome.none) ∧ ((tget hbmSide0 sHbmRd.mem.hbmSide (sideIx 0 hbmRd)).poison = false)) ∧
    ((Running sHbmWr) ∧ ((hbmq sHbmWr 0 0)[0]? = some hbmWr) ∧ (hbmWr.write = true) ∧ (hbmTurn sHbmWr 0 0 0 = some (hbmY sHbmWr
      0)) ∧ (hbmWr.dest = HbmDest.none)) ∧
    ((Running sHbmTwo) ∧ ((hbmq sHbmTwo 0 0)[1]? = some hbmRd) ∧ (hbmTurn sHbmTwo 0 0 1 = none)) ∧
    ((Running sHbmRd) ∧ ((hbmq sHbmRd 0 0)[0]? = some hbmRd) ∧ (hbmRd.write = false)) := by
  repeat' apply And.intro
  all_goals decide +kernel

theorem test_witness_SliceTransactionsAdvance :
    ((Running mapped) ∧ ((sliceSt mapped 0).repairs = [])) ∧
    ((Running sRepairGone) ∧ ((sliceSt sRepairGone 0).repairs = [0]) ∧ (stateHere (repairOn sRepairGone) (place sRepairGone 0) =
      .I ∨ stateHere (repairOn sRepairGone) (place sRepairGone 0) = .X)) ∧
    ((Running sRepairShort) ∧ ((sliceSt sRepairShort 0).repairs = [0]) ∧ (stateHere (repairOn sRepairShort) (place sRepairShort 0)
      ≠ .I) ∧ (stateHere (repairOn sRepairShort) (place sRepairShort 0) ≠ .X) ∧ ((stateHere (repairOn sRepairShort) (place
      sRepairShort 0)).dirty = true ∨ (pfGet (repairOn sRepairShort) (place sRepairShort 0) 0).exh = true) ∧ (poisonShort (repairOn
      sRepairShort) (place sRepairShort 0).sl = true)) ∧
    ((Running sRepair) ∧ ((sliceSt sRepair 0).repairs = [0]) ∧ (stateHere (repairOn sRepair) (place sRepair 0) ≠ .I) ∧ (stateHere
      (repairOn sRepair) (place sRepair 0) ≠ .X) ∧ (¬ ((stateHere (repairOn sRepair) (place sRepair 0)).dirty = true ∨ (pfGet
      (repairOn sRepair) (place sRepair 0) 0).exh = true) ∨ poisonShort (repairOn sRepair) (place sRepair 0).sl = false)) ∧
    ((Running sGranted) ∧ (missAt sGranted 0 0 = some granted) ∧ (granted.kind = MKind.ring) ∧ (entryReady granted = true)) ∧
    ((Running sRing) ∧ (missAt sRing 0 0 = some ringE0) ∧ (entryReady ringE0 = false)) ∧
    ((Running sAtom) ∧ (missAt sAtom 0 0 = some atomE) ∧ (atomE.kind = MKind.bare) ∧ (atomE.noInstall = false) ∧ (atomE.performed
      = false) ∧ (atomE.req.op = PcpOp.atom) ∧ (atomE.req.hdr.keep = false) ∧ (atomE.fillV.getLsbD (critOf
      atomE.req.hdr.addr).toNat = true) ∧ (findWay sAtom (place sAtom atomE.req.laddr) = some 0) ∧ (atomE.owesCmp = false) ∧
      (chunkPsn atomE.fill (critOf atomE.req.hdr.addr).toNat = false) ∧ (atomE.poisoned = false)) ∧
    ((Running mapped) ∧ (missAt mapped 0 0 = none)) ∧
    ((Running mapped) ∧ ((sliceSt mapped 0).clrBusy = false)) ∧
    ((Running sClearing) ∧ ((sliceSt sClearing 0).clrBusy = true)) := by
  repeat' apply And.intro
  all_goals decide +kernel

theorem test_witness_PenumbraBuffersAreWrittenBack :
    ((Running sPenHeld) ∧ (penAt sPenHeld 0 0 = some penHeld) ∧ (penHeld.mif = false)) ∧
    ((Running sPenMif) ∧ (penAt sPenMif 0 0 = some penMif) ∧ (penMif.mif = true)) ∧
    ((Running sPenHeld) ∧ (penAt sPenHeld 0 0 = some penHeld) ∧ (penMayWrite sPenHeld 0 penHeld = false)) ∧
    ((Running sPen) ∧ (penAt sPen 0 0 = some pen0) ∧ (penMayWrite sPen 0 pen0 = true) ∧ (pen0.resent = false) ∧ (pen0.poison =
      false)) := by
  repeat' apply And.intro
  all_goals decide +kernel

theorem test_witness_WalkersAdvance :
    ((Running sHalted) ∧ (engineRuns sHalted (40 + 0) = false)) ∧
    ((Running mapped) ∧ (engineRuns mapped (40 + 0) = true) ∧ (mapped.cache.drains = []) ∧ (mapped.cache.flushes = [])) ∧
    ((Running sFlush) ∧ (engineRuns sFlush (40 + 0) = true) ∧ (sFlush.cache.drains = []) ∧ (sFlush.cache.flushes = [flush0]) ∧
      (tget 0 flush0.pos 0 < 16384) ∧ ((flushStep sFlush 0 flush0).cache.drains = [])) ∧
    ((Running sDrain) ∧ (engineRuns sDrain (40 + 0) = true) ∧ (sDrain.cache.drains = [drain0]) ∧ (drain0.ended = false) ∧
      (drain0.cancels = []) ∧ (tget 0 drain0.pos 0 < 16384) ∧ (∀ e ∈ (drainStep sDrain 0 drain0).cache.drains, e.slot = none)) ∧
    ((Running mapped) ∧ (engineRuns mapped (40 + 0) = true) ∧ (foldOf mapped 0 = none)) ∧
    ((Running sFoldLine) ∧ (engineRuns sFoldLine (40 + 0) = true) ∧ (foldOf sFoldLine 0 = some fold0) ∧ (fold0.cursor.toNat <
      16384) ∧ (List.find? (fun k => (tagAt (readSet (tookWalker sFoldLine 0) 0 (BitVec.ofNat 14 fold0.cursor.toNat)) 0
      (BitVec.ofNat 14 fold0.cursor.toNat) k).sv) (foldWays fold0 0) = some 0)) ∧
    ((Running sFoldEmpty) ∧ (engineRuns sFoldEmpty (40 + 0) = true) ∧ (foldOf sFoldEmpty 0 = some fold0) ∧ (foldSetOk sFoldEmpty
      fold0 = true) ∧ (fold0.cursor.toNat + 1 < 16384) ∧ (fold0.held = []) ∧ (fold0.restage = []) ∧ (fold0.slot = none)) ∧
    ((Running mapped) ∧ (engineRuns mapped (40 + 0) = true)) ∧
    ((Running mapped) ∧ (engineRuns mapped (40 + 0) = true) ∧ (mapped.move = none)) ∧
    ((Running sMoveRead) ∧ (engineRuns sMoveRead (40 + 0) = true) ∧ (sMoveRead.move = some move0) ∧ (move0.action = 1) ∧
      (move0.stepNo = 3)) ∧
    ((Running sMoveSet) ∧ (engineRuns sMoveSet (40 + 0) = true) ∧ (sMoveSet.move = some move2) ∧ (move2.action ≠ 1)) ∧
    ((Running sDrainFull) ∧ (drainIn sDrainFull none = some drainFull) ∧ (drainFull.ended = false) ∧ (allPassed drainFull.pos =
      true) ∧ (flushOpen sDrainFull = false) ∧ (drainFull.slot = none)) ∧
    ((Running mapped) ∧ (drainIn mapped (if true = true then none else some 0) = none)) := by
  repeat' apply And.intro
  all_goals decide +kernel

theorem test_witness_PartitionsReachTheirStates :
    ((Running opQuiesce) ∧ ((jobSlot opQuiesce fun j => match j with | Job.quiesce q _ => q == 1 | _ => false) = some (0, opSlot
      opQuiesce 0)) ∧ ((opSlot opQuiesce 0).job = Job.quiesce 1 3) ∧ (quiesceOpen opQuiesce 1 = 0) ∧ ((partSt opQuiesce 1).state =
      2)) ∧
    ((Running up) ∧ ((jobSlot up fun j => match j with | Job.quiesce q _ => q == 1 | _ => false) = none)) ∧
    ((Running opFreezeLater) ∧ ((jobSlot opFreezeLater fun j => match j with | Job.freeze q => q == 1 | _ => false) = some (0,
      opSlot opFreezeLater 0)) ∧ (BitVec.toNat opFreezeLater.now < BitVec.toNat (partSt opFreezeLater 1).freezeTick)) ∧
    ((Running opFreezeDue) ∧ ((jobSlot opFreezeDue fun j => match j with | Job.freeze q => q == 1 | _ => false) = some (0, opSlot
      opFreezeDue 0)) ∧ (ctxsOf opFreezeDue 1 = []) ∧ (BitVec.toNat (partSt opFreezeDue 1).freezeTick ≤ BitVec.toNat
      opFreezeDue.now)) ∧
    ((Running opSnap) ∧ ((opSlot opSnap 0).job = Job.save 1 [] [] none 9 0 (some 900000)) ∧ ((opSlot opSnap 0).state =
      OpState.running) ∧ (900000 ≤ BitVec.toNat opSnap.now)) ∧
    ((Running up) ∧ ((opSlot up 0).job = Job.none)) := by
  repeat' apply And.intro
  all_goals decide +kernel

theorem test_witness_BeamsOpenAndStage :
    ((Running up) ∧ (up.tim.tsCtl.getLsbD (4 * 0) = false ∨ up.tim.tsCtl.getLsbD (4 * 0 + 1) ≠ false ∨ 9 < 5 ∨ 9 < 5)) ∧
    ((Running edgeIn) ∧ (edgeIn.tim.tsCtl.getLsbD (4 * 0) = true) ∧ (edgeIn.tim.tsCtl.getLsbD (4 * 0 + 1) = false) ∧ (5 ≤ 9) ∧
      (max 5 (filterNs (BitVec.extractLsb' (4 * 0 + 2) 2 edgeIn.tim.tsCtl)) ≤ 20000)) ∧
    ((Running up) ∧ ((beamCtx up 0).state ≠ 2 ∨ rowExists (beamCtx up 0).desc (beamCtx up 0).nextRow.toNat = false ∨ engineRuns up
      (beamCtx up 0).engine.toNat = false)) ∧
    ((Running sRun0) ∧ ((beamCtx sRun0 0).state = 2) ∧ (rowExists (beamCtx sRun0 0).desc (beamCtx sRun0 0).nextRow.toNat = true) ∧
      (engineRuns sRun0 (beamCtx sRun0 0).engine.toNat = true) ∧ (nextOpen (beamCtx sRun0 0) = some (1999000, false)) ∧ (1999000 ≤
      BitVec.toNat sRun0.now) ∧ (frozenAt (beamCtx sRun0 0) 1999000 = false)) ∧
    ((Running sRunEarly) ∧ (nextOpen (beamCtx sRunEarly 0) = some (1999000, false)) ∧ (BitVec.toNat sRunEarly.now < 1999000 ∨
      frozenAt (beamCtx sRunEarly 0) 1999000 = true)) ∧
    ((Running up) ∧ ((beamCtx up 0).state ≠ 2)) ∧
    ((Running sExpire) ∧ ((beamCtx sExpire 0).state = 2) ∧ (List.find? (fun y => y.rel.isNone) (beamCtx sExpire 0).rows = some
      row0) ∧ (expiryTick (beamCtx sExpire 0) row0.row = some expiry0) ∧ (expiry0 ≤ BitVec.toNat sExpire.now) ∧ (frozenAt (beamCtx
      sExpire 0) expiry0 = false)) ∧
    ((Running sExpireEarly) ∧ (List.find? (fun y => y.rel.isNone) (beamCtx sExpireEarly 0).rows = some row0) ∧ (expiryTick
      (beamCtx sExpireEarly 0) row0.row = some 2199000) ∧ (BitVec.toNat sExpireEarly.now < 2199000 ∨ frozenAt (beamCtx sExpireEarly
      0) 2199000 = true)) ∧
    ((Running up) ∧ (clusterRel up 0 = none) ∧ (clusterOffer up 0 = none)) ∧
    ((Running sRel) ∧ (clusterRel sRel 0 = some 0)) ∧
    ((Running sExpire) ∧ (clusterRel sExpire 0 = none) ∧ (clusterOffer sExpire 0 = some cand0) ∧ (homeMember sExpire (beamLine
      (beamCtx sExpire cand0.ctx).desc cand0.row cand0.pos) = true)) ∧
    ((Running sRead) ∧ (nextRead sRead 0 = some read1)) ∧
    ((Running up) ∧ (up.beams.reads = [])) ∧
    ((Running sReportGone) ∧ (sReportGone.reports = [report1]) ∧ ((beamCtx sReportGone report1.ctx).rows = []) ∧
      (sReportGone.parts = [])) ∧
    ((Running sReport) ∧ (sReport.reports = [report1]) ∧ (List.find? (fun y => y.row == report1.row) (beamCtx sReport
      report1.ctx).rows = some rowReading) ∧ (rowReading.reading.contains report1.idx.toNat = true) ∧ (report1.error = true)) ∧
    ((Running sReportNoPin) ∧ (sReportNoPin.reports = [reportNoPin]) ∧ (List.find? (fun y => y.row == reportNoPin.row) (beamCtx
      sReportNoPin reportNoPin.ctx).rows = some rowReading) ∧ (rowReading.reading.contains reportNoPin.idx.toNat = true) ∧
      (reportNoPin.error = false) ∧ (reportNoPin.pinned = false)) ∧
    ((Running sReportOk) ∧ (sReportOk.reports = [reportOk]) ∧ (List.find? (fun y => y.row == reportOk.row) (beamCtx sReportOk
      reportOk.ctx).rows = some rowReading) ∧ (rowReading.reading.contains reportOk.idx.toNat = true) ∧ (reportOk.error = false) ∧
      (reportOk.pinned = true)) ∧
    ((Running up) ∧ ((beamCtx up 0).state = 0)) ∧
    ((Running sRun0) ∧ ((beamCtx sRun0 0).state = 2 ∨ (beamCtx sRun0 0).state = 3 ∨ (beamCtx sRun0 0).state = 5) ∧ (engineRuns
      sRun0 (beamCtx sRun0 0).engine.toNat = true) ∧ (nextRel (beamCtx sRun0 0) = none)) ∧
    ((Running sRel) ∧ ((beamCtx sRel 0).state = 2 ∨ (beamCtx sRel 0).state = 3 ∨ (beamCtx sRel 0).state = 5) ∧ (engineRuns sRel
      (beamCtx sRel 0).engine.toNat = true) ∧ (nextRel (beamCtx sRel 0) = some (rowRel, 0)) ∧ ((beamCtx (stepped sRel)
      0).cancelSlot = none)) ∧
    ((Running sRelCancel) ∧ ((beamCtx sRelCancel 0).state = 2 ∨ (beamCtx sRelCancel 0).state = 3 ∨ (beamCtx sRelCancel 0).state =
      5) ∧ (engineRuns sRelCancel (beamCtx sRelCancel 0).engine.toNat = true) ∧ (nextRel (beamCtx sRelCancel 0) = some (rowRel, 0))
      ∧ ((beamCtx (stepped sRelCancel) 0).cancelSlot = some 0)) ∧
    ((Running sCancelling) ∧ ((beamCtx sCancelling 0).state = 3) ∧ ((beamCtx sCancelling 0).rows = [])) := by
  repeat' apply And.intro
  all_goals decide +kernel

theorem test_witness_RingMessagesTakeTheirWay :
    ((Running mapped)) ∧
    ((Running sTraining) ∧ ((ringPort sTraining RingPort.ringE).state ≠ RpState.active)) ∧
    ((Running sRing2) ∧ (RingMsg.snp SnpKind.sh rh snp0 = RingMsg.snp SnpKind.sh rh snp0) ∧ ((ringPort sRing2
      RingPort.ringE).state = RpState.active)) := by
  repeat' apply And.intro
  all_goals decide +kernel

theorem test_witness_HomesServeRequests :
    ((Running sMapped) ∧ ((place sMapped rh.laddr).held = false ∧ ∀ x ∈ sMapped.home.arrWait, x.hdr.laddr ≠ rh.laddr) ∧ (firstFree
      (if false = true then List.map Prod.fst (farqOf sMapped (place sMapped rh.laddr).sl) else List.map Prod.fst (homeqOf sMapped
      (place sMapped rh.laddr).sl)) (if false = true then 32 else 64) = some 0) ∧ (arrivalErr (fresh sMapped) ReqOp.sh rh body0 =
      some (1, some kSlcMisdirected))) ∧
    ((Running sPrivate) ∧ ((place sPrivate rhFar.laddr).held = false ∧ ∀ x ∈ sPrivate.home.arrWait, x.hdr.laddr ≠ rhFar.laddr) ∧
      (firstFree (if true = true then List.map Prod.fst (farqOf sPrivate (place sPrivate rhFar.laddr).sl) else List.map Prod.fst
      (homeqOf sPrivate (place sPrivate rhFar.laddr).sl)) (if true = true then 32 else 64) = some 0) ∧ (arrivalErr (fresh sPrivate)
      ReqOp.sh rhFar body0 = some (2, none))) ∧
    ((Running mapped) ∧ ((place mapped rh.laddr).held = false ∧ ∀ x ∈ mapped.home.arrWait, x.hdr.laddr ≠ rh.laddr) ∧ (arrivalErr
      (fresh mapped) ReqOp.sh rh body0 = none) ∧ (firstFree (if false = true then List.map Prod.fst (farqOf mapped (place mapped
      rh.laddr).sl) else List.map Prod.fst (homeqOf mapped (place mapped rh.laddr).sl)) (if false = true then 32 else 64) = some 0)) ∧
    ((Running mapped) ∧ ((place mapped rh.laddr).held = false ∧ ∀ x ∈ mapped.home.arrWait, x.hdr.laddr ≠ rh.laddr) ∧ (arrivalErr
      (fresh mapped) ReqOp.ex rh body0 = none) ∧ (firstFree (if true = true then List.map Prod.fst (farqOf mapped (place mapped
      rh.laddr).sl) else List.map Prod.fst (homeqOf mapped (place mapped rh.laddr).sl)) (if true = true then 32 else 64) = some 0)) ∧
    ((Running sHomeFull) ∧ (firstFree (if false = true then List.map Prod.fst (farqOf sHomeFull (place sHomeFull rh.laddr).sl)
      else List.map Prod.fst (homeqOf sHomeFull (place sHomeFull rh.laddr).sl)) (if false = true then 32 else 64) = none)) ∧
    ((Running sArrWait) ∧ (¬((place sArrWait rh.laddr).held = false ∧ ∀ x ∈ sArrWait.home.arrWait, x.hdr.laddr ≠ rh.laddr)) ∧
      (firstFree (if false = true then List.map Prod.fst (farqOf sArrWait (place sArrWait rh.laddr).sl) else List.map Prod.fst
      (homeqOf sArrWait (place sArrWait rh.laddr).sl)) (if false = true then 32 else 64) = some 0)) ∧
    ((Running sArrWait) ∧ (¬((place sArrWait rh.laddr).held = false ∧ ∀ x ∈ sArrWait.home.arrWait, x.hdr.laddr ≠ rh.laddr)) ∧
      (firstFree (if true = true then List.map Prod.fst (farqOf sArrWait (place sArrWait rh.laddr).sl) else List.map Prod.fst
      (homeqOf sArrWait (place sArrWait rh.laddr).sl)) (if true = true then 32 else 64) = some 0)) ∧
    ((Running mapped) ∧ (startable mapped 0 = none)) ∧
    ((Running sHomeSh) ∧ (startable sHomeSh 0 = some (false, 0, homeSh)) ∧ (homeSh.op ≠ ReqOp.ncwr)) ∧
    ((Running sHomeNcwr) ∧ (startable sHomeNcwr 0 = some (false, 0, homeNcwr)) ∧ (homeNcwr.op = ReqOp.ncwr)) ∧
    ((Running mapped) ∧ (homeAt mapped (htagSlice rh.htag) (rh.hkind == 1) (htagEntry rh.htag) = none)) ∧
    ((Running sHomeRun) ∧ (homeAt sHomeRun (htagSlice rh.htag) (rh.hkind == 1) (htagEntry rh.htag) = some homeRun)) ∧
    ((Running mapped) ∧ (wb0.move = false ∨ stagedHere mapped rh.laddr = none) ∧ (homeOf mapped rh.laddr = some homeMap0) ∧
      (homeMap0.home = mapped.net.ctrlId) ∧ (localAddr homeMap0 rh.laddr < mapped.capacity) ∧ (List.find? (fun x => x.2.hdr.laddr
      == rh.laddr) (evictOf mapped (place mapped rh.laddr).sl) = none) ∧ (runningFor (wbIn mapped) (place mapped rh.laddr).sl
      rh.laddr = none)) ∧
    ((Running sHomeRun) ∧ (wb0.move = false ∨ stagedHere sHomeRun rh.laddr = none) ∧ (homeOf sHomeRun rh.laddr = some homeMap0) ∧
      (homeMap0.home = sHomeRun.net.ctrlId) ∧ (localAddr homeMap0 rh.laddr < sHomeRun.capacity) ∧ (List.find? (fun x =>
      x.2.hdr.laddr == rh.laddr) (evictOf sHomeRun (place sHomeRun rh.laddr).sl) = none) ∧ (homeRun.sent = false) ∧ (homeRun.op ≠
      ReqOp.ncrd) ∧ (homeRun.op ≠ ReqOp.ncwr) ∧ (runningFor (wbIn sHomeRun) (place sHomeRun rh.laddr).sl rh.laddr = some (false, 0,
      homeRun))) ∧
    ((Running mapped) ∧ (∀ x ∈ farqOf mapped 0, x.2.needWay = false)) := by
  repeat' apply And.intro
  all_goals decide +kernel

theorem test_witness_AnswersReachTheirEntry :
    ((Running mapped) ∧ (missAt mapped (txnSlice rh.txn) (txnEntry rh.txn) = none)) ∧
    ((Running mapped) ∧ (missAt mapped (txnSlice rh.txn) (txnEntry rh.txn) = none) ∧ (data0.tohome = false)) ∧
    ((Running sRingNewT) ∧ (missAt sRingNewT (txnSlice rh.txn) (txnEntry rh.txn) = some ringNewT) ∧ (ringNewT.kind ≠
      MKind.waiting) ∧ (ringNewT.reqSent = true) ∧ (ringNewT.abandoned = false) ∧ (due sRingNewT ringNewT.start ringNewT.tmo =
      false) ∧ (ringNewT.grant = none) ∧ (grant0.dsrc = 0)) ∧
    ((Running sRingNewT) ∧ (missAt sRingNewT (txnSlice rh.txn) (txnEntry rh.txn) = some ringNewT) ∧ (ringNewT.kind ≠
      MKind.waiting) ∧ (ringNewT.reqSent = true) ∧ (ringNewT.abandoned = false) ∧ (due sRingNewT ringNewT.start ringNewT.tmo =
      false) ∧ (ringNewT.grant = none) ∧ (grantD.dsrc ≠ 0)) ∧
    ((Running sRingNewT) ∧ (missAt sRingNewT (txnSlice rh.txn) (txnEntry rh.txn) = some ringNewT) ∧ (ringNewT.kind ≠
      MKind.waiting) ∧ (ringNewT.reqSent = true) ∧ (ringNewT.abandoned = false) ∧ (due sRingNewT ringNewT.start ringNewT.tmo =
      false) ∧ (data0.tohome = false) ∧ (ringNewT.grant = none) ∧ (ringNewT.supData = false ∨ data0.srck ≠ 0)) ∧
    ((Running sSuppliedT) ∧ (missAt sSuppliedT (txnSlice rh.txn) (txnEntry rh.txn) = some suppliedT) ∧ (suppliedT.kind ≠
      MKind.waiting) ∧ (suppliedT.reqSent = true) ∧ (suppliedT.abandoned = false) ∧ (due sSuppliedT suppliedT.start suppliedT.tmo =
      false) ∧ (data0.tohome = false) ∧ (suppliedT.supData = true) ∧ (data0.srck = 0)) ∧
    ((Running sRingNewT) ∧ (missAt sRingNewT (txnSlice rh.txn) (txnEntry rh.txn) = some ringNewT) ∧ (ringNewT.kind ≠
      MKind.waiting) ∧ (ringNewT.reqSent = true) ∧ (ringNewT.abandoned = false) ∧ (due sRingNewT ringNewT.start ringNewT.tmo =
      false) ∧ (ringNewT.req.src = ReqSrc.port 1)) ∧
    ((Running sRingNewT) ∧ (missAt sRingNewT (txnSlice rh.txn) (txnEntry rh.txn) = some ringNewT) ∧ (ringNewT.kind ≠
      MKind.waiting) ∧ (ringNewT.reqSent = true) ∧ (ringNewT.abandoned = false) ∧ (due sRingNewT ringNewT.start ringNewT.tmo =
      false)) ∧
    ((Running sPenMif) ∧ (penAt sPenMif (txnSlice rh.txn) (BitVec.extractLsb' 0 7 rh.txn).toNat = some penMif) ∧ (penMif.mif =
      true)) ∧
    ((Running mapped) ∧ (∀ (b : PenBuf), penAt mapped (txnSlice rh.txn) (BitVec.extractLsb' 0 7 rh.txn).toNat = some b → b.mif =
      false)) ∧
    ((Running mapped) ∧ (dataHome.tohome = true) ∧ (rh.hkind = 0 ∨ rh.hkind = 1) ∧ (homeAt mapped (htagSlice rh.htag) (rh.hkind ==
      1) (htagEntry rh.htag) = none)) ∧
    ((Running mapped) ∧ (dataHome.tohome = true) ∧ (rhFar1.hkind = 0 ∨ rhFar1.hkind = 1) ∧ (homeAt mapped (htagSlice rhFar1.htag)
      (rhFar1.hkind == 1) (htagEntry rhFar1.htag) = none)) ∧
    ((Running sHomeRun) ∧ (dataHome.tohome = true) ∧ (rh.hkind = 0 ∨ rh.hkind = 1) ∧ (homeAt sHomeRun (htagSlice rh.htag)
      (rh.hkind == 1) (htagEntry rh.htag) = some homeRun) ∧ (homeRun.sent = false) ∧ (homeRun.state ≠ HState.waiting)) ∧
    ((Running mapped) ∧ (dataHome.tohome = true) ∧ (rhEv.hkind = 2) ∧ (tget none mapped.home.evict (BitVec.toNat (htagSlice
      rhEv.htag) * 4 + htagEntry rhEv.htag) = none)) ∧
    ((Running sEvict) ∧ (dataHome.tohome = true) ∧ (rhEv.hkind = 2) ∧ (tget none sEvict.home.evict (BitVec.toNat (htagSlice
      rhEv.htag) * 4 + htagEntry rhEv.htag) = some evictE)) ∧
    ((Running mapped) ∧ (dataHome.tohome = true) ∧ (rhGate.hkind = 3) ∧ (tget none mapped.home.recalls (htagEntry rhGate.htag) =
      none)) ∧
    ((Running sRecall) ∧ (dataHome.tohome = true) ∧ (rhGate.hkind = 3) ∧ (tget none sRecall.home.recalls (htagEntry rhGate.htag) =
      some recall2)) := by
  repeat' apply And.intro
  all_goals decide +kernel

theorem test_witness_RecallsAndCredits :
    ((Running mapped) ∧ (recallRoom mapped rh recallB = some 0)) ∧
    ((Running sRecallsFull) ∧ (recallRoom sRecallsFull rh recallB = none)) ∧
    ((Running mapped) ∧ (far0.crd = false) ∧ (rh.hkind = 0 ∨ rh.hkind = 1) ∧ (homeAt mapped (htagSlice rh.htag) (rh.hkind == 1)
      (htagEntry rh.htag) = none)) ∧
    ((Running sHomeRun) ∧ (far0.crd = false) ∧ (rh.hkind = 0 ∨ rh.hkind = 1) ∧ (homeAt sHomeRun (htagSlice rh.htag) (rh.hkind ==
      1) (htagEntry rh.htag) = some homeRun) ∧ (rh.src ∉ homeRun.rcl.open_)) ∧
    ((Running sHomeRcl) ∧ (far0.crd = false) ∧ (rhFrom9.hkind = 0 ∨ rhFrom9.hkind = 1) ∧ (homeAt sHomeRcl (htagSlice rhFrom9.htag)
      (rhFrom9.hkind == 1) (htagEntry rhFrom9.htag) = some homeRcl) ∧ (rhFrom9.src ∈ homeRcl.rcl.open_)) ∧
    ((Running mapped) ∧ (far0.crd = false) ∧ (rhEv.hkind = 2) ∧ (∀ (e : HomeEntry), tget none mapped.home.evict (BitVec.toNat
      (htagSlice rhEv.htag) * 4 + htagEntry rhEv.htag) = some e → rhEv.src ∉ e.rcl.open_)) ∧
    ((Running sEvict) ∧ (far0.crd = false) ∧ (rhEv9.hkind = 2) ∧ (tget none sEvict.home.evict (BitVec.toNat (htagSlice rhEv9.htag)
      * 4 + htagEntry rhEv9.htag) = some evictE) ∧ (rhEv9.src ∈ evictE.rcl.open_)) ∧
    ((Running mapped) ∧ (far0.crd = false) ∧ (rhGate.hkind = 3) ∧ (∀ (r : RecallEntry), recallAt mapped (htagEntry rhGate.htag) =
      some r → rhGate.src ∉ r.copies)) ∧
    ((Running sRecallCopies) ∧ (far0.crd = false) ∧ (rhGate9.hkind = 3) ∧ (recallAt sRecallCopies (htagEntry rhGate9.htag) = some
      recallCopies) ∧ (rhGate9.src ∈ recallCopies.copies)) ∧
    ((Running mapped) ∧ (farCrd.crd = true) ∧ (mapped.home.farWait = [])) ∧
    ((Running mapped) ∧ (mapped.net.isBridge = false) ∧ (ringOf rh.src = myRing mapped) ∧ (mapped.net.lower.cur.gates = []) ∧
      (mapped.home.reqWait = []) ∧ (mapped.home.wbkTransit = [])) := by
  repeat' apply And.intro
  all_goals decide +kernel

theorem test_witness_TransactionTimers :
    ((Running sHomeRun) ∧ (homeAt sHomeRun 0 false 0 = some homeRun) ∧ (homeRun.circ.running = false ∨ due sHomeRun
      homeRun.circ.start homeRun.circ.tmo = false)) ∧
    ((Running sHomeRun) ∧ (homeAt sHomeRun 0 false 0 = some homeRun) ∧ (homeRun.rcl.open_ = [] ∨ due sHomeRun homeRun.rcl.start
      homeRun.rcl.tmo = false)) ∧
    ((Running sGranted) ∧ (missAt sGranted 0 0 = some granted) ∧ (granted.reqSent = false ∨ granted.grant.isSome = true ∨ due
      sGranted granted.start granted.tmo = false)) ∧
    ((Running sRing) ∧ (missAt sRing 0 0 = some ringE0) ∧ (ringE0.grant = none ∨ ringE0.fillV = 15 ∨ due sRing ringE0.grantTick
      ringE0.dtmo = false)) ∧
    ((Running sPen) ∧ (penAt sPen 0 0 = some pen0) ∧ (pen0.mif = false ∨ pen0.wbFired = true ∨ due sPen pen0.wbStart pen0.wbTmo =
      false)) ∧
    ((Running sRecallNew) ∧ (recallAt sRecallNew 0 = some recallNew) ∧ (recallNew.circ.running = false ∨ due sRecallNew
      recallNew.circ.start recallNew.circ.tmo = false)) ∧
    ((Running (late sHomeSnp2)) ∧ (homeAt (late sHomeSnp2) 0 false 0 = some homeSnp2) ∧ (homeSnp2.circ.running = true) ∧ (due
      (late sHomeSnp2) homeSnp2.circ.start homeSnp2.circ.tmo = true) ∧ (1 < homeSnp2.circ.launches)) ∧
    ((Running sHomeSnp1) ∧ (homeAt sHomeSnp1 0 false 0 = some homeSnp1) ∧ (homeSnp1.circ.running = true) ∧ (due sHomeSnp1
      homeSnp1.circ.start homeSnp1.circ.tmo = true) ∧ (homeSnp1.circ.launches ≤ 1)) ∧
    ((Running sRingLate) ∧ (missAt sRingLate 0 0 = some ringE0) ∧ (ringE0.kind ≠ MKind.waiting) ∧ (ringE0.reqSent = true) ∧
      (ringE0.grant = none) ∧ (ringE0.abandoned = false) ∧ (due sRingLate ringE0.start ringE0.tmo = true) ∧ (ringE0.far = false)) ∧
    ((Running sRingFarLate) ∧ (missAt sRingFarLate 0 0 = some ringFar) ∧ (ringFar.kind ≠ MKind.waiting) ∧ (ringFar.reqSent = true)
      ∧ (ringFar.grant = none) ∧ (ringFar.abandoned = false) ∧ (due sRingFarLate ringFar.start ringFar.tmo = true) ∧ (ringFar.far =
      true)) ∧
    ((Running sWaitDataLate) ∧ (missAt sWaitDataLate 0 0 = some waitData) ∧ (waitData.grant = some grant2) ∧ (grant2.dsrc = 2) ∧
      (waitData.fillV ≠ 15) ∧ (due sWaitDataLate waitData.grantTick waitData.dtmo = true)) ∧
    ((Running sPenLate) ∧ (penAt sPenLate 0 0 = some penMif) ∧ (penMif.mif = true) ∧ (penMif.wbFired = false) ∧ (due sPenLate
      penMif.wbStart penMif.wbTmo = true)) ∧
    ((Running sHomeRclLate) ∧ (homeAt sHomeRclLate 0 false 0 = some homeRcl) ∧ (homeRcl.rcl.open_ ≠ []) ∧ (due sHomeRclLate
      homeRcl.rcl.start homeRcl.rcl.tmo = true) ∧ (homeRcl.rcl.fired = 0)) ∧
    ((Running sHomeRcl1) ∧ (homeAt sHomeRcl1 0 false 0 = some homeRcl1) ∧ (homeRcl1.rcl.open_ ≠ []) ∧ (due sHomeRcl1
      homeRcl1.rcl.start homeRcl1.rcl.tmo = true) ∧ (homeRcl1.rcl.fired ≠ 0)) ∧
    ((Running sEvict) ∧ (tget none sEvict.home.evict (0 * 4 + 0) = some evictE) ∧ (evictE.rcl.open_ ≠ []) ∧ (due sEvict
      evictE.rcl.start evictE.rcl.tmo = true) ∧ (evictE.rcl.fired = 0)) ∧
    ((Running sEvict1) ∧ (tget none sEvict1.home.evict (0 * 4 + 0) = some evict1) ∧ (evict1.rcl.open_ ≠ []) ∧ (due sEvict1
      evict1.rcl.start evict1.rcl.tmo = true) ∧ (evict1.rcl.fired ≠ 0)) ∧
    ((Running sRecallFirst) ∧ (recallAt sRecallFirst 0 = some recallFirst) ∧ (recallFirst.circ.running = true) ∧ (due sRecallFirst
      recallFirst.circ.start recallFirst.circ.tmo = true) ∧ (recallFirst.circ.launches ≤ 1)) ∧
    ((Running sRecallLate) ∧ (recallAt sRecallLate 0 = some recall2) ∧ (recall2.circ.running = true) ∧ (due sRecallLate
      recall2.circ.start recall2.circ.tmo = true) ∧ (1 < recall2.circ.launches)) := by
  repeat' apply And.intro
  all_goals decide +kernel

theorem test_witness_RingPortsAuthenticate :
    ((Running sTraining) ∧ (engineRuns sTraining (56 + ringIx RingPort.ringE) = true ∧ sTraining.unwired.getLsbD (ringIx
      RingPort.ringE) = false) ∧ ((ringPort sTraining RingPort.ringE).state = RpState.training)) ∧
    ((Running sAuth) ∧ ((ringPort sAuth RingPort.ringE).state ≠ RpState.training) ∧ (engineRuns sAuth (56 + ringIx RingPort.ringE)
      = true ∧ sAuth.unwired.getLsbD (ringIx RingPort.ringE) = false)) ∧
    ((Running sNoLp) ∧ (¬(engineRuns sNoLp (56 + ringIx RingPort.ringE) = true ∧ sNoLp.unwired.getLsbD (ringIx RingPort.ringE) =
      false))) ∧
    ((Running sUnwired) ∧ (¬(engineRuns sUnwired (56 + ringIx RingPort.ringE) = true ∧ sUnwired.unwired.getLsbD (ringIx
      RingPort.ringE) = false))) ∧
    ((Running (noB sAuth)) ∧ (lanternB (noB sAuth) = false)) ∧
    ((Running sTraining) ∧ (lanternB sTraining = true) ∧ ((ringPort sTraining RingPort.ringE).state ≠ RpState.auth)) ∧
    ((Running sAuth) ∧ (lanternB sAuth = true) ∧ ((ringPort sAuth RingPort.ringE).state = RpState.auth) ∧ ((ringPort sAuth
      RingPort.ringE).auth = some auth0) ∧ (auth0.failed = none) ∧ (2 ≠ 1)) ∧
    ((Running sAuth) ∧ (lanternB sAuth = true) ∧ ((ringPort sAuth RingPort.ringE).state = RpState.auth) ∧ ((ringPort sAuth
      RingPort.ringE).auth = some auth0) ∧ (auth0.failed = none) ∧ (RingPort.ringE = RingPort.ringE ∨ RingPort.ringE = RingPort.upA
      ↔ 2 = 0 ∨ 2 = 2)) ∧
    ((Running sAuth) ∧ (lanternB sAuth = true) ∧ ((ringPort sAuth RingPort.ringE).state = RpState.auth) ∧ ((ringPort sAuth
      RingPort.ringE).auth = some auth0) ∧ (auth0.failed = none) ∧ (¬(RingPort.ringE = RingPort.ringE ∨ RingPort.ringE =
      RingPort.upA ↔ 1 = 0 ∨ 1 = 2)) ∧ (isUp RingPort.ringE = false) ∧ (1 = 0 ∨ 1 = 1) ∧ (ringOf 81 ≠ myRing sAuth)) ∧
    ((Running sAuth) ∧ (lanternB sAuth = true) ∧ ((ringPort sAuth RingPort.ringE).state = RpState.auth) ∧ ((ringPort sAuth
      RingPort.ringE).auth = some auth0) ∧ (auth0.failed = none) ∧ (¬(RingPort.ringE = RingPort.ringE ∨ RingPort.ringE =
      RingPort.upA ↔ 1 = 0 ∨ 1 = 2)) ∧ (isUp RingPort.ringE = false) ∧ (1 = 0 ∨ 1 = 1) ∧ (ringOf 1 = myRing sAuth) ∧ (keyOf sAuth 1
      = none)) ∧
    ((Running sAuthKey) ∧ (lanternB sAuthKey = true) ∧ ((ringPort sAuthKey RingPort.ringE).state = RpState.auth) ∧ ((ringPort
      sAuthKey RingPort.ringE).auth = some auth0) ∧ (auth0.failed = none) ∧ (¬(RingPort.ringE = RingPort.ringE ∨ RingPort.ringE =
      RingPort.upA ↔ 1 = 0 ∨ 1 = 2)) ∧ (isUp RingPort.ringE = false) ∧ (1 = 0 ∨ 1 = 1) ∧ (ringOf 1 = myRing sAuthKey) ∧ (keyOf
      sAuthKey 1 = some 7)) ∧
    ((Running sAuth) ∧ (lanternB sAuth = true) ∧ ((ringPort sAuth RingPort.ringE).state = RpState.auth) ∧ ((ringPort sAuth
      RingPort.ringE).auth = some auth0) ∧ (auth0.failed = none) ∧ (auth0.chal = none)) ∧
    ((Running sAuthCh) ∧ (lanternB sAuthCh = true) ∧ ((ringPort sAuthCh RingPort.ringE).state = RpState.auth) ∧ ((ringPort sAuthCh
      RingPort.ringE).auth = some authCh) ∧ (authCh.failed = none) ∧ (authCh.chal = some (1, 1, 1, 9)) ∧ (keyOf sAuthCh
      authCh.offered = none)) ∧
    ((Running sAuthChKey) ∧ (lanternB sAuthChKey = true) ∧ ((ringPort sAuthChKey RingPort.ringE).state = RpState.auth) ∧
      ((ringPort sAuthChKey RingPort.ringE).auth = some authCh) ∧ (authCh.failed = none) ∧ (authCh.chal = some (1, 1, 1, 9)) ∧
      (keyOf sAuthChKey authCh.offered = some 7) ∧ (7 ≠ macOf 7 (macMessage 1 1 sAuthChKey.net.ctrlId (portCode RingPort.ringE)
      authCh.offered authCh.nonce 9))) ∧
    ((Running sAuthChKey) ∧ (lanternB sAuthChKey = true) ∧ ((ringPort sAuthChKey RingPort.ringE).state = RpState.auth) ∧
      ((ringPort sAuthChKey RingPort.ringE).auth = some authCh) ∧ (authCh.failed = none) ∧ (authCh.chal = some (1, 1, 1, 9)) ∧
      (keyOf sAuthChKey authCh.offered = some 7) ∧ (mac1 = macOf 7 (macMessage 1 1 sAuthChKey.net.ctrlId (portCode RingPort.ringE)
      authCh.offered authCh.nonce 9))) ∧
    ((Running sAuth) ∧ (lanternB sAuth = true) ∧ ((ringPort sAuth RingPort.ringE).state = RpState.auth) ∧ ((ringPort sAuth
      RingPort.ringE).auth = some auth0) ∧ (auth0.failed = none) ∧ (1 ≠ 0)) ∧
    ((Running sAuth) ∧ (lanternB sAuth = true) ∧ ((ringPort sAuth RingPort.ringE).state = RpState.auth) ∧ ((ringPort sAuth
      RingPort.ringE).auth = some auth0) ∧ (auth0.failed = none)) ∧
    ((Running (late sAuth)) ∧ (lanternB (late sAuth) = true) ∧ ((ringPort (late sAuth) RingPort.ringE).state = RpState.auth) ∧
      ((ringPort (late sAuth) RingPort.ringE).auth = some auth0) ∧ (auth0.failed = none) ∧ (due (late sAuth) auth0.start 1000 =
      true)) ∧
    ((Running sAuthFailed) ∧ (lanternB sAuthFailed = true) ∧ ((ringPort sAuthFailed RingPort.ringE).state = RpState.auth) ∧
      ((ringPort sAuthFailed RingPort.ringE).auth = some authFailed) ∧ (authFailed.failed = some 0) ∧ (due sAuthFailed 0 100000 =
      true)) ∧
    (((ringPort sAuthBoth RingPort.ringE).auth = some authBoth) ∧ (authBoth.sentDone = true) ∧ (authBoth.gotDone = true) ∧
      (authBoth.failed = none)) ∧
    (((ringPort sAuth RingPort.ringE).auth = some auth0) ∧ (auth0.sentDone = false ∨ auth0.gotDone = false ∨ auth0.failed ≠ none)) := by
  repeat' apply And.intro
  all_goals decide +kernel

theorem test_witness_RingFramesAreCheckedAndReplayed :
    ((Running sTraining) ∧ (¬((ringPort sTraining RingPort.ringE).state = RpState.active ∨ (ringPort sTraining
      RingPort.ringE).state = RpState.standby ∨ (ringPort sTraining RingPort.ringE).state = RpState.auth))) ∧
    ((Running sRing2) ∧ ((ringPort sRing2 RingPort.ringE).state = RpState.active ∨ (ringPort sRing2 RingPort.ringE).state =
      RpState.standby ∨ (ringPort sRing2 RingPort.ringE).state = RpState.auth) ∧ (frame0.ucw = none) ∧ (crc32c (frameBytes
      frame0.hdr frame0.slots (BitVec.extractLsb' 0 64 frame0.trailer)) ≠ BitVec.extractLsb' 64 32 frame0.trailer)) ∧
    ((Running sRing2) ∧ (replayDue sRing2 (ringPort sRing2 RingPort.ringE) = false)) ∧
    ((Running sUnackedRp) ∧ (replayDue sUnackedRp (ringPort sUnackedRp RingPort.ringE) = true) ∧ ((ringPort sUnackedRp
      RingPort.ringE).replays < max 1 (ringPort sUnackedRp RingPort.ringE).replayMax.toNat)) ∧
    ((Running sReplayed) ∧ (replayDue sReplayed (ringPort sReplayed RingPort.ringE) = true) ∧ (max 1 (ringPort sReplayed
      RingPort.ringE).replayMax.toNat ≤ (ringPort sReplayed RingPort.ringE).replays)) := by
  repeat' apply And.intro
  all_goals decide +kernel

theorem test_witness_LanesNarrowAndPartnersSlow :
    ((Running sTraining) ∧ (¬(mgmtUp sTraining RingPort.ringE = true ∧ lanternB sTraining = true))) ∧
    ((Running sNoB) ∧ (¬(mgmtUp sNoB RingPort.ringE = true ∧ lanternB sNoB = true))) ∧
    ((Running sRing2) ∧ (mgmtUp sRing2 RingPort.ringE = true ∧ lanternB sRing2 = true) ∧ (7 &&& (ringPort sRing2
      RingPort.ringE).failedLanes ≠ 0 ∨ ∀ e ∈ laneSets, e.2 ≠ 7)) ∧
    ((Running sRing2) ∧ (mgmtUp sRing2 RingPort.ringE = true ∧ lanternB sRing2 = true)) ∧
    ((Running ringDown) ∧ ((ringPort ringDown RingPort.ringE).state = RpState.down ∨ (ringPort ringDown RingPort.ringE).state =
      RpState.quarantined ∨ (ringPort ringDown RingPort.ringE).state = RpState.retired)) ∧
    ((Running sLanes) ∧ ((ringPort sLanes RingPort.ringE).state ≠ RpState.down) ∧ ((ringPort sLanes RingPort.ringE).state ≠
      RpState.quarantined) ∧ ((ringPort sLanes RingPort.ringE).state ≠ RpState.retired) ∧ ((ringPort sLanes RingPort.ringE).lanes
      &&& ~~~((ringPort sLanes RingPort.ringE).failedLanes ||| 3) = 0)) ∧
    ((Running sRing2) ∧ ((ringPort sRing2 RingPort.ringE).state ≠ RpState.down) ∧ ((ringPort sRing2 RingPort.ringE).state ≠
      RpState.quarantined) ∧ ((ringPort sRing2 RingPort.ringE).state ≠ RpState.retired) ∧ ((ringPort sRing2 RingPort.ringE).lanes
      &&& ~~~((ringPort sRing2 RingPort.ringE).failedLanes ||| 1) ≠ 0)) ∧
    ((Running sPropDue) ∧ ((ringPort sPropDue RingPort.ringE).laneProp = some (3, 0)) ∧ (0 + 20000 ≤ BitVec.toNat sPropDue.now)) ∧
    ((Running sPropNew) ∧ ((ringPort sPropNew RingPort.ringE).laneProp = some (3, 1000000)) ∧ (BitVec.toNat sPropNew.now < 1000000
      + 20000)) ∧
    ((Running sStarved) ∧ (lanternB sStarved = true) ∧ ((ringPort sStarved RingPort.ringE).slow = false) ∧ (starvedFor sStarved
      (ringPort sStarved RingPort.ringE) (max 20 (ringPort sStarved RingPort.ringE).starve.toNat) = true)) ∧
    ((Running sRing2) ∧ ((ringPort sRing2 RingPort.ringE).slow = true ∨ starvedFor sRing2 (ringPort sRing2 RingPort.ringE) (max 20
      (ringPort sRing2 RingPort.ringE).starve.toNat) = false)) ∧
    ((Running sRing2) ∧ ((ringPort sRing2 RingPort.ringE).starved = [])) ∧
    ((Running sStarved) ∧ ((ringPort sStarved RingPort.ringE).starve.toNat ≤ (ringPort sStarved RingPort.ringE).retireUs.toNat) ∧
      (starvedFor sStarved (ringPort sStarved RingPort.ringE) (max 100 (ringPort sStarved RingPort.ringE).retireUs.toNat) = true)) ∧
    ((Running sSlow) ∧ (lanternB sSlow = true) ∧ ((ringPort sSlow RingPort.ringE).slow = true) ∧ ((ringPort sSlow
      RingPort.ringE).starved = []) ∧ (due sSlow (ringPort sSlow RingPort.ringE).unstarved 100000 = true)) ∧
    ((Running sRing2) ∧ ((ringPort sRing2 RingPort.ringE).slow = false ∨ (ringPort sRing2 RingPort.ringE).starved ≠ [])) ∧
    ((Running (noB sStarved)) ∧ (lanternB (noB sStarved) = false)) ∧
    ((Running (noB sSlow)) ∧ (lanternB (noB sSlow) = false)) ∧
    ((Running sRing2) ∧ (mgmtUp sRing2 RingPort.ringE = true ∧ lanternB sRing2 = true) ∧ (0 = sRing2.net.ctrlId)) ∧
    ((Running sBoth) ∧ (mgmtUp sBoth RingPort.ringE = true ∧ lanternB sBoth = true) ∧ (5 ≠ sBoth.net.ctrlId) ∧ (mgmtUp (markSlow
      sBoth 1 true) (otherPort RingPort.ringE) = true)) ∧
    ((Running sFailed) ∧ ((ringPort sFailed RingPort.ringE).failedAt = some 0) ∧ ((ringPort sFailed RingPort.ringE).autoReturn =
      true) ∧ ((ringPort sFailed RingPort.ringE).en = true) ∧ ((ringPort sFailed RingPort.ringE).state = RpState.down) ∧ (0 +
      1000000000 ≤ BitVec.toNat sFailed.now)) ∧
    ((Running sRing2) ∧ ((ringPort sRing2 RingPort.ringE).failedAt = none ∨ (ringPort sRing2 RingPort.ringE).autoReturn = false)) := by
  repeat' apply And.intro
  all_goals decide +kernel

theorem test_witness_CensusEpochsAndDrains :
    ((Running sTraining) ∧ (¬(mgmtUp sTraining RingPort.ringE = true ∧ lanternB sTraining = true))) ∧
    ((Running sNoB) ∧ (¬(mgmtUp sNoB RingPort.ringE = true ∧ lanternB sNoB = true))) ∧
    ((Running sRing2) ∧ (mgmtUp sRing2 RingPort.ringE = true ∧ lanternB sRing2 = true) ∧ ((census 0 1).initiator =
      sRing2.net.ctrlId) ∧ ((posOf sRing2 (isUp RingPort.ringE)).censusRun = false)) ∧
    ((Running sCensus) ∧ (mgmtUp sCensus RingPort.ringE = true ∧ lanternB sCensus = true) ∧ ((census 0 2).initiator =
      sCensus.net.ctrlId) ∧ ((posOf sCensus (isUp RingPort.ringE)).censusRun = true) ∧ ((census 0 2).turns ≠ 1)) ∧
    ((Running sCensus) ∧ (mgmtUp sCensus RingPort.ringE = true ∧ lanternB sCensus = true) ∧ ((census 1 2).initiator ≠
      sCensus.net.ctrlId) ∧ ((posOf sCensus (isUp RingPort.ringE)).censusRun = true) ∧ (BitVec.toNat sCensus.net.ctrlId <
      BitVec.toNat (census 1 2).initiator)) ∧
    ((Running sRing2) ∧ (mgmtUp sRing2 RingPort.ringE = true ∧ lanternB sRing2 = true) ∧ (0 = sRing2.net.ctrlId)) ∧
    ((Running sRing2) ∧ (mgmtUp sRing2 RingPort.ringE = true ∧ lanternB sRing2 = true) ∧ (1 ≠ sRing2.net.ctrlId) ∧ (mgmtUp sRing2
      (otherPort RingPort.ringE) = false)) ∧
    ((Running sPrep) ∧ (mgmtUp sPrep RingPort.ringE = true ∧ lanternB sPrep = true) ∧ ((posOf sPrep (isUp RingPort.ringE)).prepBy
      = sPrep.net.ctrlId) ∧ ((posOf sPrep (isUp RingPort.ringE)).nextTm = none) ∧ ((posOf sPrep (isUp RingPort.ringE)).unacked =
      [1])) ∧
    ((Running sPrep) ∧ (mgmtUp sPrep RingPort.ringE = true ∧ lanternB sPrep = true) ∧ ((posOf sPrep (isUp RingPort.ringE)).prepBy
      = sPrep.net.ctrlId) ∧ (2 ∉ (posOf sPrep (isUp RingPort.ringE)).unacked)) ∧
    ((Running sRing2) ∧ ((posOf sRing2 false).next = none)) ∧
    ((Running sPrepLater) ∧ ((posOf sPrepLater false).nextTm = some 2000000) ∧ (BitVec.toNat sPrepLater.now < 2000000)) ∧
    ((Running sPrepEmpty) ∧ (sPrepEmpty.net.lower.next = some epoch2) ∧ (sPrepEmpty.net.lower.nextTm = some 900000) ∧ (900000 ≤
      BitVec.toNat sPrepEmpty.now) ∧ (sPrepEmpty.home.mapLive = [])) ∧
    ((Running sRing2) ∧ (mgmtUp sRing2 RingPort.ringE = true ∧ lanternB sRing2 = true) ∧ ((dsum 0).origin = sRing2.net.ctrlId)) ∧
    ((Running sBoth) ∧ (mgmtUp sBoth RingPort.ringE = true ∧ lanternB sBoth = true) ∧ ((dsum 1).origin ≠ sBoth.net.ctrlId) ∧
      (mgmtUp sBoth (otherPort RingPort.ringE) = true)) ∧
    ((Running sNoB) ∧ (lanternB sNoB = false)) ∧
    ((Running sRing2) ∧ (lanternB sRing2 = true) ∧ ((posOf sRing2 false).old = none)) ∧
    ((Running sOld) ∧ (lanternB sOld = true) ∧ ((posOf sOld false).old = some slotReset) ∧ ((posOf sOld false).drainSeen = [] ∨
      (posOf sOld false).drainInj ≠ (posOf sOld false).drainEnd) ∧ (BitVec.toNat sOld.now < BitVec.toNat (posOf sOld false).tm +
      1000000)) ∧
    ((Running sOldSum) ∧ (lanternB sOldSum = true) ∧ ((posOf sOldSum false).old = some slotReset) ∧ ((posOf sOldSum
      false).drainSeen ≠ [] ∧ (posOf sOldSum false).drainInj = (posOf sOldSum false).drainEnd) ∧ ((posOf (drainedTo sOldSum)
      false).waiting = none)) ∧
    ((Running sOldSumW) ∧ (lanternB sOldSumW = true) ∧ ((posOf sOldSumW false).old = some slotReset) ∧ ((posOf sOldSumW
      false).drainSeen ≠ [] ∧ (posOf sOldSumW false).drainInj = (posOf sOldSumW false).drainEnd) ∧ ((posOf (drainedTo sOldSumW)
      false).waiting = some epRes)) ∧
    ((Running sOldLate) ∧ (lanternB sOldLate = true) ∧ ((posOf sOldLate false).old = some slotReset) ∧ (¬((posOf sOldLate
      false).drainSeen ≠ [] ∧ (posOf sOldLate false).drainInj = (posOf sOldLate false).drainEnd)) ∧ (BitVec.toNat (posOf sOldLate
      false).tm + 1000000 ≤ BitVec.toNat sOldLate.now) ∧ ((posOf (resentTo sOldLate) false).waiting = none)) ∧
    ((Running sOldLateW) ∧ (lanternB sOldLateW = true) ∧ ((posOf sOldLateW false).old = some slotReset) ∧ (¬((posOf sOldLateW
      false).drainSeen ≠ [] ∧ (posOf sOldLateW false).drainInj = (posOf sOldLateW false).drainEnd)) ∧ (BitVec.toNat (posOf
      sOldLateW false).tm + 1000000 ≤ BitVec.toNat sOldLateW.now) ∧ ((posOf (resentTo sOldLateW) false).waiting = some epRes)) := by
  repeat' apply And.intro
  all_goals decide +kernel

theorem test_witness_PeersTimeAndLostHomes :
    ((Running sTraining) ∧ (¬(mgmtUp sTraining RingPort.ringE = true ∧ lanternB sTraining = true))) ∧
    ((Running sNoB) ∧ (¬(mgmtUp sNoB RingPort.ringE = true ∧ lanternB sNoB = true))) ∧
    ((Running sRing2) ∧ (mgmtUp sRing2 RingPort.ringE = true ∧ lanternB sRing2 = true) ∧ (1 ≠ sRing2.net.ctrlId)) ∧
    ((Running sRing2) ∧ (mgmtUp sRing2 RingPort.ringE = true ∧ lanternB sRing2 = true) ∧ (0 = sRing2.net.ctrlId)) ∧
    ((Running sRing2) ∧ (mgmtUp sRing2 RingPort.ringE = true ∧ lanternB sRing2 = true) ∧ (0 = sRing2.net.ctrlId) ∧ (unreachable
      sRing2 1 = false)) ∧
    ((Running sRing2) ∧ (mgmtUp sRing2 RingPort.ringE = true ∧ lanternB sRing2 = true) ∧ (0 = sRing2.net.ctrlId) ∧ (unreachable
      sRing2 3 = true)) ∧
    ((Running sNoB) ∧ (lanternB sNoB = false)) ∧
    ((Running sRing2) ∧ (lanternB sRing2 = true)) ∧
    ((Running sRing2) ∧ (mgmtUp sRing2 RingPort.ringE = true ∧ lanternB sRing2 = true)) ∧
    ((Running sRing2) ∧ (mgmtUp sRing2 RingPort.ringE = true ∧ lanternB sRing2 = true) ∧ (¬ ((neighbour (syncedOf sRing2)
      .ringE).isSome = true ∧ followsOf (syncedOf sRing2) false (posOf (syncedOf sRing2) false).node = neighbour (syncedOf sRing2)
      .ringE))) ∧
    ((Running sFollowEarly) ∧ (mgmtUp sFollowEarly RingPort.ringE = true ∧ lanternB sFollowEarly = true) ∧ (isUp RingPort.ringE =
      false) ∧ (sFollowEarly.boot.ready = false) ∧ (sFollowEarly.net.stepped = false) ∧ ((neighbour (syncedOf sFollowEarly)
      .ringE).isSome = true ∧ followsOf (syncedOf sFollowEarly) false (posOf (syncedOf sFollowEarly) false).node = neighbour
      (syncedOf sFollowEarly) .ringE)) ∧
    ((Running sFollow) ∧ (mgmtUp sFollow RingPort.ringE = true ∧ lanternB sFollow = true) ∧ (isUp RingPort.ringE = false) ∧
      (sFollow.boot.ready = true ∨ sFollow.net.stepped = true) ∧ ((neighbour (syncedOf sFollow) .ringE).isSome = true ∧ followsOf
      (syncedOf sFollow) false (posOf (syncedOf sFollow) false).node = neighbour (syncedOf sFollow) .ringE)) ∧
    ((Running syncNew) ∧ (due syncNew syncNew.net.syncSent (max 16 syncNew.net.syncPeriod.toNat) = false)) ∧
    ((Running sPen) ∧ (penAt sPen 0 0 = some pen0) ∧ (List.find? (fun x => x.1 == pen0.dest) sPen.home.lostHomes = none)) ∧
    ((Running sLostNew) ∧ (penAt sLostNew 0 0 = some pen0) ∧ (List.find? (fun x => x.1 == pen0.dest) sLostNew.home.lostHomes =
      some (0, 900000000000)) ∧ (BitVec.toNat sLostNew.now < 900000000000 + 600000000000)) ∧
    ((Running sLostDue) ∧ (penAt sLostDue 0 0 = some pen0) ∧ (List.find? (fun x => x.1 == pen0.dest) sLostDue.home.lostHomes =
      some (0, 0)) ∧ (pen0.dirty = true) ∧ (0 + 600000000000 ≤ BitVec.toNat sLostDue.now)) := by
  repeat' apply And.intro
  all_goals decide +kernel

theorem test_witness_EveryStepTakesOneCommand : step State.reset = .next (nextOf (step State.reset)) := rfl
theorem test_witness_IntFollowsEventsAfterEveryStep : step up = .next (nextOf (step up)) := rfl

/-- The grade of the part is a free value: these witnesses hold for both. -/
theorem test_witness_TripAndBackstopLatch_grade :
    (Running up ∧ celsius 90 < gradeTj + 10) ∧
    (Running level5 ∧ (gradeTj : Int) + 10 ≤ celsius 127 ∧ 5 ≤ level5.pwr.level.toNat) ∧
    (Running level4 ∧ (gradeTj : Int) + 10 ≤ celsius 127 ∧ level4.pwr.level = 4) := by
  unfold gradeTj
  generalize Config.extended = b
  cases b <;> decide +kernel
theorem test_witness_ImmediateCommandsAct_junction : Taken up .host (.thermal 0 90) := by
  refine ⟨by decide +kernel, by decide +kernel, ?_⟩
  unfold lciCheck lciArgs gradeTj
  generalize Config.extended = b
  cases b <;> decide +kernel
theorem test_witness_ThermalLadder_grade :
    (Running up ∧ ((tjLimit up : Int) ≤ celsius up.pwr.tj ∨ celsius 50 < tjLimit up)) ∧
    (Running up ∧ celsius up.pwr.tj < tjLimit up ∧ (tjLimit up : Int) ≤ celsius 120) ∧
    (Running up ∧ up.pwr.emergency = false ∧ up.pwr.backstop = false ∧ up.pwr.level.toNat ≤ 5 ∧
      max 0 (min 5 ((up.pwr.level.toNat : Int) + ladder up)) = up.pwr.level.toNat) ∧
    (Running hot ∧ hot.pwr.emergency = false ∧ hot.pwr.backstop = false ∧ hot.pwr.level = 0 ∧ ladder hot = 2) := by
  unfold ladder tjLimit gradeTj
  generalize Config.extended = b
  cases b <;> decide +kernel
theorem test_witness_SmbusAndConfigurationRecords_limits :
    60 ≤ (90 : BitVec 8).toNat ∧ (90 : BitVec 8).toNat ≤ gradeTj ∧ ((500 : BitVec 16) = 0 ∨ (300 ≤ (500 : BitVec 16).toNat ∧ (500 : BitVec 16).toNat ≤ 1180)) := by
  unfold gradeTj
  generalize Config.extended = b
  cases b <;> decide +kernel
theorem test_witness_OperationSlotsAndBar2_abort :
    Reaches opLog .mgmt ∧ ownsMbx .host .mgmt = true ∧ (opSlot opLog (slotRef .host 0)).state = .running ∧
    ∃ ws o n l, (opSlot opLog (slotRef .host 0)).job = .log ws o n l :=
  ⟨by decide +kernel, rfl, by decide +kernel, _, _, _, _, rfl⟩
theorem test_witness_RingMessagesTakeTheirWay_hops :
    (Running sRing2 ∧ Running sBridge ∧ (ringPort sRing2 .ringE).state = .active ∧ (ringPort sBridge .ringE).state = .active) ∧
    (∀ m ∈ [msgHere, msgOn, msgOver, msgLost], ∀ kind h b, m ≠ .snp kind h b) ∧
    hop (taken sRing2 msgHere) (isUp .ringE) msgHere = .here ∧ hop (taken sRing2 msgOn) (isUp .ringE) msgOn = .port .ringE ∧
    hop (taken sBridge msgOver) (isUp .ringE) msgOver = .cross ∧ hop (taken sRing2 msgLost) (isUp .ringE) msgLost = .nowhere := by
  refine ⟨by decide +kernel, ?_, by decide +kernel⟩
  simp [msgHere, msgOn, msgOver, msgLost]
theorem test_witness_OperationsAndTicksGoOn_ticks :
    (LanternRuns up ∧ (∀ m, (mbxSt up m).cmds = []) ∧ up.lan.recheckDue = false ∧ up.net.lower.old = none ∧ up.net.isBridge = false) ∧
    (LanternRuns hostCmd ∧ (mbxSt hostCmd .host).cmds = [cmd0] ∧ (mbxSt hostCmd .host).held = [] ∧
      (∀ m, m ≠ .host → (mbxSt hostCmd m).cmds = []) ∧ (∀ m, m ≠ .host → (mbxSt hostTaken m).cmds = []) ∧
      hostTaken.lan.recheckDue = false ∧ hostTaken.net.lower.old = none ∧ hostTaken.net.isBridge = false) := by
  refine ⟨⟨by decide +kernel, ?_, by decide +kernel⟩, by decide +kernel, by decide +kernel, by decide +kernel, ?_, ?_, by decide +kernel⟩ <;>
    intro m <;> cases m <;> decide +kernel
/-- Firmware A is chosen from an image that passes its checks. Whether a signature is good and what a digest is are free values
    (Config), so the image of this witness passes them by hypothesis: no image's signature can be shown good. -/
theorem test_witness_StartupAdvances_firmware
    (sig : Config.signatureOk 0 (mread boot2fw.mem.nor 0 416) (mread boot2fw.mem.nor 416 96) = true)
    (dig : Config.sha384 (mread boot2fw.mem.nor 512 0) = 0) :
    Running boot2fw ∧ boot2fw.boot.stopped = false ∧ boot2fw.boot.ready = false ∧ boot2fw.boot.stage = 2 ∧
      (chooseFw boot2fw).2 = some false := by
  refine ⟨by decide +kernel, by decide +kernel, by decide +kernel, by decide +kernel, ?_⟩
  have ok : fwOk boot2fw 0 = true := by
    have keyid : (norWord boot2fw 0 5).extractLsb' 9 2 = 0 := by decide +kernel
    have len : (norWord boot2fw 0 2).toNat = 512 := by decide +kernel
    have digest : fwDigest boot2fw 0 = 0 := by decide +kernel
    unfold fwOk fwChecks
    simp only [keyid, len, digest, Nat.zero_add, Nat.sub_self, sig, dig, beq_self_eq_true]
    decide +kernel
  have image : (tryImage boot2fw false).2 = true := ok
  have attempts : boot2fw.boot.attempts < 2 := by decide +kernel
  unfold chooseFw
  simp [attempts, image]

/-! Terms that a check of `wellFormed` refuses, one for each check. -/

theorem test_ill_formed_access : wellFormed (.registerWrite .mgmt 0 0 0) = false ∧ wellFormed (.registerRead .mgmt 0 9) = false
    ∧ wellFormed (.readClear .mgmt 0 15) = false := by decide +kernel
theorem test_ill_formed_event : wellFormed (.cntEvtWrite .mgmt 0x180 0) = false ∧ wellFormed (.counterWrap 0x1FF 1) = false
    ∧ wellFormed (.smpEnable .mgmt 0 0x180 false false 0) = false := by decide +kernel
theorem test_ill_formed_mode_register : wellFormed (.cntModeWrite .mgmt 12 0) = false := by decide +kernel
theorem test_ill_formed_port : wellFormed (.portReturnTimeout 12) = false := by decide +kernel
theorem test_ill_formed_cluster : wellFormed (.stagingIssue 5) = false := by decide +kernel
def chanRep0 : ChanReport := { populated := false, supported := false, trained := false, dimms := 0, ranks := 0, x8 := false, d32 := false }
def reportWf : StepReport := { report0 with chans := List.replicate 8 chanRep0 }
theorem test_ill_formed_report : wellFormed (.startupStepDone report0) = false ∧ wellFormed (.startupStepDone reportWf) = true
    ∧ wellFormed (.startupStepDone { reportWf with chanBytes := WellFormed.chanMax + 1 }) = false
    ∧ wellFormed (.startupStepDone { reportWf with rate := 3 }) = false := by decide +kernel
theorem test_ill_formed_bulk : wellFormed (.bar2Write (BitVec.allOnes 22) [1, 2]) = false := by decide +kernel
theorem test_ill_formed_record : wellFormed (.idxRecord 0 0 (List.replicate 254 0)) = false
    ∧ wellFormed (.cmdRecord 0 (List.replicate 255 0)) = false := by decide +kernel
theorem test_ill_formed_replay : wellFormed (.replay 0 (.input 10)) = false := by decide +kernel
theorem test_ill_formed_recall : wellFormed (.recallTimer 0 true false 4) = false ∧ wellFormed (.recallTimer 0 false true 32) = false := by
  decide +kernel
theorem test_ill_formed_burst : wellFormed (.patrolScrubBurst 0 [(4096, .none)]) = false := by decide +kernel
theorem test_ill_formed_gst : wellFormed (.grant .fabric rh { grant0 with gst := .R }) = false := by decide +kernel
theorem test_well_formed : wellFormed (.registerWrite .mgmt 0x20 4 1) = true ∧ wellFormed (.bar2Write 0 [1, 2]) = true
    ∧ wellFormed (.grant .fabric rh grant0) = true ∧ wellFormed (.recallTimer 0 true false 3) = true := by decide +kernel

/-! The spec's worked examples. -/

/-- The line of 0x0A3C_5E71_B2C0 (02_address_and_home_map.md). -/
def lineEx : LineAddr := lineOf 0x0A3C5E71B2C0
theorem test_slice_of_example : sliceOf lineEx = 3 ∧ setOf lineEx = 0x179C ∧ tagOf lineEx = 0x28F1 ∧ lineNo lineEx = 5
    ∧ granuleOf lineEx = 0x0A3C5E ∧ critOf 0x0A3C5E71B2C0 = 2 := by decide +kernel
theorem test_slice_and_tag_give_the_address_back : lineFrom 3 0x179C 0x28F1 5 = lineEx := by decide +kernel
/-- Home-map entry 3 of the same example. -/
def homeEx : HomeMapEntry := { hmap0 with valid := true, priv := true, base := 0x0A3C00, last := 0x0A3CFF, home := 0x025, localBase := 0x0400 }
theorem test_local_address_of_example : localAddr homeEx lineEx = 0x45E71B280 := by decide +kernel
/-- The channel of that local address and its channel line address (12_memory_channels.md). -/
theorem test_channel_of_example : ddrChan { up with ddrFour := false } 0x45E71B280 = 0
    ∧ ddrCa { up with ddrFour := false } 0x45E71B280 = 0x01179C6D := by decide +kernel
/-- The check values that the two CRC definitions are published with, over the nine digits 1 to 9. -/
def digits : List Byte := (List.range 9).map fun k => BitVec.ofNat 8 (0x31 + k)
theorem test_crc32c : crc32c digits = 0xE3069283 := by decide +kernel
theorem test_crc64 : crc64 digits = 0x995DC9BBDF1939FA := by decide +kernel
/-- SHA-256 of the three letters a, b, c, by its own standard: the first four bytes. -/
theorem test_sha256 : (sha256 [0x61, 0x62, 0x63]).take 4 = [0xba, 0x78, 0x16, 0xbf] := by decide +kernel
/-- The sample counter of 16_event_counters.md: one miss in 10,000; it wraps at the ten thousandth. -/
def smpEx : Smp := { smp0 with en := true, event := 0x23, reload := 0xFFFFFFFFD8F0, count := 0xFFFFFFFFD8F0 }
theorem test_sample_counter_wraps : (smpAdd smpEx 9999).2 = false ∧ (smpAdd smpEx 10000).2 = true
    ∧ (smpAdd smpEx 10000).1.count = 0xFFFFFFFFD8F0 ∧ (smpAdd smpEx 10000).1.ovf = true ∧ (smpAdd smpEx 10000).1.armed = true := by
  decide +kernel
/-- The words of PART_CREATE for partition 4, of 21_worked_integration.md. -/
theorem test_part_create_words :
    lciParse 0x20 [0x00070004, 0xFF, 0x10000, 0x00101010, 0x01230023, 0x03230223, 0x05230423, 0x0610] =
      some (.partCreate 4 0xFF 0x10000 0x101010
        [(0x23, 0), (0x23, 1), (0x23, 2), (0x23, 3), (0x23, 4), (0x23, 5), (0x10, 6)]) := by decide +kernel
/-- The words of PART_SAVE of the same chapter: partition 4, TARGET 1, DEST 0x022, SLOT 0. -/
theorem test_part_save_words : lciParse 0x25 [0x104, 0, 0x22] = some (.partSave 4 true false 0 0x022 0 []) := by decide +kernel

/-! Single commands. -/

theorem test_bar2_write_stores_its_bytes_alone : mread1 (nextOf (exec (.bar2Write 4 [1, 2, 3]) up)).mem.bar2 5 = 2
    ∧ mread1 (nextOf (exec (.bar2Write 4 [1, 2, 3]) up)).mem.bar2 7 = 0 := by decide +kernel
/-- 125 °C trips, 124 °C does not (R584). -/
theorem test_thermtrip_bound : (nextOf (exec (.thermtrip 125) up)).boot.thermtrip = true
    ∧ (nextOf (exec (.thermtrip 124) up)).boot.thermtrip = false := by decide +kernel
/-- A system reset keeps the boot attempt count; a power-on reset clears it (R537). -/
theorem test_boot_attempts : let s := { up with boot := { up.boot with attempts := 2 } }
    (nextOf (exec .systemReset s)).boot.attempts = 2 ∧ (nextOf (exec .powerOnReset s)).boot.attempts = 0 := by decide +kernel
/-- REFCLK156 alone resets nothing (R586). -/
theorem test_refclk156_resets_nothing : inReset (nextOf (exec (.refclkLoss .r156) up)) = false
    ∧ inReset (nextOf (exec (.refclkLoss .r25) up)) = true := by decide +kernel
/-- The CHK nibble makes the nibbles of a header XOR to 0xA (R415). -/
theorem test_header_check : mkHeader 0x25 3 0 7 = 0x90700325 ∧ headerChk (mkHeader 0x25 3 0 7) = 9 := by decide +kernel

end Sys2Proof.Tests
end

section
/-! PROOFS. How an address splits into slice, set, tag and line number (R14-R16). -/

namespace Sys2Proof.Machine

/-- Taking the line of an address loses nothing above the line offset (R14). -/
theorem extractLsb'_addrOf_lineOf (a : Addr) {k : Nat} (n : Nat) (hk : 7 ≤ k) :
    (addrOf (lineOf a)).extractLsb' k n = a.extractLsb' k n := by
  unfold addrOf lineOf
  ext i hi
  simp only [BitVec.getElem_extractLsb', BitVec.getLsbD_shiftLeft, BitVec.getLsbD_setWidth, BitVec.getLsbD_extractLsb']
  by_cases h : k + i < 48
  · have e : 7 + (k + i - 7) = k + i := by omega
    have lt : k + i - 7 < 41 := by omega
    have ge : ¬ k + i < 7 := by omega
    simp [e, h, lt, ge]; omega
  · simp [h, BitVec.getLsbD_of_ge a (k + i) (by omega)]
/-- The prism hash reads nothing below A[12] (R15). -/
theorem prism_addrOf_lineOf (a : Addr) : prism (addrOf (lineOf a)) = prism a := by
  unfold prism
  simp only [extractLsb'_addrOf_lineOf, Nat.reduceLeDiff]
/-- Byte 0 of a line lies in that line. -/
@[simp] theorem lineOf_addrOf (l : LineAddr) : lineOf (addrOf l) = l := by
  unfold addrOf lineOf
  ext i hi
  have lt : 7 + i < 48 := by omega
  simp [lt, BitVec.getLsbD_eq_getElem hi]

/-- The address of byte 0 of a line by its fields: tag, set, A[15:12] and the line within the sector (R14, R16). -/
def addrFields (tag : BitVec 18) (set : BitVec 14) (nib : BitVec 4) (ln : BitVec 5) : Addr :=
  tag.setWidth 48 <<< 30 ||| (set.extractLsb' 0 12).setWidth 48 <<< 18 ||| (set.extractLsb' 12 2).setWidth 48 <<< 16
    ||| nib.setWidth 48 <<< 12 ||| ln.setWidth 48 <<< 7

section Fields
variable (tag : BitVec 18) (set : BitVec 14) (nib : BitVec 4) (ln : BitVec 5)

/-- Which field a bit of the address belongs to (R14, R16). -/
theorem getLsbD_addrFields (i : Nat) : (addrFields tag set nib ln).getLsbD i =
    if i < 7 then false else if i < 12 then ln.getLsbD (i - 7) else if i < 16 then nib.getLsbD (i - 12)
    else if i < 18 then set.getLsbD (i - 4) else if i < 30 then set.getLsbD (i - 18) else tag.getLsbD (i - 30) := by
  unfold addrFields
  simp only [BitVec.getLsbD_or, BitVec.getLsbD_shiftLeft, BitVec.getLsbD_setWidth, BitVec.getLsbD_extractLsb']
  grind

/-- The hash of an address is A[15:12] against the hash of what lies above it (R15). -/
theorem prism_addrFields : prism (addrFields tag set nib ln) = nib ^^^ prism (addrFields tag set 0#4 0#5) := by
  have low (x : BitVec 4) (y : BitVec 5) : (addrFields tag set x y).extractLsb' 12 4 = x := by
    ext i hi
    grind [getLsbD_addrFields]
  have high {k : Nat} (hk : 16 ≤ k) :
      (addrFields tag set nib ln).extractLsb' k 4 = (addrFields tag set 0#4 0#5).extractLsb' k 4 := by
    ext i hi
    grind [getLsbD_addrFields]
  unfold prism
  simp only [low, high, Nat.reduceLeDiff, BitVec.zero_xor, BitVec.xor_assoc]
/-- The set of a line by the fields of its address (R16). -/
theorem setOf_addrFields : setOf (lineOf (addrFields tag set nib ln)) = set := by
  unfold setOf
  rw [extractLsb'_addrOf_lineOf _ _ (by decide), extractLsb'_addrOf_lineOf _ _ (by decide)]
  ext i hi
  grind [getLsbD_addrFields]
/-- The tag of a line by the fields of its address (R14). -/
theorem tagOf_addrFields : tagOf (lineOf (addrFields tag set nib ln)) = tag := by
  unfold tagOf lineOf
  ext i hi
  grind [getLsbD_addrFields]
/-- The line number of a line by the fields of its address (R14). -/
theorem lineNo_addrFields : lineNo (lineOf (addrFields tag set nib ln)) = ln := by
  unfold lineNo lineOf
  ext i hi
  grind [getLsbD_addrFields]
/-- The slice of a line by the fields of its address (R15). -/
theorem sliceOf_addrFields :
    sliceOf (lineOf (addrFields tag set nib ln)) = nib ^^^ prism (addrFields tag set 0#4 0#5) := by
  unfold sliceOf
  rw [prism_addrOf_lineOf, prism_addrFields]
/-- The line that a place gives back, by the fields of its address (R16). -/
theorem lineFrom_eq (n : SliceId) :
    lineFrom n set tag ln = lineOf (addrFields tag set (n ^^^ prism (addrFields tag set 0#4 0#5)) ln) := by
  simp [lineFrom, addrFields]

end Fields

/-- Every line has the address of its own fields (R14, R16). -/
theorem addrFields_of_line (l : LineAddr) :
    addrFields (tagOf l) (setOf l) ((addrOf l).extractLsb' 12 4) (lineNo l) = addrOf l := by
  have bits (j : Nat) : (setOf l).getLsbD j =
      if j < 12 then (addrOf l).getLsbD (18 + j) else decide (j < 14) && (addrOf l).getLsbD (4 + j) := by
    unfold setOf
    rw [BitVec.getLsbD_append]
    grind
  apply BitVec.eq_of_getLsbD_eq
  intro i hi
  rw [getLsbD_addrFields, bits, bits]
  grind [tagOf, lineNo, addrOf]

/-- Settles O42: the slice of a line is the hash of its byte 0, and the hash does not read the offset within a line. -/
theorem sliceIsThePrismHash : Obligations.SliceIsThePrismHash := by
  unfold Obligations.SliceIsThePrismHash
  intro a
  exact prism_addrOf_lineOf a

/-- Settles O43: A[15:12] is the slice against the hash of the bits above, and XOR with that hash takes it back. -/
theorem placesNameOneLine : Obligations.PlacesNameOneLine := by
  unfold Obligations.PlacesNameOneLine
  constructor
  · intro l
    have slice : sliceOf l = (addrOf l).extractLsb' 12 4 ^^^ prism (addrFields (tagOf l) (setOf l) 0#4 0#5) := by
      rw [← prism_addrFields (ln := lineNo l), addrFields_of_line]
      rfl
    rw [lineFrom_eq, slice, BitVec.xor_assoc, BitVec.xor_self, BitVec.xor_zero, addrFields_of_line, lineOf_addrOf]
  · intro n set tag ln l
    have hl : l = _ := lineFrom_eq tag set ln n
    rw [hl, sliceOf_addrFields, setOf_addrFields, tagOf_addrFields, lineNo_addrFields, BitVec.xor_assoc, BitVec.xor_self,
      BitVec.xor_zero]
    exact ⟨rfl, rfl, rfl, rfl⟩

end Sys2Proof.Machine
end

section
/-! PROOFS. What a port does with an access to its doorbell window (R36, R37, R264, R286). -/

namespace Sys2Proof.Machine
open Sys2Proof.Safety

/-! The port that decodes a request (R323, R492). -/

section AtPort
variable (s : State) (p : PortId) (op : PcpOp) (h : PcpHdr)

/-- Decoding spends the request's credits, and changes nothing else of the port (R323). -/
theorem portSt_atPort : portSt (atPort s p op h) p =
    { portSt s p with reqhUsed := (portSt s p).reqhUsed + 1, reqdUsed := (portSt s p).reqdUsed + reqData op h } := by
  unfold atPort spendReq portSt
  rw [count_ports, wakeDom_ports]
  exact tget_tset_self ..
@[simp] theorem partSt_atPort (q : PartId) : partSt (atPort s p op h) q = partSt s q := by
  unfold atPort spendReq partSt
  rw [count_parts, wakeDom_parts, putPort_parts]
@[simp] theorem beamCtx_atPort (c : BitVec 8) : beamCtx (atPort s p op h) c = beamCtx s c := by
  unfold atPort spendReq beamCtx
  rw [count_beams, wakeDom_beams]
  rfl
@[simp] theorem atPort_ctrlOut : (atPort s p op h).ctrlOut = s.ctrlOut := by
  unfold atPort spendReq
  rw [count_ctrlOut, wakeDom_ctrlOut, putPort_ctrlOut]

/-- A request that a port receives is decoded in the state `atPort`. -/
theorem portRequest_of_up (hup : (portSt s p).down = false) :
    portRequest s p op h =
      let u := atPort s p op h
      if usesTag op ∧ tagOpen u p h.ptag then freeReq (protoErr u p) p (reqData op h)
      else if ((portSt u p).retiring ∨ u.ctrlOut) ∧ usesTag op then freeReq (refuse u p op h.ptag 0x11) p (reqData op h)
      else if inWindow35 (portSt u p) h.addr then freeReq (doorbell u p op h) p (reqData op h)
      else if fieldsBad op h then freeReq (refuse (protoErr u p) p op h.ptag 0x10) p (reqData op h)
      else mapRequest u p op h := by
  unfold portRequest
  rw [hup]
  rfl
variable {s p op h}
/-- A request whose address lies in the window is answered by the port itself (R36). -/
theorem portRequest_of_window (hup : (portSt s p).down = false) (htag : tagOpen s p h.ptag = false)
    (hret : (portSt s p).retiring = false) (hout : s.ctrlOut = false) (hwin : inWindow35 (portSt s p) h.addr = true) :
    portRequest s p op h = freeReq (doorbell (atPort s p op h) p op h) p (reqData op h) := by
  have tag : tagOpen (atPort s p op h) p h.ptag = false := by
    unfold tagOpen at htag ⊢
    rw [portSt_atPort]
    exact htag
  have win : inWindow35 (portSt (atPort s p op h) p) h.addr = true := by
    rw [portSt_atPort]
    exact hwin
  have ret : (portSt (atPort s p op h) p).retiring = false := by
    rw [portSt_atPort]
    exact hret
  rw [portRequest_of_up s p op h hup]
  simp [tag, ret, hout, win]
end AtPort

/-! The page that an access names, and whose it is (R37). -/

/-- The page of an access, which numbers the partition it belongs to. -/
def pageOf (h : PcpHdr) : PartId := h.addr.extractLsb' 12 6
/-- The stream of an access is one of the partition of the page, and that partition exists (R37). -/
def ownsPage (s : State) (p : PortId) (h : PcpHdr) : Prop :=
  (tget stream0 (portSt s p).stream h.stream.toNat).getLsbD 6 = true
    ∧ (tget stream0 (portSt s p).stream h.stream.toNat).extractLsb' 0 6 = pageOf h ∧ (partSt s (pageOf h)).state ≠ 0
/-- Decoding a request changes nobody's page. -/
theorem ownsPage_atPort {s : State} {p : PortId} {h : PcpHdr} (op : PcpOp) :
    ownsPage (atPort s p op h) p h ↔ ownsPage s p h := by
  unfold ownsPage
  rw [portSt_atPort, partSt_atPort]

/-- What the port checks of an access of a shape before it accepts it (R37). -/
def accepts (s : State) (p : PortId) (op : PcpOp) (h : PcpHdr) : Bool :=
  (dbShape op h).isSome && (tget stream0 (portSt s p).stream h.stream.toNat).getLsbD 6
    && (tget stream0 (portSt s p).stream h.stream.toNat).extractLsb' 0 6 == h.addr.extractLsb' 12 6
    && (partSt s (h.addr.extractLsb' 12 6)).state != 0
/-- An access is accepted where it has a shape and goes to the stream's own page (R37). -/
theorem accepts_iff (s : State) (p : PortId) (op : PcpOp) (h : PcpHdr) :
    accepts s p op h = true ↔ (dbShape op h).isSome = true ∧ ownsPage s p h := by
  unfold accepts ownsPage pageOf
  simp only [Bool.and_eq_true, beq_iff_eq, bne_iff_ne, and_assoc]

section Doorbell
variable {s : State} {p : PortId} {h : PcpHdr}

variable {lo w : Nat}
/-- A read accepted answers the page's value (R37). -/
theorem doorbell_read_of_own (own : ownsPage s p h) (shape : dbShape .rdNc h = some (lo, w)) :
    doorbell s p .rdNc h = completeData s p h.ptag .I false (critOf h.addr) (chunksOfMask (rdNcMask h.addr h.size))
      (dbLine (h.addr.toNat % 128) w (dbValue (pageValue s (pageOf h) (h.addr.toNat % 4096)) (h.addr.toNat % 4096) w)) 0 := by
  have ok := (accepts_iff s p .rdNc h).mpr ⟨by rw [shape]; rfl, own⟩
  unfold accepts at ok
  unfold doorbell pageOf
  simp only [ok]
  simp [shape]
/-- A read of another's page answers all-ones of its width, and is counted (R37). -/
theorem doorbell_read_of_other (other : ¬ ownsPage s p h) (shape : dbShape .rdNc h = some (lo, w)) :
    doorbell s p .rdNc h = completeData (trouble s (blkPcp p) kPcpDbReject) p h.ptag .I false (critOf h.addr)
      (chunksOfMask (rdNcMask h.addr h.size)) (dbLine (h.addr.toNat % 128) w (2 ^ (8 * w) - 1)) 0 := by
  have no : accepts s p .rdNc h = false := by
    rw [Bool.eq_false_iff, ne_eq, accepts_iff]
    exact fun a => other a.2
  unfold accepts at no
  unfold doorbell
  simp only [no]
  simp [shape]
/-- A read without a shape answers all-ones of the bytes that it names, and is counted (R37). -/
theorem doorbell_read_of_no_shape (shape : dbShape .rdNc h = none) :
    doorbell s p .rdNc h = completeData (trouble s (blkPcp p) kPcpDbReject) p h.ptag .I false (critOf h.addr)
      (chunksOfMask (rdNcMask h.addr h.size)) ⟨BitVec.ofNat 1024 (byteMask 128 (rdNcMask h.addr h.size)), 0⟩ 0 := by
  unfold doorbell
  simp [shape]
/-- A write that is not accepted is dropped and counted (R37). -/
theorem doorbell_write_of_refused (no : ¬ ownsPage s p h ∨ dbShape .wrNc h = none) :
    doorbell s p .wrNc h = complete (trouble s (blkPcp p) kPcpDbReject) p h.ptag .I false 0 0 := by
  have refused : accepts s p .wrNc h = false := by
    rw [Bool.eq_false_iff, ne_eq, accepts_iff]
    rintro ⟨hs, own⟩
    rcases no with other | shape
    · exact other own
    · rw [shape] at hs
      exact absurd hs (by decide)
  unfold accepts at refused
  unfold doorbell
  simp only [refused]
  simp
/-- A write accepted goes to the page (R37). -/
theorem doorbell_write_of_own (own : ownsPage s p h) (shape : dbShape .wrNc h = some (lo, w)) :
    doorbell s p .wrNc h = complete (pageWrite s p (pageOf h) (h.addr.toNat % 4096 / 128 * 128 + lo) w
      (h.data.bytes.toNat / 2 ^ (8 * lo) % 2 ^ (8 * w))) p h.ptag .I false 0 0 := by
  have ok := (accepts_iff s p .wrNc h).mpr ⟨by rw [shape]; rfl, own⟩
  unfold accepts at ok
  unfold doorbell pageOf
  simp only [ok]
  simp [shape]
end Doorbell

/-! What a write to a page does (R264, R286). -/

section PageWrite
variable {s : State} {p : PortId} {q : PartId} {ofs w v : Nat}
/-- The context that a release doorbell belongs to (R264). -/
def doorbellCtx (ofs : Nat) : BitVec 8 := BitVec.ofNat 8 ((ofs - 0x800) / 8)
/-- Below the release doorbells a page takes no write: it is counted (R286). -/
theorem pageWrite_of_low (low : ofs < 0x800) : pageWrite s p q ofs w v = trouble s (blkPcp p) kPcpDbReject := by
  unfold pageWrite
  rw [if_pos low]
/-- A write of 8 bytes to the doorbell of a running context of the partition releases the rows below the value (R264). -/
theorem pageWrite_of_running (high : 0x800 ≤ ofs)
    (mine : w = 8 ∧ (beamCtx s (doorbellCtx ofs)).state = 2 ∧ (beamCtx s (doorbellCtx ofs)).part = q) :
    pageWrite s p q ofs w v =
      sweepRows (releaseBelow s (doorbellCtx ofs) (min v (beamCtx s (doorbellCtx ofs)).nextRow.toNat) .doorbell)
        (doorbellCtx ofs) := by
  unfold pageWrite
  rw [if_neg (by omega)]
  exact if_pos mine
/-- Any other write to a release doorbell is counted (R264). -/
theorem pageWrite_of_not_mine (high : 0x800 ≤ ofs)
    (other : ¬ (w = 8 ∧ (beamCtx s (doorbellCtx ofs)).state = 2 ∧ (beamCtx s (doorbellCtx ofs)).part = q)) :
    pageWrite s p q ofs w v = trouble s (blkPcp p) kPcpBeamDbReject := by
  unfold pageWrite
  rw [if_neg (by omega)]
  exact if_neg other
end PageWrite

/-! The commands (R37, R264). -/

section Commands
variable {s : State} (run : Running s)
include run

theorem exec_doorbellAccess (p : PortId) (write : Bool) (h : PcpHdr) : exec (.doorbellAccess p write h) s =
    .next (settled s (portRequest s p (if write then .wrNc else .rdNc) h)) := finish_of_running run _
theorem exec_beamReleaseDoorbell (p : PortId) (h : PcpHdr) :
    exec (.beamReleaseDoorbell p h) s = .next (settled s (portRequest s p .wrNc h)) := finish_of_running run _

variable {p : PortId} {h : PcpHdr} (up : (portSt s p).down = false) (tag : tagOpen s p h.ptag = false)
  (ret : (portSt s p).retiring = false) (out : s.ctrlOut = false) (win : inWindow35 (portSt s p) h.addr = true)
include up tag ret out win

/-- A read of the window is answered by the port that decodes it. -/
theorem exec_doorbell_read : exec (.doorbellAccess p false h) s =
    .next (settled s (freeReq (doorbell (atPort s p .rdNc h) p .rdNc h) p 0)) := by
  rw [exec_doorbellAccess run]
  have window := portRequest_of_window (op := .rdNc) up tag ret out win
  exact congrArg (Host.Outcome.next ∘ settled s) window
/-- A write of the window is taken by the port that decodes it, as is a release, which is such a write (R264). -/
theorem exec_doorbell_write : exec (.doorbellAccess p true h) s =
      .next (settled s (freeReq (doorbell (atPort s p .wrNc h) p .wrNc h) p (reqData .wrNc h)))
    ∧ exec (.beamReleaseDoorbell p h) s =
      .next (settled s (freeReq (doorbell (atPort s p .wrNc h) p .wrNc h) p (reqData .wrNc h))) := by
  rw [exec_doorbellAccess run, exec_beamReleaseDoorbell run, ← portRequest_of_window up tag ret out win]
  exact ⟨rfl, rfl⟩
end Commands

/-- Settles O37: the port answers an access of its window itself, in the state in which it decodes it, by the cases of R37. -/
theorem doorbellsAreAnswered : Obligations.DoorbellsAreAnswered := by
  unfold Obligations.DoorbellsAreAnswered
  refine ⟨?_, fun s run => ⟨exec_doorbellAccess run, exec_beamReleaseDoorbell run⟩⟩
  intro s p h run up tag ret out win page en own rd wr read done
  have ownRd : ownsPage rd p h ↔ own := ownsPage_atPort .rdNc
  have ownWr : ownsPage wr p h ↔ own := ownsPage_atPort .wrNc
  have reads := exec_doorbell_read run up tag ret out win
  obtain ⟨writes, releases⟩ := exec_doorbell_write run up tag ret out win
  refine ⟨fun lo w mine shape => ?_, fun lo w other shape => ?_, fun shape => ?_, fun no => ?_, fun lo w mine shape => ?_⟩
  · rw [reads, doorbell_read_of_own (ownRd.mpr mine) shape]
    rfl
  · rw [reads, doorbell_read_of_other (mt ownRd.mp other) shape]
    rfl
  · rw [reads, doorbell_read_of_no_shape shape]
    rfl
  · rw [writes, releases, doorbell_write_of_refused (no.imp_left (mt ownWr.mp))]
    exact ⟨rfl, rfl⟩
  · rw [writes, releases, doorbell_write_of_own (ownWr.mpr mine) shape]
    intro ofs v c running
    have same : beamCtx wr (doorbellCtx ofs) = beamCtx s c := beamCtx_atPort ..
    refine ⟨fun low => ?_, fun high mine => ?_, fun high other => ?_⟩
    · rw [pageWrite_of_low low]
      exact ⟨rfl, rfl⟩
    · rw [pageWrite_of_running high (by rw [same]; exact mine)]
      exact ⟨rfl, rfl⟩
    · rw [pageWrite_of_not_mine high (by rw [same]; exact other)]
      exact ⟨rfl, rfl⟩

end Sys2Proof.Machine
end

section
/-! PROOFS. What a slice does with a stale writeback (R102), and with a request for an address that no home-map entry matches
    (R20). -/

namespace Sys2Proof.Machine

/-- A port outside a HOLD mask has nothing of its own there (R81). -/
theorem hold_and_ownMask_eq_zero {r : Req} {p : PortId} (hsrc : r.src = .port p) {hold : BitVec 8}
    (out : hold.getLsbD p.toNat = false) : hold &&& ownMask r = 0 := by
  unfold ownMask
  rw [hsrc, BitVec.and_twoPow, out]
  rfl
/-- A writeback from a port outside HOLD, with no probe to it open for the line, is stale: counted, and no more (R102). -/
theorem pipeWb_of_stale {s : State} {pl : Place} {r : Req} {p : PortId} (hsrc : r.src = .port p)
    (hprobe : probeOpen s p r.laddr = false) (hold : (pfGet s pl r.laddr).hold.getLsbD p.toNat = false) :
    pipeWb s pl r = .passed (trouble s (blkSlc pl.sl) kSlcWbStale) := by
  have out : (pfGet s pl r.laddr).hold &&& ownMask r = 0 := hold_and_ownMask_eq_zero hsrc hold
  unfold pipeWb
  simp [hsrc, hprobe, out]

/-- The writebacks are the requests that carry no PTAG (R327). -/
theorem usesTag_eq_false_iff (op : PcpOp) : usesTag op = false ↔ op = .wbD ∨ op = .wbC ∨ op = .drop := by
  cases op <;> decide
/-- An address without a home is answered with status unmapped address, whatever the request (R20). -/
theorem addrCheck_of_homeOf_none {s : State} {r : Req} (h : homeOf s r.laddr = none) :
    addrCheck s r = some (0x01, some kSlcUnmappedAddr) := by
  unfold addrCheck
  rw [h]
/-- A live request of a port is answered by a completion with the status (R334). -/
theorem answerErr_of_port {r : Req} {p : PortId} (hsrc : r.src = .port p) (hlive : r.dead = false) (s : State) (sl : SliceId)
    (status : BitVec 8) : answerErr s sl r status = complete s p r.hdr.ptag .I false status 0 := by
  unfold answerErr refusePort
  simp [hsrc, hlive]
/-- Nobody waits for the answer to a request whose port has gone down (R338). -/
theorem answerErr_of_dead {r : Req} {p : PortId} (hsrc : r.src = .port p) (hdead : r.dead = true) (s : State) (sl : SliceId)
    (status : BitVec 8) : answerErr s sl r status = s := by
  unfold answerErr
  simp [hsrc, hdead]

/-- The state in which a slice judges a request: the stages before it are read, and the request is counted (R50, R492). -/
def atPipe (s : State) (r : Req) : State :=
  countFor (readStages s (place s r.laddr) r.laddr) (evSlc 0 (place s r.laddr).sl) 1 (some r.part)
/-- A request that takes a completion and has no home ends with its answer (R20). -/
theorem pipe_of_unmapped {s : State} {r : Req} (ser : Option Nat) (htag : usesTag r.op = true)
    (hhome : homeOf (atPipe s r) r.laddr = none) :
    pipe s r ser = .passed (answerErr (trouble (atPipe s r) (blkSlc (place s r.laddr).sl) kSlcUnmappedAddr)
      (place s r.laddr).sl r 0x01) := by
  have answered : ¬ (r.op = .wbD ∨ r.op = .wbC ∨ r.op = .drop) := by rw [← usesTag_eq_false_iff, htag]; decide
  have check := addrCheck_of_homeOf_none hhome
  unfold pipe
  unfold atPipe at check ⊢
  simp only [if_neg answered, check]
/-- A writeback that has no home is counted, and goes on to the table of R102 (R20). -/
theorem pipe_of_unmapped_writeback {s : State} {r : Req} (ser : Option Nat) (htag : usesTag r.op = false)
    (hhome : homeOf (atPipe s r) r.laddr = none) :
    pipe s r ser = pipeWb (trouble (atPipe s r) (blkSlc (place s r.laddr).sl) kSlcUnmappedAddr) (place s r.laddr) r := by
  have unmapped : (homeOf (atPipe s r) r.laddr).isNone = true := by rw [hhome]; rfl
  unfold pipe
  unfold atPipe at unmapped ⊢
  simp only [if_pos ((usesTag_eq_false_iff r.op).mp htag), if_pos unmapped]

/-- Settles O41: the clauses of R102 and R20, one by one. -/
theorem staleAndUnmappedEndHere : Obligations.StaleAndUnmappedEndHere := by
  unfold Obligations.StaleAndUnmappedEndHere
  refine ⟨fun s pl r p hsrc hprobe hold => pipeWb_of_stale hsrc hprobe hold, ?_⟩
  intro s r p ser hsrc sl u v hhome
  refine ⟨fun htag hlive => ?_, fun htag hdead => ?_, fun htag => pipe_of_unmapped_writeback ser htag hhome⟩
  · rw [pipe_of_unmapped ser htag hhome, answerErr_of_port hsrc hlive]
    rfl
  · rw [pipe_of_unmapped ser htag hhome, answerErr_of_dead hsrc hdead]
    rfl

end Sys2Proof.Machine
end

section
/-! PROOFS. What a home does with requests, acknowledgements and writebacks, and when it starts transactions and directory evictions
    (R20, R21, R24, R25, R84, R144, R146, R148, R149, R151, R162, R199). -/

namespace Sys2Proof.Machine
open Sys2Proof.Safety

/-! Arrival of a request (R144, R146). -/

/-- ERR answers a request that the home refuses, and its credit goes back (R144). -/
def refuseRequest (s : State) (sl : SliceId) (w : HomeWait) (e : HomeEntry) (status : BitVec 8) : State :=
  creditBack (send s (.err { homeHdr s sl w.far 0 e w.hdr.src with htag := w.hdr.htag, hkind := w.hdr.hkind } status false)) w.far e

section Take
variable {s : State} {i : Nat} {w : HomeWait} {status : BitVec 8}

/-- A request refused for a fault that is counted (R144). -/
theorem homeTake_of_err_counted {k : Nat} (err : arrivalErr (fresh s) w.op w.hdr w.body = some (status, some k)) :
    homeTake s i w = refuseRequest (trouble (fresh s) (blkSlc (place s w.hdr.laddr).sl) k) (place s w.hdr.laddr).sl w
      (arrivedEntry (fresh s).serial w) status := by
  unfold homeTake
  simp only [err]
  rfl
/-- A request refused for what is not counted (R144). -/
theorem homeTake_of_err (err : arrivalErr (fresh s) w.op w.hdr w.body = some (status, none)) :
    homeTake s i w = refuseRequest (fresh s) (place s w.hdr.laddr).sl w (arrivedEntry (fresh s).serial w) status := by
  unfold homeTake
  simp only [err]
  rfl
/-- The atomics of a line that run learn that another request waits (R217). -/
def noteWaiting (s : State) (sl : SliceId) (l : LineAddr) : State :=
  (homeEntries s sl).foldl (fun s x =>
    if x.2.2.hdr.laddr == l && x.2.2.op == .atom && x.2.2.state != .waiting && !x.2.2.sent then
      putHome s sl x.1 x.2.1 (some { x.2.2 with cont := true }) else s) s
/-- A request that the home accepts waits in its entry (R146). -/
theorem homeTake_of_ok (ok : arrivalErr (fresh s) w.op w.hdr w.body = none) :
    homeTake s i w =
      let sl := (place s w.hdr.laddr).sl
      putHome (noteWaiting (fresh s) sl w.hdr.laddr) sl w.far i (some (arrivedEntry (fresh s).serial w)) := by
  unfold homeTake
  simp only [ok]
  rfl
end Take

section Go
variable {s : State} {w : HomeWait}

/-- A request's turn has come: its set is not in motion (R33), and no earlier request of its line waits for an entry (R146). -/
def turnCome (s : State) (l : LineAddr) : Prop := (place s l).held = false ∧ ∀ x ∈ s.home.arrWait, x.hdr.laddr ≠ l
/-- In its turn a request takes a free entry, if there is one. -/
theorem homeGo_of_turn (turn : turnCome s w.hdr.laddr) : homeGo s w = homeRoom s (place s w.hdr.laddr).sl w.far := by
  obtain ⟨held, first⟩ := turn
  unfold homeGo
  rw [if_neg]
  simpa [held] using first
/-- Out of its turn a request takes none. -/
theorem homeGo_of_not_turn (early : ¬ turnCome s w.hdr.laddr) : homeGo s w = none := by
  unfold homeGo
  rw [if_pos]
  by_contra no
  exact early (by simpa [turnCome] using no)
/-- With no entry free a request takes none. -/
theorem homeGo_of_full (full : homeRoom s (place s w.hdr.laddr).sl w.far = none) : homeGo s w = none := by
  unfold homeGo
  simp only [full, ite_self]
end Go

/-- A request joins those that wait for their turn. -/
def queueUp (s : State) (w : HomeWait) : State := { s with home := { s.home with arrWait := s.home.arrWait ++ [w] } }

/-- Counting an event leaves those that wait as they are. -/
theorem queueUp_count (s : State) (e : Nat) (w : HomeWait) : queueUp (count s e) w =
    { count s e with home := { (count s e).home with arrWait := s.home.arrWait ++ [w] } } := by
  unfold queueUp
  rw [count_home]

section Arrive
variable {s : State} {far : Bool} {gate : NodeId} {op : ReqOp} {h : RingHdr} {b : ReqBody}

/-- In its turn, with an entry free, a request is taken (R146). -/
theorem homeArrive_of_turn {i : Nat} (turn : turnCome s h.laddr) (room : homeRoom s (place s h.laddr).sl far = some i) :
    homeArrive s far gate op h b = homeTake s i ⟨far, gate, op, h, b⟩ := by
  have go : homeGo s ⟨far, gate, op, h, b⟩ = some i := (homeGo_of_turn (w := ⟨far, gate, op, h, b⟩) turn).trans room
  unfold homeArrive
  simp only [go]
/-- A request that is not taken waits behind those that wait already, counted where no entry is free (R84, R146). -/
theorem homeArrive_of_not_go (stays : homeGo s ⟨far, gate, op, h, b⟩ = none) :
    homeArrive s far gate op h b =
      queueUp (if (homeRoom s (place s h.laddr).sl far).isNone then count s (evSlc 9 (place s h.laddr).sl) else s)
        ⟨far, gate, op, h, b⟩ := by
  unfold homeArrive
  simp only [stays]
  rfl
/-- A request that finds no entry free is counted, and waits (R84). -/
theorem homeArrive_of_full (full : homeRoom s (place s h.laddr).sl far = none) :
    homeArrive s far gate op h b = queueUp (count s (evSlc 9 (place s h.laddr).sl)) ⟨far, gate, op, h, b⟩ := by
  rw [homeArrive_of_not_go (homeGo_of_full (w := ⟨far, gate, op, h, b⟩) full), full, Option.isNone_none, if_pos rfl]
/-- A request out of its turn waits (R33, R146). -/
theorem homeArrive_of_not_turn {i : Nat} (early : ¬ turnCome s h.laddr) (room : homeRoom s (place s h.laddr).sl far = some i) :
    homeArrive s far gate op h b = queueUp s ⟨far, gate, op, h, b⟩ := by
  rw [homeArrive_of_not_go (homeGo_of_not_turn (w := ⟨far, gate, op, h, b⟩) early), room, Option.isNone_some,
    if_neg Bool.false_ne_true]
end Arrive

/-- The ring message of a request, near or far (R140, R178). -/
def requestMsg (far : Bool) (gate : NodeId) (op : ReqOp) (h : RingHdr) (b : ReqBody) : RingMsg :=
  if far then .farReq op gate h b else .req op h b
/-- The command of a request's message has the message arrive. -/
theorem exec_ringCmd_request {s : State} (run : Running s) (i : Input) (far : Bool) (gate : NodeId) (op : ReqOp) (h : RingHdr)
    (b : ReqBody) : exec (ringCmd i (requestMsg far gate op h b)) s =
      .next (settled s (arrive s i (requestMsg far gate op h b))) := by
  cases far <;> cases op <;> exact finish_of_running run _
/-- A request that comes over the own fabric arrives at its home at once; only a far one names a gate. -/
theorem arrive_fabric_request (s : State) (far : Bool) (gate : NodeId) (op : ReqOp) (h : RingHdr) (b : ReqBody) :
    arrive s .fabric (requestMsg far gate op h b) = homeArrive s far (if far then gate else 0) op h b := by
  cases far <;> rfl

/-- GACK over the own fabric reaches its home at once. -/
theorem arrive_fabric_gack (s : State) (h : RingHdr) : arrive s .fabric (.gack h) = ringGack s h := rfl
/-- WB_DATA over the own fabric reaches its home at once. -/
theorem arrive_fabric_wbData (s : State) (h : RingHdr) (b : WbBody) : arrive s .fabric (.wbData h b) = homeWb s ⟨h, b⟩ := rfl

/-! A transaction starts (R148, R149). -/

/-- With nothing that may start, nothing starts. -/
theorem homeBegin_of_none {s : State} {sl : SliceId} (idle : startable s sl = none) : homeBegin s sl = s := by
  unfold homeBegin
  rw [idle]
/-- The oldest entry that may start does, and responds in the same pass if nothing is missing (R148). -/
theorem homeBegin_of_startable {s : State} {sl : SliceId} {far : Bool} {i : Nat} {e : HomeEntry}
    (oldest : startable s sl = some (far, i, e)) : homeBegin s sl = homeTry (homeStart s sl) sl far i := by
  unfold homeBegin
  rw [oldest]
/-- A write of an UNCACHED line is done as it starts: merged into home memory and acknowledged, and its entry is free (R149). -/
theorem homeStart_of_ncwr {s : State} {sl : SliceId} {far : Bool} {i : Nat} {e : HomeEntry}
    (oldest : startable s sl = some (far, i, e)) (hop : e.op = .ncwr) :
    homeStart s sl =
      let u := homeWrite s e.hdr.laddr (mergeLine (homeLine s e.hdr.laddr) e.body.data e.body.bmask)
      let v := send u (.wrAck (homeHdr u sl far i e e.hdr.src))
      returnCredit (putHome v sl far i none) far e := by
  unfold homeStart
  simp only [oldest, hop]
  rfl

/-! Acknowledgements, writebacks, directory evictions (R151, R162, R199). -/

/-- GACK that names no open entry is ignored (R151). -/
theorem ringGack_of_none {s : State} {h : RingHdr}
    (gone : homeAt s (htagSlice h.htag) (h.hkind == 1) (htagEntry h.htag) = none) : ringGack s h = s := by
  unfold ringGack
  simp only [gone]
/-- GACK ends the wait of the entry that it names, which closes if nothing else is missing (R151). -/
theorem ringGack_of_some {s : State} {h : RingHdr} {e : HomeEntry}
    (waits : homeAt s (htagSlice h.htag) (h.hkind == 1) (htagEntry h.htag) = some e) :
    ringGack s h = tryClose (putHome s (htagSlice h.htag) (h.hkind == 1) (htagEntry h.htag) (some { e with gackDue := false }))
      (htagSlice h.htag) (h.hkind == 1) (htagEntry h.htag) := by
  unfold ringGack
  simp only [waits]

/-- The home of a line is this controller, and the line lies within its memory (R19, R21). -/
def homeHere (s : State) (l : LineAddr) (he : HomeMapEntry) : Prop :=
  homeOf s l = some he ∧ he.home = s.net.ctrlId ∧ localAddr he l < s.capacity
/-- A writeback holds one of the home's writeback buffers (R162). -/
def holdWb (s : State) : State := { s with home := { s.home with wbkUsed := s.home.wbkUsed + 1 } }

/-- Holding a writeback starts no directory eviction. -/
theorem evictOf_holdWb (s : State) (sl : SliceId) : evictOf (holdWb s) sl = evictOf s sl := rfl

section Writeback
variable {s : State} {w : HeldWb} {he : HomeMapEntry}

/-- A writeback that does not move, or that no staged entry claims, goes where the live map says (R310). -/
theorem staged_of_plain (plain : w.body.move = false ∨ stagedHere s w.hdr.laddr = none) :
    (if w.body.move then stagedHere s w.hdr.laddr else none) = none := by
  rcases plain with still | unclaimed
  · rw [still, if_neg Bool.false_ne_true]
  · rw [unclaimed, ite_self]

variable (plain : w.body.move = false ∨ stagedHere s w.hdr.laddr = none) (here : homeHere s w.hdr.laddr he)
  (calm : (evictOf s (place s w.hdr.laddr).sl).find? (fun x => x.2.hdr.laddr == w.hdr.laddr) = none)
include plain here calm

/-- A writeback of a line that no transaction and no eviction runs on is written and acknowledged (R162). -/
theorem homeWb_of_idle (idle : runningFor (holdWb s) (place s w.hdr.laddr).sl w.hdr.laddr = none) :
    homeWb s w = ackWb (holdWb s) w false := by
  obtain ⟨hhome, own, fits⟩ := here
  rw [← evictOf_holdWb] at calm
  unfold holdWb at calm idle ⊢
  unfold homeWb
  simp [staged_of_plain plain, hhome, own, Nat.not_le.mpr fits, calm, idle]
/-- A writeback of a line whose transaction has not answered is held for it (R162). -/
theorem homeWb_of_running {far : Bool} {i : Nat} {e : HomeEntry}
    (runs : runningFor (holdWb s) (place s w.hdr.laddr).sl w.hdr.laddr = some (far, i, e)) (unanswered : e.sent = false)
    (cached : e.op ≠ .ncrd ∧ e.op ≠ .ncwr) :
    homeWb s w = putHome (holdWb s) (place s w.hdr.laddr).sl far i (some { e with held := e.held ++ [w] }) := by
  obtain ⟨hhome, own, fits⟩ := here
  rw [← evictOf_holdWb] at calm
  unfold holdWb at calm runs ⊢
  unfold homeWb
  simp [staged_of_plain plain, hhome, own, Nat.not_le.mpr fits, calm, runs, unanswered, cached]
end Writeback

/-- A directory eviction begins only where a request waits for a way (R199). -/
theorem evictStart_of_none {s : State} {sl : SliceId} (content : ∀ x ∈ farqOf s sl, x.2.needWay = false) :
    evictStart s sl = s := by
  have empty : (farqOf s sl).filter (fun x => x.2.needWay && x.2.state == .waiting) = [] := by
    rw [List.filter_eq_nil_iff]
    intro x hx
    simp [content x hx]
  unfold evictStart
  simp [empty]

/-! The commands. -/

section Commands
variable {s : State} (run : Running s)
include run

theorem exec_homeTxnStart (sl : SliceId) : exec (.homeTxnStart sl) s = .next (settled s (homeBegin s sl)) :=
  finish_of_running run _
theorem exec_gack (i : Input) (h : RingHdr) : exec (.gack i h) s = .next (settled s (arrive s i (.gack h))) :=
  finish_of_running run _
theorem exec_wbData (i : Input) (h : RingHdr) (b : WbBody) :
    exec (.wbData i h b) s = .next (settled s (arrive s i (.wbData h b))) :=
  finish_of_running run _
theorem exec_fdEviction (sl : SliceId) : exec (.fdEviction sl) s = .next (settled s (evictStart s sl)) :=
  finish_of_running run _
/-- A request over the own fabric is handled by its home, which then answers. -/
theorem exec_ringCmd_fabric_request (far : Bool) (gate : NodeId) (op : ReqOp) (h : RingHdr) (b : ReqBody) :
    exec (ringCmd .fabric (requestMsg far gate op h b)) s =
      .next (settled s (homeArrive s far (if far then gate else 0) op h b)) := by
  rw [exec_ringCmd_request run, arrive_fabric_request]
end Commands

/-- Settles O52: the arrival of a request by the cases of `homeArrive` and `homeTake`; then the home's own steps, one by one. -/
theorem homesServeRequests : Obligations.HomesServeRequests := by
  unfold Obligations.HomesServeRequests
  refine ⟨?_, ?_, ?_⟩
  · intro s far gate op h b run m sl t e queue err now wait
    have arrives : exec (ringCmd .fabric m) s = .next (settled s (homeArrive s far (if far then gate else 0) op h b)) :=
      exec_ringCmd_fabric_request run far gate op h b
    have room : homeRoom s sl far = firstFree queue (if far then 32 else 64) := by
      cases far <;> rfl
    let w : HomeWait := ⟨far, if far then gate else 0, op, h, b⟩
    rw [arrives, ← room]
    refine ⟨fun i st k turn free no => ?_, fun i st turn free no => ?_, fun i turn ok free => ?_, fun full => ?_,
      fun i early free => ?_⟩
    · rw [homeArrive_of_turn turn free, homeTake_of_err_counted (w := w) no]
      rfl
    · rw [homeArrive_of_turn turn free, homeTake_of_err (w := w) no]
      rfl
    · rw [homeArrive_of_turn turn free, homeTake_of_ok (w := w) ok]
      rfl
    · rw [homeArrive_of_full full, queueUp_count]
    · rw [homeArrive_of_not_turn early free]
      rfl
  · intro s sl run
    refine ⟨fun idle => ?_, fun far i e oldest _ => ?_, fun far i e oldest hop => ?_, fun h gone => ?_, fun h e waits => ?_,
      fun h b he plain hhome own fits calm => ⟨fun idle => ?_, fun far i e runs unanswered read write => ?_⟩, fun content => ?_⟩
    · rw [exec_homeTxnStart run, homeBegin_of_none idle, settled_self]
    · rw [exec_homeTxnStart run, homeBegin_of_startable oldest]
    · rw [exec_homeTxnStart run, homeBegin_of_startable oldest, homeStart_of_ncwr oldest hop]
    · rw [exec_gack run, arrive_fabric_gack, ringGack_of_none gone, settled_self]
    · rw [exec_gack run, arrive_fabric_gack, ringGack_of_some waits]
    · rw [exec_wbData run, arrive_fabric_wbData, homeWb_of_idle (w := ⟨h, b⟩) plain ⟨hhome, own, fits⟩ calm idle]
      rfl
    · rw [exec_wbData run, arrive_fabric_wbData,
        homeWb_of_running (w := ⟨h, b⟩) plain ⟨hhome, own, fits⟩ calm runs unanswered ⟨read, write⟩]
      rfl
    · rw [exec_fdEviction run, evictStart_of_none content, settled_self]
  · intro s run
    and_intros <;> intros <;> exact finish_of_running run _

end Sys2Proof.Machine
end

section
/-! PROOFS. How DDR5 reads complete, and the periodic work of the channels and stacks: tracking and the patrol scrub
    (R241, R285, R389, R390, R392, R396, R397, R406, R410). -/

namespace Sys2Proof.Machine
open Sys2Proof.Safety

/-- What changes nothing is answered alike in and out of a reset. -/
theorem finish_self (s : State) : finish s s = .next (settle s) := by
  unfold finish
  rw [ite_self, settled_self]

/-! Reads. -/

section Read
variable {s : State} {n : BitVec 3} {pos : Nat}

/-- A read that is not there, that is of a channel that does not serve, or whose turn it is not, waits (R241, R285, R392). -/
theorem ddrReadDone_of_waits (err : EccOutcome)
    (waits : (chanReads s n)[pos]? = none ∨ chanServes s n = false
      ∨ ∃ r, (chanReads s n)[pos]? = some r ∧ readTurn s n pos r = none) : ddrReadDone s n pos err = s := by
  unfold ddrReadDone
  rcases waits with gone | idle | ⟨r, named, early⟩
  · simp only [gone]
  · cases (chanReads s n)[pos]? with
    | none => rfl
    | some r => cases turn : readTurn s n pos r <;> simp [turn, idle]
  · simp only [named, early]

/-- The state once a read has left its queue: the turn has moved on, and the channel's reissues count anew (R241, R285). -/
def ddrTaken (s : State) (n : BitVec 3) (r : DdrRead) (y : Wrr) : State :=
  let t := { s with ddrq := s.ddrq.erase r, ddrWrr := tset wrr0 s.ddrWrr n.toNat y }
  putChan t n.toNat { chanSt t n.toNat with reissues := 0 }
/-- The line that a read answers: as it was before any write behind it (R392). -/
def ddrOwn (s : State) (n : BitVec 3) (r : DdrRead) (y : Wrr) : Line := r.old.getD (ddrLine (ddrTaken s n r y) r.la)

/-- How a line without poison is answered: an error is corrected and counted, or captured, raised as DATA_UE and answered with poison
    (R389, R390). -/
def ddrAnswerClean (u : State) (n : BitVec 3) (r : DdrRead) (d : Line) : EccOutcome → State
  | .none => ddrAnswer u r d
  | .single => ddrAnswer (trouble u (blkDdr n) kDdrDdrCe) r d
  | .uncorrectable =>
    ddrAnswer (raiseErr (trouble (captureLoc u n r.la) (blkDdr n) kDdrDdrUe) (blkDdr n) 2) r ⟨d.bytes, 0xF⟩

variable {r : DdrRead} {y : Wrr} (named : (chanReads s n)[pos]? = some r) (serves : chanServes s n = true)
  (turn : readTurn s n pos r = some y)
include named serves turn

/-- A poisoned line is counted, and answered as it is (R390). -/
theorem ddrReadDone_of_poison (err : EccOutcome) (poison : (ddrOwn s n r y).psn ≠ 0) :
    ddrReadDone s n pos err =
      ddrAnswer (trouble (ddrTaken s n r y) (blkDdr n) kDdrDdrPoisonRd) r (ddrOwn s n r y) := by
  unfold ddrReadDone
  simp only [named, turn, serves, Bool.not_true, Bool.false_eq_true, if_false]
  exact if_pos poison
/-- A line without poison is answered by the error found in it (R389, R390). -/
theorem ddrReadDone_of_clean (err : EccOutcome) (clean : (ddrOwn s n r y).psn = 0) :
    ddrReadDone s n pos err = ddrAnswerClean (ddrTaken s n r y) n r (ddrOwn s n r y) err := by
  unfold ddrReadDone
  simp only [named, turn, serves, Bool.not_true, Bool.false_eq_true, if_false]
  refine (if_neg (not_not.mpr clean)).trans ?_
  cases err <;> rfl
end Read

/-! What the end of a calendared event leaves as it is (R519). -/

/-- The domains alone are chosen again. -/
theorem chooseDomain_frame (s : State) (d : Nat) : ∃ x, chooseDomain s d = { s with pwr := { s.pwr with dom := x } } := by
  unfold chooseDomain putDom
  dsimp only
  by_cases busy : (domWork s d || asleep s d || (domSt s d).entering.isSome || (domSt s d).waking.isSome) = true
  · exact ⟨s.pwr.dom, by rw [if_pos busy]⟩
  · rw [if_neg busy]
    exact ⟨_, (apply_ite (fun x => ({ s with pwr := { s.pwr with dom := tset dom0 s.pwr.dom d x } } : State)) ..).symm⟩
theorem foldl_chooseDomain_frame (ds : List Nat) (s : State) :
    ∃ x, ds.foldl chooseDomain s = { s with pwr := { s.pwr with dom := x } } := by
  induction ds generalizing s with
  | nil => exact ⟨s.pwr.dom, rfl⟩
  | cons d ds ih =>
    obtain ⟨x, hx⟩ := chooseDomain_frame s d
    obtain ⟨y, hy⟩ := ih (chooseDomain s d)
    exact ⟨y, by rw [List.foldl_cons, hy, hx]⟩
/-- A periodic event that is done leaves all but the domains as it is. -/
theorem eventDone_frame (s : State) (done : Bool) : ∃ x, eventDone s done = { s with pwr := { s.pwr with dom := x } } := by
  unfold eventDone chooseDomains
  split
  · exact foldl_chooseDomain_frame _ s
  · exact ⟨s.pwr.dom, rfl⟩
@[simp] theorem eventDone_cache (s : State) (done : Bool) : (eventDone s done).cache = s.cache := by
  obtain ⟨x, hx⟩ := eventDone_frame s done
  rw [hx]
@[simp] theorem eventDone_mem (s : State) (done : Bool) : (eventDone s done).mem = s.mem := by
  obtain ⟨x, hx⟩ := eventDone_frame s done
  rw [hx]
@[simp] theorem eventDone_pwr_scrubAt (s : State) (done : Bool) : (eventDone s done).pwr.scrubAt = s.pwr.scrubAt := by
  obtain ⟨x, hx⟩ := eventDone_frame s done
  rw [hx]
@[simp] theorem chanSt_eventDone (s : State) (done : Bool) (k : Nat) : chanSt (eventDone s done) k = chanSt s k := by
  obtain ⟨x, hx⟩ := eventDone_frame s done
  rw [hx]
  rfl
@[simp] theorem chanSt_settled (s t : State) (k : Nat) : chanSt (settled s t) k = chanSt t k := by
  unfold chanSt
  rw [settled_chans]
/-- No event is done: nothing is chosen. -/
theorem eventDone_false (s : State) : eventDone s false = s := rfl

/-! Tracking (R406, R410). -/

/-- Before its time nothing is tracked. -/
theorem track_of_early {s : State} (early : s.now.toNat < s.pwr.trackAt.toNat) (lost : BitVec 64) : track s lost = s := by
  unfold track
  rw [if_pos early]
/-- With no pseudo-channel lost, none is taken out. -/
theorem losePcs_zero (s : State) (k : Nat) : losePcs s k 0 = s := by
  unfold losePcs
  simp
/-- Tracking that finds nothing lost sets its next time, 100 ms on. -/
theorem track_zero {s : State} (late : s.pwr.trackAt.toNat ≤ s.now.toNat) :
    track s 0 = { s with pwr := { s.pwr with trackAt := BitVec.ofNat 64 (s.now.toNat + 100000000) } } := by
  unfold track
  rw [if_neg (Nat.not_lt.mpr late)]
  have low : (0 : BitVec 64).extractLsb' 0 32 = 0 := rfl
  have high : (0 : BitVec 64).extractLsb' 32 32 = 0 := rfl
  simp only [low, high, losePcs_zero, ite_self]

/-! The patrol scrub (R396, R397). -/

section Scrub
variable {s : State} {n : BitVec 3}

/-- A channel that does not scrub, does not serve, or is not due, is left alone. -/
theorem scrubBurst_of_idle (outcomes : List (Nat × EccOutcome))
    (idle : (chanSt s n.toNat).scrubEn = false ∨ chanServes s n = false ∨ s.now.toNat < tget 0 s.pwr.scrubAt n.toNat) :
    scrubBurst s n outcomes = s := by
  unfold scrubBurst
  rcases idle with off | out | early
  · simp [off]
  · simp [out]
  · simp [early]

/-- A burst without an error that ends short of the channel's top is counted, and moves the channel 4096 lines on (R396). -/
def scrubWalked (s : State) (n : BitVec 3) : State :=
  putChan (countFor s (evDdr 0 n) 4096 none) n.toNat
    { chanSt s n.toNat with scrubCa := (chanSt s n.toNat).scrubCa + 4096, sinceScrub := [] }
/-- After such a burst the next has its time (R397). -/
def scrubbed (s : State) (n : BitVec 3) : State :=
  { scrubWalked s n with
    pwr := { s.pwr with scrubAt := tset 0 s.pwr.scrubAt n.toNat (s.now.toNat + scrubPace s n) } }
/-- A burst leaves the pace of the scrub as it is (R397). -/
theorem scrubPace_scrubWalked : scrubPace (scrubWalked s n) n = scrubPace s n := by
  unfold scrubPace scrubWalked chanLines
  rw [chanSt_putChan_self]
  simp
theorem scrubbed_cache : (scrubbed s n).cache = s.cache := countFor_cache ..
theorem scrubbed_mem : (scrubbed s n).mem = s.mem := countFor_mem ..
theorem chanSt_scrubbed : chanSt (scrubbed s n) n.toNat =
    { chanSt s n.toNat with scrubCa := (chanSt s n.toNat).scrubCa + 4096, sinceScrub := [] } :=
  chanSt_putChan_self ..
theorem scrubAt_scrubbed : tget 0 (scrubbed s n).pwr.scrubAt n.toNat = s.now.toNat + scrubPace s n := tget_tset_self ..
/-- A channel that is due scrubs 4096 lines where it has as many left (R396). -/
theorem scrubBurst_of_good (on : (chanSt s n.toNat).scrubEn = true) (serves : chanServes s n = true)
    (late : tget 0 s.pwr.scrubAt n.toNat ≤ s.now.toNat) (room : (chanSt s n.toNat).scrubCa + 4096 < chanLines s) :
    scrubBurst s n [] = scrubbed s n := by
  have whole : min 4096 (chanLines s - (chanSt s n.toNat).scrubCa) = 4096 := by omega
  have counted : chanSt (countFor s (evDdr 0 n) 4096 none) n.toNat = chanSt s n.toNat := by simp [chanSt]
  unfold scrubbed
  rw [← scrubPace_scrubWalked]
  unfold scrubBurst scrubWalked
  simp [on, serves, Nat.not_lt.mpr late, whole, Nat.not_le.mpr room, counted]
end Scrub

/-! The commands. -/

theorem exec_ddrReadComplete {s : State} (run : Running s) (n : BitVec 3) (pos : Nat) (err : EccOutcome) :
    exec (.ddrReadComplete n pos err) s = .next (settled s (ddrReadDone s n pos err)) := finish_of_running run _
theorem exec_tracking {s : State} (run : Running s) (lost : BitVec 64) :
    exec (.tracking lost) s =
      .next (settled s (eventDone (track s lost) ((track s lost).pwr.trackAt != s.pwr.trackAt))) := finish_of_running run _
theorem exec_patrolScrubBurst {s : State} (run : Running s) (n : BitVec 3) (outcomes : List (Nat × EccOutcome)) :
    exec (.patrolScrubBurst n outcomes) s =
      .next (settled s (eventDone (scrubBurst s n outcomes)
        (tget 0 (scrubBurst s n outcomes).pwr.scrubAt n.toNat != tget 0 s.pwr.scrubAt n.toNat))) := finish_of_running run _

/-- Settles O31: a read by whether it may complete and by the error found; tracking and the scrub by whether they are due. -/
theorem memoryReadsAreAnswered : Obligations.MemoryReadsAreAnswered := by
  unfold Obligations.MemoryReadsAreAnswered
  refine ⟨⟨?_, ?_⟩, ?_, ?_⟩
  · intro s n pos err waits
    have still := ddrReadDone_of_waits err waits
    have done : exec (.ddrReadComplete n pos err) s = finish s (ddrReadDone s n pos err) := rfl
    rw [done, still, finish_self]
  · intro s n pos r y run named serves turn t u d
    refine ⟨fun clean => ?_, fun clean => ?_, fun clean => ?_, fun poison err => ?_⟩
    · rw [exec_ddrReadComplete run, ddrReadDone_of_clean named serves turn _ clean]
      rfl
    · rw [exec_ddrReadComplete run, ddrReadDone_of_clean named serves turn _ clean]
      rfl
    · rw [exec_ddrReadComplete run, ddrReadDone_of_clean named serves turn _ clean]
      rfl
    · rw [exec_ddrReadComplete run, ddrReadDone_of_poison named serves turn _ poison]
      rfl
  · intro s run
    refine ⟨fun lost early => ?_, fun late => ?_, fun n l idle => ?_, fun n => ?_⟩
    · rw [exec_tracking run, track_of_early early, bne_self_eq_false, eventDone_false, settled_self]
    · rw [exec_tracking run, track_zero late]
    · rw [exec_patrolScrubBurst run, scrubBurst_of_idle l idle, bne_self_eq_false, eventDone_false, settled_self]
    · intro x on serves late room
      refine ⟨_, exec_patrolScrubBurst run n [], ?_⟩
      rw [scrubBurst_of_good on serves late room]
      simp [chanSt_scrubbed, scrubAt_scrubbed, scrubbed_cache, scrubbed_mem, x]
  · intro s run
    and_intros <;> intros <;> exact finish_of_running run _

end Sys2Proof.Machine
end

section
/-! PROOFS. What a slice replays, and how its HBM operations complete (R49, R51, R56, R61, R68, R73, R74, R110, R122). -/

namespace Sys2Proof.Machine
open Sys2Proof.Safety

/-! The oldest waiting request that is ready (R56). -/

section Request
variable {s : State} {sl : SliceId}

/-- With no waiting request ready, none is replayed. -/
theorem replayRequest_of_none (idle : oldestReady s sl = none) : replayRequest s sl = s := by
  unfold replayRequest
  rw [idle]
variable {i : Nat} {e : MissEntry} (oldest : oldestReady s sl = some (i, e))
include oldest
/-- A request that passes has left its entry for what the pipeline made of it. -/
theorem replayRequest_of_passed {t : State} (passes : pipe (putMiss s sl i none) e.req (some e.serial) = .passed t)
    (last : e.behind = false) : replayRequest s sl = t := by
  unfold replayRequest
  simp [oldest, passes, last]
/-- A request that stalls keeps its entry. -/
theorem replayRequest_of_stalled {w : Short} (stalls : pipe (putMiss s sl i none) e.req (some e.serial) = .stalled w) :
    replayRequest s sl = putMiss (bounce (putMiss s sl i none) e.req w) sl i (some e) := by
  unfold replayRequest
  simp [oldest, stalls]
end Request

/-! Inputs, poison writebacks, allocations, write-combining buffers. -/

/-- The request at the head of the stalled inputs leaves them where it passes (R51). -/
theorem replayInput_of_passed {s : State} {sl : SliceId} {k : BitVec 4} {r : Req} {rest : List (BitVec 4 × Req)} {t : State}
    (head : (sliceSt s sl).stalled = (k, r) :: rest)
    (passes : pipe (tookPort (putSlice s sl { sliceSt s sl with stalled := rest }) sl r) r none = .passed t) :
    replayInput s sl k = t := by
  have first : (sliceSt s sl).stalled.findIdx? (fun e => e.1 == k) = some 0 := by simp [head, List.findIdx?_cons]
  have at0 : (sliceSt s sl).stalled[0]? = some (k, r) := by simp [head]
  have out : (sliceSt s sl).stalled.eraseIdx 0 = rest := by simp [head]
  unfold replayInput
  simp only [first, at0, out, passes]

section Owed
variable {s : State} {sl : SliceId}

/-- Without a reserved buffer free, what waits for one stays (R122). -/
theorem replayOwed_of_short (short : poisonShort s sl = true) : replayOwed s sl = s := by
  unfold replayOwed
  rw [short]
  rfl
/-- The first poison writeback owed takes the reserved buffer (R122). -/
theorem replayOwed_of_owed {o : OwedPsn} {rest : List OwedPsn} (room : poisonShort s sl = false)
    (owed : (sliceSt s sl).owedPoison = o :: rest) :
    replayOwed s sl =
      poisonWb (putSlice s sl { sliceSt s sl with owedPoison := rest }) sl o.laddr o.part o.frm o.data o.prb o.dirty := by
  unfold replayOwed
  simp [room, owed]
/-- With nothing that waits for a reserved buffer, none is taken. -/
theorem replayOwed_of_none (paid : (sliceSt s sl).owedPoison = []) (sunk : (sliceSt s sl).sinks = []) : replayOwed s sl = s := by
  unfold replayOwed
  simp [paid, sunk]

/-- The timeout of an allocation stall makes its request ready (R61). -/
theorem allocTimeout_of_alloc {i : Nat} {e : MissEntry} {w : BitVec 14} (named : missAt s sl i = some e)
    (waits : e.kind = .waiting) (alloc : e.waitOn = .alloc w) :
    allocTimeout s sl i = putMiss s sl i (some { e with waitOn := .ready }) := by
  unfold allocTimeout
  simp only [named, waits, alloc]
/-- The timeout of no entry does nothing. -/
theorem allocTimeout_of_none {i : Nat} (gone : missAt s sl i = none) : allocTimeout s sl i = s := by
  unfold allocTimeout
  rw [gone]

/-- A write-combining buffer that passes is performed (R110). -/
theorem replayWc_of_passed {i : Nat} {t : State} (passes : wcPerform s sl i = .passed t) : replayWc s sl i = t := by
  unfold replayWc
  rw [passes]
/-- A write-combining buffer that stalls is counted for what it lacks (R110). -/
theorem replayWc_of_stalled {i : Nat} {w : Short} {b : WcBuf} (stalls : wcPerform s sl i = .stalled w)
    (named : wcAt s sl i = some b) : replayWc s sl i = noteShort s sl b.part w := by
  unfold replayWc
  simp only [stalls, named]

/-- With no snoop ready, only those that were held back are launched. -/
theorem replaySnoop_of_none (idle : nextSnoop (launchHeld s sl) sl = none) : replaySnoop s sl = launchHeld s sl := by
  unfold replaySnoop
  simp only [idle]
/-- The snoop that became ready first leaves the list and enters again (R56). -/
theorem replaySnoop_of_some {w : WaitSnp} (first : nextSnoop (launchHeld s sl) sl = some w) :
    replaySnoop s sl =
      let t := launchHeld s sl
      let u := putSlice t sl { sliceSt t sl with snps := (sliceSt t sl).snps.erase w }
      snoopEnter { u with snpReady := t.snpReady.erase w.serial } w.input w.kind w.hdr w.body .again := by
  unfold replaySnoop
  simp only [first]
end Owed

/-! HBM operations (R49, R68, R73, R74, R241, R285). -/

section Hbm
variable {s : State} {sl : SliceId} {q pos : Nat}

/-- Taking an operation from its queue leaves the memories as they are. -/
theorem hbmTake_mem (write : Bool) (y : Wrr) : (hbmTake s sl q pos write y).mem = s.mem := by
  unfold hbmTake
  dsimp only
  split
  · exact count_mem ..
  · rfl

/-- Where the queue holds no operation, none is read. -/
theorem hbmReadAt_of_none (gone : (hbmq s sl q)[pos]? = none) (err : EccOutcome) (odecc : Bool) :
    hbmReadAt s sl q pos err odecc = s := by
  unfold hbmReadAt hbmRead
  simp only [gone]
/-- Where the queue holds no operation, none is accepted. -/
theorem hbmAccept_of_none (gone : (hbmq s sl q)[pos]? = none) : hbmAccept s sl q pos = s := by
  unfold hbmAccept
  simp only [gone]
/-- An operation whose turn has not come stays (R68, R241, R285). -/
theorem hbmAccept_of_no_turn (early : hbmTurn s sl q pos = none) : hbmAccept s sl q pos = s := by
  unfold hbmAccept
  simp only [early]
  split <;> simp_all
/-- A read is not accepted as a write. -/
theorem hbmAccept_of_read {o : HbmOp} (named : (hbmq s sl q)[pos]? = some o) (read : o.write = false) :
    hbmAccept s sl q pos = s := by
  cases turn : hbmTurn s sl q pos with
  | none => exact hbmAccept_of_no_turn turn
  | some y =>
    unfold hbmAccept
    simp [named, turn, read]
/-- A write of a line that nothing waits for leaves its bytes in the stack (R73). -/
theorem hbmAccept_of_write {o : HbmOp} {y : Wrr} (named : (hbmq s sl q)[pos]? = some o) (write : o.write = true)
    (turn : hbmTurn s sl q pos = some y) (alone : o.dest = .none) :
    hbmAccept s sl q pos = count (hbmWrite (hbmTake s sl q pos true y) sl o) (evHbm 1 (sl.toNat / 8)) := by
  unfold hbmAccept
  simp [named, turn, write, alone]

/-- The state in which a read is judged: the operation has left its queue, and what the stack itself corrected is counted. -/
def hbmSeen (s : State) (sl : SliceId) (q pos : Nat) (y : Wrr) (odecc : Bool) : State :=
  if odecc then trouble (hbmTake s sl q pos false y) (blkHbm (sl.toNat / 8)) kHbmHbmOdecc else hbmTake s sl q pos false y
/-- Judging a read leaves the memories as they are. -/
theorem hbmSeen_mem (y : Wrr) (odecc : Bool) : (hbmSeen s sl q pos y odecc).mem = s.mem := by
  unfold hbmSeen
  cases odecc <;> simp [hbmTake_mem]
/-- A read without an error of a chunk without poison goes to the delivery that waits for it (R68, R73). -/
theorem hbmReadAt_of_good {o : HbmOp} {err : EccOutcome} {odecc : Bool} {id : Nat} {y : Wrr}
    (named : (hbmq s sl q)[pos]? = some o) (read : o.write = false) (turn : hbmTurn s sl q pos = some y)
    (deliv : o.dest = .deliv id) (plain : o.beam = false)
    (good : (hbmCheck (hbmSeen s sl q pos y odecc) sl o err).1 = .none)
    (clean : (tget hbmSide0 s.mem.hbmSide (sideIx sl o)).poison = false) :
    hbmReadAt s sl q pos err odecc =
      let u := hbmSeen s sl q pos y odecc
      delivChunk (count u (evHbm 0 (sl.toNat / 8))) id o.chunk.toNat (hbmData u sl o) false := by
  rw [← hbmSeen_mem (sl := sl) (q := q) (pos := pos) y odecc] at clean
  have sound : (EccOutcome.none == EccOutcome.uncorrectable) = false := rfl
  unfold hbmReadAt hbmRead
  unfold hbmSeen at clean good ⊢
  simp [named, read, turn, deliv, plain, good, clean, sound]
end Hbm

/-! The commands. -/

section Commands
variable {s : State} (run : Running s) (sl : SliceId)
include run

theorem exec_replay (i : ReplayItem) : exec (.replay sl i) s = .next (settled s (replayItem s sl i)) :=
  finish_of_running run _
theorem exec_allocStallTimeout (i : BitVec 8) :
    exec (.allocStallTimeout sl i) s = .next (settled s (allocTimeout s sl i.toNat)) := finish_of_running run _
/-- The window's end closes the buffer and performs it (R110). -/
theorem exec_wcWindowExpire (i : BitVec 6) :
    exec (.wcWindowExpire sl i) s = .next (settled s (replayWc (wcClose s sl i.toNat) sl i.toNat)) := finish_of_running run _
theorem exec_hbmReadComplete (q : BitVec 2) (pos : Nat) (err : EccOutcome) (odecc : Bool) :
    exec (.hbmReadComplete sl q pos err odecc) s = .next (settled s (hbmReadAt s sl q.toNat pos err odecc)) :=
  finish_of_running run _
theorem exec_hbmWriteAccepted (q : BitVec 2) (pos : Nat) :
    exec (.hbmWriteAccepted sl q pos) s = .next (settled s (hbmAccept s sl q.toNat pos)) := finish_of_running run _
theorem exec_referredSnoop : exec (.referredSnoop sl) s = .next (settled s (replaySnoop s sl)) := finish_of_running run _

theorem exec_replay_request : exec (.replay sl .request) s = .next (settled s (replayRequest s sl)) := exec_replay run sl _
theorem exec_replay_input (k : BitVec 4) :
    exec (.replay sl (.input k)) s = .next (settled s (pumpAllRx (replayInput s sl k))) := exec_replay run sl _
theorem exec_replay_repair : exec (.replay sl .repair) s = .next (settled s (replayOwed s sl)) := exec_replay run sl _
end Commands

/-- Settles O45: each item that a slice replays by what there is of it, then the reads and writes of its HBM queues. -/
theorem slicesReplayAndHbmCompletes : Obligations.SlicesReplayAndHbmCompletes := by
  unfold Obligations.SlicesReplayAndHbmCompletes
  refine ⟨?_, ?_, ?_⟩
  · intro s sl run
    refine ⟨fun idle => ?_, fun i e t oldest passes last => ?_, fun i e w oldest stalls => ?_, fun k r rest t head passes => ?_,
      fun i => ?_, ?_, fun o rest room owed => ?_, fun short => ?_, fun paid sunk => ?_, fun i e w named waits alloc => ?_,
      fun i gone => ?_, fun i t passes => ?_, fun i w b stalls named => ?_, fun idle => ?_, fun w first => ?_⟩
    · rw [exec_replay_request run, replayRequest_of_none idle, settled_self]
    · rw [exec_replay_request run, replayRequest_of_passed oldest passes last]
    · rw [exec_replay_request run, replayRequest_of_stalled oldest stalls]
    · rw [exec_replay_input run, replayInput_of_passed head passes]
    · exact exec_replay run sl _
    · rw [exec_referredSnoop run]
      exact exec_replay run sl _
    · rw [exec_replay_repair run, replayOwed_of_owed room owed]
    · rw [exec_replay_repair run, replayOwed_of_short short, settled_self]
    · rw [exec_replay_repair run, replayOwed_of_none paid sunk, settled_self]
    · rw [exec_allocStallTimeout run, allocTimeout_of_alloc named waits alloc]
    · rw [exec_allocStallTimeout run, allocTimeout_of_none gone, settled_self]
    · rw [exec_wcWindowExpire run, replayWc_of_passed passes]
    · rw [exec_wcWindowExpire run, replayWc_of_stalled stalls named]
    · rw [exec_referredSnoop run, replaySnoop_of_none idle]
    · rw [exec_referredSnoop run, replaySnoop_of_some first]
  · intro s sl q pos run
    refine ⟨fun err odecc gone => ⟨?_, ?_⟩, fun o err odecc id y named read turn deliv plain => ?_,
      fun o y named write turn alone => ?_, fun o named early => ?_, fun o named read => ?_⟩
    · rw [exec_hbmReadComplete run, hbmReadAt_of_none gone, settled_self]
    · rw [exec_hbmWriteAccepted run, hbmAccept_of_none gone, settled_self]
    · intro v u good clean
      rw [exec_hbmReadComplete run, hbmReadAt_of_good named read turn deliv plain good clean]
      rfl
    · rw [exec_hbmWriteAccepted run, hbmAccept_of_write named write turn alone]
    · rw [exec_hbmWriteAccepted run, hbmAccept_of_no_turn early, settled_self]
    · rw [exec_hbmWriteAccepted run, hbmAccept_of_read named read, settled_self]
  · intro s run
    and_intros <;> intros <;> exact finish_of_running run _

end Sys2Proof.Machine
end

section
/-! PROOFS. What comes back to a requesting node: grants, data, acknowledgements and errors; and the lines that come to a home, a
    directory eviction or a gate (R71, R72, R96, R111, R115, R144, R163, R167, R195). -/

namespace Sys2Proof.Machine
open Sys2Proof.Safety

/-! An entry that waits for its answer. -/

/-- The message names a miss entry whose request has been sent, that is still wanted, and whose timer has not run out (R96). -/
structure Awaits (s : State) (h : RingHdr) (e : MissEntry) : Prop where
  named : missAt s (txnSlice h.txn) (txnEntry h.txn) = some e
  placed : e.kind ≠ .waiting
  sent : e.reqSent = true
  wanted : e.abandoned = false
  inTime : due s e.start e.tmo = false

/-- No timer has run out: nothing is counted. -/
theorem race_false (s : State) (b : Nat) : race s b false = s := rfl

/-- The entry with the grant (R96). -/
def withGrant (s : State) (e : MissEntry) (h : RingHdr) (g : GrantBody) : MissEntry :=
  { e with grant := some g, grantHdr := some h, grantTick := s.now, dtmo := tmoData s
           tr := if e.tr = .smW ∧ g.dsrc ≠ 0 then .imW else e.tr }
/-- The entry with the line that the message carries (R72). -/
def withLine (e : MissEntry) (d : DataBody) : MissEntry :=
  { e with fill := d.line, fillV := 0xF, fillDirty := d.dirty, supData := e.supData || d.srck != 0 }

section Nobody
variable {s : State} {h : RingHdr} (gone : missAt s (txnSlice h.txn) (txnEntry h.txn) = none)
include gone

/-- A grant that no entry waits for is counted late. -/
theorem ringGrant_of_none (g : GrantBody) :
    ringGrant s h g = trouble s (blkSlc (txnSlice h.txn)) kSlcLateGrant := by
  unfold ringGrant
  simp only [gone]
/-- Data that no entry waits for is counted late. -/
theorem ringData_of_none (d : DataBody) : ringData s h d = trouble s (blkSlc (txnSlice h.txn)) kSlcLateDat := by
  unfold ringData
  simp only [gone]
/-- An acknowledgement that no entry waits for is ignored. -/
theorem ringWrAck_of_none : ringWrAck s h = s := by
  unfold ringWrAck
  simp only [gone]
/-- An error that no entry waits for is ignored. -/
theorem ringErr_of_none (st : BitVec 8) : ringErr s h st false = s := by
  unfold ringErr
  simp only [gone, Bool.false_eq_true, if_false]
end Nobody

section Somebody
variable {s : State} {h : RingHdr} {e : MissEntry} (waits : Awaits s h e)
include waits

/-- The first grant is kept by its entry; what follows depends on whether data comes with it (R96, R163). -/
theorem ringGrant_of_awaits {g : GrantBody} (first : e.grant = none) :
    ringGrant s h g =
      let sl := txnSlice h.txn
      let i := txnEntry h.txn
      let t := putMiss s sl i (some (withGrant s e h g))
      let u := if g.dsrc = 0 then t else forwardChunks t sl i
      if e.noInstall ∨ g.dsrc = 0 then tryFinish u sl i else u := by
  obtain ⟨named, placed, sent, wanted, inTime⟩ := waits
  have awaited : ¬ (e.kind = .waiting ∨ ¬ e.reqSent = true ∨ e.grant.isSome = true) := by simp [placed, sent, first]
  unfold ringGrant withGrant
  by_cases upgrade : e.tr = .smW ∧ g.dsrc ≠ 0
  · simp only [named, if_neg awaited, wanted, inTime, race_false, if_pos upgrade, Bool.false_eq_true, false_and, if_false]
  · simp only [named, if_neg awaited, wanted, inTime, race_false, if_neg upgrade, Bool.false_eq_true, false_and, if_false]
/-- Before the grant a line is kept by its entry, and its chunks go on to the port: the first that comes, and a supplier's in place
    of the home's (R72, R163). -/
theorem ringData_of_awaits {d : DataBody} (ungranted : e.grant = none) (takes : e.supData = false ∨ d.srck ≠ 0) :
    ringData s h d =
      let sl := txnSlice h.txn
      let i := txnEntry h.txn
      let u := forwardChunks (putMiss s sl i (some (withLine e d))) sl i
      if e.noInstall then tryFinish u sl i else u := by
  obtain ⟨named, placed, sent, -, -⟩ := waits
  have keeps : ¬ (e.supData = true ∧ d.srck = 0) := by
    rintro ⟨supplied, home⟩
    exact takes.elim (fun no => Bool.false_ne_true (no.symm.trans supplied)) (fun no => no home)
  have awaited : ¬ (e.kind = .waiting ∨ ¬ e.reqSent = true) := by simp [placed, sent]
  unfold ringData withLine
  simp only [named, if_neg awaited, if_neg keeps, ungranted, race_false]
/-- The home's line comes too late where a supplier's is there already (R163). -/
theorem ringData_of_supplied {d : DataBody} (supplied : e.supData = true) (home : d.srck = 0) : ringData s h d = s := by
  obtain ⟨named, placed, sent, -, -⟩ := waits
  unfold ringData
  simp [named, placed, sent, supplied, home]
/-- The acknowledgement of a port's write ends the entry and completes the request (R111). -/
theorem ringWrAck_of_port {p : PortId} (port : e.req.src = .port p) :
    ringWrAck s h =
      answer (closeEntry s (txnSlice h.txn) (txnEntry h.txn) (place s e.req.laddr)) e.req .I false 0 := by
  obtain ⟨named, placed, sent, wanted, inTime⟩ := waits
  unfold ringWrAck
  simp [named, placed, sent, wanted, inTime, port, race_false]
/-- An error answers the request and ends the entry (R144). -/
theorem ringErr_of_awaits (st : BitVec 8) :
    ringErr s h st false =
      let u := answerErr s (txnSlice h.txn) e.req (errStatus st)
      closeEntry u (txnSlice h.txn) (txnEntry h.txn) (place u e.req.laddr) := by
  obtain ⟨named, placed, sent, wanted, inTime⟩ := waits
  unfold ringErr
  simp [named, placed, sent, wanted, inTime, race_false]
end Somebody

/-! Acknowledgements of writebacks (R115). -/

/-- An error of a writeback is its acknowledgement (R144). -/
theorem ringErr_of_writeback (s : State) (h : RingHdr) (st : BitVec 8) : ringErr s h st true = penAcked s h.txn := rfl
/-- The acknowledgement frees the buffer whose message is out; one that comes after the timer is counted (R115, R168). -/
theorem penAcked_of_mif {s : State} {txn : BitVec 12} {b : PenBuf}
    (named : penAt s (txnSlice txn) (txn.extractLsb' 0 7).toNat = some b) (out : b.mif = true) :
    penAcked s txn =
      let sl := txnSlice txn
      let r := if b.wbFired = false ∧ due s b.wbStart b.wbTmo = true then trouble s (blkSlc sl) kSlcTimeoutRace else s
      penFreed (putPen r sl (txn.extractLsb' 0 7).toNat none) sl b := by
  have slice : blkSlc (txnSlice txn) < 23 := by
    unfold blkSlc
    omega
  unfold txnSlice at named slice
  unfold penAcked race txnSlice
  simp only [named, out, slice, if_true, Bool.and_eq_true, Bool.not_eq_true']
/-- An acknowledgement that no buffer waits for is counted (R373). -/
theorem penAcked_of_stray {s : State} {txn : BitVec 12}
    (stray : ∀ b, penAt s (txnSlice txn) (txn.extractLsb' 0 7).toNat = some b → b.mif = false) :
    penAcked s txn = trouble s (blkSlc (txnSlice txn)) kSlcWbackStray := by
  unfold txnSlice at stray
  unfold penAcked txnSlice
  cases named : penAt s (txn.extractLsb' 8 4) (txn.extractLsb' 0 7).toNat with
  | none => simp only [named]
  | some b => simp only [named, stray b named, Bool.false_eq_true, if_false]

/-! DATA with TOHOME (R163, R195). -/

section ToHome
variable {s : State} {h : RingHdr} (d : DataBody)

/-- A line that no home entry waits for is dropped, and counted. -/
theorem ringDataHome_of_no_home (kind : h.hkind = 0 ∨ h.hkind = 1)
    (gone : homeAt s (htagSlice h.htag) (h.hkind == 1) (htagEntry h.htag) = none) :
    ringDataHome s h d = trouble s (blkSlc (htagSlice h.htag)) kSlcLateDat := by
  unfold ringDataHome
  rcases kind with kind | kind <;>
  · rw [kind] at gone ⊢
    simp_all
/-- The home entry that waits keeps the line in place of its DDR5 read. -/
theorem ringDataHome_of_home {e : HomeEntry} (kind : h.hkind = 0 ∨ h.hkind = 1)
    (named : homeAt s (htagSlice h.htag) (h.hkind == 1) (htagEntry h.htag) = some e) (unsent : e.sent = false)
    (begun : e.state ≠ .waiting) :
    ringDataHome s h d =
      let sl := htagSlice h.htag
      let i := htagEntry h.htag
      homeTry (putHome s sl (h.hkind == 1) i (some { e with toHome := some d.line })) sl (h.hkind == 1) i := by
  unfold ringDataHome
  rcases kind with kind | kind <;>
  · rw [kind] at named ⊢
    simp_all
/-- A line that no directory eviction waits for is dropped, and counted. -/
theorem ringDataHome_of_no_eviction (kind : h.hkind = 2)
    (gone : tget none s.home.evict ((htagSlice h.htag).toNat * 4 + htagEntry h.htag) = none) :
    ringDataHome s h d = trouble s (blkSlc (htagSlice h.htag)) kSlcLateDat := by
  unfold ringDataHome
  simp [kind, gone]
/-- The directory eviction keeps the line. -/
theorem ringDataHome_of_eviction {e : HomeEntry} (kind : h.hkind = 2)
    (named : tget none s.home.evict ((htagSlice h.htag).toNat * 4 + htagEntry h.htag) = some e) :
    ringDataHome s h d =
      evictEnd (putEvict s (htagSlice h.htag) (htagEntry h.htag) (some { e with toHome := some d.line }))
        (htagSlice h.htag) (htagEntry h.htag) := by
  unfold ringDataHome
  simp [kind, named]
/-- A line that no recall of the gate waits for is dropped, and counted. -/
theorem ringDataHome_of_no_recall (kind : h.hkind = 3) (gone : recallAt s (htagEntry h.htag) = none) :
    ringDataHome s h d = trouble s (blkSlc (sliceOf h.laddr)) kSlcLateDat := by
  unfold ringDataHome
  simp [kind, gone]
/-- The gate passes the line on to the home that recalled it. -/
theorem ringDataHome_of_recall {r : RecallEntry} (kind : h.hkind = 3) (named : recallAt s (htagEntry h.htag) = some r) :
    ringDataHome s h d =
      send (putRecall s (htagEntry h.htag) (if r.acked then none else some { r with relayed := true }))
        (.data { h with dst := r.hdr.src, htag := r.hdr.htag, hkind := r.hdr.hkind } d) := by
  unfold ringDataHome
  simp [kind, named]
end ToHome

/-! The commands, of messages that come over the own fabric. -/

section Commands
variable {s : State} (run : Running s) (h : RingHdr)
include run

theorem exec_grant_fabric (g : GrantBody) : exec (.grant .fabric h g) s = .next (settled s (ringGrant s h g)) :=
  finish_of_running run _
theorem exec_data_fabric {d : DataBody} (here : d.tohome = false) :
    exec (.data .fabric h d) s = .next (settled s (ringData s h d)) := by
  have own : ringDataAny s h d = ringData s h d := by
    unfold ringDataAny
    rw [here]
    rfl
  rw [← own]
  exact finish_of_running run _
theorem exec_data_toHome {d : DataBody} (away : d.tohome = true) :
    exec (.data .fabric h d) s = .next (settled s (ringDataHome s h d)) := by
  have home : ringDataAny s h d = ringDataHome s h d := by
    unfold ringDataAny
    rw [away]
    rfl
  rw [← home]
  exact finish_of_running run _
theorem exec_wrAck_fabric : exec (.wrAck .fabric h) s = .next (settled s (ringWrAck s h)) := finish_of_running run _
theorem exec_wbAck_fabric (discarded : Bool) :
    exec (.wbAck .fabric h discarded) s = .next (settled s (penAcked s h.txn)) := finish_of_running run _
theorem exec_err_fabric (st : BitVec 8) (wba : Bool) :
    exec (.err .fabric h st wba) s = .next (settled s (ringErr s h st wba)) := finish_of_running run _
end Commands

/-- Settles O53: each message by whether an entry, a buffer or a recall waits for it. -/
theorem answersReachTheirEntry : Obligations.AnswersReachTheirEntry := by
  unfold Obligations.AnswersReachTheirEntry
  refine ⟨?_, ?_, ?_⟩
  · intro s h run sl i pl
    refine ⟨fun gone => ⟨fun g => ?_, fun d here => ?_, ?_, fun st => ?_⟩, fun e named placed sent wanted inTime => ?_,
      fun b d st named out => ⟨?_, ?_⟩, fun d stray => ?_⟩
    · rw [exec_grant_fabric run, ringGrant_of_none gone]
    · rw [exec_data_fabric run h here, ringData_of_none gone]
    · rw [exec_wrAck_fabric run, ringWrAck_of_none gone, settled_self]
    · rw [exec_err_fabric run, ringErr_of_none gone, settled_self]
    · have waits : Awaits s h e := ⟨named, placed, sent, wanted, inTime⟩
      refine ⟨fun g first bare => ?_, fun g first data => ?_, fun d here ungranted takes => ?_, fun d here supplied home => ?_,
        fun p port => ?_, fun st => ?_⟩
      · rw [exec_grant_fabric run, ringGrant_of_awaits waits first]
        simp only [withGrant, bare, ne_eq, not_true, and_false, or_true, if_true, if_false]
        rfl
      · rw [exec_grant_fabric run, ringGrant_of_awaits waits first]
        simp only [withGrant, ne_eq, data, not_false_eq_true, and_true, or_false, if_false]
        rfl
      · rw [exec_data_fabric run h here, ringData_of_awaits waits ungranted takes]
        rfl
      · rw [exec_data_fabric run h here, ringData_of_supplied waits supplied home, settled_self]
      · rw [exec_wrAck_fabric run, ringWrAck_of_port waits port]
      · rw [exec_err_fabric run, ringErr_of_awaits waits]
    · rw [exec_wbAck_fabric run, penAcked_of_mif named out]
    · rw [exec_err_fabric run, ringErr_of_writeback, penAcked_of_mif named out]
    · rw [exec_wbAck_fabric run, penAcked_of_stray stray]
  · intro s h d run away sl i
    rw [exec_data_toHome run h away]
    refine ⟨fun kind gone => ?_, fun e kind named unsent begun => ?_, fun kind gone => ?_, fun e kind named => ?_,
      fun kind gone => ?_, fun r kind named => ?_⟩
    · rw [ringDataHome_of_no_home d kind gone]
    · rw [ringDataHome_of_home d kind named unsent begun]
    · rw [ringDataHome_of_no_eviction d kind gone]
    · rw [ringDataHome_of_eviction d kind named]
    · rw [ringDataHome_of_no_recall d kind gone]
    · rw [ringDataHome_of_recall d kind named]
  · intro s run
    and_intros <;> intros <;> exact finish_of_running run _

end Sys2Proof.Machine
end

section
/-! PROOFS. Which port's answer a probe takes (R99, R337, R338), and the UPG that is served as RD_EX (R92). -/

namespace Sys2Proof.Machine
open Sys2Proof.Safety

section Answers
variable {s : State} {p : PortId} {tag : BitVec 8}

/-- With nothing held back for a port, nothing leaves for it. -/
theorem pumpHeld_of_nothing_held (probes : (portSt s p).probeHold = []) (completions : (portSt s p).cmpHold = []) :
    pumpHeld s p = s := by
  unfold pumpHeld
  rw [probes, completions]
  rfl
/-- A port that no operation retires does not end its retirement. -/
theorem retireEnd_of_not_retiring (stays : (portSt s p).retire = none) : retireEnd s p = s := by
  unfold retireEnd
  simp only [stays]
/-- A response that names no open probe is a protocol error (R99). -/
theorem probeResp_of_none (l : LineAddr) (d : Option Line) (closed : probeAt s p tag.toNat = none) :
    probeResp s p tag l d = protoErr s p := by
  unfold probeResp
  simp only [closed]
/-- A response for another line than its probe's is a protocol error (R99). -/
theorem probeResp_of_other_line {l : LineAddr} {pb : Probe} (d : Option Line) (opened : probeAt s p tag.toNat = some pb)
    (other : pb.laddr ≠ l) : probeResp s p tag l d = protoErr s p := by
  unfold probeResp
  simp only [opened, if_pos other]
/-- The state in which a probe's tag is free and its owner has the answer: the line that came, or that of a WB_D
    taken as its data before (R99, R101). -/
def probeAnswered (s : State) (p : PortId) (tag : BitVec 8) (pb : Probe) (d : Option Line) : State :=
  probeAnswer (putProbe s p tag.toNat none) pb p (match d with | some x => some x | none => pb.taken)
/-- The response to an open probe is taken, and all of it where the port holds nothing back and stays (R99, R337). -/
theorem probeResp_of_open {pb : Probe} (d : Option Line) (opened : probeAt s p tag.toNat = some pb)
    (probes : (portSt (probeAnswered s p tag pb d) p).probeHold = [])
    (completions : (portSt (probeAnswered s p tag pb d) p).cmpHold = [])
    (stays : (portSt (probeAnswered s p tag pb d) p).retire = none) :
    probeResp s p tag pb.laddr d = probeAnswered s p tag pb d := by
  have pumped : pumpHeld (probeAnswered s p tag pb d) p = probeAnswered s p tag pb d :=
    pumpHeld_of_nothing_held probes completions
  have served : probeResp s p tag pb.laddr d =
      retireEnd (if (portSt (pumpHeld (probeAnswered s p tag pb d) p) p).retire.isSome
        then retireCount (pumpHeld (probeAnswered s p tag pb d) p) p
          ((pfOfPort s p).length - (pfOfPort (pumpHeld (probeAnswered s p tag pb d) p) p).length) 0
        else pumpHeld (probeAnswered s p tag pb d) p) p := by
    unfold probeResp
    simp only [opened, ne_eq, not_true, if_false]
    rfl
  rw [served, pumped, stays]
  exact retireEnd_of_not_retiring stays

theorem exec_prsp (run : Running s) (l : LineAddr) (d : Option Line) :
    exec (.prsp p tag l d) s = .next (settled s (if (portSt s p).down then s else probeResp s p tag l d)) :=
  finish_of_running run _
theorem exec_prsp_of_down (run : Running s) (l : LineAddr) (d : Option Line) (down : (portSt s p).down = true) :
    exec (.prsp p tag l d) s = .next (settle s) := by
  rw [exec_prsp run, if_pos down, settled_self]
theorem exec_prsp_of_up (run : Running s) (l : LineAddr) (d : Option Line) (up : (portSt s p).down = false) :
    exec (.prsp p tag l d) s = .next (settled s (probeResp s p tag l d)) := by
  rw [exec_prsp run, if_neg (Bool.eq_false_iff.mp up)]
end Answers

/-- Settles O38: by whether the link is down, then by the probe that the tag names. -/
theorem probesAreAnswered : Obligations.ProbesAreAnswered := by
  unfold Obligations.ProbesAreAnswered
  refine ⟨fun s p tag l d run => ⟨fun down => ?_, fun up closed => ?_, fun pb up opened other => ?_, fun pb up opened same => ?_⟩,
    fun s run p tag l d => exec_prsp run l d⟩
  · exact exec_prsp_of_down run l d down
  · rw [exec_prsp_of_up run l d up, probeResp_of_none l d closed]
  · rw [exec_prsp_of_up run l d up, probeResp_of_other_line d opened other]
  · subst same
    intro w probes completions stays
    rw [exec_prsp_of_up run _ d up, probeResp_of_open d opened probes completions stays]
    rfl

/-- An UPG whose port is not in HOLD, or whose line is in X or I, takes RD_EX's way through the pipeline (R92). -/
theorem pipeEx_of_upg_as_rdEx {s : State} {pl : Place} {r : Req} (ser : Option Nat) (upg : r.op = .upg)
    (lacks : (pfGet (demote s pl) pl r.laddr).hold &&& ownMask r = 0
      ∨ stateHere (demote s pl) pl = .X ∨ stateHere (demote s pl) pl = .I) :
    pipeEx s pl r ser = pipeEx s pl { r with op := .rdEx } ser := by
  unfold pipeEx
  simp only [upg, lacks, true_and, if_true, reduceCtorEq, false_and, if_false]
  rfl
/-- A line whose sector is in no way is in I (R92). -/
theorem stateHere_of_findWay_none {s : State} {pl : Place} (absent : findWay s pl = none) : stateHere s pl = .I := by
  unfold stateHere
  rw [absent]

/-- Settles O40: each of the four conditions is one under which the pipeline makes the UPG a RD_EX. -/
theorem upgWithoutHoldIsServedAsRdEx : Obligations.UpgWithoutHoldIsServedAsRdEx := by
  unfold Obligations.UpgWithoutHoldIsServedAsRdEx
  intro s pl r p ser upg src t cause
  have lacks : (pfGet t pl r.laddr).hold &&& ownMask r = 0 ∨ stateHere t pl = .X ∨ stateHere t pl = .I := by
    rcases cause with out | far | invalid | absent
    · exact .inl (hold_and_ownMask_eq_zero src out)
    · exact .inr (.inl far)
    · exact .inr (.inr invalid)
    · exact .inr (.inr (stateHere_of_findWay_none absent))
  have exclusive : pipeDecide s pl r ser = pipeEx s pl r ser := by
    unfold pipeDecide
    simp only [src, upg]
  have asRdEx : pipeDecide s pl { r with op := .rdEx } ser = pipeEx s pl { r with op := .rdEx } ser := by
    unfold pipeDecide
    simp only [src]
  rw [exclusive, asRdEx, pipeEx_of_upg_as_rdEx ser upg lacks]

end Sys2Proof.Machine
end

section
/-! PROOFS. The penumbra's buffers: the end of a hold, and the writeback (R115). -/

namespace Sys2Proof.Machine
open Sys2Proof.Safety

section Penumbra
variable {s : State} {sl : SliceId} {i : Nat} {b : PenBuf}

/-- The hold of a buffer that has not been sent ends (R115). -/
theorem penHoldEnd_of_here (named : penAt s sl i = some b) (here : b.mif = false) :
    penHoldEnd s sl i = putPen s sl i (some { b with holdt := 0 }) := by
  unfold penHoldEnd
  simp only [named, here, Bool.false_eq_true, if_false]
/-- A buffer on its way has no hold to end. -/
theorem penHoldEnd_of_sent (named : penAt s sl i = some b) (sent : b.mif = true) : penHoldEnd s sl i = s := by
  unfold penHoldEnd
  simp only [named, sent, if_true]
/-- A writeback that may not go yet waits (R115). -/
theorem penWriteback_of_waits (named : penAt s sl i = some b) (waits : penMayWrite s sl b = false) :
    penWriteback s sl i = s := by
  unfold penWriteback
  simp only [named, waits, Bool.not_false, if_true]
/-- The credit of a writeback is spent, and the writeback is counted for its partition (R115). -/
def wbCounted (s : State) (b : PenBuf) : State :=
  onPart (wbkSpend s false b.dest) b.part fun x => { x with writebacks := x.writebacks + 1 }
/-- A writeback that may go for the first time spends its credit, is counted, and leaves; the buffer notes its way and
    its time (R115). -/
theorem penWriteback_of_may (named : penAt s sl i = some b) (may : penMayWrite s sl b = true) (first : b.resent = false) :
    penWriteback s sl i =
      send (putPen (wbCounted s b) sl i (some { noteWb (wbCounted s b) b (wbMsg (wbkSpend s false b.dest) sl i b) with
        mif := true, wbStart := s.now, wbTmo := tmoWback s })) (wbMsg (wbkSpend s false b.dest) sl i b) := by
  unfold penWriteback
  simp only [named, may, first, Bool.not_true, Bool.false_eq_true, if_false]
  rfl
/-- The WB_DATA of a buffer that carries good data, sent for the first time (R115). -/
theorem wbMsg_of_good (s : State) (sl : SliceId) (i : BitVec 7) (first : b.resent = false) (good : b.poison = false) :
    wbMsg s sl i.toNat b = .wbData
      { src := s.net.ctrlId, dst := b.dest, epoch := myEpoch s, txn := sl ++ (0 : BitVec 1) ++ i, htag := 0, hkind := 0
        laddr := b.laddr } ⟨b.part, b.move, false, b.data⟩ := by
  unfold wbMsg
  simp only [first, good, Bool.false_eq_true, if_false, BitVec.ofNat_toNat, BitVec.setWidth_eq]

theorem exec_penumbraHoldEnd (run : Running s) (sl : SliceId) (i : BitVec 7) :
    exec (.penumbraHoldEnd sl i) s = .next (settled s (penHoldEnd s sl i.toNat)) := finish_of_running run _
theorem exec_penumbraWriteback (run : Running s) (sl : SliceId) (i : BitVec 7) :
    exec (.penumbraWriteback sl i) s = .next (settled s (penWriteback s sl i.toNat)) := finish_of_running run _
end Penumbra

/-- Settles O47: by whether the buffer has been sent, and by whether its writeback may go. -/
theorem penumbraBuffersAreWrittenBack : Obligations.PenumbraBuffersAreWrittenBack := by
  unfold Obligations.PenumbraBuffersAreWrittenBack
  refine ⟨fun s sl i b run named => ⟨fun here => ?_, fun sent => ?_, fun waits => ?_, fun may first good => ?_⟩,
    fun s run => ⟨exec_penumbraHoldEnd run, exec_penumbraWriteback run⟩⟩
  · rw [exec_penumbraHoldEnd run, penHoldEnd_of_here named here]
  · rw [exec_penumbraHoldEnd run, penHoldEnd_of_sent named sent, settled_self]
  · rw [exec_penumbraWriteback run, penWriteback_of_waits named waits, settled_self]
  · rw [exec_penumbraWriteback run, penWriteback_of_may named may first, wbMsg_of_good _ sl i first good]
    rfl

end Sys2Proof.Machine
end

section
/-! PROOFS. The walkers of a slice: what a scrub step leaves as it is, and how a flush, a drain, a fold, a scrub and a move go on
    (R33, R113, R124, R310, R561, R565). -/

namespace Sys2Proof.Machine
open Sys2Proof.Safety

/-! No read of a walker makes time pass. -/

/-- Steps that each keep the time keep it together. -/
theorem foldl_now {α : Type} {f : State → α → State} (keeps : ∀ s x, (f s x).now = s.now) (xs : List α) (s : State) :
    (xs.foldl f s).now = s.now := by
  induction xs generalizing s with
  | nil => rfl
  | cons x xs ih => rw [List.foldl_cons, ih, keeps]

section Time
variable (s : State) (sl : SliceId) (set : BitVec 14) (w : Nat)

@[simp] theorem controllerOut_now : (controllerOut s).now = s.now := by
  unfold controllerOut
  rfl
@[simp] theorem syncShadow_now : (syncShadow s sl set w).now = s.now := rfl
@[simp] theorem tookWalker_now : (tookWalker s sl).now = s.now := rfl
@[simp] theorem pushHbm_now (o : HbmOp) : (pushHbm s sl o).now = s.now := rfl
@[simp] theorem retireWay_now : (retireWay s sl set w).now = s.now := by
  unfold retireWay
  dsimp only
  split
  · rw [trouble_now, putSlice_now]
  · rw [raiseErr_now, putSlice_now]
@[simp] theorem readTag_now : (readTag s sl set w).now = s.now := by
  unfold readTag
  dsimp only
  split
  · rfl
  · rw [trouble_now, putTag_now]
  · split
    · rw [syncShadow_now, putTag_now, trouble_now]
    · rw [controllerOut_now, raiseErr_now, putTag_now, putSlice_now, retireWay_now, trouble_now]
@[simp] theorem readSet_now : (readSet s sl set).now = s.now := foldl_now (fun s w => readTag_now s sl set w) ..
@[simp] theorem countRsvdLine_now (ln : BitVec 5) : (countRsvdLine s sl set w ln).now = s.now := by
  unfold countRsvdLine
  split
  · rw [trouble_now]
  · rfl
@[simp] theorem countRsvdWay_now : (countRsvdWay s sl set w).now = s.now :=
  foldl_now (fun s _ => countRsvdLine_now s sl set w _) ..
@[simp] theorem walkSetRead_now : (walkSetRead s sl set).now = s.now := by
  have keeps (s : State) (w : Nat) : (if (tagAt s sl set w).sv then countRsvdWay s sl set w else s).now = s.now := by
    split
    · rw [countRsvdWay_now]
    · rfl
  unfold walkSetRead
  rw [foldl_now keeps, readSet_now]
@[simp] theorem scrubRqh_now : (scrubRqh s sl set w).now = s.now := by
  unfold scrubRqh
  dsimp only
  split
  · rfl
  · rw [putTag_now]
@[simp] theorem queueReads_now (pl : Place) (l : LineAddr) (cs : List Nat) (d : HbmDest) (b : HbmFor) :
    (queueReads s pl l w cs d b).now = s.now := foldl_now (fun s _ => pushHbm_now s pl.sl _) ..
@[simp] theorem scrubWay_now : (scrubWay s sl set w).now = s.now := by
  unfold scrubWay
  dsimp only
  split
  · rfl
  · rw [foldl_now, scrubRqh_now]
    · split
      · rfl
      · split <;> simp only [syncShadow_now, trouble_now]
    · intro s n
      split
      · rfl
      · rw [queueReads_now]
end Time

@[simp] theorem eventDone_now (s : State) (done : Bool) : (eventDone s done).now = s.now := by
  obtain ⟨x, hx⟩ := eventDone_frame s done
  rw [hx]
@[simp] theorem eventDone_pwr_walkAt (s : State) (done : Bool) : (eventDone s done).pwr.walkAt = s.pwr.walkAt := by
  obtain ⟨x, hx⟩ := eventDone_frame s done
  rw [hx]
@[simp] theorem sliceSt_eventDone (s : State) (done : Bool) (sl : SliceId) : sliceSt (eventDone s done) sl = sliceSt s sl := by
  unfold sliceSt
  rw [eventDone_cache]
@[simp] theorem sliceSt_settled (s t : State) (sl : SliceId) : sliceSt (settled s t) sl = sliceSt t sl := by
  unfold sliceSt
  rw [settled_cache]

section Walkers
variable {s : State} {sl : SliceId}

/-! A scrub step (R561). -/

/-- The reads of a scrub step: the set's tags, and the chunks of its lines (R561, R562). -/
def scrubReads (s : State) (sl : SliceId) : State :=
  let x := sliceSt s sl
  let t := tookWalker s sl
  let t := if x.scrubSet = 0 then
      let h := hbmSt t (sl.toNat / 8)
      putHbmSt t (sl.toNat / 8) { h with laneErrs := h.laneErrs.filter fun e => e.1 / 128 != sl.toNat % 8 }
    else t
  (List.range 16).foldl (fun t w => scrubWay t sl x.scrubSet w) (walkSetRead t sl x.scrubSet)
/-- The end of a scrub step of `set`: the next set is named, and its time, a `pace` from now (R561). -/
def scrubGoesOn (t : State) (sl : SliceId) (set : BitVec 14) (pace : Nat) : State :=
  let u := putSlice t sl { sliceSt t sl with scrubSet := set + 1 }
  { u with pwr := { u.pwr with walkAt := tset 0 u.pwr.walkAt sl.toNat (u.now.toNat + pace) } }
theorem scrubGoesOn_now (t : State) (sl : SliceId) (set : BitVec 14) (pace : Nat) :
    (scrubGoesOn t sl set pace).now = t.now := rfl
theorem sliceSt_scrubGoesOn (t : State) (sl : SliceId) (set : BitVec 14) (pace : Nat) :
    sliceSt (scrubGoesOn t sl set pace) sl = { sliceSt t sl with scrubSet := set + 1 } :=
  sliceSt_putSlice_self t sl _
theorem scrubGoesOn_walkAt (t : State) (sl : SliceId) (set : BitVec 14) (pace : Nat) :
    tget 0 (scrubGoesOn t sl set pace).pwr.walkAt sl.toNat = t.now.toNat + pace := tget_tset_self ..
/-- A pass over the 16384 sets takes 8 hours (R561). -/
theorem scrubStep_eq (s : State) (sl : SliceId) :
    scrubStep s sl = scrubGoesOn (scrubReads s sl) sl (sliceSt s sl).scrubSet (28800000000000 / 16384) := by
  unfold scrubStep scrubGoesOn scrubReads
  with_reducible rfl
theorem scrubReads_now (s : State) (sl : SliceId) : (scrubReads s sl).now = s.now := by
  unfold scrubReads
  dsimp only
  rw [foldl_now (fun t w => scrubWay_now t sl _ w), walkSetRead_now]
  split
  · rw [putHbmSt_now, tookWalker_now]
  · rw [tookWalker_now]
theorem scrubStep_now (s : State) (sl : SliceId) : (scrubStep s sl).now = s.now := by
  rw [scrubStep_eq, scrubGoesOn_now, scrubReads_now]
theorem scrubStep_scrubSet (s : State) (sl : SliceId) :
    (sliceSt (scrubStep s sl) sl).scrubSet = (sliceSt s sl).scrubSet + 1 := by
  rw [scrubStep_eq, sliceSt_scrubGoesOn]
theorem scrubStep_walkAt (s : State) (sl : SliceId) :
    tget 0 (scrubStep s sl).pwr.walkAt sl.toNat = s.now.toNat + 28800000000000 / 16384 := by
  rw [scrubStep_eq, scrubGoesOn_walkAt, scrubReads_now]

/-! The flush walker, and the drains (R113, R124). -/

/-- With nothing to walk for, nothing happens. -/
theorem walkerStep_of_idle (drains : s.cache.drains = []) (flushes : s.cache.flushes = []) : walkerStep s sl = s := by
  unfold walkerStep flushEnds
  simp only [drains, flushes, List.find?_nil, List.foldl_nil]
/-- Drains that no operation waits for report nothing. -/
theorem foldl_opProgress_of_no_slot {ds : List Drain} (free : ∀ d ∈ ds, d.slot = none) (s : State) :
    ds.foldl (fun s d => if d.ended then s else onSlot s d.slot fun s k => opProgress s k d.count) s = s := by
  induction ds with
  | nil => rfl
  | cons d ds ih =>
    obtain ⟨here, rest⟩ := List.forall_mem_cons.mp free
    rw [List.foldl_cons, here, show onSlot s none (fun s k => opProgress s k d.count) = s from rfl, ite_self, ih rest]
/-- With no drain the walker takes a step of the flush that has sets left in the slice (R113). -/
theorem walkerStep_of_flush {f : FlushWalk} (drains : s.cache.drains = []) (flushes : s.cache.flushes = [f])
    (left : tget 0 f.pos sl.toNat < 16384) (after : (flushStep s sl f).cache.drains = []) :
    walkerStep s sl = flushEnds (flushStep s sl f) := by
  unfold walkerStep
  simp only [drains, flushes, List.find?_nil, List.find?_cons, left, decide_true, after, List.foldl_nil]
/-- A drain that has sets left in the slice goes first (R124). -/
theorem walkerStep_of_drain {d : Drain} (drains : s.cache.drains = [d]) (goes : d.ended = false) (cancelled : d.cancels = [])
    (left : tget 0 d.pos sl.toNat < 16384) (free : ∀ e ∈ (drainStep s sl d).cache.drains, e.slot = none) :
    walkerStep s sl = flushEnds (drainStep s sl d) := by
  unfold walkerStep
  simp only [drains, List.find?_cons, goes, cancelled, left, decide_true, Bool.not_false, List.isEmpty_nil, Bool.and_self]
  rw [foldl_opProgress_of_no_slot free]
/-- A drain of the whole controller whose walkers have passed every set, with no flushed line under way, ends (R124). -/
theorem drainEnds_of_passed {d : Drain} (named : drainIn s none = some d) (goes : d.ended = false)
    (passed : allPassed d.pos = true) (clean : flushOpen s = false) (free : d.slot = none) :
    drainEnds s none = { s with cache := { s.cache with drains := s.cache.drains.map fun (x : Drain) =>
      if x.scope == none then { x with ended := true, slot := none } else x } } := by
  unfold drainEnds
  simp only [named, goes, passed, clean, free, Bool.not_true, Bool.or_self, Bool.false_eq_true, if_false]
  rfl
theorem drainEnds_of_none {scope : Option PartId} (undrained : drainIn s scope = none) : drainEnds s scope = s := by
  unfold drainEnds
  rw [undrained]

/-! The fold (R33). -/

theorem foldStep_of_none (still : foldOf s sl = none) : foldStep s sl = s := by
  unfold foldStep
  rw [still]
/-- A fold walk with a sector in its set evicts it (R33). -/
theorem foldStep_of_sector {w : FoldWalk} {way : Nat} (walks : foldOf s sl = some w) (left : w.cursor.toNat < 16384)
    (sector : (foldWays w sl).find? (fun k => (tagAt (readSet (tookWalker s sl) sl (BitVec.ofNat 14 w.cursor.toNat)) sl
      (BitVec.ofNat 14 w.cursor.toNat) k).sv) = some way) :
    foldStep s sl = foldEvict (readSet (tookWalker s sl) sl (BitVec.ofNat 14 w.cursor.toNat)) w sl way := by
  unfold foldStep
  simp only [walks, Nat.not_le.mpr left, if_false, sector]
theorem foldSetDone_of_none (still : foldOf s sl = none) : foldSetDone s sl = s := by
  unfold foldSetDone
  rw [still]
/-- A fold walk whose set is done, with nothing held and nothing to restage, moves on; the requests that
    wait at a home are admitted where they may go (R33). -/
theorem foldSetDone_of_ok {w : FoldWalk} (walks : foldOf s sl = some w) (ok : foldSetOk s w = true)
    (left : w.cursor.toNat + 1 < 16384) (held : w.held = []) (restage : w.restage = []) (free : w.slot = none) :
    foldSetDone s sl = homeAdmit { s with cache := { s.cache with folds := s.cache.folds.map fun (x : FoldWalk) =>
      if x.slice == w.slice then { w with cursor := w.cursor + 1, held := [], restage := [] } else x } } := by
  have short : (w.cursor + 1).toNat ≠ 16384 := by bv_omega
  unfold foldSetDone
  simp only [walks, ok, held, restage, free, Bool.not_true, Bool.false_eq_true, if_false, short, List.foldl_nil]
  rfl

/-! The move of a home (R310). -/

theorem moveStep_of_none (still : s.move = none) : moveStep s sl = s := by
  unfold moveStep
  rw [still]
/-- Step 3 of the action MOVE sends the lines of the ranges to the new home (R310). -/
theorem moveStep_of_reads {m : MoveWalk} (moves : s.move = some m) (action : m.action = 1) (third : m.stepNo = 3) :
    moveStep s sl = moveRead s m ((m.reply.map Prod.fst).getD 0) := by
  unfold moveStep
  simp only [moves, action, third, and_self, if_true]
/-- An action other than MOVE walks the sets (R310). -/
theorem moveStep_of_sets {m : MoveWalk} (moves : s.move = some m) (action : m.action ≠ 1) :
    moveStep s sl = moveSet s sl m := by
  unfold moveStep
  simp only [moves, action, false_and, if_false]

/-! The commands: a walker that runs takes its step, and one that has stopped does nothing (R565). -/

theorem onWalker_of_runs (runs : engineRuns s (40 + sl.toNat) = true) (t : State) : onWalker s sl t = t := if_pos runs
theorem onWalker_of_stopped (stopped : engineRuns s (40 + sl.toNat) = false) (t : State) : onWalker s sl t = s :=
  if_neg (Bool.eq_false_iff.mp stopped)

section Commands
variable (run : Running s)
include run
theorem exec_walkerFlushStep : exec (.walkerFlushStep sl) s = .next (settled s (onWalker s sl (walkerStep s sl))) :=
  finish_of_running run _
theorem exec_foldWalkStep : exec (.foldWalkStep sl) s = .next (settled s (onWalker s sl (foldStep s sl))) :=
  finish_of_running run _
theorem exec_foldSetDone : exec (.foldSetDone sl) s = .next (settled s (onWalker s sl (foldSetDone s sl))) :=
  finish_of_running run _
theorem exec_scrubStep : exec (.scrubStep sl) s = .next (settled s (let t := onWalker s sl (scrubStep s sl)
    eventDone t (tget 0 t.pwr.walkAt sl.toNat != tget 0 s.pwr.walkAt sl.toNat))) :=
  finish_of_running run _
theorem exec_moveWalkStep : exec (.moveWalkStep sl) s = .next (settled s (onWalker s sl (moveStep s sl))) :=
  finish_of_running run _
theorem exec_drainEnd (whole : Bool) (p : PartId) :
    exec (.drainEnd whole p) s = .next (settled s (drainEnds s (if whole then none else some p))) :=
  finish_of_running run _
/-- A scrub walker that has stopped is no event (R519, R565). -/
theorem exec_scrubStep_of_stopped (stopped : engineRuns s (40 + sl.toNat) = false) :
    exec (.scrubStep sl) s = .next (settle s) := by
  rw [exec_scrubStep run]
  simp only [onWalker_of_stopped stopped, bne_self_eq_false, eventDone_false, settled_self]
/-- A scrub step that is taken goes on to the next set, and has its next time (R561). -/
theorem exec_scrubStep_of_runs (runs : engineRuns s (40 + sl.toNat) = true) :
    ∃ t, exec (.scrubStep sl) s = .next t ∧ (sliceSt t sl).scrubSet = (sliceSt s sl).scrubSet + 1
      ∧ tget 0 t.pwr.walkAt sl.toNat = s.now.toNat + 28800000000000 / 16384 ∧ t.now = s.now := by
  refine ⟨_, exec_scrubStep run, ?_, ?_, ?_⟩
  · rw [sliceSt_settled, sliceSt_eventDone, onWalker_of_runs runs, scrubStep_scrubSet]
  · rw [settled_pwr, eventDone_pwr_walkAt, onWalker_of_runs runs, scrubStep_walkAt]
  · rw [settled_now, eventDone_now, onWalker_of_runs runs, scrubStep_now]
end Commands
end Walkers

/-- Settles O48: each walker by whether it runs, and by what it finds to do. -/
theorem walkersAdvance : Obligations.WalkersAdvance := by
  unfold Obligations.WalkersAdvance
  refine ⟨fun s sl run => ⟨fun stopped => ⟨?_, ?_, ?_, ?_, ?_⟩, fun runs drains flushes => ?_,
    fun f runs drains flushes left after => ?_, fun d runs drains goes cancelled left free => ?_,
    fun runs still => ⟨?_, ?_⟩, fun w way runs walks left sector => ?_, fun w runs walks ok left held restage free => ?_,
    exec_scrubStep_of_runs run, fun runs still => ?_, fun m runs moves action third => ?_, fun m runs moves action => ?_,
    fun d named goes passed clean free => ?_, fun whole p undrained => ?_⟩,
    fun s run => ⟨fun sl => exec_walkerFlushStep run, fun sl => exec_foldWalkStep run, fun sl => exec_foldSetDone run,
      fun sl => exec_scrubStep run, exec_drainEnd run, fun sl => exec_moveWalkStep run⟩⟩
  · rw [exec_walkerFlushStep run, onWalker_of_stopped stopped, settled_self]
  · rw [exec_foldWalkStep run, onWalker_of_stopped stopped, settled_self]
  · rw [exec_foldSetDone run, onWalker_of_stopped stopped, settled_self]
  · exact exec_scrubStep_of_stopped run stopped
  · rw [exec_moveWalkStep run, onWalker_of_stopped stopped, settled_self]
  · rw [exec_walkerFlushStep run, onWalker_of_runs runs, walkerStep_of_idle drains flushes, settled_self]
  · rw [exec_walkerFlushStep run, onWalker_of_runs runs, walkerStep_of_flush drains flushes left after]
  · rw [exec_walkerFlushStep run, onWalker_of_runs runs, walkerStep_of_drain drains goes cancelled left free]
  · rw [exec_foldWalkStep run, onWalker_of_runs runs, foldStep_of_none still, settled_self]
  · rw [exec_foldSetDone run, onWalker_of_runs runs, foldSetDone_of_none still, settled_self]
  · rw [exec_foldWalkStep run, onWalker_of_runs runs, foldStep_of_sector walks left sector]
  · rw [exec_foldSetDone run, onWalker_of_runs runs, foldSetDone_of_ok walks ok left held restage free]
  · rw [exec_moveWalkStep run, onWalker_of_runs runs, moveStep_of_none still, settled_self]
  · rw [exec_moveWalkStep run, onWalker_of_runs runs, moveStep_of_reads moves action third]
  · rw [exec_moveWalkStep run, onWalker_of_runs runs, moveStep_of_sets moves action]
  · exact (exec_drainEnd run true 0).trans (by rw [if_pos rfl, drainEnds_of_passed named goes passed clean free])
  · rw [exec_drainEnd run, drainEnds_of_none undrained, settled_self]

end Sys2Proof.Machine
end

section
/-! PROOFS. What reset leaves: the values that the spec states (R164, R202, R253, R380, R439, R484, R504). -/

namespace Sys2Proof.Machine

/-- A reset leaves partition 0 alone; every other partition is absent (R202, R283). -/
theorem partSt_reset_of_ne {p : PartId} (other : p ≠ 0) : partSt State.reset p = part0 := by
  have index : ¬ 0 = p.toNat := fun zero => other (BitVec.eq_of_toNat_eq zero.symm)
  unfold partSt State.reset
  simp only [tget, if_neg index]
/-- A reset leaves partition 0 in being (R202). -/
theorem partSt_reset_zero : partSt State.reset 0 = partBase := rfl
/-- No slice, port, operation slot or beam context is listed after a reset: each reads as its reset value. -/
theorem sliceSt_reset (n : SliceId) : sliceSt State.reset n = slice0 := rfl
theorem portSt_reset (p : PortId) : portSt State.reset p = port0 := rfl
theorem opSlot_reset (k : SlotRef) : opSlot State.reset k = opSlot0 := rfl
theorem beamCtx_reset (c : BitVec 8) : beamCtx State.reset c = beamCtx0 := rfl

/-- Settles O7: the registers of the state itself, then the partitions, and the tables of slices, ports, slots and contexts. -/
theorem resetValues : Obligations.ResetValues := by
  unfold Obligations.ResetValues
  intro s
  have base : partSt s 0 = partBase := partSt_reset_zero
  refine ⟨rfl, rfl, rfl, rfl, rfl, rfl, rfl, rfl, rfl, ?_, ?_, fun p other => partSt_reset_of_ne other,
    rfl, rfl, rfl, rfl, rfl, rfl, rfl, rfl, rfl, rfl, rfl, rfl, fun n => ?_, fun p => ?_, fun k => ?_, fun c => ?_⟩
  · rw [base]
    rfl
  · rw [base]
    rfl
  · rw [sliceSt_reset]
    exact ⟨rfl, rfl, rfl⟩
  · rw [portSt_reset]
    exact ⟨rfl, rfl⟩
  · rw [opSlot_reset]
    rfl
  · rw [beamCtx_reset]
    rfl

end Sys2Proof.Machine
end

section
/-! PROOFS. The way of a ring message that has come whole: by the own fabric, or by a ring port (R133, R174, R348, R354). -/

namespace Sys2Proof.Machine
open Sys2Proof.Safety

/-- The command of a ring message has the message arrive (R140, R178). -/
theorem exec_ringCmd {s : State} (run : Running s) (i : Input) (m : RingMsg) :
    exec (ringCmd i m) s = .next (settled s (arrive s i m)) := by
  cases m with
  | req op h b => exact exec_ringCmd_request run i false 0 op h b
  | farReq op gate h b => exact exec_ringCmd_request run i true gate op h b
  | snp kind h b => cases kind <;> exact finish_of_running run _
  | _ => exact finish_of_running run _

/-- A message over the own fabric is delivered at once. -/
theorem arrive_fabric (s : State) (m : RingMsg) : arrive s .fabric m = ringDeliver s .fabric m := by
  cases m <;> rfl

section Port
variable {s : State} {p : RingPort} {m : RingMsg}

/-- A message that comes by a ring port holds a receive-buffer entry of its class (R133, R348). -/
def heldRx (s : State) (p : RingPort) (m : RingMsg) : State :=
  let x := ringPort s p
  putRing s p { x with rxUsed := tset 0 x.rxUsed (creditIx m) (tget 0 x.rxUsed (creditIx m) + 1) }
/-- A message that ends at this controller frees its entry, and has ended under its epoch (R348, R365). -/
def endedRx (s : State) (p : RingPort) (m : RingMsg) : State :=
  countEnded (freeRx s p (creditIx m)) (isUp p) (hdrOf m).epoch

/-- A port that is not ACTIVE takes no message (R354). -/
theorem arrive_ring_of_inactive (down : (ringPort s p).state ≠ .active) : arrive s (.ring p) m = s := by
  unfold arrive
  exact if_pos down
/-- A port that is ACTIVE takes the message into its entry, and sends it on its way (R133). -/
theorem arrive_ring_of_active (up : (ringPort s p).state = .active) : arrive s (.ring p) m = ringRoute (heldRx s p m) p m := by
  unfold arrive
  exact if_neg (not_not.mpr up)

/-- A snoop stops at every node of its circuit (R154). -/
theorem ringRoute_snp (s : State) (p : RingPort) (kind : SnpKind) (h : RingHdr) (b : SnpBody) :
    ringRoute s p (.snp kind h b) = snoopArrive s (.ring p) kind h b := rfl
/-- What becomes of a message with the way that the routes of its epoch give it (R133, R173-R176). -/
def takeHop (s : State) (p : RingPort) (m : RingMsg) : Hop → State
  | .here => ringDeliver (endedRx s p m) (.ring p) m
  | .port q => sendBy s q (some p) m
  | .cross => crossTransit s p m
  | .nowhere => endedRx (trouble s (blkRing p) kPrlUnroutable) p m
/-- Any message that is no snoop takes the way that the routes of its epoch give it. -/
theorem ringRoute_of_not_snp (plain : ∀ kind h b, m ≠ .snp kind h b) :
    ringRoute s p m = takeHop s p m (hop s (isUp p) m) := by
  cases m with
  | snp kind h b => exact absurd rfl (plain kind h b)
  | _ => rfl
end Port

section Commands
variable {s : State} (run : Running s) {p : RingPort} {m : RingMsg}
include run

theorem exec_ringCmd_of_inactive (down : (ringPort s p).state ≠ .active) :
    exec (ringCmd (.ring p) m) s = .next (settle s) := by
  rw [exec_ringCmd run, arrive_ring_of_inactive down, settled_self]
theorem exec_ringCmd_of_hop (up : (ringPort s p).state = .active) (plain : ∀ kind h b, m ≠ .snp kind h b) {way : Hop}
    (goes : hop (heldRx s p m) (isUp p) m = way) :
    exec (ringCmd (.ring p) m) s = .next (settled s (takeHop (heldRx s p m) p m way)) := by
  rw [exec_ringCmd run, arrive_ring_of_active up, ringRoute_of_not_snp plain, goes]
end Commands

/-- Settles O51: by the input, by whether the port is ACTIVE, and by the way that the message takes. -/
theorem ringMessagesTakeTheirWay : Obligations.RingMessagesTakeTheirWay := by
  unfold Obligations.RingMessagesTakeTheirWay
  refine ⟨fun s m run => ⟨?_, ?_⟩, fun s run => ?_⟩
  · rw [exec_ringCmd run, arrive_fabric]
  · intro p x k u freed
    refine ⟨exec_ringCmd_of_inactive run, fun kind h b snoop up => ?_, fun plain up => ⟨?_, fun q => ?_, ?_, ?_⟩⟩
    · subst snoop
      rw [exec_ringCmd run, arrive_ring_of_active up, ringRoute_snp]
      rfl
    all_goals exact exec_ringCmd_of_hop run up plain
  · and_intros <;> intros <;> exact finish_of_running run _

end Sys2Proof.Machine
end

section
/-! PROOFS. Recalls at a gate, the answers that come back for them, and the credits that come back (R134, R168, R184, R189, R193, R194,
    R204). -/

namespace Sys2Proof.Machine
open Sys2Proof.Safety

/-! A recall that comes (R193, R194). -/

section Recall
variable {s : State} {h : RingHdr} {b : RecallBody}

/-- A recall that finds room takes its entry, and is deferred no longer (R193). -/
theorem farRecall_of_room {k : Nat} (i : Input) (room : recallRoom s h b = some k) :
    farRecall s i h b = recallTake (putDefer s (s.home.rclDefer.filter fun x => !(x.1 == h && x.2.1 == b))) k h b := by
  unfold farRecall
  simp only [room]
/-- A recall over the own fabric that finds no room is counted, and deferred once (R176, R193). -/
theorem farRecall_fabric_of_full (full : recallRoom s h b = none) :
    farRecall s .fabric h b =
      let u := trouble s (blkRing .ringE) kPrlRclDefer
      if s.home.rclDefer.any fun x => x.1 == h && x.2.1 == b then u
      else putDefer u (s.home.rclDefer ++ [(h, b, true)]) := by
  unfold farRecall
  simp only [full, trouble_home, beq_self_eq_true, if_true]
end Recall

/-! An answer to recalls: of a home transaction, of a directory eviction, or to the copies that a gate has sent on (R189, R194). -/

/-- A slice is one of the first 23 blocks. -/
theorem blkSlc_lt (sl : SliceId) : blkSlc sl < 23 := by
  unfold blkSlc
  omega
/-- The last answer of recalls is counted where it comes when their timer has run out (R168). -/
theorem race_of_last (s : State) (sl : SliceId) (r : Recalls) (late : Bool) :
    race s (blkSlc sl) (r.open_.isEmpty && late) =
      if r.open_ = [] ∧ late = true then trouble s (blkSlc sl) kSlcTimeoutRace else s := by
  unfold race
  simp only [blkSlc_lt, if_true, Bool.and_eq_true, List.isEmpty_iff]

section Answer
variable {s : State} {h : RingHdr} {b : FarAckBody} (answers : b.crd = false)
include answers

/-- An answer that no home transaction awaits is late. -/
theorem farAck_of_home_stray (kind : h.hkind = 0 ∨ h.hkind = 1)
    (stray : ∀ e, homeAt s (htagSlice h.htag) (h.hkind == 1) (htagEntry h.htag) = some e → h.src ∉ e.rcl.open_) :
    farAck s h b = trouble s (blkSlc (sliceOf h.laddr)) kSlcLateFack := by
  unfold farAck
  cases named : homeAt s (htagSlice h.htag) (h.hkind == 1) (htagEntry h.htag) with
  | none => rcases kind with kind | kind <;> simp_all
  | some e =>
    have other := stray e named
    rcases kind with kind | kind <;> simp_all
/-- An answer that a home transaction awaits is kept, and the last ends its recalls (R189). -/
theorem farAck_of_home {e : HomeEntry} (kind : h.hkind = 0 ∨ h.hkind = 1)
    (named : homeAt s (htagSlice h.htag) (h.hkind == 1) (htagEntry h.htag) = some e) (awaited : h.src ∈ e.rcl.open_) :
    farAck s h b =
      let sl := htagSlice h.htag
      let i := htagEntry h.htag
      let far := h.hkind == 1
      let r := rclAnswer e.rcl h.src (gateRing s h.src) b
      let u := if r.open_ = [] ∧ due s e.rcl.start e.rcl.tmo = true then trouble s (blkSlc sl) kSlcTimeoutRace else s
      recallsDone (putHome u sl far i (some { e with rcl := r })) sl far i := by
  unfold farAck
  rcases kind with kind | kind <;>
  · rw [kind] at named ⊢
    simp_all [race_of_last]
/-- An answer that no directory eviction awaits is late. -/
theorem farAck_of_eviction_stray (kind : h.hkind = 2)
    (stray : ∀ e, tget none s.home.evict ((htagSlice h.htag).toNat * 4 + htagEntry h.htag) = some e → h.src ∉ e.rcl.open_) :
    farAck s h b = trouble s (blkSlc (sliceOf h.laddr)) kSlcLateFack := by
  unfold farAck
  cases named : tget none s.home.evict ((htagSlice h.htag).toNat * 4 + htagEntry h.htag) with
  | none => simp [answers, kind, named]
  | some e => simp [answers, kind, named, stray e named]
/-- An answer that a directory eviction awaits is kept, and the last ends the eviction (R199). -/
theorem farAck_of_eviction {e : HomeEntry} (kind : h.hkind = 2)
    (named : tget none s.home.evict ((htagSlice h.htag).toNat * 4 + htagEntry h.htag) = some e)
    (awaited : h.src ∈ e.rcl.open_) :
    farAck s h b =
      let sl := htagSlice h.htag
      let i := htagEntry h.htag
      let r := rclAnswer e.rcl h.src (gateRing s h.src) b
      let u := if r.open_ = [] ∧ due s e.rcl.start e.rcl.tmo = true then trouble s (blkSlc sl) kSlcTimeoutRace else s
      evictEnd (putEvict u sl i (some { e with rcl := r })) sl i := by
  unfold farAck
  simp [answers, kind, named, awaited, race_of_last]
/-- An answer that no copy of a recall awaits is late. -/
theorem farAck_of_gate_stray (kind : h.hkind = 3)
    (stray : ∀ r, recallAt s (htagEntry h.htag) = some r → h.src ∉ r.copies) :
    farAck s h b = trouble s (blkSlc (sliceOf h.laddr)) kSlcLateFack := by
  unfold farAck
  cases named : recallAt s (htagEntry h.htag) with
  | none => simp [answers, kind, named]
  | some r => simp [answers, kind, named, stray r named]
/-- An answer to a copy joins those of its recall, which the gate answers when none is missing (R194). -/
theorem farAck_of_gate {r : RecallEntry} (kind : h.hkind = 3) (named : recallAt s (htagEntry h.htag) = some r)
    (awaited : h.src ∈ r.copies) :
    farAck s h b = recallTry (putRecall s (htagEntry h.htag) (some { r with
      copies := r.copies.filter (· ≠ h.src), cr := r.cr.or b.cr, lost := r.lost || b.lost
      supring := if takesSupplier r.cr b.cr then some b.supring else r.supring })) (htagEntry h.htag) := by
  unfold farAck
  simp [answers, kind, named, awaited]
end Answer

/-! Credits that come back (R134, R184). -/

/-- Far credits come back: with no request waiting for one, only their count changes (R184). -/
theorem farAck_of_credit {s : State} {h : RingHdr} {b : FarAckBody} (credit : b.crd = true) (idle : s.home.farWait = []) :
    farAck s h b =
      let k := farIx (ringOf h.src != myRing s) h.src b.slice
      { s with home := { s.home with farSpent := tset 0 s.home.farSpent k (tget 0 s.home.farSpent k - b.nfar.toNat) } } := by
  unfold farAck
  simp only [credit, if_true, idle, List.foldl_nil]
/-- With no writeback stored, none is passed on. -/
theorem pumpWbk_zero (s : State) : pumpWbk s 0 = s := rfl
/-- With no request waiting for a credit, none is sent. -/
theorem pumpReq_zero (s : State) : pumpReq s 0 = s := rfl
/-- Credits of a node of the own ring come back, with nobody waiting for one: only their counts change (R134, R136). -/
theorem ringCredit_of_idle {s : State} {h : RingHdr} (slice : SliceId) (nreq nwbk : BitVec 5) (plain : s.net.isBridge = false)
    (alone : s.net.lower.cur.gates = []) (requests : s.home.reqWait = []) (writebacks : s.home.wbkTransit = []) :
    ringCredit s h slice nreq nwbk =
      let n := (nodeOf h.src).toNat
      let k := n * 16 + slice.toNat
      let home := { s.home with reqSpent := tset 0 s.home.reqSpent k (tget 0 s.home.reqSpent k - nreq.toNat) }
      putWbkSpent { s with home := home } false (tset 0 (wbkSpentOf s false) n (tget 0 (wbkSpentOf s false) n - nwbk.toNat)) := by
  have lower : (posOf s false).cur.gates = [] := alone
  unfold ringCredit
  simp only [plain, Bool.false_and, lower, List.find?_nil, Option.elim_none, Bool.false_eq_true, if_false]
  simp only [putWbkSpent, Bool.false_eq_true, if_false, writebacks, List.length_nil, pumpWbk_zero, requests, pumpReq_zero]
  rfl

/-! The commands, of messages that come over the own fabric. -/

section Commands
variable {s : State} (run : Running s) (h : RingHdr)
include run

theorem exec_farRecall_fabric (b : RecallBody) :
    exec (.farRecall .fabric h b) s = .next (settled s (farRecall s .fabric h b)) := finish_of_running run _
theorem exec_farAck_fabric (b : FarAckBody) : exec (.farAck .fabric h b) s = .next (settled s (farAck s h b)) :=
  finish_of_running run _
theorem exec_credit_fabric (slice : SliceId) (nreq nwbk : BitVec 5) :
    exec (.credit .fabric h slice nreq nwbk) s = .next (settled s (ringCredit s h slice nreq nwbk)) := finish_of_running run _
end Commands

/-- Settles O54: a recall by whether it finds room, an answer by what it names and whether that awaits it, then the credits. -/
theorem recallsAndCredits : Obligations.RecallsAndCredits := by
  unfold Obligations.RecallsAndCredits
  refine ⟨fun s h run => ⟨fun b k room => ?_, fun b full => ?_, fun b answers kind => ⟨fun gone => ?_, fun e named other => ?_,
    fun e named awaited => ?_⟩, fun b answers kind => ⟨fun stray => ?_, fun e named awaited => ?_⟩,
    fun b answers kind => ⟨fun stray => ?_, fun r named awaited => ?_⟩, fun b credit idle => ?_⟩,
    fun s h slice nreq nwbk run plain _ alone requests writebacks => ?_, fun s run => ?_⟩
  · rw [exec_farRecall_fabric run, farRecall_of_room .fabric room]
    rfl
  · rw [exec_farRecall_fabric run, farRecall_fabric_of_full full]
  · rw [exec_farAck_fabric run, farAck_of_home_stray answers kind fun e named => by rw [gone] at named; cases named]
  · rw [exec_farAck_fabric run, farAck_of_home_stray answers kind fun f again => by
      rwa [← Option.some.inj (named.symm.trans again)]]
  · rw [exec_farAck_fabric run, farAck_of_home answers kind named awaited]
  · rw [exec_farAck_fabric run, farAck_of_eviction_stray answers kind stray]
  · rw [exec_farAck_fabric run, farAck_of_eviction answers kind named awaited]
  · rw [exec_farAck_fabric run, farAck_of_gate_stray answers kind stray]
  · rw [exec_farAck_fabric run, farAck_of_gate answers kind named awaited]
  · rw [exec_farAck_fabric run, farAck_of_credit credit idle]
  · rw [exec_credit_fabric run, ringCredit_of_idle slice nreq nwbk plain alone requests writebacks]
    rfl
  · and_intros <;> intros <;> exact finish_of_running run _

end Sys2Proof.Machine
end

section
/-! PROOFS. The timers of ring transactions: before their expiry, and what the expiry of each does (R164, R166, R204, R205). -/

namespace Sys2Proof.Machine
open Sys2Proof.Safety

/-- The expiry of a timer is counted, and raises the RING_TIMEOUT event of the block (R166, R205). -/
def timedOut (s : State) (block kind : Nat) : State := raiseErr (trouble s block kind) block 4
@[simp] theorem timedOut_now (s : State) (b k : Nat) : (timedOut s b k).now = s.now := by
  unfold timedOut
  rw [raiseErr_now, trouble_now]
/-- Counting an expiry leaves the value that recall timers count to as it is (R204). -/
@[simp] theorem tmoRcl_timedOut (s : State) (b k : Nat) : tmoRcl (timedOut s b k) = tmoRcl s := by
  unfold tmoRcl timedOut
  rw [raiseErr_tmo, trouble_tmo]

/-! The snoop timer of a home transaction (R166). -/

section Snoop
variable {s : State} {sl : SliceId} {far : Bool} {i : Nat} {e : HomeEntry} (named : homeAt s sl far i = some e)
include named

/-- A circuit that has ended, or whose time has not run out, goes on. -/
theorem snoopTimer_of_early (early : e.circ.running = false ∨ due s e.circ.start e.circ.tmo = false) :
    snoopTimer s sl far i = s := by
  unfold snoopTimer
  rcases early with ended | early
  · simp only [named, ended, Bool.false_and, Bool.false_eq_true, if_false]
  · simp only [named, early, Bool.and_false, Bool.false_eq_true, if_false]

variable (runs : e.circ.running = true) (late : due s e.circ.start e.circ.tmo = true)
include runs late
/-- The time of a circuit runs out. -/
theorem snoopTimer_of_late : snoopTimer s sl far i = homeSnoopExpire s sl far i := by
  unfold snoopTimer
  simp only [named, runs, late, Bool.and_self, if_true]
/-- The first launch of a snoop that expires is followed by a second (R166). -/
theorem snoopTimer_of_first (first : e.circ.launches ≤ 1) :
    snoopTimer s sl far i = homeRelaunch (timedOut s (blkSlc sl) kSlcSnpTmo) sl far i e := by
  rw [snoopTimer_of_late named runs late]
  unfold homeSnoopExpire
  simp only [named, if_pos first]
  rfl
/-- The second launch of a snoop that expires loses its transaction (R166). -/
theorem snoopTimer_of_second (second : 1 < e.circ.launches) :
    snoopTimer s sl far i =
      homeFail (trouble (timedOut s (blkSlc sl) kSlcSnpTmo) (blkSlc sl) kSlcSnpLost) sl far i false := by
  rw [snoopTimer_of_late named runs late]
  unfold homeSnoopExpire
  simp only [named, if_neg (Nat.not_le.mpr second)]
  rfl
end Snoop

/-! The timers of a miss entry (R166, R204). -/

section Miss
variable {s : State} {sl : SliceId} {i : Nat} {e : MissEntry} (named : missAt s sl i = some e)
include named

/-- A request that has not been sent, that is granted, or whose time has not run out goes on. -/
theorem grantTimer_of_early (far : Bool) (early : e.reqSent = false ∨ e.grant.isSome = true ∨ due s e.start e.tmo = false) :
    grantTimer s sl i far = s := by
  have stays : e.far ≠ far ∨ e.kind = .waiting ∨ ¬ e.reqSent ∨ e.grant.isSome ∨ e.abandoned ∨ ¬ due s e.start e.tmo := by
    rcases early with unsent | granted | early
    · exact .inr (.inr (.inl (Bool.eq_false_iff.mp unsent)))
    · exact .inr (.inr (.inr (.inl granted)))
    · exact .inr (.inr (.inr (.inr (.inr (Bool.eq_false_iff.mp early)))))
  unfold grantTimer
  simp only [named, if_pos stays]
/-- A request whose grant has not come in time is answered with status ring timeout, and its entry is abandoned (R166, R204). -/
theorem grantTimer_of_late {far : Bool} (guards : e.far = far) (placed : e.kind ≠ .waiting) (sent : e.reqSent = true)
    (ungranted : e.grant = none) (wanted : e.abandoned = false) (late : due s e.start e.tmo = true) :
    grantTimer s sl i far =
      answerErr (putMiss (timedOut s (blkSlc sl) (if far then kSlcFarGrantTmo else kSlcGrantTmo)) sl i
        (some { e with abandoned := true })) sl e.req 0x0A := by
  have fires : ¬ (e.far ≠ far ∨ e.kind = .waiting ∨ ¬ e.reqSent ∨ e.grant.isSome ∨ e.abandoned ∨ ¬ due s e.start e.tmo) := by
    simp [guards, placed, sent, ungranted, wanted, late]
  unfold grantTimer
  simp only [named, if_neg fires]
  rfl

/-- A line that is not granted yet, that is whole, or whose time has not run out goes on. -/
theorem dataTimer_of_early (early : e.grant = none ∨ e.fillV = 0xF ∨ due s e.grantTick e.dtmo = false) :
    dataTimer s sl i = s := by
  unfold dataTimer
  cases granted : e.grant with
  | none => simp only [named, granted]
  | some g =>
    have stays : g.dsrc ≠ 2 ∨ e.fillV = 0xF ∨ ¬ due s e.grantTick e.dtmo := by
      rcases early with ungranted | whole | early
      · exact absurd (granted.symm.trans ungranted) (by simp)
      · exact .inr (.inl whole)
      · exact .inr (.inr (Bool.eq_false_iff.mp early))
    simp only [named, granted, if_pos stays]
/-- A line with the chunks poisoned that never came (R166). -/
def poisonMissing (e : MissEntry) : Line :=
  (List.range 4).foldl (fun d c => if e.fillV.getLsbD c then d else putChunk d c (chunkOf d c) true) e.fill
/-- A supplier's line whose chunks have not all come in time goes on with those poisoned that are missing (R166). -/
theorem dataTimer_of_late {g : GrantBody} (granted : e.grant = some g) (supplied : g.dsrc = 2) (partly : e.fillV ≠ 0xF)
    (late : due s e.grantTick e.dtmo = true) :
    dataTimer s sl i =
      tryFinish (forwardChunks (putMiss (timedOut s (blkSlc sl) kSlcDataTmo) sl i
        (some { e with fill := poisonMissing e, fillV := 0xF, psnSeen := true })) sl i) sl i := by
  have fires : ¬ (g.dsrc ≠ 2 ∨ e.fillV = 0xF ∨ ¬ due s e.grantTick e.dtmo = true) := by
    rintro (other | whole | early)
    · exact other supplied
    · exact partly whole
    · exact early late
  unfold dataTimer poisonMissing
  simp only [named, granted, if_neg fires, Bool.not_eq_true', ← Bool.not_eq_true, ite_not]
  rfl
end Miss

/-! The writeback timer of a penumbra buffer (R166). -/

section Writeback
variable {s : State} {sl : SliceId} {i : Nat} {b : PenBuf} (named : penAt s sl i = some b)
include named

/-- A writeback that has not left, that has been counted, or whose time has not run out goes on. -/
theorem wbackTimer_of_early (early : b.mif = false ∨ b.wbFired = true ∨ due s b.wbStart b.wbTmo = false) :
    wbackTimer s sl i = s := by
  have stays : ¬ b.mif ∨ b.wbFired ∨ ¬ due s b.wbStart b.wbTmo :=
    early.imp Bool.eq_false_iff.mp (.imp_right Bool.eq_false_iff.mp)
  unfold wbackTimer
  simp only [named, if_pos stays]
/-- A writeback that is not acknowledged in time is counted once, and never sent again (R166). -/
theorem wbackTimer_of_late (out : b.mif = true) (first : b.wbFired = false) (late : due s b.wbStart b.wbTmo = true) :
    wbackTimer s sl i = timedOut (putPen s sl i (some { b with wbFired := true })) (blkSlc sl) kSlcWbackTmo := by
  unfold wbackTimer
  simp only [named, out, first, late, not_true, Bool.false_eq_true, or_self, if_false]
  rfl
end Writeback

/-! The recall timers, of a home transaction and of a directory eviction (R204, R205). -/

/-- The recalls start once more, with the time that the register gives now (R204). -/
def recallAgain (s : State) (r : Recalls) : Recalls := { r with fired := 1, start := s.now, tmo := tmoRcl s }
/-- Counting an expiry does not change how recalls start again. -/
theorem recallAgain_timedOut {s : State} (b k : Nat) {r : Recalls} : recallAgain (timedOut s b k) r = recallAgain s r := by
  unfold recallAgain
  rw [timedOut_now, tmoRcl_timedOut]
/-- Every recall without an answer counts as lost (R205). -/
def recallLost (r : Recalls) : Recalls := { r with open_ := [], lost := true }
/-- Recalls whose timer has run out: some are open, and it is time. -/
structure Overdue (s : State) (r : Recalls) : Prop where
  waits : r.open_ ≠ []
  late : due s r.start r.tmo = true
/-- The recall timers test whether the recalls are overdue. -/
theorem Overdue.not_early {s : State} {r : Recalls} (overdue : Overdue s r) :
    ¬ (r.open_.isEmpty = true ∨ ¬ due s r.start r.tmo = true) := by
  simp [overdue.waits, overdue.late]

section HomeRecall
variable {s : State} {sl : SliceId} {far : Bool} {i : Nat} {e : HomeEntry} (named : homeAt s sl far i = some e)
include named

/-- Recalls that are answered, or whose time has not run out, go on. -/
theorem recallTimer_of_early (early : e.rcl.open_ = [] ∨ due s e.rcl.start e.rcl.tmo = false) :
    recallTimer s sl far i = s := by
  have stays : e.rcl.open_.isEmpty ∨ ¬ due s e.rcl.start e.rcl.tmo := early.imp List.isEmpty_iff.mpr Bool.eq_false_iff.mp
  unfold recallTimer
  simp only [named, if_pos stays]
variable (overdue : Overdue s e.rcl)
include overdue
/-- Recalls of a home transaction that time out for the first time start again (R204). -/
theorem recallTimer_of_first (first : e.rcl.fired = 0) :
    recallTimer s sl far i =
      putHome (timedOut s (blkSlc sl) kSlcFarRclTmo) sl far i (some { e with rcl := recallAgain s e.rcl }) := by
  unfold recallTimer
  simp only [named, if_neg overdue.not_early, if_pos first]
  rw [← recallAgain_timedOut (blkSlc sl) kSlcFarRclTmo]
  rfl
/-- Recalls of a home transaction that time out once more are lost (R205). -/
theorem recallTimer_of_second (second : e.rcl.fired ≠ 0) :
    recallTimer s sl far i =
      recallsDone (putHome (timedOut s (blkSlc sl) kSlcFarRclTmo) sl far i (some { e with rcl := recallLost e.rcl })) sl far i := by
  unfold recallTimer
  simp only [named, if_neg overdue.not_early, if_neg second]
  rfl
end HomeRecall

section EvictionRecall
variable {s : State} {sl : SliceId} {i : Nat} {e : HomeEntry} (named : tget none s.home.evict (sl.toNat * 4 + i) = some e)
  (overdue : Overdue s e.rcl)
include named overdue

/-- Recalls of a directory eviction that time out for the first time start again (R204). -/
theorem evictTimer_of_first (first : e.rcl.fired = 0) :
    evictTimer s sl i =
      putEvict (timedOut s (blkSlc sl) kSlcFarRclTmo) sl i (some { e with rcl := recallAgain s e.rcl }) := by
  unfold evictTimer
  simp only [named, if_neg overdue.not_early, if_pos first]
  rw [← recallAgain_timedOut (blkSlc sl) kSlcFarRclTmo]
  rfl
/-- Recalls of a directory eviction that time out once more are lost (R205). -/
theorem evictTimer_of_second (second : e.rcl.fired ≠ 0) :
    evictTimer s sl i =
      evictEnd (putEvict (timedOut s (blkSlc sl) kSlcFarRclTmo) sl i (some { e with rcl := recallLost e.rcl })) sl i := by
  unfold evictTimer
  simp only [named, if_neg overdue.not_early, if_neg second]
  rfl
end EvictionRecall

/-! The circuit timer of a gate (R204). -/

section Gate
variable {s : State} {i : Nat} {r : RecallEntry} (named : recallAt s i = some r)
include named

/-- A gate's circuit that has ended, or whose time has not run out, goes on. -/
theorem gateTimer_of_early (early : r.circ.running = false ∨ due s r.circ.start r.circ.tmo = false) : gateTimer s i = s := by
  unfold gateTimer
  rcases early with ended | early
  · simp only [named, ended, Bool.false_and, Bool.false_eq_true, if_false]
  · simp only [named, early, Bool.and_false, Bool.false_eq_true, if_false]
variable (runs : r.circ.running = true) (late : due s r.circ.start r.circ.tmo = true)
include runs late
/-- The time of a gate's circuit runs out. -/
theorem gateTimer_of_late : gateTimer s i = gateExpire s i := by
  unfold gateTimer
  simp only [named, runs, late, Bool.and_self, if_true]
/-- The first launch of a gate's snoop that expires is followed by a second (R166, R204). -/
theorem gateTimer_of_first (first : r.circ.launches ≤ 1) :
    gateTimer s i = gateRelaunch (timedOut s (blkSlc (sliceOf r.hdr.laddr)) kSlcSnpTmo) i r := by
  rw [gateTimer_of_late named runs late]
  unfold gateExpire
  simp only [named, if_pos first]
  rfl
/-- The second launch of a gate's snoop that expires loses the recall (R204). -/
theorem gateTimer_of_second (second : 1 < r.circ.launches) :
    gateTimer s i = recallTry (putRecall (timedOut s (blkSlc (sliceOf r.hdr.laddr)) kSlcSnpTmo) i
      (some { r with lost := true, circ := { r.circ with running := false } })) i := by
  rw [gateTimer_of_late named runs late]
  unfold gateExpire
  simp only [named, if_neg (Nat.not_le.mpr second)]
  rfl
end Gate

/-! The commands. -/

section Commands
variable {s : State} (run : Running s) (sl : SliceId)
include run

theorem exec_snoopTimer (far : Bool) (i : BitVec 6) :
    exec (.snoopTimer sl far i) s = .next (settled s (snoopTimer s sl far i.toNat)) := finish_of_running run _
theorem exec_grantTimer (i : BitVec 8) :
    exec (.grantTimer sl i) s = .next (settled s (grantTimer s sl i.toNat false)) := finish_of_running run _
theorem exec_farGrantTimer (i : BitVec 8) :
    exec (.farGrantTimer sl i) s = .next (settled s (grantTimer s sl i.toNat true)) := finish_of_running run _
theorem exec_dataTimer (i : BitVec 8) :
    exec (.dataTimer sl i) s = .next (settled s (dataTimer s sl i.toNat)) := finish_of_running run _
theorem exec_writebackTimer (i : BitVec 7) :
    exec (.writebackTimer sl i) s = .next (settled s (wbackTimer s sl i.toNat)) := finish_of_running run _
theorem exec_recallTimer_home (far : Bool) (i : BitVec 6) :
    exec (.recallTimer sl false far i) s = .next (settled s (recallTimer s sl far i.toNat)) := finish_of_running run _
theorem exec_recallTimer_eviction (far : Bool) (i : BitVec 6) :
    exec (.recallTimer sl true far i) s = .next (settled s (evictTimer s sl i.toNat)) := finish_of_running run _
theorem exec_gateCircuitTimer (i : BitVec 6) :
    exec (.gateCircuitTimer i) s = .next (settled s (gateTimer s i.toNat)) := finish_of_running run _
end Commands

/-- Settles O55: each timer by whether it has run out, and by whether it is the first time that it does. -/
theorem transactionTimers : Obligations.TransactionTimers := by
  unfold Obligations.TransactionTimers
  refine ⟨fun s sl run => ⟨fun far i e named early => ?_, fun far i e named early => ?_, fun i e named early => ⟨?_, ?_⟩,
      fun i e named early => ?_, fun i b named early => ?_, fun i r named early => ?_⟩,
    fun s sl run => ?_, fun s run => ?_⟩
  · rw [exec_snoopTimer run, snoopTimer_of_early named early, settled_self]
  · rw [exec_recallTimer_home run, recallTimer_of_early named early, settled_self]
  · rw [exec_grantTimer run, grantTimer_of_early named _ early, settled_self]
  · rw [exec_farGrantTimer run, grantTimer_of_early named _ early, settled_self]
  · rw [exec_dataTimer run, dataTimer_of_early named early, settled_self]
  · rw [exec_writebackTimer run, wbackTimer_of_early named early, settled_self]
  · rw [exec_gateCircuitTimer run, gateTimer_of_early named early, settled_self]
  · intro fired
    refine ⟨fun far i e named runs late second => ?_, fun far i e named runs late first => ?_,
      fun i e named placed sent ungranted wanted late => ⟨fun near => ?_, fun away => ?_⟩,
      fun i e g named granted supplied partly late => ?_, fun i b named out first late => ?_,
      fun far i e named waits late => ⟨fun first => ?_, fun second => ?_⟩,
      fun i e named waits late far => ⟨fun first => ?_, fun second => ?_⟩,
      fun i r named runs late => ⟨fun first => ?_, fun second => ?_⟩⟩
    · rw [exec_snoopTimer run, snoopTimer_of_second named runs late second]
      rfl
    · rw [exec_snoopTimer run, snoopTimer_of_first named runs late first]
      rfl
    · rw [exec_grantTimer run, grantTimer_of_late named near placed sent ungranted wanted late]
      rfl
    · rw [exec_farGrantTimer run, grantTimer_of_late named away placed sent ungranted wanted late]
      rfl
    · rw [exec_dataTimer run, dataTimer_of_late named granted supplied partly late]
      rfl
    · rw [exec_writebackTimer run, wbackTimer_of_late named out first late]
      rfl
    · rw [exec_recallTimer_home run, recallTimer_of_first named ⟨waits, late⟩ first]
      rfl
    · rw [exec_recallTimer_home run, recallTimer_of_second named ⟨waits, late⟩ second]
      rfl
    · rw [exec_recallTimer_eviction run, evictTimer_of_first named ⟨waits, late⟩ first]
      rfl
    · rw [exec_recallTimer_eviction run, evictTimer_of_second named ⟨waits, late⟩ second]
      rfl
    · rw [exec_gateCircuitTimer run, gateTimer_of_first named runs late first]
      rfl
    · rw [exec_gateCircuitTimer run, gateTimer_of_second named runs late second]
      rfl
  · and_intros <;> intros <;> exact finish_of_running run _

end Sys2Proof.Machine
end

section
/-! PROOFS. What BEAM_REL does to the pin of its line, and how it is answered (R65, R263). -/

namespace Sys2Proof.Machine

/-- A live request of a port is answered by a completion with status 0 (R334). -/
theorem answer_of_port {r : Req} {p : PortId} (src : r.src = .port p) (live : r.dead = false) (s : State) (gst : LState)
    (psn : Bool) (oldv : BitVec 128) : answer s r gst psn oldv = complete s p r.hdr.ptag gst psn 0 oldv := by
  unfold answer
  simp [src, live]

/-- A BEAM_REL of a consumer stream uses the way that it hits, and releases the pin that it finds there (R65, R263). -/
theorem pipeBeamRel_of_pinned {s : State} {pl : Place} {r : Req} (consumer : r.cons = true)
    (pin : pinned (touchHit s pl) pl = true) :
    pipeBeamRel s pl r = .passed (answer (putPin (touchHit s pl) pl false) r .I false 0) := by
  unfold pipeBeamRel
  simp only [consumer, pin, if_true]
/-- Where it finds no pin, it uses the way, and no more (R65, R263). -/
theorem pipeBeamRel_of_unpinned {s : State} {pl : Place} {r : Req} (consumer : r.cons = true)
    (bare : pinned (touchHit s pl) pl = false) :
    pipeBeamRel s pl r = .passed (answer (touchHit s pl) r .I false 0) := by
  unfold pipeBeamRel
  simp only [consumer, bare, if_true, Bool.false_eq_true, if_false]
/-- A BEAM_REL of any other stream is counted by the slice, and no more (R263). -/
theorem pipeBeamRel_of_not_consumer {s : State} {pl : Place} {r : Req} (other : r.cons = false) :
    pipeBeamRel s pl r = .passed (answer (trouble s (blkSlc pl.sl) kSlcBeamRelReject) r .I false 0) := by
  unfold pipeBeamRel
  simp only [other, Bool.false_eq_true, if_false]

/-- Settles O39: by whether the stream is a consumer's, then by whether the line is pinned; each way ends in the completion. -/
theorem beamRelClearsThePin : Obligations.BeamRelClearsThePin := by
  unfold Obligations.BeamRelClearsThePin
  intro s pl r p ser op src live u
  have decided : pipeDecide s pl r ser = pipeBeamRel s pl r := by
    unfold pipeDecide
    simp only [src, op]
  rw [decided]
  refine ⟨fun consumer pin => ?_, fun consumer bare => ?_, fun other => ?_⟩
  · rw [pipeBeamRel_of_pinned consumer pin, answer_of_port src live]
  · rw [pipeBeamRel_of_unpinned consumer bare, answer_of_port src live]
  · rw [pipeBeamRel_of_not_consumer other, answer_of_port src live]
    rfl

end Sys2Proof.Machine
end

section
/-! PROOFS. What a port makes of a request that it receives: the checks in their order (R36, R328, R337, R338, R339), the partition
    that the stream maps to (R281, R292), and the way on to the slice (R595). -/

namespace Sys2Proof.Machine
open Sys2Proof.Safety

/-! What the checks read is left as it was by the arrival of the request (R323, R492). -/

section AtPort
variable (s : State) (p : PortId) (op : PcpOp) (h : PcpHdr)

@[simp] theorem tagOpen_atPort (t : BitVec 10) : tagOpen (atPort s p op h) p t = tagOpen s p t := by
  unfold tagOpen
  rw [portSt_atPort]
@[simp] theorem inWindow35_atPort (a : Addr) : inWindow35 (portSt (atPort s p op h) p) a = inWindow35 (portSt s p) a := by
  rw [portSt_atPort]
  rfl
@[simp] theorem stream_atPort : (portSt (atPort s p op h) p).stream = (portSt s p).stream := by rw [portSt_atPort]
@[simp] theorem retiring_atPort : (portSt (atPort s p op h) p).retiring = (portSt s p).retiring := by rw [portSt_atPort]
@[simp] theorem rxq_atPort : (portSt (atPort s p op h) p).rxq = (portSt s p).rxq := by rw [portSt_atPort]
@[simp] theorem beams_atPort : (atPort s p op h).beams = s.beams := by
  unfold atPort spendReq
  rw [count_beams, wakeDom_beams, putPort_beams]
@[simp] theorem cache_atPort : (atPort s p op h).cache = s.cache := by
  unfold atPort spendReq
  rw [count_cache, wakeDom_cache, putPort_cache]
@[simp] theorem quiesceServes_atPort (part : PartId) (o : PcpOp) (st : BitVec 8) :
    quiesceServes (atPort s p op h) p part o st = quiesceServes s p part o st := by
  unfold quiesceServes
  rw [beams_atPort]
/-- The fabric input is filled by what the caches hold of the port's requests (R595). -/
theorem fabricUsed_of_cache {s t : State} (same : t.cache = s.cache) : fabricUsed t p = fabricUsed s p := by
  unfold fabricUsed
  rw [same]
end AtPort

/-! The checks of a request, in their order. -/

section Checks
variable {s : State} {p : PortId} {op : PcpOp} {h : PcpHdr}

/-- What reaches a port whose link is down is not received (R338). -/
theorem portRequest_of_down (down : (portSt s p).down = true) : portRequest s p op h = s := by
  unfold portRequest
  rw [if_pos down]

variable (up : (portSt s p).down = false)
include up

/-- A tag that is open already is a protocol error, which ends the request (R325, R337). -/
theorem portRequest_of_tagOpen (uses : usesTag op = true) (twice : tagOpen s p h.ptag = true) :
    portRequest s p op h = freeReq (protoErr (atPort s p op h) p) p (reqData op h) := by
  rw [portRequest_of_up s p op h up]
  simp [uses, twice]
/-- A port that retires, or a controller that is out, refuses what expects a completion (R339). -/
theorem portRequest_of_retiring (uses : usesTag op = true) (fresh : tagOpen s p h.ptag = false)
    (closed : (portSt s p).retiring = true ∨ s.ctrlOut = true) :
    portRequest s p op h = freeReq (refuse (atPort s p op h) p op h.ptag 0x11) p (reqData op h) := by
  rw [portRequest_of_up s p op h up]
  simp [uses, fresh, closed]

/-- The request passes the checks on its tag and its port (R325, R339). -/
def passesTagChecks (s : State) (p : PortId) (op : PcpOp) (h : PcpHdr) : Prop :=
  ¬ (usesTag op = true ∧ tagOpen s p h.ptag = true) ∧ ¬ (((portSt s p).retiring = true ∨ s.ctrlOut = true) ∧ usesTag op = true)

variable (takes : passesTagChecks s p op h)
include takes

/-- A request taken goes to the window, fails a field rule, or is mapped to its partition. -/
theorem portRequest_of_taken :
    portRequest s p op h =
      if inWindow35 (portSt s p) h.addr then freeReq (doorbell (atPort s p op h) p op h) p (reqData op h)
      else if fieldsBad op h then freeReq (refuse (protoErr (atPort s p op h) p) p op h.ptag 0x10) p (reqData op h)
      else mapRequest (atPort s p op h) p op h := by
  obtain ⟨fresh, opened⟩ := takes
  rw [portRequest_of_up s p op h up]
  simp only [tagOpen_atPort, retiring_atPort, atPort_ctrlOut, inWindow35_atPort]
  rw [if_neg fresh, if_neg opened]
/-- The window answers the request itself (R36). -/
theorem portRequest_of_taken_in_window (window : inWindow35 (portSt s p) h.addr = true) :
    portRequest s p op h = freeReq (doorbell (atPort s p op h) p op h) p (reqData op h) := by
  rw [portRequest_of_taken up takes, if_pos window]

variable (outside : inWindow35 (portSt s p) h.addr = false)
include outside

/-- Fields that break their rule are a protocol error, and the request is refused (R328, R337). -/
theorem portRequest_of_fieldsBad (bad : fieldsBad op h = true) :
    portRequest s p op h = freeReq (refuse (protoErr (atPort s p op h) p) p op h.ptag 0x10) p (reqData op h) := by
  rw [portRequest_of_taken up takes, outside, bad]
  rfl
/-- Every other request is mapped to the partition of its stream (R281). -/
theorem portRequest_of_fields_good (good : fieldsBad op h = false) :
    portRequest s p op h = mapRequest (atPort s p op h) p op h := by
  rw [portRequest_of_taken up takes, outside, good]
  rfl
end Checks

/-- The window serves single-word reads and writes alone (R37). -/
theorem doorbell_of_other_op (s : State) (p : PortId) {op : PcpOp} (h : PcpHdr) (notRead : op ≠ .rdNc) (notWrite : op ≠ .wrNc) :
    doorbell s p op h = refuse (trouble s (blkPcp p) kPcpDbReject) p op h.ptag 0x03 := by
  unfold doorbell
  exact if_pos ⟨notRead, notWrite⟩

/-! The partition of the stream (R281, R292). -/

/-- The entry of the stream table that a request is mapped by (R281). -/
def streamEntry (s : State) (p : PortId) (h : PcpHdr) : BitVec 8 := tget stream0 (portSt s p).stream h.stream.toNat
/-- The partition that the entry names. -/
def streamPart (s : State) (p : PortId) (h : PcpHdr) : PartId := (streamEntry s p h).extractLsb' 0 6
/-- The state of that partition. -/
def streamState (s : State) (p : PortId) (h : PcpHdr) : BitVec 3 := (partSt s (streamPart s p h)).state
/-- A request that the port answers with an error: refused, and its credits returned. -/
def refusedReq (t : State) (p : PortId) (op : PcpOp) (h : PcpHdr) (status : BitVec 8) : State :=
  freeReq (refuse t p op h.ptag status) p (reqData op h)
/-- The request that goes on to its slice (R281). -/
def mappedReq (s : State) (p : PortId) (op : PcpOp) (h : PcpHdr) : Req :=
  { src := .port p, op, hdr := h, part := streamPart s p h, cons := (streamEntry s p h).getLsbD 7,
    rel := pinReleases s (lineOf h.addr), dead := false }
/-- The request is open under its tag, where it carries one (R325). -/
def tagOpened (s : State) (p : PortId) (op : PcpOp) (h : PcpHdr) : State :=
  if usesTag op then
    putPort s p { portSt s p with open_ := (portSt s p).open_ ++ [(h.ptag, streamPart s p h, lineOf h.addr)] }
  else s
/-- A request waits in the receive buffer, behind those that came before it (R595). -/
def rxQueued (s : State) (p : PortId) (r : Req) : State := putPort s p { portSt s p with rxq := (portSt s p).rxq ++ [r] }

section Mapped
variable {s : State} {p : PortId} {op : PcpOp} {h : PcpHdr}

/-- To open a tag leaves the receive buffer alone. -/
@[simp] theorem rxq_tagOpened : (portSt (tagOpened s p op h) p).rxq = (portSt s p).rxq := by
  unfold tagOpened
  split
  · rw [portSt_putPort_self]
  · rfl
/-- To open a tag leaves the caches alone. -/
@[simp] theorem cache_tagOpened : (tagOpened s p op h).cache = s.cache := by
  unfold tagOpened
  split
  · rw [putPort_cache]
  · rfl

/-- A stream that is mapped to no partition (R281). -/
theorem mapRequest_of_unmapped (unmapped : (streamEntry s p h).getLsbD 6 = false) :
    mapRequest s p op h = refusedReq (trouble s (blkPcp p) kPcpStreamUnmapped) p op h 0x04 := by
  unfold mapRequest
  exact if_pos (by rw [Bool.not_eq_true]; exact unmapped)

variable (mapped : (streamEntry s p h).getLsbD 6 = true)
include mapped

/-- A stream mapped to a partition that does not exist (R281). -/
theorem mapRequest_of_absent (absent : streamState s p h = 0) :
    mapRequest s p op h = refusedReq (trouble s (blkPcp p) kPcpStreamUnmapped) p op h 0x05 := by
  unfold mapRequest
  exact (if_neg (not_not_intro mapped)).trans (if_pos absent)
/-- A stream mapped to a partition that is being restored (R281). -/
theorem mapRequest_of_restoring (restoring : streamState s p h = 7) :
    mapRequest s p op h = refusedReq (trouble s (blkPcp p) kPcpStreamUnmapped) p op h 0x12 := by
  have existing : streamState s p h ≠ 0 := by rw [restoring]; decide
  unfold mapRequest
  exact (if_neg (not_not_intro mapped)).trans ((if_neg existing).trans (if_pos restoring))

/-- A partition that exists and is not being restored serves the request, or turns it away where it is quiesced (R292). -/
theorem mapRequest_of_existing (existing : streamState s p h ≠ 0) (notRestoring : streamState s p h ≠ 7) :
    mapRequest s p op h =
      if (streamState s p h = 2 ∨ streamState s p h = 3 ∨ streamState s p h = 4)
          ∧ ¬ quiesceServes s p (streamPart s p h) op h.stream then
        refusedReq (onPart s (streamPart s p h) fun y => { y with qrefused := y.qrefused + 1 }) p op h 0x06
      else if (portSt (tagOpened s p op h) p).rxq = [] ∧ fabricUsed (tagOpened s p op h) p < 128 then
        toFabric (tagOpened s p op h) p (mappedReq s p op h)
      else rxQueued (tagOpened s p op h) p (mappedReq s p op h) := by
  unfold mapRequest
  exact (if_neg (not_not_intro mapped)).trans ((if_neg existing).trans (if_neg notRestoring))

/-- A partition that is quiesced refuses what it does not serve, and counts it (R292). -/
theorem mapRequest_of_quiesced (quiesced : streamState s p h = 2 ∨ streamState s p h = 3 ∨ streamState s p h = 4)
    (refused : quiesceServes s p (streamPart s p h) op h.stream = false) :
    mapRequest s p op h =
      refusedReq (onPart s (streamPart s p h) fun y => { y with qrefused := y.qrefused + 1 }) p op h 0x06 := by
  have existing : streamState s p h ≠ 0 := by rcases quiesced with is | is | is <;> rw [is] <;> decide
  have notRestoring : streamState s p h ≠ 7 := by rcases quiesced with is | is | is <;> rw [is] <;> decide
  rw [mapRequest_of_existing mapped existing notRestoring, if_pos ⟨quiesced, by rw [refused]; decide⟩]
/-- A request served goes into the fabric input, or waits in the receive buffer (R595). -/
theorem mapRequest_of_served (existing : streamState s p h ≠ 0) (notRestoring : streamState s p h ≠ 7)
    (served : (streamState s p h ≠ 2 ∧ streamState s p h ≠ 3 ∧ streamState s p h ≠ 4)
      ∨ quiesceServes s p (streamPart s p h) op h.stream = true) :
    mapRequest s p op h =
      if (portSt s p).rxq = [] ∧ fabricUsed s p < 128 then toFabric (tagOpened s p op h) p (mappedReq s p op h)
      else rxQueued (tagOpened s p op h) p (mappedReq s p op h) := by
  rw [mapRequest_of_existing mapped existing notRestoring, if_neg, rxq_tagOpened, fabricUsed_of_cache p cache_tagOpened]
  rintro ⟨quiesced, refused⟩
  rcases served with ⟨not2, not3, not4⟩ | serves
  · rcases quiesced with is2 | is3 | is4
    · exact not2 is2
    · exact not3 is3
    · exact not4 is4
  · exact refused serves
end Mapped

section AtPort
variable (s : State) (p : PortId) (op : PcpOp) (h : PcpHdr)

@[simp] theorem streamEntry_atPort : streamEntry (atPort s p op h) p h = streamEntry s p h := by
  unfold streamEntry
  rw [stream_atPort]
@[simp] theorem streamPart_atPort : streamPart (atPort s p op h) p h = streamPart s p h := by
  unfold streamPart
  rw [streamEntry_atPort]
@[simp] theorem streamState_atPort : streamState (atPort s p op h) p h = streamState s p h := by
  unfold streamState
  rw [streamPart_atPort, partSt_atPort]
end AtPort

/-- The command of a request is the request's arrival at the port, whatever its code. -/
theorem exec_requestCmd {s : State} (run : Running s) (op : PcpOp) (p : PortId) (h : PcpHdr) :
    exec (requestCmd op p h) s = .next (settled s (portRequest s p op h)) := by
  cases op <;> exact finish_of_running run _

/-- Settles O36: the port's checks in their order, then the cases of the partition that the stream maps to. -/
theorem portsDecodeRequests : Obligations.PortsDecodeRequests := by
  unfold Obligations.PortsDecodeRequests
  refine ⟨?_, fun s run => by and_intros <;> intros <;> exact finish_of_running run _⟩
  intro s op p h run x u nd en part st refused takes served
  have request (t : State) (decoded : portRequest s p op h = t) : exec (requestCmd op p h) s = .next (settled s t) := by
    rw [exec_requestCmd run, decoded]
  have entry : streamEntry u p h = en := streamEntry_atPort s p op h
  have toPart : streamPart u p h = part := streamPart_atPort s p op h
  have state : streamState u p h = st := streamState_atPort s p op h
  have serving : quiesceServes u p (streamPart u p h) op h.stream = quiesceServes s p part op h.stream := by
    rw [toPart, quiesceServes_atPort]
  have mapping (t : State) (up : x.down = false) : served → mapRequest u p op h = t →
      exec (requestCmd op p h) s = .next (settled s t) := fun ⟨tk, outside, good⟩ goes =>
    request t ((portRequest_of_fields_good up tk outside good).trans goes)
  refine ⟨fun down => ?_, fun up uses twice => ?_, fun up uses fresh closed => ?_, fun up tk window notRead notWrite => ?_,
    fun up tk window _ => ?_, fun up tk outside bad => ?_, fun up ok unmapped => ?_,
    fun up ok mapped absent => ?_, fun up ok mapped restoring => ?_,
    fun up ok mapped quiesced unserved => ?_,
    fun up ok mapped existing notRestoring serves => ?_⟩
  · rw [request s (portRequest_of_down down), settled_self]
  · exact request _ (portRequest_of_tagOpen up uses twice)
  · exact request _ (portRequest_of_retiring up uses fresh closed)
  · apply request
    rw [portRequest_of_taken_in_window up tk window, doorbell_of_other_op u p h notRead notWrite]
    rfl
  · exact request _ (portRequest_of_taken_in_window up tk window)
  · exact request _ (portRequest_of_fieldsBad up tk outside bad)
  · exact mapping _ up ok (mapRequest_of_unmapped (entry.symm ▸ unmapped))
  · exact mapping _ up ok (mapRequest_of_absent (entry.symm ▸ mapped) (state.trans absent))
  · exact mapping _ up ok (mapRequest_of_restoring (entry.symm ▸ mapped) (state.trans restoring))
  · apply mapping _ up ok
    rw [mapRequest_of_quiesced (entry.symm ▸ mapped) (state ▸ quiesced) (serving.trans unserved), toPart]
    rfl
  · intro r v
    have send : mappedReq u p op h = r := by
      unfold mappedReq
      rw [entry, toPart]
    have tagged : tagOpened u p op h = v := by
      unfold tagOpened
      rw [toPart]
    have sent := mapRequest_of_served (op := op) (entry.symm ▸ mapped) (state ▸ existing) (state ▸ notRestoring)
      (state ▸ serving ▸ serves)
    rw [send, tagged, rxq_atPort, fabricUsed_of_cache p (cache_atPort s p op h)] at sent
    refine ⟨fun empty room => ?_, fun full => ?_⟩
    · exact mapping _ up ok (sent.trans (if_pos ⟨empty, room⟩))
    · have waits : ¬ (x.rxq = [] ∧ fabricUsed s p < 128) := fun ⟨empty, room⟩ =>
        full.elim (fun busy => busy empty) (Nat.not_le.mpr room)
      exact mapping _ up ok (sent.trans (if_neg waits))

end Sys2Proof.Machine
end

section
/-! PROOFS. How the link of a port trains, moves between its states, and exchanges init flits (R312, R313, R320, R322, R534). -/

namespace Sys2Proof.Machine
open Sys2Proof.Safety

/-! What of a port, of the events and of what goes out is read in the answer of a meaning. -/

@[simp] theorem portSt_settled (s t : State) (p : PortId) : portSt (settled s t) p = portSt t p := by
  unfold portSt
  rw [settled_ports]
@[simp] theorem portSt_raiseEvt (s : State) (v : Nat) (p : PortId) : portSt (raiseEvt s v) p = portSt s p := rfl
@[simp] theorem portSt_raiseErr (s : State) (b e : Nat) (p : PortId) : portSt (raiseErr s b e) p = portSt s p := by
  unfold portSt
  rw [raiseErr_ports]
/-- Partitions as they were: no log record goes out. -/
theorem settled_out_of_parts {s t : State} (same : t.parts = s.parts) : (settled s t).out = t.out := by
  rw [settled_of_parts s t same]
  rfl
/-- Partitions as they were: no log record raises an event. -/
theorem settled_ctrs_evt_of_parts {s t : State} (same : t.parts = s.parts) : (settled s t).ctrs.evt = t.ctrs.evt := by
  rw [settled_of_parts s t same]
  rfl
@[simp] theorem getLsbD_setBit_self {w : Nat} (v : BitVec w) {i : Nat} (inside : i < w) : (setBit v i true).getLsbD i = true := by
  simp [setBit, inside]
theorem raiseEvt_ctrs_evt_self (s : State) {v : Nat} (event : v < 32) : (raiseEvt s v).ctrs.evt.getLsbD v = true :=
  getLsbD_setBit_self _ event
/-- An event adds to what goes out, and takes nothing back (R441). -/
theorem raiseEvt_out_append (s : State) (v : Nat) : ∃ l, (raiseEvt s v).out = s.out ++ l := by
  unfold raiseEvt
  dsimp only
  split
  · exact ⟨_, rfl⟩
  · exact ⟨[], (List.append_nil _).symm⟩

/-! Training ends in L0 (R313, R322, R534). -/

/-- A port whose training has ended in L0, at the rate and width that training found (R313). -/
def trainedPort (x : PortSt) (rate : BitVec 2) (x8 : Bool) : PortSt :=
  { x with
    ltssm := .l0, rate, x8, initDone := false, initRx := false, rxNext := 0, ackv := false, nakSent := false
    txNext := 0, unacked := [], txWait := [], replays := 0, recoveries := [], part := none, prbOffer := 0, prbCred := 0 }
/-- The state in which the training of a port has ended; after READY an init flit goes out (R322). -/
def portTrained (s : State) (p : PortId) (rate : BitVec 2) (x8 : Bool) : State :=
  { putPort s p (trainedPort (portSt s p) rate x8) with out := if s.boot.ready then s.out ++ [.flitInit p] else s.out }

section Training
variable {s : State} {p : PortId} {rate : BitVec 2} {x8 : Bool}

theorem portTrained_parts : (portTrained s p rate x8).parts = s.parts := rfl
theorem portSt_portTrained_self : portSt (portTrained s p rate x8) p = trainedPort (portSt s p) rate x8 :=
  portSt_putPort_self ..
theorem portSt_portTrained_of_ne {q : PortId} (other : q ≠ p) : portSt (portTrained s p rate x8) q = portSt s q :=
  portSt_putPort_of_ne s other.symm _
/-- A port that trains and may, at a rate and a width that it allows, comes to L0 (R313). -/
theorem pcpLinkUp_of_allowed
    (trains : (portSt s p).ltssm = .detect ∨ (portSt s p).ltssm = .polling ∨ (portSt s p).ltssm = .configuration)
    (may : mayTrain (portSt s p) = true) (fits : rateAllowed (portSt s p).maxrate rate = true)
    (width : x8 = false ∨ (portSt s p).x8ok = true) :
    pcpLinkUp s p rate x8 = portTrained s p rate x8 := by
  have allowed : (((portSt s p).ltssm == .detect || (portSt s p).ltssm == .polling || (portSt s p).ltssm == .configuration)
      && mayTrain (portSt s p) && rateAllowed (portSt s p).maxrate rate && (!x8 || (portSt s p).x8ok)) = true := by
    simpa [may, fits, or_assoc] using And.intro trains width
  unfold pcpLinkUp portTrained
  by_cases ready : s.boot.ready = true <;>
    simp only [allowed, Bool.not_true, Bool.false_eq_true, if_false, putPort_boot, ready, if_true] <;>
    rfl
/-- A port that may not train does not come up (R313). -/
theorem pcpLinkUp_of_may_not (mayNot : mayTrain (portSt s p) = false) : pcpLinkUp s p rate x8 = s := by
  unfold pcpLinkUp
  simp only [mayNot, Bool.and_false, Bool.false_and, Bool.not_false, if_true]
end Training

/-! The moves of the LTSSM (R312, R320). -/

/-- The state in which a link is back in L0 from Recovery. -/
def portRecovered (s : State) (p : PortId) : State := putPort s p { portSt s p with ltssm := .l0 }
theorem portSt_portRecovered (s : State) (p : PortId) : portSt (portRecovered s p) p = { portSt s p with ltssm := .l0 } :=
  portSt_putPort_self ..

section Moves
variable {s : State} {p : PortId}

theorem ltssmMove_polling (detect : (portSt s p).ltssm = .detect) (may : mayTrain (portSt s p) = true) :
    ltssmMove s p .polling = putPort s p { portSt s p with ltssm := .polling } := if_pos ⟨detect, may⟩
theorem ltssmMove_configuration (polling : (portSt s p).ltssm = .polling) :
    ltssmMove s p .configuration = putPort s p { portSt s p with ltssm := .configuration } := if_pos polling
theorem ltssmMove_foreignTs (polling : (portSt s p).ltssm = .polling) :
    ltssmMove s p .foreignTs = trouble s (blkPcp p) kPcpPcpForeign := if_pos polling
/-- A link that has not come up goes back to Detect. -/
theorem ltssmMove_detect (trains : (portSt s p).ltssm = .polling ∨ (portSt s p).ltssm = .configuration) :
    ltssmMove s p .detect = putPort s p { portSt s p with ltssm := .detect } := by
  unfold ltssmMove portDetect
  rcases trains with state | state <;> simp only [state]
/-- With every flit acknowledged, none is sent again (R320). -/
theorem resendFlits_of_acknowledged (acked : (portSt s p).unacked = []) : resendFlits s p = putPort s p (portSt s p) := by
  have same : { portSt s p with unacked := [] } = portSt s p := by rw [← acked]
  unfold resendFlits
  simp only [acked, List.map_nil, List.append_nil, same]
  rfl
/-- A Recovery ends, and what has not been acknowledged is sent again (R320). -/
theorem ltssmMove_l0 (recovery : (portSt s p).ltssm = .recovery) : ltssmMove s p .l0 = resendFlits (portRecovered s p) p :=
  if_pos recovery
/-- The first Recovery in 1 ms (R320). -/
theorem ltssmMove_recovery_of_first (up : (portSt s p).ltssm = .l0) (first : (portSt s p).recoveries = []) :
    ltssmMove s p .recovery = putPort s p { portSt s p with ltssm := .recovery, recoveries := [s.now], replays := 0 } := by
  unfold ltssmMove portRecovery
  simp only [up, first, if_true, List.filter_nil, List.nil_append, List.length_nil]
  rfl
end Moves

/-! The init exchange (R322). -/

/-- A port that has taken the init flit of its requester (R322). -/
def initPort (x : PortSt) (cred : BitVec 8) : PortSt :=
  { x with initRx := true, initDone := true, prbOffer := cred, prbCred := cred.toNat, returning := none }

/-- The state in which a port has answered the init flit of its requester, with event PORT (R322, R440). -/
def portInitialised (s : State) (p : PortId) (cred : BitVec 8) : State :=
  raiseEvt { putPort s p (initPort (portSt s p) cred) with out := s.out ++ [.flitInit p] } 10

section Initialised
variable {s : State} {p : PortId} {cred : BitVec 8}

theorem portInitialised_parts : (portInitialised s p cred).parts = s.parts := rfl
theorem portSt_portInitialised_self : portSt (portInitialised s p cred) p = initPort (portSt s p) cred :=
  portSt_putPort_self ..
theorem portSt_portInitialised_of_ne {q : PortId} (other : q ≠ p) : portSt (portInitialised s p cred) q = portSt s q :=
  portSt_putPort_of_ne s other.symm _
theorem portInitialised_out : ∃ l, (portInitialised s p cred).out = s.out ++ [.flitInit p] ++ l := raiseEvt_out_append ..
end Initialised

section Init
variable {s : State} {p : PortId} {ver : BitVec 8} {role : Bool} {cred : BitVec 8}
  (up : (portSt s p).ltssm = .l0) (fresh : (portSt s p).initDone = false)
include up fresh

/-- An init flit of another version, from another port, or with too few credits is a protocol error. -/
theorem pcpInit_of_bad (bad : ver ≠ 1 ∨ role = true ∨ cred.toNat < 8) : pcpInit s p ver role cred = protoErr s p := by
  unfold pcpInit
  simp only [up, fresh, bad, ne_eq, not_true, Bool.false_eq_true, or_self, if_false, if_true]

variable (version : ver = 1) (requester : role = false) (credits : 8 ≤ cred.toNat)
include version requester credits

/-- Before READY the port does not answer. -/
theorem pcpInit_of_not_ready (early : s.boot.ready = false) : pcpInit s p ver role cred = s := by
  unfold pcpInit
  simp only [up, fresh, version, requester, Nat.not_lt.mpr credits, early, ne_eq, not_true, Bool.false_eq_true, not_false_eq_true,
    or_self, if_false, if_true]
/-- After READY the port answers, is initialised, and says so (R322, R440). -/
theorem pcpInit_of_ready (ready : s.boot.ready = true) (stays : (portSt s p).returning = none) :
    pcpInit s p ver role cred = portInitialised s p cred := by
  have waits : ¬ ((portSt s p).ltssm ≠ .l0 ∨ (portSt s p).initDone = true) := by simp [up, fresh]
  have good : ¬ (ver ≠ 1 ∨ role = true ∨ cred.toNat < 8) := by simp [version, requester, credits]
  unfold pcpInit portInitialised
  simp only [if_neg waits, if_neg good, ready, not_true, if_false, stays]
  rfl
end Init

/-! The commands. -/

section Commands
variable {s : State} (run : Running s)
include run

theorem exec_pcpLinkUp (p : PortId) (rate : BitVec 2) (x8 : Bool) :
    exec (.pcpLinkUp p rate x8) s = .next (settled s (pcpLinkUp s p rate x8)) := finish_of_running run _
theorem exec_initFlit (p : PortId) (ver : BitVec 8) (role : Bool) (cred : BitVec 8) :
    exec (.initFlit p ver role cred) s = .next (settled s (pcpInit s p ver role cred)) := finish_of_running run _
theorem exec_ltssmTransition (p : PortId) (m : LtssmMove) :
    exec (.ltssmTransition p m) s = .next (settled s (ltssmMove s p m)) := finish_of_running run _
end Commands

/-- Settles O33: training, then the moves of the LTSSM one by one, then the init flit by what it carries and by READY. -/
theorem portLinksComeUp : Obligations.PortLinksComeUp := by
  unfold Obligations.PortLinksComeUp
  refine ⟨fun s p run => ⟨?_, ?_, ?_, ?_, ?_, ?_, ?_, ?_⟩, fun s p ver role cred run up fresh => ⟨?_, ?_, ?_⟩,
    fun s run => ⟨exec_pcpLinkUp run, exec_initFlit run, exec_ltssmTransition run⟩⟩
  · intro rate x8 trains may fits width
    refine ⟨_, exec_pcpLinkUp run p rate x8, ?_⟩
    rw [pcpLinkUp_of_allowed trains may fits width, settled_out_of_parts portTrained_parts, settled_cache, settled_mem]
    simp only [portSt_settled, portSt_portTrained_self]
    exact ⟨rfl, rfl, rfl, rfl, rfl, rfl, rfl, rfl, fun q other => portSt_portTrained_of_ne other, rfl, rfl⟩
  · intro rate x8 mayNot
    rw [exec_pcpLinkUp run, pcpLinkUp_of_may_not mayNot, settled_self]
  · intro detect may
    rw [exec_ltssmTransition run, ltssmMove_polling detect may]
  · intro polling
    rw [exec_ltssmTransition run, ltssmMove_configuration polling]
  · intro polling
    rw [exec_ltssmTransition run, ltssmMove_foreignTs polling]
    rfl
  · intro trains
    rw [exec_ltssmTransition run, ltssmMove_detect trains]
  · intro recovery acked
    refine ⟨_, exec_ltssmTransition run p .l0, ?_⟩
    have acked' : (portSt (portRecovered s p) p).unacked = [] := by rw [portSt_portRecovered, acked]
    have same : (putPort (portRecovered s p) p (portSt (portRecovered s p) p)).parts = s.parts := rfl
    rw [ltssmMove_l0 recovery, resendFlits_of_acknowledged acked', settled_out_of_parts same, settled_cache, settled_mem,
      portSt_settled, portSt_putPort_self, portSt_portRecovered]
    exact ⟨rfl, rfl, rfl, rfl⟩
  · intro up first
    rw [exec_ltssmTransition run, ltssmMove_recovery_of_first up first]
  · intro bad
    rw [exec_initFlit run, pcpInit_of_bad up fresh bad]
  · intro version requester credits early
    rw [exec_initFlit run, pcpInit_of_not_ready up fresh version requester credits early, settled_self]
  · intro version requester credits ready stays
    refine ⟨_, exec_initFlit run p ver role cred, ?_⟩
    rw [pcpInit_of_ready up fresh version requester credits ready stays, portSt_settled,
      portSt_portInitialised_self, settled_out_of_parts portInitialised_parts,
      settled_ctrs_evt_of_parts portInitialised_parts, settled_cache, settled_mem]
    simp only [portSt_settled]
    exact ⟨rfl, rfl, rfl, raiseEvt_ctrs_evt_self _ (by decide), portInitialised_out,
      fun q other => portSt_portInitialised_of_ne other, rfl, rfl⟩

end Sys2Proof.Machine
end

section
/-! PROOFS. How a port's link goes down and is purged, and how ports are retired and returned (R338-R340, R375). -/

namespace Sys2Proof.Machine
open Sys2Proof.Safety

/-! A port without probes has none to answer (R338). -/

section Probes
variable {s : State} {p : PortId}

/-- The state in which a port holds no probe back. -/
def noneHeld (s : State) (p : PortId) : State := putPort s p { portSt s p with probeHold := [] }
theorem portSt_noneHeld : portSt (noneHeld s p) p = { portSt s p with probeHold := [] } := portSt_putPort_self ..
theorem portSt_noneHeld_of_ne {q : PortId} (other : q ≠ p) : portSt (noneHeld s p) q = portSt s q :=
  portSt_putPort_of_ne s other.symm _
theorem answerProbes_of_none (sent : probesOf s p = []) (held : (portSt s p).probeHold = []) :
    answerProbes s p = noneHeld s p := by
  unfold answerProbes
  rw [sent, held]
  rfl
end Probes

/-! The link goes down (R338). -/

/-- A port whose link has gone down: it is in Detect, and nothing of the link is left (R338). -/
def downPort (p : PortId) (x : PortSt) : PortSt :=
  { x with
    ltssm := .detect, initDone := false, initRx := false, down := true, trainOk := false, unacked := [], txWait := []
    part := none, open_ := [], cmpHold := [], reqhUsed := 0, reqdUsed := 0, rxq := x.rxq.map (deadReq p), recoveries := []
    replays := 0, purge := some 0 }
/-- The state in which the link of a port has gone down and its open requests run to their end unanswered (R338). -/
def linkLost (s : State) (p : PortId) : State := deadenPort (putPort s p (downPort p (portSt s p))) p

/-- An error event is set by its raising (R485). -/
theorem raiseErr_ctrs_errEvent_self (s : State) (b : Nat) {e : Nat} (event : e < 10) :
    (raiseErr s b e).ctrs.errEvent.getLsbD e = true := by
  unfold raiseErr
  dsimp only
  rw [logAdd_ctrs_errEvent, raiseEvt_ctrs_errEvent]
  exact getLsbD_setBit_self _ event

section Down
variable {s : State} {p : PortId}

theorem portSt_linkLost_self : portSt (linkLost s p) p = downPort p (portSt s p) := portSt_putPort_self ..
theorem portSt_linkLost_of_ne {q : PortId} (other : q ≠ p) : portSt (linkLost s p) q = portSt s q :=
  portSt_putPort_of_ne s other.symm _
theorem probesOf_linkLost : probesOf (linkLost s p) p = probesOf s p := rfl
/-- A port without probes goes down with error event 9 (R338, R485). -/
theorem portDown_of_no_probes (sent : probesOf s p = []) (held : (portSt s p).probeHold = []) :
    portDown s p = raiseErr (noneHeld (linkLost s p) p) (blkPcp p) 9 := by
  have answered : answerProbes (linkLost s p) p = noneHeld (linkLost s p) p :=
    answerProbes_of_none (probesOf_linkLost.trans sent) (by rw [portSt_linkLost_self]; exact held)
  rw [← answered]
  rfl
end Down

/-! The purge, and its end (R338). -/

section Purge
variable {s : State} {p : PortId}

/-- The purge ends when no filter entry names the port any more: a port that stays may train again (R338). -/
theorem purgeDone_of_purged (down : (portSt s p).down = true) (purged : pfOfPort s p = []) (stays : (portSt s p).retire = none) :
    purgeDone s p = putPort s p { portSt s p with
      down := false, purge := none
      trainOk := (portSt s p).en && !(portSt s p).held && ((portSt s p).autoRetrain || (portSt s p).returning.isSome) } := by
  unfold purgeDone
  simp only [down, purged, List.isEmpty_nil, and_self, if_true]
  exact retireEnd_of_not_retiring (by rw [portSt_putPort_self]; exact stays)
/-- A link that is up has no purge to end, and one that is down waits for its filter entries (R338). -/
theorem purgeDone_of_not_purged (goes : (portSt s p).down = false ∨ pfOfPort s p ≠ []) : purgeDone s p = s := by
  refine if_neg fun ⟨down, purged⟩ => goes.elim (fun up => ?_) fun left => left (List.isEmpty_iff.mp purged)
  rw [up] at down
  cases down

variable {sl : SliceId}
/-- The walker of a slice whose filter names the port no more takes no step of the purge. -/
theorem filterStep_of_purged (purging : (portSt s p).purge.isSome = true)
    (clean : (pfOfPort s p).find? (fun e => e.1 / 32768 == sl.toNat) = none) : filterStep s p sl = s := by
  unfold filterStep purgeStep
  simp only [purging, if_true, clean]
/-- A step of the purge takes the next filter set of the slice that names the port, and is counted (R338). -/
theorem filterStep_of_purging {e : Nat × PfEntry} (purging : (portSt s p).purge.isSome = true)
    (next : (pfOfPort s p).find? (fun e => e.1 / 32768 == sl.toNat) = some e) :
    filterStep s p sl = putPort (purgeSet s p (e.1 / 16)) p
      { portSt (purgeSet s p (e.1 / 16)) p with purge := (portSt (purgeSet s p (e.1 / 16)) p).purge.map (· + 1) } := by
  unfold filterStep purgeStep
  simp only [purging, if_true, next]
end Purge

/-! Retirement (R339). -/

@[simp] theorem domSt_settled (s t : State) (d : Nat) : domSt (settled s t) d = domSt t d := by
  unfold domSt unwiredDom
  rw [settled_unwired, settled_pwr]
@[simp] theorem domSt_raiseEvt (s : State) (v d : Nat) : domSt (raiseEvt s v) d = domSt s d := rfl

/-- A port that has retired: electrical idle, and nothing of the link is left (R339). -/
def retiredPort (x : PortSt) : PortSt :=
  { x with
    ltssm := .idle, initDone := false, initRx := false, retired := true, retire := none, trainOk := false
    unacked := [], txWait := [], part := none }
/-- The state in which a port has retired: its domain is in A3, and event PORT says so (R339, R440). -/
def portRetired (s : State) (p : PortId) : State :=
  raiseEvt (putDom (putPort s p (retiredPort (portSt s p))) (domPcp p)
    { domSt s (domPcp p) with state := 3, entering := none, waking := none }) 10
/-- Nothing of a port is left that its retirement would wait for (R339). -/
structure PortClear (s : State) (p : PortId) : Prop where
  requests : (portSt s p).open_ = []
  entries : pfOfPort s p = []
  probes : probesOf s p = []
  heldProbes : (portSt s p).probeHold = []
  heldCompletions : (portSt s p).cmpHold = []
  up : (portSt s p).down = false

section Retire
variable {s : State} {p : PortId} {r : Retire}

theorem portRetired_parts : (portRetired s p).parts = s.parts := by
  unfold portRetired
  rw [raiseEvt_parts, putDom_parts, putPort_parts]
theorem portRetired_cache : (portRetired s p).cache = s.cache := by
  unfold portRetired
  rw [raiseEvt_cache, putDom_cache, putPort_cache]
theorem portRetired_mem : (portRetired s p).mem = s.mem := by
  unfold portRetired
  rw [raiseEvt_mem, putDom_mem, putPort_mem]
theorem portSt_portRetired : portSt (portRetired s p) p = retiredPort (portSt s p) := by
  unfold portRetired
  exact portSt_putPort_self ..
theorem domSt_portRetired : (domSt (portRetired s p) (domPcp p)).state = 3 := by
  unfold portRetired
  rw [domSt_raiseEvt, domSt_putDom_self]
  split <;> rfl
/-- Work without a slot has none to report to. -/
theorem onSlot_none (s : State) (f : State → SlotRef → State) : onSlot s none f = s := rfl
/-- A port of which nothing is left retires, where no operation's slot waits for it (R339). -/
theorem retireEnd_of_clear (retires : (portSt s p).retire = some r) (own : r.slot = none) (clear : PortClear s p) :
    retireEnd s p = portRetired s p := by
  obtain ⟨requests, entries, probes, heldProbes, heldCompletions, up⟩ := clear
  have ends : (!(portSt s p).open_.isEmpty || !(pfOfPort s p).isEmpty || !(probesOf s p).isEmpty
      || !(portSt s p).probeHold.isEmpty || !(portSt s p).cmpHold.isEmpty || (portSt s p).down) = false := by
    simp [requests, entries, probes, heldProbes, heldCompletions, up]
  unfold retireEnd
  simp only [retires, ends, Bool.false_eq_true, if_false, own]
  rfl
/-- The count of a retirement without a slot notes the time (R339). -/
theorem retireCount_zero (retires : (portSt s p).retire = some r) (own : r.slot = none) :
    retireCount s p 0 0 = putPort s p { portSt s p with retire := some { r with since := s.now } } := by
  unfold retireCount
  simp only [retires, own, Nat.add_zero]
  rfl

/-- Before its time a retirement does not end by the timeout (R339). -/
theorem retireTimeout_of_early (retires : (portSt s p).retire = some r)
    (early : r.probing = false ∨ s.now.toNat < r.since.toNat + 10000000) : retireTimeout s p = s := by
  unfold retireTimeout
  simp only [retires, Bool.not_eq_true, early, if_true]

/-- The state in which the timeout has found nothing of a port to purge. -/
def nonePurged (s : State) (p : PortId) (r : Retire) : State :=
  putPort (noneHeld s p) p { portSt (noneHeld s p) p with retire := some { r with since := s.now } }
theorem nonePurged_parts : (nonePurged s p r).parts = s.parts := rfl
theorem nonePurged_cache : (nonePurged s p r).cache = s.cache := rfl
theorem nonePurged_mem : (nonePurged s p r).mem = s.mem := rfl
theorem portSt_nonePurged : portSt (nonePurged s p r) p =
    { portSt s p with probeHold := [], retire := some { r with since := s.now } } := by
  unfold nonePurged
  rw [portSt_putPort_self, portSt_noneHeld]
theorem PortClear.nonePurged (clear : PortClear s p) : PortClear (nonePurged s p r) p := by
  obtain ⟨requests, entries, probes, heldProbes, heldCompletions, up⟩ := clear
  refine ⟨?_, entries, probes, ?_, ?_, ?_⟩ <;> rw [portSt_nonePurged]
  exacts [requests, heldCompletions, up]
/-- When the timeout has come, a port of which nothing is left retires (R339). -/
theorem retireTimeout_of_clear (retires : (portSt s p).retire = some r) (probing : r.probing = true)
    (late : r.since.toNat + 10000000 ≤ s.now.toNat) (own : r.slot = none) (clear : PortClear s p) :
    retireTimeout s p = portRetired (nonePurged s p r) p := by
  have due : ¬ (¬ r.probing = true ∨ s.now.toNat < r.since.toNat + 10000000) := by simp [probing, late]
  have counted : retireCount (noneHeld s p) p 0 0 = nonePurged s p r :=
    retireCount_zero (by rw [portSt_noneHeld]; exact retires) own
  have ended : retireEnd (nonePurged s p r) p = portRetired (nonePurged s p r) p :=
    retireEnd_of_clear (r := { r with since := s.now }) (by rw [portSt_nonePurged]) own clear.nonePurged
  unfold retireTimeout
  simp only [retires, if_neg due, clear.entries, answerProbes_of_none clear.probes clear.heldProbes, List.filter_nil,
    List.length_nil, List.foldl_nil, counted, own, onSlot_none, ended]
end Retire

/-! The return of a port has a time limit (R340, R375). -/

section Return
variable {s : State} {k : SlotRef} {t0 : Tick}

/-- A ring port that has not come up in 100 ms fails its return (R375). -/
theorem ringReturnLate_of_training {p : RingPort} (returns : (ringPort s p).returning = some (k, t0))
    (trains : (ringPort s p).state = .training) (late : t0.toNat + 100000000 ≤ s.now.toNat) :
    ringReturnLate s p = opFail (putRing s p { ringPort s p with returning := none }) k 0x0B := by
  have due : (ringPort s p).state ≠ .standby ∧ (ringPort s p).state ≠ .active ∧ t0.toNat + 100000000 ≤ s.now.toNat := by
    simp [trains, late]
  unfold ringReturnLate
  simp only [returns, if_pos due]

variable {p : PortId}
/-- A port that has not come to L0 in 100 ms fails its return (R340). -/
theorem portReturnLate_of_detect (returns : (portSt s p).returning = some (k, t0))
    (detect : (portSt s p).ltssm = .detect) (late : t0.toNat + 100000000 ≤ s.now.toNat) :
    portReturnLate s p = opFail (putPort s p { portSt s p with returning := none }) k 0x0B := by
  have due : (portSt s p).ltssm ≠ .l0 ∧ t0.toNat + 100000000 ≤ s.now.toNat := by simp [detect, late]
  unfold portReturnLate
  simp only [returns, if_pos due]
theorem portReturnLate_of_none (stays : (portSt s p).returning = none) : portReturnLate s p = s := by
  unfold portReturnLate
  simp only [stays]
/-- The numbers below 8 name processor ports. -/
theorem ringPortOf_of_processor {n : BitVec 4} (processor : n.toNat < 8) : ringPortOf n = none := by
  revert n
  decide
end Return

/-! The commands. -/

section Commands
variable {s : State} (run : Running s)
include run

theorem exec_pcpLinkDown (p : PortId) : exec (.pcpLinkDown p) s =
    .next (settled s (if (portSt s p).ltssm = .l0 ∨ (portSt s p).ltssm = .recovery then portDown s p else s)) :=
  finish_of_running run _
theorem exec_portPurgeDone (p : PortId) : exec (.portPurgeDone p) s = .next (settled s (purgeDone s p)) :=
  finish_of_running run _
theorem exec_portRetireTimeout (p : PortId) : exec (.portRetireTimeout p) s = .next (settled s (retireTimeout s p)) :=
  finish_of_running run _
theorem exec_portReturnTimeout (n : BitVec 4) : exec (.portReturnTimeout n) s =
    .next (settled s (match ringPortOf n with
      | some p => ringReturnLate s p
      | none => if n.toNat < 8 then portReturnLate s (n.setWidth 3) else s)) := finish_of_running run _
theorem exec_portReturnTimeout_ring {n : BitVec 4} {p : RingPort} (named : ringPortOf n = some p) :
    exec (.portReturnTimeout n) s = .next (settled s (ringReturnLate s p)) := by
  rw [exec_portReturnTimeout run, named]
theorem exec_portReturnTimeout_processor {n : BitVec 4} (processor : n.toNat < 8) :
    exec (.portReturnTimeout n) s = .next (settled s (portReturnLate s (n.setWidth 3))) := by
  rw [exec_portReturnTimeout run, ringPortOf_of_processor processor]
  exact congrArg (fun t => Host.Outcome.next (settled s t)) (if_pos processor)
theorem exec_portFilterPurgeStep (p : PortId) (sl : SliceId) :
    exec (.portFilterPurgeStep p sl) s = .next (settled s (filterStep s p sl)) := finish_of_running run _
end Commands

/-- Settles O35: each command by whether the port is in the state that it speaks of. -/
theorem portsGoDownAndRetire : Obligations.PortsGoDownAndRetire := by
  unfold Obligations.PortsGoDownAndRetire
  refine ⟨fun s p run => ⟨?_, ?_, ?_, ?_, ?_, ?_, ?_, ?_, ?_, ?_, ?_⟩, fun s run =>
    ⟨exec_pcpLinkDown run, exec_portPurgeDone run, exec_portRetireTimeout run, exec_portReturnTimeout run,
      exec_portFilterPurgeStep run⟩⟩
  · intro notUp notRecovery
    rw [exec_pcpLinkDown run, if_neg (not_or.mpr ⟨notUp, notRecovery⟩), settled_self]
  · intro links sent held
    refine ⟨_, exec_pcpLinkDown run p, ?_⟩
    rw [if_pos links, portDown_of_no_probes sent held, settled_cache, settled_mem, settled_ctrs_errEvent, raiseErr_cache,
      raiseErr_mem]
    simp only [portSt_settled, portSt_raiseErr, portSt_noneHeld, portSt_linkLost_self]
    exact ⟨rfl, rfl, rfl, rfl, rfl, raiseErr_ctrs_errEvent_self _ _ (by decide),
      fun q other => (portSt_noneHeld_of_ne other).trans (portSt_linkLost_of_ne other), rfl, rfl, rfl⟩
  · intro down purged stays
    rw [exec_portPurgeDone run, purgeDone_of_purged down purged stays]
  · intro goes
    rw [exec_portPurgeDone run, purgeDone_of_not_purged goes, settled_self]
  · intro r retires probing late own requests up entries probes heldProbes heldCompletions
    have clear : PortClear s p := ⟨requests, entries, probes, heldProbes, heldCompletions, up⟩
    have same : (portRetired (nonePurged s p r) p).parts = s.parts := portRetired_parts.trans nonePurged_parts
    refine ⟨_, exec_portRetireTimeout run p, ?_⟩
    rw [retireTimeout_of_clear retires probing late own clear, portSt_settled, portSt_portRetired, domSt_settled,
      settled_ctrs_evt_of_parts same, settled_cache, settled_mem, portRetired_cache, portRetired_mem, nonePurged_cache,
      nonePurged_mem]
    exact ⟨rfl, rfl, rfl, domSt_portRetired, raiseEvt_ctrs_evt_self _ (by decide), rfl, rfl⟩
  · intro r retires early
    rw [exec_portRetireTimeout run, retireTimeout_of_early retires early, settled_self]
  · intro rp n k t0 named returns trains late
    rw [exec_portReturnTimeout_ring run named, ringReturnLate_of_training returns trains late]
  · intro n k t0 processor returns detect late
    rw [exec_portReturnTimeout_processor run processor, portReturnLate_of_detect returns detect late]
  · intro n processor stays
    rw [exec_portReturnTimeout_processor run processor, portReturnLate_of_none stays, settled_self]
  · intro sl purging clean
    rw [exec_portFilterPurgeStep run, filterStep_of_purged purging clean, settled_self]
  · intro sl e purging next
    rw [exec_portFilterPurgeStep run, filterStep_of_purging purging next]

end Sys2Proof.Machine
end

section
/-! PROOFS. How a ring port comes up: training, and the exchange by which the partners authenticate (R11, R13, R343, R354-R357,
    R359). -/

namespace Sys2Proof.Machine
open Sys2Proof.Safety

/-! The work of Lantern-B (R13). -/

section LanternB
variable {s : State}

theorem byB_of_runs (runs : lanternB s = true) (t : State) : byB s t = t := if_pos runs
/-- While the engine of Lantern-B does not run, its work is not done. -/
theorem byB_of_stopped (stopped : lanternB s = false) (t : State) : byB s t = s := if_neg (Bool.eq_false_iff.mp stopped)
end LanternB

/-! Training ends in AUTH (R343, R344, R354). -/

/-- A ring port whose training has ended on a lane set: its link starts with nothing sent and nothing received (R354). -/
def trainedRing (x : RingPortSt) (lanes : BitVec 8) : RingPortSt :=
  { x with
    lanes := lanes, spent := [], rxUsed := [], rxNext := 0, ackv := false, nakSent := false, txNext := 0, unacked := []
    replays := 0, part := none, failedLanes := ~~~lanes, turn := false }

section Training
variable {s : State} {p : RingPort}

theorem trainDone_of_not_training (done : (ringPort s p).state ≠ .training) (lanes : BitVec 8) (isForeign : Bool) :
    trainDone s p lanes isForeign = s := if_pos done

variable (trains : (ringPort s p).state = .training) (lanes : BitVec 8)
include trains

/-- The markers of another standard keep the port in training (R343). -/
theorem trainDone_foreign : trainDone s p lanes true = trouble s (blkRing p) kPrlPrlForeign := if_neg (not_not.mpr trains)
theorem trainDone_own : trainDone s p lanes false = authStart (putRing s p (trainedRing (ringPort s p) lanes)) p := by
  unfold trainDone trainedRing
  simp only [trains, ne_eq, not_true, Bool.false_eq_true, if_false]
end Training

/-! The exchange (R355-R357). -/

/-- The two ports of a link face opposite ways: the comparison of R357 of this port's side with the partner's. -/
theorem sides_beq_iff (p : RingPort) (port : BitVec 2) :
    ((p == .ringE || p == .upA) == (port == 0 || port == 2)) = true ↔ ((p = .ringE ∨ p = .upA) ↔ (port = 0 ∨ port = 2)) := by
  rw [beq_iff_eq, Bool.eq_iff_iff]
  simp only [Bool.or_eq_true, beq_iff_eq]

/-- A port that is not in AUTH has no exchange: nothing of one changes it. -/
theorem auth_events_of_not_auth {s : State} {p : RingPort} (other : (ringPort s p).state ≠ .auth) :
    (∀ ver port ctrl kgen nonce, authChal s p ver port ctrl kgen nonce = s) ∧ (∀ mac, authResp s p mac = s)
      ∧ (∀ r, authDone s p r = s) ∧ authTimeout s p = s ∧ authRestart s p = s := by
  unfold authChal authResp authDone authTimeout authRestart
  refine ⟨fun _ _ _ _ _ => ?_, fun _ => ?_, fun _ => ?_, ?_, ?_⟩
  all_goals
    dsimp only
    split
    · rename_i auth _
      exact absurd auth other
    · rfl

/-- The port has an exchange under way, which has not failed (R355). -/
structure Exchanging (s : State) (p : RingPort) (a : Auth) : Prop where
  auth : (ringPort s p).state = .auth
  exchange : (ringPort s p).auth = some a
  going : a.failed = none

/-- A port that knows from a challenge who its partner is, and has not yet seen its proof (R355). -/
def metPartner (x : RingPortSt) (ctrl : CtrlId) (port : BitVec 2) : RingPortSt :=
  { x with partnerId := ctrl, partnerPort := port, partnerValid := false }
/-- The state in which a port judges a challenge. -/
def atChal (s : State) (p : RingPort) (ctrl : CtrlId) (port : BitVec 2) : State :=
  putRing s p (metPartner (ringPort s p) ctrl port)
/-- A side ends the exchange itself: the partner is told its result (R357). -/
def authEnd (s : State) (p : RingPort) (r : BitVec 4) : State := authFail (sendMgmt s p (.authDone r)) p r

/-- What answers a challenge that has passed the checks: the own proof, under the key generation that the partner offers, where this
    side has that key (R356, R358). -/
def answerChal (s : State) (p : RingPort) (a : Auth) (port : BitVec 2) (ctrl : CtrlId) (kgen : BitVec 8) (nonce : BitVec 128) :
    State :=
  match keyOf s kgen with
  | none => authEnd (atChal s p ctrl port) p 2
  | some k =>
    sendMgmt (putRing (atChal s p ctrl port) p
        { metPartner (ringPort s p) ctrl port with auth := some { a with chal := some (ctrl, port, kgen, nonce) } })
      p (.authResp (macOf k (macMessage s.net.ctrlId (portCode p) ctrl port kgen nonce a.nonce)))

section Exchange
variable {s : State} {p : RingPort} {a : Auth} (ex : Exchanging s p a)
include ex

section Challenge
variable {port : BitVec 2} {ctrl : CtrlId} {kgen : BitVec 8} {nonce : BitVec 128}

/-- A challenge is judged by the checks of R357 in their order. -/
theorem authChal_of_exchanging (ver : BitVec 4) :
    authChal s p ver port ctrl kgen nonce =
      if ver ≠ 1 then authEnd (atChal s p ctrl port) p 5
      else if (p == .ringE || p == .upA) == (port == 0 || port == 2) then authEnd (atChal s p ctrl port) p 3
      else if ((isUp p != (port == 2 || port == 3)) && ringOf ctrl == myRing s)
          || (!isUp p && !(isUp p != (port == 2 || port == 3)) && !(ringOf ctrl == myRing s)) then
        authEnd (atChal s p ctrl port) p 4
      else answerChal s p a port ctrl kgen nonce := by
  obtain ⟨auth, exchange, going⟩ := ex
  unfold authChal answerChal authEnd atChal metPartner
  simp only [auth, exchange, going, Option.isSome_none, Bool.false_eq_true, if_false]
  rfl
theorem authChal_of_version {ver : BitVec 4} (bad : ver ≠ 1) :
    authChal s p ver port ctrl kgen nonce = authEnd (atChal s p ctrl port) p 5 := by
  rw [authChal_of_exchanging ex, if_pos bad]
theorem authChal_of_same_side (same : (p = .ringE ∨ p = .upA) ↔ (port = 0 ∨ port = 2)) :
    authChal s p 1 port ctrl kgen nonce = authEnd (atChal s p ctrl port) p 3 := by
  rw [authChal_of_exchanging ex, if_neg (not_not.mpr rfl), if_pos ((sides_beq_iff p port).mpr same)]

variable (facing : ¬ ((p = .ringE ∨ p = .upA) ↔ (port = 0 ∨ port = 2))) (lower : isUp p = false) (partner : port = 0 ∨ port = 1)
include facing lower partner

/-- The partner of a lower port at a lower port is answered where it is of the same ring (R357). -/
theorem authChal_of_lower : authChal s p 1 port ctrl kgen nonce =
    if ringOf ctrl == myRing s then answerChal s p a port ctrl kgen nonce else authEnd (atChal s p ctrl port) p 4 := by
  have low : (port == 2 || port == 3) = false := by rcases partner with rfl | rfl <;> rfl
  rw [authChal_of_exchanging ex, if_neg (not_not.mpr rfl), if_neg (mt (sides_beq_iff p port).mp facing), low, lower]
  cases ringOf ctrl == myRing s <;> rfl
theorem authChal_of_other_ring (other : ringOf ctrl ≠ myRing s) :
    authChal s p 1 port ctrl kgen nonce = authEnd (atChal s p ctrl port) p 4 := by
  rw [authChal_of_lower ex facing lower partner, if_neg (mt beq_iff_eq.mp other)]
theorem authChal_of_own_ring (own : ringOf ctrl = myRing s) :
    authChal s p 1 port ctrl kgen nonce = answerChal s p a port ctrl kgen nonce := by
  rw [authChal_of_lower ex facing lower partner, if_pos (beq_iff_eq.mpr own)]
end Challenge

section Proof
variable {mac : BitVec 128}

/-- A proof is judged against a challenge: without one there is nothing to judge it by (R356). -/
theorem authResp_of_unchallenged (none : a.chal = none) : authResp s p mac = s := by
  obtain ⟨auth, exchange, going⟩ := ex
  unfold authResp
  simp only [auth, exchange, going, none, Option.isSome_none, Bool.false_eq_true, if_false]

variable {c : CtrlId} {q : BitVec 2} {g : BitVec 8} {n : BitVec 128} (chal : a.chal = some (c, q, g, n))
include chal

theorem authResp_of_no_key (unknown : keyOf s a.offered = none) : authResp s p mac = authEnd s p 2 := by
  obtain ⟨auth, exchange, going⟩ := ex
  unfold authResp
  simp only [auth, exchange, going, chal, unknown, Option.isSome_none, Bool.false_eq_true, if_false]
  rfl

variable {k : BitVec 256} (key : keyOf s a.offered = some k)
include key

theorem authResp_of_wrong (wrong : mac ≠ macOf k (macMessage c q s.net.ctrlId (portCode p) a.offered a.nonce n)) :
    authResp s p mac = authEnd s p 1 := by
  obtain ⟨auth, exchange, going⟩ := ex
  unfold authResp
  simp only [auth, exchange, going, chal, key, if_pos wrong, Option.isSome_none, Bool.false_eq_true, if_false]
  rfl
/-- A partner that has proved itself gets PASS (R355). -/
theorem authResp_of_right (right : mac = macOf k (macMessage c q s.net.ctrlId (portCode p) a.offered a.nonce n)) :
    authResp s p mac = authTry (sendMgmt (putRing s p { ringPort s p with
      auth := some { a with sentDone := true }, authResult := 0, authKgen := a.offered }) p (.authDone 0)) p := by
  obtain ⟨auth, exchange, going⟩ := ex
  unfold authResp
  simp only [auth, exchange, going, chal, key, if_neg (not_not.mpr right), Option.isSome_none, Bool.false_eq_true, if_false]
end Proof

theorem authDone_of_fail {r : BitVec 4} (fails : r ≠ 0) : authDone s p r = authFail s p r := by
  obtain ⟨auth, exchange, going⟩ := ex
  unfold authDone
  simp only [auth, exchange, going, if_pos fails, Option.isSome_none, Bool.false_eq_true, if_false]
theorem authDone_pass :
    authDone s p 0 = authTry (putRing s p { ringPort s p with auth := some { a with gotDone := true } }) p := by
  obtain ⟨auth, exchange, going⟩ := ex
  unfold authDone
  simp only [auth, exchange, going, ne_eq, not_true, Option.isSome_none, Bool.false_eq_true, if_false]
theorem authTimeout_of_due (late : due s a.start 1000 = true) : authTimeout s p = authFail s p 6 := by
  obtain ⟨auth, exchange, going⟩ := ex
  unfold authTimeout
  simp only [auth, exchange, going, late, Option.isNone_none, Bool.and_self, if_true]
/-- Only an exchange that has failed starts again. -/
theorem authRestart_of_exchanging : authRestart s p = s := by
  obtain ⟨auth, exchange, going⟩ := ex
  unfold authRestart
  simp only [auth, exchange, going]
end Exchange

theorem authRestart_of_failed {s : State} {p : RingPort} {a : Auth} {t : Tick} (auth : (ringPort s p).state = .auth)
    (exchange : (ringPort s p).auth = some a) (failed : a.failed = some t) (late : due s t 100000 = true) :
    authRestart s p = authStart s p := by
  unfold authRestart
  simp only [auth, exchange, failed, late, if_true]

/-! PASS on both sides (R355, R359). -/

section Pass
variable {s : State} {p : RingPort} {a : Auth} (exchange : (ringPort s p).auth = some a)
include exchange

theorem authTry_of_passed (sent : a.sentDone = true) (got : a.gotDone = true) (going : a.failed = none) :
    authTry s p =
      startCensus (putRing s p { ringPort s p with state := .standby, auth := none, partnerValid := true }) (isUp p) := by
  unfold authTry
  simp only [exchange, if_pos (And.intro sent (And.intro got going))]
theorem authTry_of_missing (missing : a.sentDone = false ∨ a.gotDone = false ∨ a.failed ≠ none) : authTry s p = s := by
  have stays : ¬ (a.sentDone = true ∧ a.gotDone = true ∧ a.failed = none) := by
    rintro ⟨sent, got, going⟩
    simp [sent, got, going] at missing
  unfold authTry
  simp only [exchange, if_neg stays]
end Pass

/-! The commands. -/

/-- The port has its training engine running, and a partner to train with (R11, R13). -/
abbrev CanTrain (s : State) (p : RingPort) : Prop :=
  engineRuns s (56 + ringIx p) = true ∧ s.unwired.getLsbD (ringIx p) = false
theorem canTrain_iff (s : State) (p : RingPort) :
    (engineRuns s (56 + ringIx p) && !s.unwired.getLsbD (ringIx p)) = true ↔ CanTrain s p := by
  rw [Bool.and_eq_true, Bool.not_eq_true']

section Commands
variable {s : State} (run : Running s)
include run

theorem exec_ringTrainDone (p : RingPort) (lanes : BitVec 8) (isForeign : Bool) :
    exec (.ringTrainDone p lanes isForeign) s = .next (settled s (if engineRuns s (56 + ringIx p) && !s.unwired.getLsbD (ringIx p)
      then linkEvent (trainDone s p lanes isForeign) else s)) := finish_of_running run _
theorem exec_authChal (p : RingPort) (ver : BitVec 4) (port : BitVec 2) (ctrl : CtrlId) (kgen : BitVec 8) (nonce : BitVec 128) :
    exec (.authChal p ver port ctrl kgen nonce) s =
      .next (settled s (byB s (linkEvent (authChal s p ver port ctrl kgen nonce)))) := finish_of_running run _
theorem exec_authResp (p : RingPort) (mac : BitVec 128) :
    exec (.authResp p mac) s = .next (settled s (byB s (linkEvent (authResp s p mac)))) := finish_of_running run _
theorem exec_authDone (p : RingPort) (r : BitVec 4) :
    exec (.authDone p r) s = .next (settled s (byB s (linkEvent (authDone s p r)))) := finish_of_running run _
theorem exec_authTimeout (p : RingPort) :
    exec (.authTimeout p) s = .next (settled s (byB s (linkEvent (authTimeout s p)))) := finish_of_running run _
theorem exec_authRestart (p : RingPort) :
    exec (.authRestart p) s = .next (settled s (byB s (linkEvent (authRestart s p)))) := finish_of_running run _

theorem exec_ringTrainDone_of_wired {p : RingPort} (wired : CanTrain s p) (lanes : BitVec 8) (isForeign : Bool) :
    exec (.ringTrainDone p lanes isForeign) s = .next (settled s (linkEvent (trainDone s p lanes isForeign))) := by
  rw [exec_ringTrainDone run, if_pos ((canTrain_iff s p).mpr wired)]
theorem exec_ringTrainDone_of_not_wired {p : RingPort} (out : ¬ CanTrain s p) (lanes : BitVec 8) (isForeign : Bool) :
    exec (.ringTrainDone p lanes isForeign) s = .next (settle s) := by
  rw [exec_ringTrainDone run, if_neg (mt (canTrain_iff s p).mp out), settled_self]
end Commands

/-- Settles O56: training by what the port sees, then the exchange by the engine of Lantern-B, by the state of the port, and by what
    the partner's slots carry. -/
theorem ringPortsAuthenticate : Obligations.RingPortsAuthenticate := by
  unfold Obligations.RingPortsAuthenticate
  refine ⟨fun s p lanes ctrl port gen nonce mac r run => ⟨fun wired trains => ?_, fun wired trains => ?_,
      fun trained wired f => ?_, fun out f => exec_ringTrainDone_of_not_wired run out lanes f, fun stopped => ?_,
      fun runs other => ?_, fun a runs auth exchange going => ?_, fun a t runs auth exchange failed late => ?_⟩,
    fun s p a exchange => ⟨authTry_of_passed exchange, authTry_of_missing exchange⟩,
    fun s run => ⟨exec_ringTrainDone run, exec_authChal run, exec_authResp run, exec_authDone run, exec_authTimeout run,
      exec_authRestart run⟩⟩
  · rw [exec_ringTrainDone_of_wired run wired, trainDone_foreign trains]
  · rw [exec_ringTrainDone_of_wired run wired, trainDone_own trains]
    rfl
  · rw [exec_ringTrainDone_of_wired run wired, trainDone_of_not_training trained]
  · simp only [exec_authChal run, exec_authResp run, exec_authDone run, exec_authTimeout run, exec_authRestart run,
      byB_of_stopped stopped, settled_self, implies_true, and_self]
  · obtain ⟨chal, resp, done, timeout, restart⟩ := auth_events_of_not_auth other
    simp only [exec_authChal run, exec_authResp run, exec_authDone run, exec_authTimeout run, exec_authRestart run,
      byB_of_runs runs, chal, resp, done, timeout, restart, and_self]
  · have ex : Exchanging s p a := ⟨auth, exchange, going⟩
    simp only [exec_authChal run, exec_authResp run, exec_authDone run, exec_authTimeout run, exec_authRestart run,
      byB_of_runs runs]
    refine ⟨fun ver bad => ?_, fun same => ?_, fun facing lower partner other => ?_, fun facing lower partner own => ⟨?_, ?_⟩,
      fun none => ?_, fun c q g n chal => ⟨fun unknown => ?_, fun k key wrong => ?_, fun k key right => ?_⟩, fun fails => ?_, ?_,
      fun late => ?_, ?_⟩
    · rw [authChal_of_version ex bad]
      rfl
    · rw [authChal_of_same_side ex same]
      rfl
    · rw [authChal_of_other_ring ex facing lower partner other]
      rfl
    · intro unknown
      rw [authChal_of_own_ring ex facing lower partner own, answerChal, unknown]
      rfl
    · intro k key
      rw [authChal_of_own_ring ex facing lower partner own, answerChal, key]
      rfl
    · rw [authResp_of_unchallenged ex none]
    · rw [authResp_of_no_key ex chal unknown]
      rfl
    · rw [authResp_of_wrong ex chal key wrong]
      rfl
    · rw [authResp_of_right ex chal key right]
    · rw [authDone_of_fail ex fails]
    · rw [authDone_pass ex]
    · rw [authTimeout_of_due ex late]
    · rw [authRestart_of_exchanging ex]
  · rw [exec_authRestart run, byB_of_runs runs, authRestart_of_failed auth exchange failed late]

end Sys2Proof.Machine
end

section
/-! PROOFS. PEER fragments, device time over the ring, and penumbra buffers whose home is lost (R13, R376-R378, R438, R572). -/

namespace Sys2Proof.Machine
open Sys2Proof.Safety

/-! Management slots that Lantern-B consumes (R13, R347). -/

/-- A port that carries management slots, and Lantern-B running to consume them. -/
abbrev TakesMgmt (s : State) (p : RingPort) : Prop := mgmtUp s p = true ∧ lanternB s = true

section Slots
variable {s : State} {p : RingPort}

theorem ifMgmt_of_takes (takes : TakesMgmt s p) (t : State) : ifMgmt s p t = linkEvent t :=
  if_pos (Bool.and_eq_true _ _ ▸ takes)
theorem ifMgmt_of_not (lost : ¬ TakesMgmt s p) (t : State) : ifMgmt s p t = s := if_neg (Bool.and_eq_true _ _ ▸ lost)
end Slots

/-! PEER fragments (R438). -/

/-- The words that the fragments of a sender have brought so far. -/
def peerWords (s : State) (src : CtrlId) : List Word := ((s.net.peerAsm.find? fun a => a.src == src).map fun a => a.words).getD []
/-- The commands that other senders' fragments make. -/
def otherPeers (s : State) (src : CtrlId) : List PeerAsm := s.net.peerAsm.filter fun a => a.src != src
/-- The fragments that have come, written. -/
def putPeers (s : State) (l : List PeerAsm) : State := { s with net := { s.net with peerAsm := l } }

section Peer
variable {s : State} {p : RingPort} {dst src : CtrlId} {ws : List Word}

/-- A fragment for another controller goes on towards it. -/
theorem peerFragment_of_other (other : dst ≠ s.net.ctrlId) (last : Bool) :
    peerFragment s p dst src ws last = sendPeerFrag s src dst ws last := if_pos other

variable (here : dst = s.net.ctrlId)
include here

/-- A fragment that is not the last is put behind those of its sender (R438). -/
theorem peerFragment_more : peerFragment s p dst src ws false =
    putPeers s (otherPeers s src ++ [{ src := src, port := p, words := peerWords s src ++ ws, last := s.now }]) :=
  if_neg (not_not.mpr here)
/-- The last fragment completes the command of its sender (R438). -/
theorem peerFragment_last : peerFragment s p dst src ws true =
    if peerMember s src then peerQueue (putPeers s (otherPeers s src)) src (peerWords s src ++ ws)
    else trouble (putPeers s (otherPeers s src)) blkMbx kMbxPeerReject := if_neg (not_not.mpr here)
theorem peerFragment_of_member (member : unreachable s src = false) : peerFragment s p dst src ws true =
    peerQueue (putPeers s (otherPeers s src)) src (peerWords s src ++ ws) := by
  rw [peerFragment_last here, peerMember, member]
  rfl
theorem peerFragment_of_stranger (stranger : unreachable s src = true) : peerFragment s p dst src ws true =
    trouble (putPeers s (otherPeers s src)) blkMbx kMbxPeerReject := by
  rw [peerFragment_last here, peerMember, stranger]
  rfl
end Peer

/-! Device time (R376-R378). -/

theorem syncArrive_of_up {s : State} {p : RingPort} (up : mgmtUp s p = true) :
    syncArrive s p = sendMgmt s p (.syncRsp s.now s.now) := if_pos up
theorem syncPeriod_of_early {s : State} (early : due s s.net.syncSent (max 16 s.net.syncPeriod.toNat) = false) :
    syncPeriod s = s := if_pos (by simp [early])

/-- The time that a stamp pair shows to have passed from the one clock to the other (R377). -/
def stampDiff (t u : Tick) : Int := (u.toNat : Int) - t.toNat
/-- The state in which an exchange has given the delay of its link (R377). -/
def delayTaken (s : State) (p : RingPort) (t1 t2 t3 t4 : Tick) : State :=
  count (putRing s p { ringPort s p with syncDelay := sat16 ((stampDiff t1 t2 + stampDiff t3 t4) / 2), t1 := none }) 0x17C
/-- The neighbour at the port is the node that this position follows (R376). -/
abbrev FollowsAt (s : State) (p : RingPort) : Prop :=
  (neighbour s p).isSome = true ∧ followsOf s (isUp p) (posOf s (isUp p)).node = neighbour s p
theorem followsAt_iff (s : State) (p : RingPort) :
    ((neighbour s p).isSome && followsOf s (isUp p) (posOf s (isUp p)).node == neighbour s p) = true ↔ FollowsAt s p := by
  rw [Bool.and_eq_true, beq_iff_eq]
/-- Device time stepped back by an offset, once (R378). -/
def stepTime (s : State) (offset : Int) : State :=
  { s with now := BitVec.ofInt 64 ((s.now.toNat : Int) - offset), net := { s.net with stepped := true } }

section Exchange
variable {s : State} {p : RingPort} {t1 t2 t3 t4 : Tick} {ready : Bool}

theorem delayTaken_stepped : (delayTaken s p t1 t2 t3 t4).net.stepped = s.net.stepped := by
  unfold delayTaken
  rw [count_net]
  rfl
/-- An exchange with a neighbour that this node does not follow gives the delay alone (R376). -/
theorem syncRsp_of_not_followed (alone : ¬ FollowsAt (delayTaken s p t1 t2 t3 t4) p) :
    syncRsp s p t1 t2 t3 t4 ready = delayTaken s p t1 t2 t3 t4 := if_pos (mt (followsAt_iff _ p).mp alone)

variable (follows : FollowsAt (delayTaken s p t1 t2 t3 t4) p) (lower : isUp p = false)
include follows lower

/-- In its own ring a follower steps its time where it may, and trims its rate where it may not (R376, R378). -/
theorem syncRsp_of_followed : syncRsp s p t1 t2 t3 t4 ready =
    if !ready && !s.net.stepped then stepTime (delayTaken s p t1 t2 t3 t4) ((stampDiff t1 t2 - stampDiff t3 t4) / 2)
    else syncTrim (delayTaken s p t1 t2 t3 t4) ((stampDiff t1 t2 - stampDiff t3 t4) / 2) := by
  rw [← delayTaken_stepped (p := p) (t1 := t1) (t2 := t2) (t3 := t3) (t4 := t4)]
  refine (if_neg (not_not.mpr ((followsAt_iff _ p).mpr follows))).trans ?_
  simp only [lower, Bool.false_eq_true, if_false, Int.add_zero]
  rfl
theorem syncRsp_step (early : ready = false) (first : s.net.stepped = false) : syncRsp s p t1 t2 t3 t4 ready =
    stepTime (delayTaken s p t1 t2 t3 t4) ((stampDiff t1 t2 - stampDiff t3 t4) / 2) := by
  rw [syncRsp_of_followed follows lower, early, first]
  rfl
theorem syncRsp_trim (late : ready = true ∨ s.net.stepped = true) : syncRsp s p t1 t2 t3 t4 ready =
    syncTrim (delayTaken s p t1 t2 t3 t4) ((stampDiff t1 t2 - stampDiff t3 t4) / 2) := by
  have trims : ¬ (!ready && !s.net.stepped) = true := by rcases late with late | late <;> simp [late]
  rw [syncRsp_of_followed follows lower, if_neg trims]
end Exchange

/-! Buffers whose home is lost (R572). -/

section Lost
variable {s : State} {sl : SliceId} {i : Nat} {b : PenBuf} (named : penAt s sl i = some b)
include named

theorem lostHome_of_reachable (reachable : (s.home.lostHomes.find? fun x => x.1 == b.dest) = none) : lostHome s sl i = s := by
  unfold lostHome
  simp only [named, reachable]

variable {c : CtrlId} {t : Tick} (lost : (s.home.lostHomes.find? fun x => x.1 == b.dest) = some (c, t))
include lost

/-- For 600 s the buffer of a lost home stays (R572). -/
theorem lostHome_of_early (early : s.now.toNat < t.toNat + 600000000000) : lostHome s sl i = s := by
  have waits : due s t 600000000 = false := decide_eq_false (by omega)
  unfold lostHome
  simp only [named, lost, waits, Bool.and_false, Bool.false_eq_true, if_false]
/-- After 600 s the buffer is freed, and its data are lost (R572). -/
theorem lostHome_of_late (dirty : b.dirty = true) (late : t.toNat + 600000000000 ≤ s.now.toNat) :
    lostHome s sl i =
      raiseErr (trouble (penFreed (putPen s sl i none) sl b) (blkSlc sl) kSlcLostWb) (blkSlc sl) 2 := by
  have ripe : due s t 600000000 = true := decide_eq_true (by omega)
  unfold lostHome
  simp only [named, lost, dirty, ripe, Bool.and_self, if_true]
end Lost

/-! The commands. -/

section Commands
variable {s : State} (run : Running s)
include run

theorem exec_peer (p : RingPort) (dst src : CtrlId) (ws : List Word) (last : Bool) :
    exec (.peer p dst src ws last) s = .next (settled s (ifMgmt s p (peerFragment s p dst src ws last))) := finish_of_running run _
theorem exec_peerAssemblyTimeout (src : CtrlId) :
    exec (.peerAssemblyTimeout src) s = .next (settled s (byB s (peerLate s src))) := finish_of_running run _
theorem exec_syncPeriod : exec .syncPeriod s = .next (settled s (byB s (syncPeriod s))) := finish_of_running run _
theorem exec_sync (p : RingPort) : exec (.sync p) s = .next (settled s (ifMgmt s p (syncArrive s p))) := finish_of_running run _
theorem exec_syncRsp (p : RingPort) (t1 t2 t3 t4 : Tick) : exec (.syncRsp p t1 t2 t3 t4) s =
    .next (settled s (ifMgmt s p (syncRsp s p t1 t2 t3 t4 s.boot.ready))) := finish_of_running run _
theorem exec_lostHomeTimeout (sl : SliceId) (i : BitVec 7) :
    exec (.lostHomeTimeout sl i) s = .next (settled s (lostHome s sl i.toNat)) := finish_of_running run _

/-- A SYNC_PERIOD before its time does nothing, whether Lantern-B runs or not (R377). -/
theorem exec_syncPeriod_of_early (early : due s s.net.syncSent (max 16 s.net.syncPeriod.toNat) = false) :
    exec .syncPeriod s = .next (settle s) := by
  rw [exec_syncPeriod run, syncPeriod_of_early early, byB, ite_self, settled_self]
end Commands

/-- Settles O60: fragments by whom they are for and from, exchanges by whom this node follows, and buffers by the time since their home
    was lost. -/
theorem peersTimeAndLostHomes : Obligations.PeersTimeAndLostHomes := by
  unfold Obligations.PeersTimeAndLostHomes
  refine ⟨fun s p dst src ws run => ⟨fun lost last => ?_, fun takes other last => ?_, fun takes here => ?_,
      fun takes here member => ?_, fun takes here stranger => ?_, fun stopped => ?_, fun runs => ?_⟩,
    fun s p t1 t2 t3 t4 run => ⟨fun lost => ⟨?_, ?_⟩, fun takes => ?_, fun takes => ?_, exec_syncPeriod_of_early run⟩,
    fun s sl i b run named => ⟨fun reachable => ?_, fun c t lost => ⟨fun early => ?_, fun dirty late => ?_⟩⟩,
    fun s run => ⟨exec_peer run, exec_peerAssemblyTimeout run, exec_syncPeriod run, exec_sync run, exec_syncRsp run,
      exec_lostHomeTimeout run⟩⟩
  · rw [exec_peer run, ifMgmt_of_not lost, settled_self]
  · rw [exec_peer run, ifMgmt_of_takes takes, peerFragment_of_other other]
  · rw [exec_peer run, ifMgmt_of_takes takes, peerFragment_more here]
    rfl
  · rw [exec_peer run, ifMgmt_of_takes takes, peerFragment_of_member here member]
    rfl
  · rw [exec_peer run, ifMgmt_of_takes takes, peerFragment_of_stranger here stranger]
    rfl
  · rw [exec_peerAssemblyTimeout run, byB_of_stopped stopped, settled_self]
  · rw [exec_peerAssemblyTimeout run, byB_of_runs runs]
    rfl
  · rw [exec_sync run, ifMgmt_of_not lost, settled_self]
  · rw [exec_syncRsp run, ifMgmt_of_not lost, settled_self]
  · rw [exec_sync run, ifMgmt_of_takes takes, syncArrive_of_up takes.1]
  · rw [exec_syncRsp run, ifMgmt_of_takes takes]
    refine ⟨fun alone => ?_, fun follows lower early first => ?_, fun follows lower late => ?_⟩
    · rw [syncRsp_of_not_followed alone]
      rfl
    · rw [syncRsp_step follows lower early first]
      rfl
    · rw [syncRsp_trim follows lower late]
      rfl
  · rw [exec_lostHomeTimeout run, lostHome_of_reachable named reachable, settled_self]
  · rw [exec_lostHomeTimeout run, lostHome_of_early named lost early, settled_self]
  · rw [exec_lostHomeTimeout run, lostHome_of_late named lost dirty late]

end Sys2Proof.Machine
end

section
/-! PROOFS. INT_n after a step and at reset (R442). -/

namespace Sys2Proof.Machine
open Sys2Proof.Safety

/-- Every command ends in the settling of INT_n: by `finish` or `finishAt`, or, where a pin, a rail or a clock acts, by `finishPin`. -/
theorem exec_settles (c : Instr) (s : State) : ∃ t, exec c s = .next (settled s t) := by
  cases c <;> exact ⟨_, rfl⟩
/-- So does a tick. -/
theorem step_settles (s : State) : ∃ r t, step s = .next (settled r t) := by
  unfold step
  split
  · exact ⟨s, tick s, rfl⟩
  next c rest _ => exact ⟨_, exec_settles c { s with pending := rest }⟩

/-- Settles O3: a step answers a settled state, and there INT_n follows the event registers. -/
theorem intFollowsEventsAfterEveryStep : Obligations.IntFollowsEventsAfterEveryStep := by
  unfold Obligations.IntFollowsEventsAfterEveryStep
  intro s t answer
  obtain ⟨r, u, settles⟩ := step_settles s
  obtain rfl : settled r u = t := Host.Outcome.next.inj (settles.symm.trans answer)
  exact settled_intLow r u

/-- Settles O4: no event is pending at reset, and INT_n is high. -/
theorem intFollowsEventsAtReset : Obligations.IntFollowsEventsAtReset := by
  unfold Obligations.IntFollowsEventsAtReset IntOk
  have nonePending : State.reset.ctrs.intStatus = 0 := rfl
  have high : State.reset.boot.intLow = false := rfl
  rw [nonePending, high]
  simp

end Sys2Proof.Machine
end

section
/-! PROOFS. The words of the mailboxes: command words, reply and trace words, and the flushes (R413-R419). -/

namespace Sys2Proof.Machine
open Sys2Proof.Safety

@[simp] theorem mbxSt_settled (s t : State) (m : Mailbox) : mbxSt (settled s t) m = mbxSt t m := by
  unfold mbxSt
  rw [settled_lan]
@[simp] theorem mbxSt_wakeDom (s : State) (d : Nat) (demand : Bool) (m : Mailbox) : mbxSt (wakeDom s d demand) m = mbxSt s m := by
  unfold mbxSt
  rw [wakeDom_lan]
@[simp] theorem mbxSt_setRead (s : State) (a : Master) (v : BitVec 64) (m : Mailbox) : mbxSt (setRead s a v) m = mbxSt s m := rfl
@[simp] theorem putMbx_lan_slots (s : State) (m : Mailbox) (x : MbxSt) : (putMbx s m x).lan.slots = s.lan.slots := rfl

/-! Flushes (R418). -/

/-- A flush of commands writes its mailbox, and of PEER also forgets whose the commands were. -/
theorem flushCmd_eq (s : State) (m : Mailbox) : flushCmd s m =
    { s with lan :=
      { s.lan with
        mbx := tset mbx0 s.lan.mbx (mbxNo m) { mbxSt s m with cmds := [], asm := none, cmdEpoch := (mbxSt s m).cmdEpoch + 1 }
        peerSrc := if m = .peer then [] else s.lan.peerSrc } } := by
  unfold flushCmd
  split <;> rfl
theorem mbxSt_flushCmd_self (s : State) (m : Mailbox) :
    mbxSt (flushCmd s m) m = { mbxSt s m with cmds := [], asm := none, cmdEpoch := (mbxSt s m).cmdEpoch + 1 } := by
  rw [flushCmd_eq]
  exact tget_tset_self ..
theorem mbxSt_flushCmd_of_ne (s : State) {m n : Mailbox} (other : n ≠ m) : mbxSt (flushCmd s m) n = mbxSt s n := by
  rw [flushCmd_eq]
  exact mbxSt_putMbx_of_ne s other.symm _
@[simp] theorem flushCmd_mem (s : State) (m : Mailbox) : (flushCmd s m).mem = s.mem := by rw [flushCmd_eq]
@[simp] theorem flushCmd_cache (s : State) (m : Mailbox) : (flushCmd s m).cache = s.cache := by rw [flushCmd_eq]
@[simp] theorem flushCmd_lan_slots (s : State) (m : Mailbox) : (flushCmd s m).lan.slots = s.lan.slots := by rw [flushCmd_eq]

theorem mbxSt_flushRpl_self (s : State) (m : Mailbox) :
    mbxSt (flushRpl s m) m = { mbxSt s m with rplq := [], held := [], rplEpoch := (mbxSt s m).rplEpoch + 1 } := mbxSt_putMbx_self ..
theorem mbxSt_flushRpl_of_ne (s : State) {m n : Mailbox} (other : n ≠ m) : mbxSt (flushRpl s m) n = mbxSt s n :=
  mbxSt_putMbx_of_ne s other.symm _
theorem mbxSt_flushTrc_self (s : State) :
    mbxSt (flushTrc s) .debug = { mbxSt s .debug with trcq := [], trcEpoch := (mbxSt s .debug).trcEpoch + 1 } := mbxSt_putMbx_self ..
theorem mbxSt_flushTrc_of_ne (s : State) {n : Mailbox} (other : n ≠ .debug) : mbxSt (flushTrc s) n = mbxSt s n :=
  mbxSt_putMbx_of_ne s other.symm _

/-- A strobe of a master that may write CTL acts with Lantern's domain awake (R413). -/
theorem ctlStrobe_of_allowed {m : Mailbox} {a : Master} (allowed : mayCtl m a = true) (s : State) (f : State → State) :
    ctlStrobe s m a f = f (wakeDom s 59 true) := if_pos allowed

/-! Command words (R416, R417, R419). -/

section CommandWord
variable {s : State} {m : Mailbox} {w : Word}

/-- A word for a full queue is dropped and counted, and the queue is flushed (R419). -/
theorem cmdWord_of_full (full : 256 ≤ cmdWords (mbxSt s m)) : cmdWord s m w =
    flushCmd (putMbx (wakeDom s 59 true) m { mbxSt s m with overrun := satInc (mbxSt s m).overrun }) m := by
  unfold cmdWord
  simp only [mbxSt_wakeDom]
  exact if_pos full

variable (room : cmdWords (mbxSt s m) < 256)
include room

section Header
variable (begins : (mbxSt s m).asm = none)
include begins

/-- A header is right where its check and its epoch are (R415, R417). -/
theorem cmdWord_of_header : cmdWord s m w =
    if headerChk w ≠ w.extractLsb' 28 4 ∨ w.extractLsb' 16 4 ≠ (mbxSt s m).cmdEpoch then
      putMbx (wakeDom s 59 true) m { mbxSt s m with stale := satInc (mbxSt s m).stale }
    else if headerLen w = 0 then putMbx (wakeDom s 59 true) m { mbxSt s m with cmds := (mbxSt s m).cmds ++ [⟨w, []⟩] }
    else putMbx (wakeDom s 59 true) m { mbxSt s m with asm := some ⟨w, []⟩ } := by
  unfold cmdWord
  simp only [mbxSt_wakeDom, if_neg (Nat.not_le.mpr room), begins]
theorem cmdWord_of_bad_header (bad : headerChk w ≠ w.extractLsb' 28 4 ∨ w.extractLsb' 16 4 ≠ (mbxSt s m).cmdEpoch) :
    cmdWord s m w = putMbx (wakeDom s 59 true) m { mbxSt s m with stale := satInc (mbxSt s m).stale } := by
  rw [cmdWord_of_header room begins, if_pos bad]

variable (chk : headerChk w = w.extractLsb' 28 4) (epoch : w.extractLsb' 16 4 = (mbxSt s m).cmdEpoch)
include chk epoch

theorem cmdWord_of_whole (alone : headerLen w = 0) :
    cmdWord s m w = putMbx (wakeDom s 59 true) m { mbxSt s m with cmds := (mbxSt s m).cmds ++ [⟨w, []⟩] } := by
  rw [cmdWord_of_header room begins, if_neg (by simp [chk, epoch]), if_pos alone]
theorem cmdWord_of_first (more : headerLen w ≠ 0) :
    cmdWord s m w = putMbx (wakeDom s 59 true) m { mbxSt s m with asm := some ⟨w, []⟩ } := by
  rw [cmdWord_of_header room begins, if_neg (by simp [chk, epoch]), if_neg more]
end Header

section Argument
variable {c : CmdAsm} (goes : (mbxSt s m).asm = some c)
include goes

/-- An argument is added to the command that is under way, which it completes where the header's LENGTH is reached (R416). -/
theorem cmdWord_of_argument : cmdWord s m w =
    if headerLen c.header ≤ c.args.length + 1 then
      putMbx (wakeDom s 59 true) m
        { mbxSt s m with cmds := (mbxSt s m).cmds ++ [{ c with args := c.args ++ [w] }], asm := none }
    else putMbx (wakeDom s 59 true) m { mbxSt s m with asm := some { c with args := c.args ++ [w] } } := by
  unfold cmdWord
  simp only [mbxSt_wakeDom, if_neg (Nat.not_le.mpr room), goes, List.length_append, List.length_singleton]
theorem cmdWord_of_last (last : headerLen c.header ≤ c.args.length + 1) :
    cmdWord s m w = putMbx (wakeDom s 59 true) m
      { mbxSt s m with cmds := (mbxSt s m).cmds ++ [{ c with args := c.args ++ [w] }], asm := none } := by
  rw [cmdWord_of_argument room goes, if_pos last]
theorem cmdWord_of_more (more : c.args.length + 1 < headerLen c.header) :
    cmdWord s m w = putMbx (wakeDom s 59 true) m { mbxSt s m with asm := some { c with args := c.args ++ [w] } } := by
  rw [cmdWord_of_argument room goes, if_neg (Nat.not_le.mpr more)]
end Argument
end CommandWord

/-! Reply and trace words (R414, R419). -/

/-- The word that a master's read returns is its own. -/
theorem readData_setRead (s : State) (a : Master) (v : BitVec 64) : tget 0 (setRead s a v).regs.readData (masterNo a) = v :=
  tget_tset_self ..
/-- Without held replies none moves up. -/
theorem pumpReplies_of_none_held {s : State} {m : Mailbox} (noneHeld : (mbxSt s m).held = []) (n : Nat) : pumpReplies s m n = s := by
  cases n with
  | zero => rfl
  | succ n =>
    unfold pumpReplies
    simp only [noneHeld]

section ReplyWord
variable {s : State} {m : Mailbox} {a : Master} (reads : mayReadMbx m a = true)
include reads

theorem rplRead_of_empty (empty : (mbxSt s m).rplq = []) : rplRead s m a =
    setRead (putMbx (wakeDom s 59 true) m { mbxSt s m with underrun := satInc (mbxSt s m).underrun }) a 0 := by
  unfold rplRead
  simp only [reads, Bool.not_true, Bool.false_eq_true, if_false, mbxSt_wakeDom, empty]
theorem rplRead_of_word {w : Word} {l : List Word} (oldest : (mbxSt s m).rplq = w :: l) : rplRead s m a =
    pumpReplies (setRead (putMbx (wakeDom s 59 true) m { mbxSt s m with rplq := l }) a (w.setWidth 64)) m
      ((mbxSt s m).held.length + 1) := by
  unfold rplRead
  simp only [reads, Bool.not_true, Bool.false_eq_true, if_false, mbxSt_wakeDom, oldest]
/-- With no reply held, a read takes the word alone. -/
theorem rplRead_of_word_none_held {w : Word} {l : List Word} (oldest : (mbxSt s m).rplq = w :: l) (noneHeld : (mbxSt s m).held = []) :
    rplRead s m a = setRead (putMbx (wakeDom s 59 true) m { mbxSt s m with rplq := l }) a (w.setWidth 64) := by
  rw [rplRead_of_word reads oldest]
  apply pumpReplies_of_none_held
  rw [mbxSt_setRead, mbxSt_putMbx_self]
  exact noneHeld
end ReplyWord

theorem trcRead_of_empty {s : State} (empty : (mbxSt s .debug).trcq = []) (a : Master) :
    trcRead s a = setRead (wakeDom s 59 true) a 0 := by
  unfold trcRead
  simp only [mbxSt_wakeDom, empty]
theorem trcRead_of_word {s : State} {w : Word} {l : List Word} (oldest : (mbxSt s .debug).trcq = w :: l) (a : Master) :
    trcRead s a = setRead (putMbx (wakeDom s 59 true) .debug { mbxSt s .debug with trcq := l }) a (w.setWidth 64) := by
  unfold trcRead
  simp only [mbxSt_wakeDom, oldest]

/-! The commands. -/

section Commands
variable {s : State} {a : Master} (reaches : Reaches s a)
include reaches

theorem exec_cmdDataWrite (m : Mailbox) (w : Word) : exec (.cmdDataWrite m a w) s = .next (settled s (cmdDataWrite s m a w)) :=
  finishAt_of_up reaches.1 reaches.2 _
theorem exec_rplDataRead (m : Mailbox) : exec (.rplDataRead m a) s = .next (settled s (rplRead s m a)) :=
  finishAt_of_up reaches.1 reaches.2 _
theorem exec_trcDataRead : exec (.trcDataRead a) s = .next (settled s (trcRead s a)) := finishAt_of_up reaches.1 reaches.2 _
theorem exec_cmdFlush (m : Mailbox) : exec (.cmdFlush m a) s = .next (settled s (ctlStrobe s m a fun s => flushCmd s m)) :=
  finishAt_of_up reaches.1 reaches.2 _
theorem exec_rplFlush (m : Mailbox) : exec (.rplFlush m a) s = .next (settled s (ctlStrobe s m a fun s => flushRpl s m)) :=
  finishAt_of_up reaches.1 reaches.2 _
theorem exec_trcFlush : exec (.trcFlush a) s = .next (settled s (ctlStrobe s .debug a flushTrc)) :=
  finishAt_of_up reaches.1 reaches.2 _

theorem exec_cmdDataWrite_of_owner {m : Mailbox} (owns : ownsMbx m a = true) (w : Word) :
    exec (.cmdDataWrite m a w) s = .next (settled s (cmdWord s m w)) := by
  rw [exec_cmdDataWrite reaches, cmdDataWrite, if_pos owns]
end Commands

/-- Settles O12: a command word by whether the queue has room and a command is under way, a read by whether a word waits, and each
    flush by what it writes. -/
theorem mailboxesCarryWords : Obligations.MailboxesCarryWords := by
  unfold Obligations.MailboxesCarryWords
  refine ⟨fun s m a w reaches owns => ?_, fun s m a reaches reads => ⟨fun empty => ?_, fun w l oldest => ?_, fun w l oldest noneHeld => ?_,
      fun empty => ?_, fun w l oldest => ?_⟩, fun s m a reaches allowed => ⟨?_, ?_, ?_⟩,
    fun s a reaches => ⟨exec_cmdDataWrite reaches, exec_rplDataRead reaches, exec_trcDataRead reaches, exec_cmdFlush reaches,
      exec_rplFlush reaches, exec_trcFlush reaches⟩⟩
  · simp only [exec_cmdDataWrite_of_owner reaches owns]
    refine ⟨fun full => ⟨_, rfl, ?_⟩, fun room begins chk epoch alone => ?_, fun room begins chk epoch more => ?_,
      fun room begins bad => ?_, fun c room goes last => ?_, fun c room goes more => ?_⟩
    · rw [mbxSt_settled, cmdWord_of_full full, mbxSt_flushCmd_self, mbxSt_putMbx_self]
    · rw [cmdWord_of_whole room begins chk epoch alone]
    · rw [cmdWord_of_first room begins chk epoch more]
    · rw [cmdWord_of_bad_header room begins bad]
    · rw [cmdWord_of_last room goes last]
    · rw [cmdWord_of_more room goes more]
  · rw [exec_rplDataRead reaches, rplRead_of_empty reads empty]
  · refine ⟨_, (exec_rplDataRead reaches m).trans (by rw [rplRead_of_word reads oldest]), ?_, by simp⟩
    rw [settled_regs, pumpReplies_regs, readData_setRead]
  · refine ⟨_, (exec_rplDataRead reaches m).trans (by rw [rplRead_of_word_none_held reads oldest noneHeld]), ?_, fun n other => ?_⟩
    · simp
    · rw [mbxSt_settled, mbxSt_setRead, mbxSt_putMbx_of_ne _ other.symm, mbxSt_wakeDom]
  · rw [exec_trcDataRead reaches, trcRead_of_empty empty]
  · rw [exec_trcDataRead reaches, trcRead_of_word oldest]
  · refine ⟨_, (exec_cmdFlush reaches m).trans (by rw [ctlStrobe_of_allowed allowed]), ?_, fun n other => ?_, by simp⟩
    · rw [mbxSt_settled, mbxSt_flushCmd_self, mbxSt_wakeDom]
    · rw [mbxSt_settled, mbxSt_flushCmd_of_ne _ other, mbxSt_wakeDom]
  · refine ⟨_, (exec_rplFlush reaches m).trans (by rw [ctlStrobe_of_allowed allowed]), ?_, fun n other => ?_, by simp [flushRpl]⟩
    · rw [mbxSt_settled, mbxSt_flushRpl_self, mbxSt_wakeDom]
    · rw [mbxSt_settled, mbxSt_flushRpl_of_ne _ other, mbxSt_wakeDom]
  · rintro rfl
    refine ⟨_, (exec_trcFlush reaches).trans (by rw [ctlStrobe_of_allowed allowed]), ?_, fun n other => ?_, by simp [flushTrc]⟩
    · rw [mbxSt_settled, mbxSt_flushTrc_self, mbxSt_wakeDom]
    · rw [mbxSt_settled, mbxSt_flushTrc_of_ne _ other, mbxSt_wakeDom]

end Sys2Proof.Machine
end

section
/-! PROOFS. The operation slots, and the bulk buffer of BAR2 (R423-R428). -/

namespace Sys2Proof.Machine
open Sys2Proof.Safety

@[simp] theorem opSlot_settled (s t : State) (k : SlotRef) : opSlot (settled s t) k = opSlot t k := by
  unfold opSlot
  rw [settled_lan]
@[simp] theorem opSlot_wakeDom (s : State) (d : Nat) (demand : Bool) (k : SlotRef) : opSlot (wakeDom s d demand) k = opSlot s k := by
  unfold opSlot
  rw [wakeDom_lan]
/-- An operation that ends writes its slot, and an event of the slot's mailbox (R424, R440). -/
theorem endOp_mem (s : State) (k : SlotRef) (st : OpState) (err : BitVec 8) : (endOp s k st err).mem = s.mem := by
  unfold endOp
  dsimp only
  split_ifs <;> rfl
theorem endOp_cache (s : State) (k : SlotRef) (st : OpState) (err : BitVec 8) : (endOp s k st err).cache = s.cache := by
  unfold endOp
  dsimp only
  split_ifs <;> rfl

/-! Status, RELEASE and ABORT (R424-R426). -/

/-- The state in which a read of OP_STATUS has latched a slot's progress and results for its master (R425). -/
def opLatched (s : State) (r : SlotRef) (a : Master) : State :=
  let u := wakeDom s 59 true
  { u with lan :=
    { u.lan with latches := tset none u.lan.latches (latchIx a r) (some ⟨(opSlot s r).progress, (opSlot s r).result⟩) } }
theorem latches_opLatched (s : State) (r : SlotRef) (a : Master) :
    tget none (opLatched s r a).lan.latches (latchIx a r) = some ⟨(opSlot s r).progress, (opSlot s r).result⟩ := by
  unfold opLatched
  dsimp only
  exact tget_tset_self _ _ _ _
theorem opStatusRead_of_reader {m : Mailbox} {a : Master} (reads : mayReadMbx m a = true) (s : State) (k : BitVec 3) :
    opStatusRead s m k a = setRead (opLatched s (slotRef m k) a) a ((opStatus (opSlot s (slotRef m k))).setWidth 64) := by
  unfold opStatusRead opLatched
  simp only [reads, Bool.not_true, Bool.false_eq_true, if_false, opSlot_wakeDom]

theorem opRelease_of_ended {s : State} {r : SlotRef} (used : (opSlot s r).state ≠ .idle) (ended : (opSlot s r).state ≠ .running) :
    opRelease s r = putOp s r opSlot0 := if_neg (not_or.mpr ⟨used, ended⟩)
theorem opRelease_of_open {s : State} {r : SlotRef} (goes : (opSlot s r).state = .idle ∨ (opSlot s r).state = .running) :
    opRelease s r = s := if_pos goes

/-- The jobs that ABORT ends at once, without more to undo (R426). -/
def endsPlainly (j : Job) : Prop := (∃ ws o n l, j = .log ws o n l) ∨ ∃ p hs img o d q tc, j = .save p hs img o d q tc
theorem opAbort_of_plain {s : State} {r : SlotRef} (runs : (opSlot s r).state = .running) (plain : endsPlainly (opSlot s r).job) :
    opAbort s r = endOp s r .aborted 0 := by
  unfold opAbort
  simp only [runs, ne_eq, not_true, if_false]
  obtain ⟨_, _, _, _, job⟩ | ⟨_, _, _, _, _, _, _, job⟩ := plain
  · simp only [job]
    rfl
  · simp only [job]
    rfl

/-! The bulk buffer (R427, R428). -/

section Bar2
variable {s : State} {ofs : Nat} {bytes : List Byte}

/-- The bytes of a write that the buffer holds (log entry 81). -/
def bar2Bytes (ofs : Nat) (bytes : List Byte) : List Byte := bytes.take (0x80000 - ofs)
theorem bar2Write_of_held (held : bar2Held s ofs (ofs + (bar2Bytes ofs bytes).length) = true) :
    bar2Write s ofs bytes = { s with regs := { s.regs with bar2Reject := satInc s.regs.bar2Reject } } := if_pos held
theorem bar2Write_of_free (free : bar2Held s ofs (ofs + (bar2Bytes ofs bytes).length) = false) :
    bar2Write s ofs bytes = { s with mem := { s.mem with bar2 := mwrite s.mem.bar2 ofs (bar2Bytes ofs bytes) } } :=
  if_neg (Bool.eq_false_iff.mp free)
/-- A byte outside a write keeps its value. -/
theorem mread1_mwrite_of_outside (m : List Host.Cell) {a k : Nat} {bs : List Byte} (outside : ¬ (a ≤ k ∧ k < a + bs.length)) :
    mread1 (mwrite m a bs) k = mread1 m k := by
  rw [mread1_mwrite, if_neg outside]
/-- Bytes written to the buffer keep every memory's canonical form. -/
theorem memOk_bar2_mwrite {x : Mem} (ok : MemOk x) (a : Nat) (bs : List Byte) : MemOk { x with bar2 := mwrite x.bar2 a bs } := by
  obtain ⟨ddr, hbm, bar2, nor, slots, lantern⟩ := ok
  exact ⟨ddr, hbm, wf_mwrite a bs bar2, nor, slots, lantern⟩
end Bar2

/-! The commands. -/

section Commands
variable {s : State} {a : Master} (reaches : Reaches s a)
include reaches

theorem exec_opStatusRead (m : Mailbox) (k : BitVec 3) : exec (.opStatusRead m k a) s = .next (settled s (opStatusRead s m k a)) :=
  finishAt_of_up reaches.1 reaches.2 _
theorem exec_opRelease (m : Mailbox) (k : BitVec 3) : exec (.opRelease m k a) s =
    .next (settled s (if ownsMbx m a then opRelease (wakeDom s 59 true) (slotRef m k)
      else mbxViolation s m a (0x11C + 0x20 * k.toNat))) := finishAt_of_up reaches.1 reaches.2 _
theorem exec_opAbort (m : Mailbox) (k : BitVec 3) : exec (.opAbort m k a) s =
    .next (settled s (if ownsMbx m a then opAbort (wakeDom s 59 true) (slotRef m k)
      else mbxViolation s m a (0x11C + 0x20 * k.toNat))) := finishAt_of_up reaches.1 reaches.2 _

variable {m : Mailbox} (owns : ownsMbx m a = true)
include owns

theorem exec_opRelease_of_owner (k : BitVec 3) :
    exec (.opRelease m k a) s = .next (settled s (opRelease (wakeDom s 59 true) (slotRef m k))) := by
  rw [exec_opRelease reaches, if_pos owns]
theorem exec_opAbort_of_owner (k : BitVec 3) :
    exec (.opAbort m k a) s = .next (settled s (opAbort (wakeDom s 59 true) (slotRef m k))) := by
  rw [exec_opAbort reaches, if_pos owns]
end Commands

theorem exec_bar2Write {s : State} (reaches : Reaches s .mgmt) (ofs : BitVec 22) (bytes : List Byte) :
    exec (.bar2Write ofs bytes) s = .next (settled s (bar2Write s ofs.toNat bytes)) := finishAt_of_up reaches.1 reaches.2 _

/-- Settles O13: a slot by its state and the operation in it, and a write to BAR2 by whether a running operation holds its bytes. -/
theorem operationSlotsAndBar2 : Obligations.OperationSlotsAndBar2 := by
  unfold Obligations.OperationSlotsAndBar2
  refine ⟨fun s m k a reaches => ⟨fun reads => ?_, fun owns used ended => ?_, fun owns goes => ?_, fun owns runs plain => ?_⟩,
    fun s ofs bytes reaches => ⟨fun free => ?_, fun held => ?_⟩,
    fun s a reaches => ⟨exec_opStatusRead reaches, exec_opRelease reaches, exec_opAbort reaches⟩, fun s reaches => exec_bar2Write reaches⟩
  · refine ⟨_, (exec_opStatusRead reaches m k).trans (by rw [opStatusRead_of_reader reads]), ?_, ?_, ?_⟩
    · rw [settled_regs, readData_setRead]
    · rw [settled_lan, setRead_lan, latches_opLatched]
    · simp [opLatched]
  · refine ⟨_, (exec_opRelease_of_owner reaches owns k).trans (by rw [opRelease_of_ended (by simpa) (by simpa)]), ?_,
      fun j other => ?_, by simp⟩
    · rw [opSlot_settled, opSlot_putOp_self]
    · rw [opSlot_settled, opSlot_putOp_of_ne _ other.symm, opSlot_wakeDom]
  · exact ⟨_, (exec_opRelease_of_owner reaches owns k).trans (by rw [opRelease_of_open (by simpa)]), by simp⟩
  · have runs' : (opSlot (wakeDom s 59 true) (slotRef m k)).state = .running := by rwa [opSlot_wakeDom]
    refine ⟨_, (exec_opAbort_of_owner reaches owns k).trans (by rw [opAbort_of_plain runs' (by rwa [opSlot_wakeDom])]), ?_,
      fun j other => ?_, by simp [endOp_mem, endOp_cache]⟩
    · rw [opSlot_settled, opSlot_endOp_self _ _ _ _ runs', opSlot_wakeDom]
    · rw [opSlot_settled, opSlot_endOp_of_ne _ other.symm, opSlot_wakeDom]
  · refine ⟨_, (exec_bar2Write reaches ofs bytes).trans (by rw [bar2Write_of_free free]), ?_, fun b outside => ?_, fun ok => ?_, ?_⟩
    · rw [settled_mem]
      exact mread_mwrite ..
    · rw [settled_mem]
      exact mread1_mwrite_of_outside _ outside
    · rw [settled_mem]
      exact memOk_bar2_mwrite ok ..
    · simp
  · rw [exec_bar2Write reaches, bar2Write_of_held held]

end Sys2Proof.Machine
end

section
/-! PROOFS. The commands of the Lantern Command Interface that change nothing they name: the queries, and what a check refuses
    (R419, R420, R422, R431). -/

namespace Sys2Proof.Machine
open Sys2Proof.Safety

/-! What a reply leaves alone (R420, R438). -/

/-- Of what a command may name, all that neither a queued reply nor one that leaves by the ring changes. -/
def besideReply (s : State) : Mem × Table PartSt × Beams × Table OpSlot × Regs := (s.mem, s.parts, s.beams, s.lan.slots, s.regs)

theorem besideReply_putRing (s : State) (p : RingPort) (x : RingPortSt) : besideReply (putRing s p x) = besideReply s := rfl
theorem besideReply_countFor (s : State) (e n : Nat) (p : Option PartId) : besideReply (countFor s e n p) = besideReply s := by
  simp [besideReply]
theorem besideReply_count (s : State) (e : Nat) : besideReply (count s e) = besideReply s := besideReply_countFor ..
theorem besideReply_countInjected (s : State) (upper : Bool) (e : BitVec 4) : besideReply (countInjected s upper e) = besideReply s := by
  cases upper <;> rfl
theorem besideReply_startFrame (s : State) (p : RingPort) (i : FrameItem) (ks : List Nat) (slots : Nat) :
    besideReply (startFrame s p i ks slots) = besideReply s := by
  simp [besideReply, startFrame]
theorem besideReply_freeRxOf (s : State) (p : Option RingPort) (m : RingMsg) : besideReply (freeRxOf s p m) = besideReply s := by
  cases p <;> rfl
theorem besideReply_startInject (s : State) (p : RingPort) (m : RingMsg) : besideReply (startInject s p m) = besideReply s := by
  unfold startInject
  dsimp only
  split
  · rw [besideReply_count, besideReply_count, besideReply_startFrame, besideReply_countInjected, besideReply_countInjected,
      besideReply_putRing]
  · rw [besideReply_count, besideReply_startFrame, besideReply_countInjected, besideReply_putRing]
theorem besideReply_pumpRing (s : State) (p : RingPort) (n : Nat) : besideReply (pumpRing s p n) = besideReply s := by
  induction n generalizing s with
  | zero => rfl
  | succ n ih =>
    unfold pumpRing
    dsimp only
    split
    · rfl
    split
    · rw [ih, besideReply_startFrame, besideReply_putRing]
    split
    · rfl
    split
    · rfl
    · rw [ih, besideReply_count, besideReply_startFrame, besideReply_freeRxOf, besideReply_putRing]
    · rw [ih, besideReply_startInject]
theorem besideReply_pump (s : State) (p : RingPort) : besideReply (pump s p) = besideReply s := by
  unfold pump noteStarve
  rw [besideReply_putRing, besideReply_pumpRing]
theorem besideReply_sendMgmt (s : State) (p : RingPort) (m : Mgmt) : besideReply (sendMgmt s p m) = besideReply s := by
  unfold sendMgmt
  rw [besideReply_pump, besideReply_putRing]
theorem besideReply_sendPeerFrag (s : State) (src dst : CtrlId) (ws : List Word) (last : Bool) :
    besideReply (sendPeerFrag s src dst ws last) = besideReply s := by
  unfold sendPeerFrag
  dsimp only
  split
  · exact besideReply_sendMgmt ..
  · split_ifs
    · split
      · exact besideReply_sendMgmt ..
      · rfl
    · rfl
  · rfl
theorem besideReply_sendPeer (s : State) (dst : CtrlId) (ws : List Word) (n : Nat) :
    besideReply (sendPeer s dst ws n) = besideReply s := by
  induction n generalizing s ws with
  | zero => rfl
  | succ n ih =>
    unfold sendPeer
    split_ifs
    · exact besideReply_sendPeerFrag ..
    · rw [ih, besideReply_sendPeerFrag]
theorem besideReply_reply (s : State) (m : Mailbox) (src : CtrlId) (st q : BitVec 8) (ws : List Word) :
    besideReply (reply s m src st q ws) = besideReply s := by
  by_cases hm : m = .peer
  · subst hm
    exact besideReply_sendPeer ..
  · simp only [besideReply, reply_mem s m hm, reply_parts s m hm, reply_beams s m hm, reply_lan_slots s m hm, reply_regs s m hm]
theorem besideReply_atLantern (s : State) : besideReply (atLantern s) = besideReply s := by simp [besideReply, atLantern]

/-! The taking of a command (R420). -/

section Take
variable {s : State} {m : Mailbox} {c : LciCmd} {ok : Bool}

theorem lciTake_of_served (served : mbxServed s m = true) (ready : (mbxSt s m).held.isEmpty = true ∨ emergencyCmd m c = true)
    (src : CtrlId) (q : BitVec 8) :
    lciTake s m src q c ok = lciReply m src q (lciRun (atLantern s) m src q c ok true) := lciTake_of_taken s m src q c ok served ready
/-- A mailbox that is not served takes no command, and one whose reply is held only an emergency (R419, R422). -/
theorem lciTake_of_not_ready (waits : mbxServed s m = false ∨ ((mbxSt s m).held ≠ [] ∧ emergencyCmd m c = false)) (src : CtrlId)
    (q : BitVec 8) : lciTake s m src q c ok = s := by
  unfold lciTake
  obtain stopped | ⟨held, plain⟩ := waits
  · simp [stopped]
  · simp [held, plain]

/-- A command that a check refuses is answered with the status of the first check that fails (R420, R431). -/
theorem lciTake_of_refused {src : CtrlId} (served : mbxServed s m = true) (free : (mbxSt s m).held = [])
    (refused : lciCheck (atLantern s) m (ownCmd (atLantern s) m src c) true ≠ 0) (q : BitVec 8) :
    lciTake s m src q c ok =
      reply (atLantern s) m src (lciCheck (atLantern s) m (ownCmd (atLantern s) m src c) true) q [] := by
  have run : lciRun (atLantern s) m src q c ok true =
    (atLantern s, some (lciCheck (atLantern s) m (ownCmd (atLantern s) m src c) true, [])) := if_pos refused
  rw [lciTake_of_served served (.inl (List.isEmpty_iff.mpr free)), run]
  rfl

/-- A command without a tick of another ring is the controller's own as it stands (R207). -/
theorem ownCmd_of_inMyTime {src : CtrlId} (own : inMyTime s src c = c) : ownCmd s m src c = c := by
  rw [ownCmd, own, ite_self]
/-- A command that passes its checks, and does not run in the background, is carried out at once. -/
theorem lciTake_of_now (taken : Taken s m c) {src : CtrlId} (own : inMyTime (atLantern s) src c = c) (now : background c = false)
    (q : BitVec 8) : lciTake s m src q c ok = lciReply m src q (lciNow (atLantern s) m src q c ok) := by
  obtain ⟨-, served, ready, passes⟩ := taken
  rw [lciTake_of_served served ready, lciRun_of_immediate _ _ _ _ _ _ (ownCmd_of_inMyTime own) passes now]
end Take

/-! The commands. -/

section Commands
variable {s : State} (run : Running s)
include run

theorem exec_sysInfo (m : Mailbox) (q : BitVec 8) : exec (.sysInfo m q) s = .next (settled s (lciRow s m q .sysInfo true)) :=
  finish_of_running run _
theorem exec_logRead (m : Mailbox) (q : BitVec 8) (toBar2 : Bool) (maxWords : BitVec 16) (start ofs : Word) :
    exec (.logRead m q toBar2 maxWords start ofs) s = .next (settled s (lciRow s m q (.logRead toBar2 maxWords start ofs) true)) :=
  finish_of_running run _
theorem exec_beamAdmitDryrun (m : Mailbox) (q : BitVec 8) (desc : BitVec 512) :
    exec (.beamAdmitDryrun m q desc) s = .next (settled s (lciRow s m q (.beamAdmit true desc) true)) := finish_of_running run _
theorem exec_beamStatus (m : Mailbox) (q c : BitVec 8) :
    exec (.beamStatus m q c) s = .next (settled s (lciRow s m q (.beamStatus c) true)) := finish_of_running run _
theorem exec_ringCensusReport (m : Mailbox) (q : BitVec 8) :
    exec (.ringCensusReport m q) s = .next (settled s (lciRow s m q (.ringCensus true 0) true)) := finish_of_running run _
theorem exec_peerQuery (src : CtrlId) (q : BitVec 8) (origin : CtrlId) (pid : PartId) :
    exec (.peerQuery src q origin pid) s = .next (settled s (lciTake s .peer src q (.peerQuery origin pid) true)) :=
  finish_of_running run _
end Commands

/-- Settles O14: each query passes its checks, and is carried out at once by its arm of `lciNow`. -/
theorem queriesAreAnswered : Obligations.QueriesAreAnswered := by
  unfold Obligations.QueriesAreAnswered
  refine ⟨fun s m q => ⟨fun taken => ?_, fun c taken => ?_, fun taken => ?_, fun d taken => ?_, fun n start ofs taken => ?_,
      fun src origin p taken => ?_⟩,
    fun s run => ⟨exec_sysInfo run, exec_logRead run, exec_beamAdmitDryrun run, exec_beamStatus run, exec_ringCensusReport run,
      exec_peerQuery run⟩⟩
  · rw [exec_sysInfo taken.1, lciRow, lciTake_of_now taken rfl rfl]
    rfl
  · rw [exec_beamStatus taken.1, lciRow, lciTake_of_now taken rfl rfl]
    rfl
  · rw [exec_ringCensusReport taken.1, lciRow, lciTake_of_now taken rfl rfl]
    rfl
  · rw [exec_beamAdmitDryrun taken.1, lciRow, lciTake_of_now taken rfl rfl]
    rfl
  · rw [exec_logRead taken.1, lciRow, lciTake_of_now taken rfl rfl]
    rfl
  · rw [exec_peerQuery taken.1, lciTake_of_now taken rfl rfl]
    rfl

/-- Settles O17: a refused command is its reply alone, which leaves what the command names as it is; a mailbox that waits takes
    none. -/
theorem refusedCommandsChangeNothing : Obligations.RefusedCommandsChangeNothing := by
  unfold Obligations.RefusedCommandsChangeNothing
  refine ⟨?_, fun s m q c ok waits => lciTake_of_not_ready waits ..⟩
  intro s m q c ok served free own refused t
  have answer : t = reply (atLantern s) m s.net.ctrlId (lciCheck (atLantern s) m own true) q [] :=
    lciTake_of_refused served free refused q
  have kept : besideReply t = besideReply s := by rw [answer, besideReply_reply, besideReply_atLantern]
  obtain ⟨mem, parts, beams, slots, regs⟩ := by simpa only [besideReply, Prod.mk.injEq] using kept
  refine ⟨answer, mem, parts, beams, slots, regs, fun own => ?_⟩
  simp [answer, reply_cache _ _ own, reply_home _ _ own, reply_ports _ _ own, reply_net _ _ own, atLantern]

end Sys2Proof.Machine
end

section
/-! PROOFS. Register accesses: what a write and a read do, by the reach, the shape, the name and the domain of the register
    (R443-R456). -/

namespace Sys2Proof.Machine
open Sys2Proof.Safety

/-! The domain of a register (R456). -/

/-- A register that is no copy of another island is accessed in its own domain (R454, R456). -/
theorem not_reflected {s : State} {b o : Nat} (own : reflLive s b o = none ∨ accOffset b o = true) :
    ((reflLive s b o).isSome && !accOffset b o) = false := by
  rcases own with none | acc
  · rw [none]
    rfl
  · rw [acc, Bool.not_true, Bool.and_false]
/-- An access finds a domain in A3 off. -/
theorem regWake_of_off {s : State} {b o : Nat} (off : ∃ d, regDomain b o = some d ∧ (domSt s d).state = 3) :
    regWake s b o false = (s, false) := by
  obtain ⟨d, named, a3⟩ := off
  simp [regWake, named, a3]
/-- An access to a domain in A0 or A1, or to the always-on island, wakes nothing. -/
theorem regWake_of_awake {s : State} {b o : Nat} (awake : ∀ d, regDomain b o = some d → (domSt s d).state.toNat < 2)
    (copied : Bool) : regWake s b o copied = (s, true) := by
  unfold regWake
  cases copied with
  | true => rfl
  | false =>
    cases named : regDomain b o with
    | none => rfl
    | some d =>
      have shallow := awake d named
      have notA3 : (domSt s d).state ≠ 3 := fun a3 => by simp [a3] at shallow
      have notA2 : (domSt s d).state ≠ 2 := fun a2 => by simp [a2] at shallow
      simp only [Bool.false_eq_true, if_false, if_neg notA3, if_neg notA2]

/-- A register of the always-on island is never asleep. -/
theorem awake_of_always_on {b o : Nat} (island : regDomain b o = none) (s : State) :
    ∀ d, regDomain b o = some d → (domSt s d).state.toNat < 2 :=
  fun d on => absurd (island.symm.trans on) (Option.some_ne_none d).symm

section Access
variable {s : State} {a : Master} {addr : BitVec 25} {len b pg o : Nat} (isAt : decodeAddr addr = (b, pg, o)) (nonempty : len ≠ 0)
include isAt nonempty

/-! Writes. -/

section Write
variable {v : BitVec 64}

theorem regWrite_of_beyond (beyond : mayWrite a b o = false) (named : (regGet s false b pg o).isSome = true) :
    regWrite s a addr len v = flagAcc s b 0 a (addr.extractLsb' 0 16) true := by
  simp [regWrite, isAt, nonempty, beyond, named]

variable (may : mayWrite a b o = true)
include may

theorem regWrite_of_width (shape : accessShape addr len b o = .width) :
    regWrite s a addr len v = flagAcc s b 2 a (addr.extractLsb' 0 16) true := by
  simp [regWrite, isAt, nonempty, may, shape]
theorem regWrite_of_unaligned (shape : accessShape addr len b o = .unaligned) :
    regWrite s a addr len v = flagAcc s b 3 a (addr.extractLsb' 0 16) true := by
  simp [regWrite, isAt, nonempty, may, shape]
theorem regWrite_of_no_narrow (shape : accessShape addr len b o = .narrow) (named : (regGet s false b pg o).isSome = true)
    (whole : noNarrow b o = true) : regWrite s a addr len v = flagAcc s b 2 a (addr.extractLsb' 0 16) true := by
  simp [regWrite, isAt, nonempty, may, shape, Option.isNone_eq_false_iff.mpr named, whole]
theorem regWrite_of_no_register (shape : accessShape addr len b o = .word) (unnamed : regGet s false b pg o = none) :
    regWrite s a addr len v = s := by
  simp [regWrite, isAt, nonempty, may, shape, unnamed]

variable (named : (regGet s false b pg o).isSome = true)
include named

theorem regWrite_of_off (shape : accessShape addr len b o = .word) (own : reflLive s b o = none ∨ accOffset b o = true)
    (off : ∃ d, regDomain b o = some d ∧ (domSt s d).state = 3) :
    regWrite s a addr len v = flagAcc s b 5 a (addr.extractLsb' 0 16) true := by
  simp [regWrite, isAt, nonempty, may, shape, Option.isNone_eq_false_iff.mpr named, not_reflected own, regWake_of_off off]

variable (awake : ∀ d, regDomain b o = some d → (domSt s d).state.toNat < 2)
include awake

theorem regWrite_word (shape : accessShape addr len b o = .word) :
    regWrite s a addr len v = regPut s a b pg o (addr.extractLsb' 0 16) (v.setWidth 32) := by
  simp [regWrite, isAt, nonempty, may, shape, Option.isNone_eq_false_iff.mpr named, regWake_of_awake awake]
theorem regWrite_pair (shape : accessShape addr len b o = .pair) :
    regWrite s a addr len v = pairPut s a (addr.extractLsb' 0 16) b o v := by
  simp [regWrite, isAt, nonempty, may, shape, Option.isNone_eq_false_iff.mpr named, regWake_of_awake awake]
end Write

/-! Reads. -/

omit nonempty in
theorem regRead_of_beyond (beyond : mayRead a b o = false) : regRead s a addr len = setRead s a 0 := by
  simp [regRead, isAt, beyond]

section Read
variable (may : mayRead a b o = true)
include may

theorem regRead_of_width (shape : accessShape addr len b o = .width) :
    regRead s a addr len =
      setRead (flagAcc s b 2 a (addr.extractLsb' 0 16) false) a (lowBytes allOnes64 (min 8 len)) := by
  simp [regRead, isAt, nonempty, may, shape]
theorem regRead_of_unaligned (shape : accessShape addr len b o = .unaligned) :
    regRead s a addr len =
      setRead (flagAcc s b 3 a (addr.extractLsb' 0 16) false) a (lowBytes allOnes64 (min 8 len)) := by
  simp [regRead, isAt, nonempty, may, shape]
theorem regRead_of_no_register (shape : accessShape addr len b o = .word) (unnamed : regGet s false b pg o = none) :
    regRead s a addr len = setRead s a 0 := by
  simp [regRead, isAt, nonempty, may, shape, unnamed]

variable (named : (regGet s false b pg o).isSome = true)
include named

theorem regRead_of_off (shape : accessShape addr len b o = .word) (own : reflLive s b o = none ∨ accOffset b o = true)
    (off : ∃ d, regDomain b o = some d ∧ (domSt s d).state = 3) :
    regRead s a addr len = setRead (flagAcc s b 5 a (addr.extractLsb' 0 16) false) a (lowBytes allOnes64 len) := by
  simp [regRead, isAt, nonempty, may, shape, Option.isNone_eq_false_iff.mpr named, not_reflected own, regWake_of_off off]

variable (awake : ∀ d, regDomain b o = some d → (domSt s d).state.toNat < 2)
include awake

theorem regRead_word (shape : accessShape addr len b o = .word) : regRead s a addr len = wordRead s a b pg o := by
  simp [regRead, isAt, nonempty, may, shape, Option.isNone_eq_false_iff.mpr named, regWake_of_awake awake]
theorem regRead_pair (shape : accessShape addr len b o = .pair) : regRead s a addr len = setRead s a (pairGet s b pg o) := by
  simp [regRead, isAt, nonempty, may, shape, Option.isNone_eq_false_iff.mpr named, regWake_of_awake awake]
end Read
end Access

/-- Outside the mailboxes and the index channels, a word that is no half of a pair is read without effects (R414, R447, R459). -/
theorem wordRead_of_plain {b o : Nat} (notMbx : b ≠ 1) (notIdx : b ≠ 6) (notPair : isPair b (o / 8 * 8) = false) (s : State)
    (a : Master) (pg : Nat) : wordRead s a b pg o = setRead s a (((regGet s (liveView s a) b pg o).getD 0).setWidth 64) := by
  simp [wordRead, notMbx, notIdx, notPair]

/-! The commands. -/

section Commands
variable {s : State} {a : Master} (reaches : Reaches s a)
include reaches

theorem exec_registerWrite (addr : BitVec 25) (len : BitVec 4) (v : BitVec 64) :
    exec (.registerWrite a addr len v) s = .next (settled s (regWrite s a addr len.toNat v)) := finishAt_of_up reaches.1 reaches.2 _
theorem exec_registerRead (addr : BitVec 25) (len : BitVec 4) :
    exec (.registerRead a addr len) s = .next (settled s (regRead s a addr len.toNat)) := finishAt_of_up reaches.1 reaches.2 _
end Commands

/-- An answer that a master's read leaves changes nothing but that answer. -/
theorem settled_setRead_keeps (s : State) (a : Master) (v : BitVec 64) :
    (settled s (setRead s a v)).cache = s.cache ∧ (settled s (setRead s a v)).mem = s.mem ∧ (settled s (setRead s a v)).net = s.net
      ∧ (settled s (setRead s a v)).ctrs = s.ctrs ∧ tget 0 (settled s (setRead s a v)).regs.readData (masterNo a) = v := by
  refine ⟨by simp, by simp, by simp, ?_, ?_⟩
  · rw [settled_of_parts s _ (setRead_parts ..)]
    rfl
  · rw [settled_regs, readData_setRead]

/-- Settles O19: a write and a read by the reach of the master, the shape of the access, and the name and the domain of the
    register. -/
theorem registerAccessesAreChecked : Obligations.RegisterAccessesAreChecked := by
  unfold Obligations.RegisterAccessesAreChecked
  refine ⟨fun s a addr len v reaches nonempty => ?_, fun s a addr len reaches nonempty => ?_,
    fun s a reaches => ⟨exec_registerWrite reaches, exec_registerRead reaches⟩⟩
  · have nonempty : len.toNat ≠ 0 := fun h => nonempty (BitVec.eq_of_toNat_eq h)
    simp only [exec_registerWrite reaches]
    rcases isAt : decodeAddr addr with ⟨b, pg, o⟩
    refine ⟨fun beyond named => ?_, fun may shape => ?_, fun may shape => ?_, fun may shape named whole => ?_,
      fun may shape unnamed => ?_, fun may shape named own off => ?_, fun may shape named awake => ?_⟩
    · rw [regWrite_of_beyond isAt nonempty beyond named]
    · rw [regWrite_of_width isAt nonempty may shape]
    · rw [regWrite_of_unaligned isAt nonempty may shape]
    · rw [regWrite_of_no_narrow isAt nonempty may shape named whole]
    · rw [regWrite_of_no_register isAt nonempty may shape unnamed, settled_self]
    · rw [regWrite_of_off isAt nonempty may named shape own off]
    · rw [regWrite_word isAt nonempty may named awake shape]
  · have nonempty : len.toNat ≠ 0 := fun h => nonempty (BitVec.eq_of_toNat_eq h)
    simp only [exec_registerRead reaches]
    rcases isAt : decodeAddr addr with ⟨b, pg, o⟩
    refine ⟨fun beyond => ?_, fun may shape => ?_, fun may shape => ?_, fun may shape unnamed => ?_,
      fun may shape off own named => ?_, fun may shape awake named notMbx notIdx notPair => ?_⟩
    · rw [regRead_of_beyond isAt beyond]
    · rw [regRead_of_width isAt nonempty may shape]
    · rw [regRead_of_unaligned isAt nonempty may shape]
    · rw [regRead_of_no_register isAt nonempty may shape unnamed]
    · rw [regRead_of_off isAt nonempty may named shape own off]
    · rw [regRead_word isAt nonempty may named awake shape, wordRead_of_plain notMbx notIdx notPair]
      exact ⟨_, rfl, settled_setRead_keeps s a _⟩

end Sys2Proof.Machine
end

section
/-! PROOFS. ERR.ACC_SUM (R453), and the windows of the blocks (R472). -/

namespace Sys2Proof.Machine
open Sys2Proof.Safety

/-- What a bit reads after a bit is set. -/
theorem getLsbD_setBit {w : Nat} (v : BitVec w) {i : Nat} (inside : i < w) (b : Bool) (j : Nat) :
    (setBit v i b).getLsbD j = if j = i then b else v.getLsbD j := by
  by_cases here : j = i
  · subst here
    cases b <;> simp [setBit, inside]
  · have other : (BitVec.twoPow w i).getLsbD j = false := by simp [BitVec.getLsbD_twoPow, Ne.symm here]
    cases b with
    | true => simp [setBit, here, other]
    | false =>
      by_cases within : j < w
      · simp [setBit, here, within]
      · simp [setBit, here, BitVec.getLsbD_of_ge v j (Nat.le_of_not_lt within)]

/-- The bits below `n` set one after the other from the flags `f`. -/
theorem getLsbD_foldl_setBit {w : Nat} (f : Nat → Bool) (v : BitVec w) {n : Nat} (inside : n ≤ w) (j : Nat) :
    ((List.range n).foldl (fun (v : BitVec w) i => setBit v i (f i)) v).getLsbD j = if j < n then f j else v.getLsbD j := by
  induction n with
  | zero => simp
  | succ n ih =>
    rw [List.range_succ, List.foldl_append, List.foldl_cons, List.foldl_nil, getLsbD_setBit _ inside, ih (Nat.le_of_succ_le inside)]
    grind

/-- Bit b of ACC_SUM tells whether block b has a flag (R453). -/
theorem getLsbD_accSum (s : State) (b : Nat) : (accSum s).getLsbD b = if b < 48 then (accSt s b).status != 0 else false := by
  rw [accSum, getLsbD_foldl_setBit (fun b => (accSt s b).status != 0) 0 (by decide)]
  simp

/-- A read of all of ERR.ACC_SUM by the management endpoint (R447, R453). -/
theorem regRead_accSum (s : State) : regRead s .mgmt 0x50000 8 = setRead s .mgmt (accSum s) :=
  regRead_pair (b := 5) (pg := 0) (o := 0) (by decide) (by decide) rfl rfl (awake_of_always_on rfl s) (by decide)

/-- Settles O24: the bits of ACC_SUM as they are set one after the other, and the window of each block. -/
theorem accSumShowsTheFlaggedBlocks : Obligations.AccSumShowsTheFlaggedBlocks := by
  unfold Obligations.AccSumShowsTheFlaggedBlocks
  refine ⟨fun s reaches => ?_, by decide, by decide, by decide, by decide, by decide, by decide, by decide⟩
  have answers : exec (.registerRead .mgmt 0x50000 8) s = .next (settled s (setRead s .mgmt (accSum s))) := by
    rw [← regRead_accSum]
    exact exec_registerRead reaches _ _
  have answer : tget 0 (settled s (setRead s .mgmt (accSum s))).regs.readData 0 = accSum s := by
    rw [settled_regs]
    exact readData_setRead s .mgmt _
  refine ⟨_, answers, fun b block => ?_, fun b none _ => ?_⟩
  · rw [answer, getLsbD_accSum, if_pos block]
  · rw [answer, getLsbD_accSum, if_neg (Nat.not_lt.mpr none)]

end Sys2Proof.Machine
end

section
/-! PROOFS. SMBus transactions (R445), and configuration records given as commands (R547, R551). -/

namespace Sys2Proof.Machine
open Sys2Proof.Safety

/-! Single registers. -/

section Register
variable (s : State) (v : BitVec 64)

/-- SMBus writes its bit of GLB.VIEW_CTL (R464). -/
theorem regWrite_smbus_view : regWrite s .smbus 0x18 4 v =
    { s with regs := { s.regs with viewSmb := (v.setWidth 32).getLsbD 1 } } :=
  regWrite_word (b := 0) (pg := 0) (o := 0x18) (by decide) (by decide) rfl rfl (awake_of_always_on rfl s) (by decide)
/-- SMBus writes INT_EN (R439). -/
theorem regWrite_smbus_intEn : regWrite s .smbus 0x1800C 4 v = { s with ctrs := { s.ctrs with intEn := v.setWidth 32 } } :=
  regWrite_word (b := 1) (pg := 0) (o := 0x800C) (by decide) (by decide) rfl rfl (awake_of_always_on rfl s) (by decide)
/-- INT_EN is beyond the reach of the management endpoint (R443). -/
theorem regWrite_mgmt_intEn : regWrite s .mgmt (regAddr 1 0 0x800C) 4 v = flagAcc s 1 0 .mgmt 0x800C true :=
  regWrite_of_beyond (b := 1) (pg := 0) (o := 0x800C) (by decide) (by decide) rfl rfl
/-- GLB.SCRATCH is written whole. -/
theorem regWrite_mgmt_scratch : regWrite s .mgmt (regAddr 0 0 0x70) 4 v =
    { s with regs := { s.regs with scratch := v.setWidth 32 } } :=
  regWrite_word (b := 0) (pg := 0) (o := 0x70) (by decide) (by decide) rfl rfl (awake_of_always_on rfl s) (by decide)
/-- T0 of the dump is a pair, written at once by 8 bytes (R447, R504). -/
theorem regWrite_mgmt_t0 : regWrite s .mgmt (regAddr 4 0 0x410) 8 v =
    { s with ctrs := { s.ctrs with dump := { s.ctrs.dump with t0 := v } } } :=
  regWrite_pair (b := 4) (pg := 0) (o := 0x410) (by decide) (by decide) rfl rfl (awake_of_always_on rfl s) (by decide)
end Register

/-! Access flags (R451). -/

section Flag
variable (s : State) (b k : Nat) (a : Master) (ofs : BitVec 16) (write : Bool)

/-- A flag is written in the access registers of its block alone. -/
theorem flagAcc_eq_putAcc : ∃ x, flagAcc s b k a ofs write = putAcc s b x ∧ x.status = setBit (accSt s b).status k true := by
  unfold flagAcc
  dsimp only
  split <;> exact ⟨_, rfl, rfl⟩
theorem accSt_flagAcc_status : (accSt (flagAcc s b k a ofs write) b).status = setBit (accSt s b).status k true := by
  obtain ⟨x, written, flag⟩ := flagAcc_eq_putAcc s b k a ofs write
  rw [written, accSt_putAcc_self, flag]
@[simp] theorem flagAcc_cache : (flagAcc s b k a ofs write).cache = s.cache := by
  obtain ⟨x, written, -⟩ := flagAcc_eq_putAcc s b k a ofs write
  rw [written, putAcc_cache]
@[simp] theorem flagAcc_mem : (flagAcc s b k a ofs write).mem = s.mem := by
  obtain ⟨x, written, -⟩ := flagAcc_eq_putAcc s b k a ofs write
  rw [written, putAcc_mem]
@[simp] theorem flagAcc_ctrs : (flagAcc s b k a ofs write).ctrs = s.ctrs := by
  obtain ⟨x, written, -⟩ := flagAcc_eq_putAcc s b k a ofs write
  rw [written, putAcc_ctrs]
end Flag

theorem accSt_of_acc_eq {s t : State} (same : t.regs.acc = s.regs.acc) (b : Nat) : accSt t b = accSt s b := by
  unfold accSt
  rw [same]
@[simp] theorem accSt_settled (s t : State) (b : Nat) : accSt (settled s t) b = accSt t b :=
  accSt_of_acc_eq (by rw [settled_regs]) b

/-! SMBus (R445). -/

@[simp] theorem smbus_of_good (s : State) (f : State → State) : smbus s true f = f s := rfl
@[simp] theorem smbus_of_bad (s : State) (f : State → State) : smbus s false f = trouble s 0 0 := rfl

/-! Register records (R547). -/

section Done
variable (r : State × BitVec 8)

@[simp] theorem recDone_cache : (recDone r).cache = r.1.cache := rfl
@[simp] theorem recDone_mem : (recDone r).mem = r.1.mem := rfl
@[simp] theorem recDone_home : (recDone r).home = r.1.home := rfl
@[simp] theorem recDone_ctrs : (recDone r).ctrs = r.1.ctrs := rfl
@[simp] theorem recDone_lan : (recDone r).lan = r.1.lan := rfl
@[simp] theorem recDone_pwr : (recDone r).pwr = r.1.pwr := rfl
@[simp] theorem recDone_pending : (recDone r).regs.pending = r.1.regs.pending := rfl
@[simp] theorem recDone_overlap : (recDone r).regs.overlap = r.1.regs.overlap := rfl
@[simp] theorem recDone_recOk : (recDone r).regs.recOk = (r.2 == 0) := rfl
@[simp] theorem accSt_recDone (b : Nat) : accSt (recDone r) b = accSt r.1 b := rfl
end Done

section RegisterRecord
variable {s : State} {b pg o len : Nat} {v : BitVec 64}

/-- A register record whose write sets no flag succeeds. -/
theorem recWrite32_of_kept (kept : accSt (regWrite (putAcc s b acc0) .mgmt (regAddr b pg o) len v) b = acc0) :
    recWrite32 s b pg o len v = (regWrite s .mgmt (regAddr b pg o) len v, 0) := by
  simp only [recWrite32, kept]
  rfl
/-- A register record whose write is refused fails. -/
theorem recWrite32_of_refused (refused : (accSt (regWrite (putAcc s b acc0) .mgmt (regAddr b pg o) len v) b).status &&& 3 ≠ 0) :
    recWrite32 s b pg o len v = (regWrite s .mgmt (regAddr b pg o) len v, 0x08) := by
  simp only [recWrite32, if_neg refused]
end RegisterRecord

/-- A record of SCRATCH writes the bits of its mask. -/
theorem recReg_scratch (s : State) (value mask : Word) : recReg s 0 0 0x70 value mask =
    ({ s with regs := { s.regs with scratch := (s.regs.scratch &&& ~~~mask) ||| (value &&& mask) } }, 0) := by
  unfold recReg
  rw [recWrite32_of_kept]
  · rw [regWrite_mgmt_scratch, BitVec.setWidth_setWidth_of_le _ (by decide), BitVec.setWidth_eq]
    rfl
  · rw [regWrite_mgmt_scratch]
    exact (accSt_of_acc_eq (s := putAcc s 0 acc0) rfl 0).trans (accSt_putAcc_self ..)
/-- A record of INT_EN, which only SMBus writes, fails. -/
theorem recReg_intEn (s : State) (value mask : Word) :
    recReg s 1 0 0x800C value mask = (flagAcc s 1 0 .mgmt 0x800C true, 0x08) := by
  unfold recReg
  rw [recWrite32_of_refused, regWrite_mgmt_intEn]
  rw [regWrite_mgmt_intEn, accSt_flagAcc_status, accSt_putAcc_self]
  decide
/-- A record of the dump's T0. -/
theorem recReg64_t0 (s : State) (lo hi : Word) : recReg64 s 4 0 0x410 lo hi =
    ({ s with ctrs := { s.ctrs with dump := { s.ctrs.dump with t0 := hi ++ lo } } }, 0) := by
  unfold recReg64
  rw [recWrite32_of_kept, regWrite_mgmt_t0]
  rw [regWrite_mgmt_t0]
  exact (accSt_of_acc_eq (s := putAcc s 4 acc0) rfl 4).trans (accSt_putAcc_self ..)

/-! Index records (R458, R459, R547). -/

@[simp] theorem idxCh_putIdx_self (s : State) (k : Nat) (x : IdxChan) : idxCh (putIdx s k x) k = x := tget_tset_self ..
@[simp] theorem putIdx_pending (s : State) (k : Nat) (x : IdxChan) : (putIdx s k x).regs.pending = s.regs.pending := rfl
@[simp] theorem putIdx_cache (s : State) (k : Nat) (x : IdxChan) : (putIdx s k x).cache = s.cache := rfl
@[simp] theorem putIdx_mem (s : State) (k : Nat) (x : IdxChan) : (putIdx s k x).mem = s.mem := rfl
@[simp] theorem putIdx_home (s : State) (k : Nat) (x : IdxChan) : (putIdx s k x).home = s.home := rfl
@[simp] theorem idxAdvance_pending (s : State) (k : Nat) : (idxAdvance s k).regs.pending = s.regs.pending := rfl
@[simp] theorem idxAdvance_cache (s : State) (k : Nat) : (idxAdvance s k).cache = s.cache := rfl
@[simp] theorem idxAdvance_mem (s : State) (k : Nat) : (idxAdvance s k).mem = s.mem := rfl
@[simp] theorem idxAdvance_home (s : State) (k : Nat) : (idxAdvance s k).home = s.home := rfl
@[simp] theorem idxCh_idxAdvance_range (s : State) (k : Nat) : (idxCh (idxAdvance s k) k).range = (idxCh s k).range := by
  simp [idxAdvance]
@[simp] theorem idxCh_idxAdvance_roWrite (s : State) (k : Nat) : (idxCh (idxAdvance s k) k).roWrite = (idxCh s k).roWrite := by
  simp [idxAdvance]

/-- The staged home map after word `w` of it becomes `v`, which its group has pending (R458, R466). -/
def stagedHomeWord (s : State) (w : Nat) (v : Word) : State :=
  setPending { s with home := { s.home with
    mapStaged := tset hmap0 s.home.mapStaged (w / 4)
      (homeOfBits (putBits (homeBits (tget hmap0 s.home.mapStaged (w / 4))) (32 * (w % 4)) v)) } } 0

@[simp] theorem stagedHomeWord_pending (s : State) (w : Nat) (v : Word) :
    (stagedHomeWord s w v).regs.pending = setBit s.regs.pending 0 true := rfl
@[simp] theorem stagedHomeWord_cache (s : State) (w : Nat) (v : Word) : (stagedHomeWord s w v).cache = s.cache := rfl
@[simp] theorem stagedHomeWord_mem (s : State) (w : Nat) (v : Word) : (stagedHomeWord s w v).mem = s.mem := rfl
@[simp] theorem mapStaged_stagedHomeWord (s : State) (w : Nat) (v : Word) :
    tget hmap0 (stagedHomeWord s w v).home.mapStaged (w / 4) =
      homeOfBits (putBits (homeBits (tget hmap0 s.home.mapStaged (w / 4))) (32 * (w % 4)) v) := tget_tset_self hmap0 ..

/-- A word of the home map is staged where no commit of its group is armed (R458, R468). -/
theorem idxWrite_homeMap {s : State} {k w : Nat} (space : (idxCh s k).space = 0x10) (word : (idxCh s k).word.toNat = w)
    (inside : w < 1024) (free : groupArmed s 0 = false) (a : Master) (ofs : BitVec 16) (v : Word) :
    idxWrite s k a ofs v = idxAdvance (stagedHomeWord s w v) k := by
  have here : idxBeyond s 0x10 w = false := by simp [idxBeyond, idxShape, inside]
  have awake : idxWake s k = (s, true) := by simp [idxWake, space, idxDomain]
  simp [idxWrite, space, word, here, awake, free, idxPut, stagedHomeWord]

/-- Lantern's own channel as a record opens it. -/
def recChan (space : BitVec 8) (word : Word) : IdxChan := { chan0Idx with space := space, word := word }

/-- A record of one word fails where its write meets the end of the space or a word that is not writable. -/
theorem recIdx_of_written {s t : State} {space : BitVec 8} {word v : Word}
    (write : idxWrite (putIdx s ownIdx (recChan space word)) ownIdx .mgmt 0x8 v = t) :
    recIdx s space word [v] =
      (putIdx t ownIdx chan0Idx, if (idxCh t ownIdx).range || (idxCh t ownIdx).roWrite then 0x08 else 0) := by
  subst write
  rfl
/-- A record of one word of the home map stages the word, and succeeds. -/
theorem recIdx_homeMap {s : State} {word : Word} (inside : word.toNat < 1024) (free : groupArmed s 0 = false) (v : Word) :
    recIdx s 0x10 word [v] =
      (putIdx (idxAdvance (stagedHomeWord (putIdx s ownIdx (recChan 0x10 word)) word.toNat v) ownIdx) ownIdx chan0Idx, 0) := by
  have chan : idxCh (putIdx s ownIdx (recChan 0x10 word)) ownIdx = recChan 0x10 word := idxCh_putIdx_self ..
  have kept : idxCh (stagedHomeWord (putIdx s ownIdx (recChan 0x10 word)) word.toNat v) ownIdx = recChan 0x10 word := chan
  rw [recIdx_of_written (idxWrite_homeMap (congrArg IdxChan.space chan) (congrArg (fun x => x.word.toNat) chan) inside free ..),
    idxCh_idxAdvance_range, idxCh_idxAdvance_roWrite, kept]
  rfl

/-! Command records (R547). -/

/-- A reply, or its absence, that says that a command is done or has begun. -/
def doneOrBegun : Option (BitVec 8 × List Word) → Bool
  | some (st, _) => st == 0 || st == 0x01
  | none => true

section CommandRecord
variable {s : State} {header : Word} {args : List Word} {needReady : Bool}

/-- A command record whose length is not that of its header fails with BAD_LENGTH. -/
theorem recCmd_of_bad_length (bad : headerLen header ≠ args.length) : recCmd s header args needReady = (s, 0x03, none) := by
  simp [recCmd, recCmdCheck, bad]
/-- A command record that passes its checks runs the command as from HOST, and succeeds where the command is done or has begun. -/
theorem recDone_recCmd_of_passed {c : LciCmd} (passed : recCmdCheck s header args needReady = 0)
    (parsed : lciParse (header.extractLsb' 0 8) args = some c) :
    recDone ((recCmd s header args needReady).1, (recCmd s header args needReady).2.1) =
      { (lciRun s .host s.net.ctrlId 0 c true needReady).1 with
        regs := { (lciRun s .host s.net.ctrlId 0 c true needReady).1.regs with
          recOk := doneOrBegun (lciRun s .host s.net.ctrlId 0 c true needReady).2 } } := by
  simp only [recCmd, passed, parsed]
  cases reply : (lciRun s .host s.net.ctrlId 0 c true needReady).2 with
  | none => simp [recDone, doneOrBegun]
  | some r =>
    obtain ⟨st, ws⟩ := r
    by_cases begun : st = 0x01
    · simp [recDone, doneOrBegun, begun]
    · simp only [if_neg begun, recDone, doneOrBegun, beq_false_of_ne begun, Bool.or_false, ne_eq, not_true_eq_false, if_false]
end CommandRecord

/-! Commit records (R466, R467, R547). -/

theorem commitWrite_of_busy {s : State} (busy : commitBusy s = true) (m : BitVec 16) :
    commitWrite s m = { s with regs := { s.regs with overlap := true } } := if_pos busy
/-- With nothing armed, a commit applies every group it names. -/
theorem commitWrite_of_unarmed {s : State} (idle : commitBusy s = false) (unarmed : s.regs.armed = false) (m : BitVec 16) :
    commitWrite s m = applyCommit s m := by
  have all : m &&& ~~~(0 : BitVec 16) = m := BitVec.and_allOnes
  have none : m &&& (0 : BitVec 16) = 0 := BitVec.and_zero
  simp only [commitWrite, idle, unarmed, Bool.false_eq_true, if_false, ne_eq, not_true_eq_false, all, none]

/-- The state in which a commit record commits: the flags that tell how it went are clear. -/
def commitFlagsClear (s : State) : State := { s with regs := { s.regs with overlap := false, armedConflict := false } }

@[simp] theorem commitBusy_commitFlagsClear (s : State) : commitBusy (commitFlagsClear s) = commitBusy s := rfl

/-- A commit record is its COMMIT write, with the flags as they were but for those that the write sets. -/
theorem recCommit_eq {s t : State} {m : BitVec 16} (write : commitWrite (commitFlagsClear s) m = t) : recCommit s m =
    ({ t with regs := { t.regs with
        overlap := s.regs.overlap || t.regs.overlap, armedConflict := s.regs.armedConflict || t.regs.armedConflict
        busy := if t.regs.overlap then t.regs.busy else none } },
      if t.regs.overlap || t.regs.armedConflict then 0x08 else 0) := by
  subst write
  rfl

/-! Wait and thermal records (R436, R547, R551). -/

/-- What a wait record leaves: its end, or nothing while it goes on. -/
def waitEnd (s : State) : Option (BitVec 8) → State
  | some st => recDone (s, st)
  | none => s
/-- A wait record ends by the word it waits for, or by its time; else it goes on. -/
theorem waitEnd_recWait (s : State) (b pg o : Nat) (mask value : Word) (timeout elapsed : Nat) :
    waitEnd s (recWait s b pg o mask value timeout elapsed) =
    if curWord s b pg o &&& mask = value then { s with regs := { s.regs with recOk := true } }
    else if timeout ≤ elapsed then { s with regs := { s.regs with recOk := false } } else s := by
  unfold recWait
  split
  · rfl
  · split <;> rfl

/-- Limits that R436 allows are the overlay's from now on; a limit that is reached thereby raises its event. -/
theorem recThermal_of_allowed {tj : BitVec 8} {cap : BitVec 16} (warm : 60 ≤ tj.toNat ∧ tj.toNat ≤ gradeTj)
    (power : cap = 0 ∨ (300 ≤ cap.toNat ∧ cap.toNat ≤ 1180)) (s : State) :
    ∃ t, recThermal s false tj cap = (t, 0) ∧ t.lan.limits = tset (⟨0, 0⟩ : Limits) s.lan.limits 4 ⟨tj, cap⟩
      ∧ t.cache = s.cache ∧ t.mem = s.mem ∧ t.pwr = s.pwr := by
  have cool : cap.toNat = 0 ∨ (300 ≤ cap.toNat ∧ cap.toNat ≤ 1180) := power.imp_left fun none => by rw [none]; rfl
  simp only [recThermal, warm, and_self, or_true, cool, decide_true, Bool.not_true, Bool.or_self, Bool.false_eq_true, if_false]
  refine ⟨_, rfl, ?_⟩
  split <;> exact ⟨rfl, rfl, rfl, rfl⟩
/-- Limits beyond those of R436 are refused. -/
theorem recThermal_of_refused {tj : BitVec 8} {cap : BitVec 16} (beyond : (0 < tj.toNat ∧ tj.toNat < 60) ∨ 1180 < cap.toNat)
    (s : State) : recThermal s false tj cap = (s, 0x08) := by
  unfold recThermal
  rcases beyond with cold | high
  · have bad : ¬ (tj.toNat = 0 ∨ (60 ≤ tj.toNat ∧ tj.toNat ≤ gradeTj)) := by omega
    simp [bad]
  · have bad : ¬ (cap.toNat = 0 ∨ (300 ≤ cap.toNat ∧ cap.toNat ≤ 1180)) := by omega
    simp [bad]

/-! The commands. -/

/-- Two states that are one are answered as one. -/
theorem next_settled_congr (s : State) {t u : State} (same : t = u) :
    (Host.Outcome.next (settled s t) : Host.Outcome State Fault Refusal) = .next (settled s u) := by rw [same]

section Commands
variable {s : State} (run : Running s)
include run

theorem exec_smbBlockWrite (pecOk : Bool) (ofs w : Word) : exec (.smbBlockWrite pecOk ofs w) s =
    .next (settled s (smbus s pecOk fun s => regWrite s .smbus (smbAddr ofs) 4 (w.setWidth 64))) := finish_of_running run _
theorem exec_smbReadOffset (pecOk : Bool) (ofs : Word) : exec (.smbReadOffset pecOk ofs) s =
    .next (settled s (smbus s pecOk fun s => { s with regs := { s.regs with smbOfs := ofs } })) := finish_of_running run _
theorem exec_smbBlockRead (pecOk : Bool) : exec (.smbBlockRead pecOk) s =
    .next (settled s (smbus s pecOk fun s => regRead s .smbus (smbAddr s.regs.smbOfs) 4)) := finish_of_running run _
theorem exec_nopRecord : exec .nopRecord s = .next (settled s (recDone (s, 0))) := finish_of_running run _
theorem exec_regRecord (blk page : BitVec 6) (ofs : BitVec 16) (value mask : Word) : exec (.regRecord blk page ofs value mask) s =
    .next (settled s (recDone (recReg s blk.toNat page.toNat ofs.toNat value mask))) := finish_of_running run _
theorem exec_reg64Record (blk page : BitVec 6) (ofs : BitVec 16) (lo hi : Word) : exec (.reg64Record blk page ofs lo hi) s =
    .next (settled s (recDone (recReg64 s blk.toNat page.toNat ofs.toNat lo hi))) := finish_of_running run _
theorem exec_idxRecord (space : BitVec 8) (word : Word) (data : List Word) : exec (.idxRecord space word data) s =
    .next (settled s (recDone (recIdx s space word data))) := finish_of_running run _
theorem exec_cmdRecord (header : Word) (args : List Word) : exec (.cmdRecord header args) s =
    .next (settled s (recDone ((recCmd s header args s.boot.ready).1, (recCmd s header args s.boot.ready).2.1))) :=
  finish_of_running run _
theorem exec_commitRecord (mask : BitVec 16) : exec (.commitRecord mask) s = .next (settled s (recDone (recCommit s mask))) :=
  finish_of_running run _
theorem exec_waitRecord (blk page : BitVec 6) (ofs : BitVec 16) (mask value timeout elapsed : Word) :
    exec (.waitRecord blk page ofs mask value timeout elapsed) s =
      .next (settled s (waitEnd s (recWait s blk.toNat page.toNat ofs.toNat mask value timeout.toNat elapsed.toNat))) :=
  finish_of_running run _
theorem exec_thermalRecord (tj : BitVec 8) (cap : BitVec 16) : exec (.thermalRecord tj cap) s =
    .next (settled s (recDone (recThermal s false tj cap))) := finish_of_running run _

/-- SMBus needs no endpoint: a running state is within its reach. -/
theorem reaches_smbus : Reaches s .smbus := ⟨run, rfl⟩
end Commands

/-- Settles O25: a transaction by its PEC, each record by the lemma of its kind. -/
theorem smbusAndConfigurationRecords : Obligations.SmbusAndConfigurationRecords := by
  unfold Obligations.SmbusAndConfigurationRecords
  refine ⟨fun s ofs w run => ⟨?_, ?_, ?_, ?_, ?_, ?_, ?_, ?_⟩, fun s run => ⟨?_, fun value mask => ?_, fun value mask => ?_,
      fun lo hi => ?_, fun word w inside free => ?_, fun header args bad => ?_, fun header args c passed parsed => ?_,
      fun m idle unarmed apart free => ?_, fun m busy => ?_, fun blk page ofs mask value timeout elapsed => ?_,
      fun tj cap low high power => ?_, fun tj cap beyond => ?_⟩,
    fun s run => ⟨exec_smbBlockWrite run, exec_smbReadOffset run, exec_smbBlockRead run, exec_nopRecord run, exec_regRecord run,
      exec_reg64Record run, exec_idxRecord run, exec_cmdRecord run, exec_commitRecord run, exec_waitRecord run,
      exec_thermalRecord run⟩⟩
  · rw [exec_smbBlockWrite run, smbus_of_bad]
  · rw [exec_smbReadOffset run, smbus_of_bad]
  · rw [exec_smbBlockRead run, smbus_of_bad]
  · rw [exec_smbBlockWrite run, smbus_of_good, exec_registerWrite (reaches_smbus run)]
    rfl
  · rw [exec_smbReadOffset run, smbus_of_good]
  · rw [exec_smbBlockRead run, smbus_of_good, exec_registerRead (reaches_smbus run)]
    rfl
  · rw [exec_smbBlockWrite run, smbus_of_good]
    exact next_settled_congr s ((regWrite_smbus_view s _).trans (by simp))
  · rw [exec_smbBlockWrite run, smbus_of_good]
    exact next_settled_congr s ((regWrite_smbus_intEn s _).trans (by simp))
  · exact exec_nopRecord run
  · exact (exec_regRecord run ..).trans (next_settled_congr s (congrArg recDone (recReg_scratch s value mask)))
  · refine ⟨_, (exec_regRecord run ..).trans (next_settled_congr s (congrArg recDone (recReg_intEn s value mask))), ?_, ?_, ?_, ?_, ?_⟩
    · simp
    · simp
    · rw [accSt_settled, accSt_recDone, accSt_flagAcc_status, getLsbD_setBit_self _ (by decide)]
    · simp
    · simp
  · exact (exec_reg64Record run ..).trans (next_settled_congr s (congrArg recDone (recReg64_t0 s lo hi)))
  · refine ⟨_, (exec_idxRecord run ..).trans (next_settled_congr s (congrArg recDone (recIdx_homeMap inside free w))), ?_⟩
    simp
  · exact (exec_cmdRecord run ..).trans (next_settled_congr s (by rw [recCmd_of_bad_length bad]; rfl))
  · exact (exec_cmdRecord run ..).trans (next_settled_congr s (recDone_recCmd_of_passed passed parsed))
  · refine (exec_commitRecord run m).trans (next_settled_congr s ?_)
    rw [recCommit_eq (commitWrite_of_unarmed (s := commitFlagsClear s) idle unarmed m)]
    unfold commitFlagsClear
    simp only [recDone, apart, free, Bool.or_false, Bool.false_eq_true, if_false]
    rfl
  · have write := recCommit_eq (commitWrite_of_busy (s := commitFlagsClear s) busy m)
    refine ⟨_, (exec_commitRecord run m).trans (next_settled_congr s (congrArg recDone write)), ?_⟩
    simp [commitFlagsClear]
  · exact (exec_waitRecord run ..).trans (next_settled_congr s (waitEnd_recWait ..))
  · obtain ⟨t, done, limits, cache, mem, pwr⟩ := recThermal_of_allowed ⟨low, high⟩ power s
    refine ⟨_, (exec_thermalRecord run tj cap).trans (next_settled_congr s (congrArg recDone done)), ?_⟩
    simp [limits, cache, mem, pwr]
  · exact (exec_thermalRecord run tj cap).trans (next_settled_congr s (congrArg recDone (recThermal_of_refused beyond s)))

end Sys2Proof.Machine
end

section
/-! PROOFS. Commands that name one register: each is the access to its address (R443, R446, R472). -/

namespace Sys2Proof.Machine
open Sys2Proof.Safety

/-- A write of a block's word is the register write at its address, whoever the master is. -/
theorem finishAt_writeAt (s : State) (a : Master) (b pg o : Nat) (w : Word) {addr : BitVec 25} (isAt : regAddr b pg o = addr) :
    finishAt s a (writeAt s a b pg o w) = exec (.registerWrite a addr 4 (w.setWidth 64)) s := by
  subst isAt
  rfl
/-- The same for a pair, whose 8 bytes are written at once. -/
theorem finishAt_regWrite_pair (s : State) (a : Master) (b pg o : Nat) (v : BitVec 64) {addr : BitVec 25}
    (isAt : regAddr b pg o = addr) : finishAt s a (regWrite s a (regAddr b pg o) 8 v) = exec (.registerWrite a addr 8 v) s := by
  subst isAt
  rfl
/-- The same for a read of a word. -/
theorem finishAt_regRead (s : State) (a : Master) (b pg o : Nat) {addr : BitVec 25} (isAt : regAddr b pg o = addr) :
    finishAt s a (regRead s a (regAddr b pg o) 4) = exec (.registerRead a addr 4) s := by
  subst isAt
  rfl

/-! The addresses (R472). -/

/-- A register at a place `base` of a block, as an address. -/
theorem regAddr_eq {b pg o n : Nat} (place : blockBase b + 4096 * pg + o = n) : regAddr b pg o = BitVec.ofNat 25 n := by
  rw [regAddr, place]

theorem regAddr_partCtl (p : PartId) : regAddr 46 p.toNat 0 = 0x500000 + 4096 * p.setWidth 25 := by
  rw [regAddr_eq (n := 0x500000 + 4096 * p.toNat) rfl]
  bv_omega
theorem regAddr_idxData (a : Master) :
    regAddr 6 0 (0x100 * idxChan a + 8) = 0x60008 + 0x100 * BitVec.ofNat 25 (masterNo a) := by
  cases a <;> decide
theorem regAddr_cntEvt (e : BitVec 9) : regAddr 47 0 (8 * e.toNat) = 0x600000 + 8 * e.setWidth 25 := by
  rw [regAddr_eq (n := 0x600000 + 8 * e.toNat) rfl]
  bv_omega
theorem regAddr_cntMode (j : BitVec 4) : regAddr 4 0 (4 * j.toNat) = 0x40000 + 4 * j.setWidth 25 := by
  rw [regAddr_eq (n := 0x40000 + 4 * j.toNat) rfl]
  bv_omega
theorem regAddr_smpStatus (i : BitVec 3) : regAddr 4 0 (0x118 + 0x40 * i.toNat) = 0x40118 + 0x40 * i.setWidth 25 := by
  rw [regAddr_eq (n := 0x40118 + 0x40 * i.toNat) (by have base : blockBase 4 = 0x40000 := rfl; omega)]
  bv_omega

/-- Settles O18: each command is its access at the address of its register, with the value at the width of a bus word. -/
theorem namedAccessesAreRegisterAccesses : Obligations.NamedAccessesAreRegisterAccesses := by
  unfold Obligations.NamedAccessesAreRegisterAccesses
  intro s a w v
  refine ⟨fun mask => ?_, finishAt_writeAt s a 0 0 0x10 0 (by decide), fun p => finishAt_writeAt s a 46 _ 0 0 (regAddr_partCtl p),
    finishAt_writeAt s a 0 0 0x18 w (by decide), finishAt_regRead s a 6 0 _ (regAddr_idxData a),
    finishAt_writeAt s a 6 0 _ w (regAddr_idxData a), finishAt_regRead s a 2 0 0x68 (by decide), fun addr => rfl,
    fun addr len => rfl, fun e => finishAt_regWrite_pair s a 47 0 _ v (regAddr_cntEvt e),
    fun j => finishAt_writeAt s a 4 0 _ w (regAddr_cntMode j), fun i => finishAt_writeAt s a 4 0 _ 0xFF02 (regAddr_smpStatus i),
    fun d => ?_, finishAt_regWrite_pair s a 3 0 0x10 v (by decide)⟩
  · rw [← BitVec.setWidth_setWidth (v := 32) (x := mask) (by decide)]
    exact finishAt_writeAt s a 0 0 0x20 _ (by decide)
  · rw [← BitVec.setWidth_setWidth (v := 32) (x := d) (by decide)]
    exact finishAt_writeAt s a 4 0 0x418 _ (by decide)

end Sys2Proof.Machine
end

section
/-! PROOFS. The words of PMU and the counters as they are written (R495-R506). -/

namespace Sys2Proof.Machine
open Sys2Proof.Safety

/-! Addresses of single words (R472-R475). -/

/-- The offset mask of a 4 KiB page keeps the offset of a word of it. -/
theorem and_pageMask {o : Nat} (inside : o < 0x1000) (word : o % 4 = 0) : o &&& 0xFFC = o := by
  obtain ⟨k, rfl⟩ := Nat.dvd_of_mod_eq_zero word
  have small : k < 2 ^ 10 := by omega
  have shifted : 4 * k = k <<< 2 := by rw [Nat.shiftLeft_eq, Nat.mul_comm]
  calc 4 * k &&& 0xFFC = (k <<< 2) &&& ((2 ^ 10 - 1) <<< 2) := congrArg (· &&& 0xFFC) shifted
    _ = 4 * k := by rw [← Nat.shiftLeft_and_distrib, Nat.and_two_pow_sub_one_of_lt_two_pow small, shifted]

section Word
variable {b win o : Nat} (base : blockBase b = 0x10000 * win) (window : win < 128) (inside : o < 0x1000)
include base window inside

theorem toNat_regAddr : (regAddr b 0 o).toNat = 0x10000 * win + o := by
  rw [regAddr_eq (n := 0x10000 * win + o) (by omega), BitVec.toNat_ofNat]
  omega
/-- A word in the page of its block is decoded as that word. -/
theorem decodeAddr_regAddr (block : blockOf win = b) (notPart : b ≠ 46) (mask : decodeMask b = 0xFFC) (word : o % 4 = 0) :
    decodeAddr (regAddr b 0 o) = (b, 0, o) := by
  have at_ := toNat_regAddr base window inside
  have top : (regAddr b 0 o).extractLsb' 23 2 = 0 := BitVec.eq_of_toNat_eq (by
    rw [BitVec.extractLsb'_toNat, at_, Nat.shiftRight_eq_div_pow]
    show _ = 0
    omega)
  have win_ : ((regAddr b 0 o).extractLsb' 16 7).toNat = win := by
    rw [BitVec.extractLsb'_toNat, at_, Nat.shiftRight_eq_div_pow]
    omega
  have ofs : ((regAddr b 0 o).extractLsb' 0 16).toNat = o := by
    rw [BitVec.extractLsb'_toNat, at_, Nat.shiftRight_eq_div_pow]
    omega
  unfold decodeAddr
  simp only [top, win_, block, notPart, mask, if_true, if_false, BitVec.toNat_and, ofs]
  exact congrArg (b, 0, ·) (and_pageMask inside word)
end Word

/-! The PMU block (R497, R500, R504). -/

section Pmu
variable {o : Nat} (inside : o < 0x1000) (word : o % 4 = 0) (plain : accOffset 4 o = false) (single : isPair 4 (o / 8 * 8) = false)
include plain single

theorem regGet_pmu (s : State) (live : Bool) : regGet s live 4 0 o = pmuGet s o := by
  simp [regGet, plain, single, reflLive]
theorem regPut_pmu (s : State) (a : Master) (raw : BitVec 16) (w : Word) : regPut s a 4 0 o raw w = pmuPut s o w := by
  simp [regPut, wordPut, plain, single, reflLive]
include inside word in
/-- The management endpoint writes a named word of PMU in the always-on island. -/
theorem writeAt_pmu {s : State} (named : (pmuGet s o).isSome = true) (w : Word) : writeAt s .mgmt 4 0 o w = pmuPut s o w := by
  have isAt : decodeAddr (regAddr 4 0 o) = (4, 0, o) :=
    decodeAddr_regAddr (win := 4) rfl (by decide) inside rfl (by decide) rfl word
  have aligned : (regAddr 4 0 o).toNat % 4 = 0 := by
    rw [toNat_regAddr (win := 4) rfl (by decide) inside]
    omega
  have shape : accessShape (regAddr 4 0 o) 4 4 o = .word := by simp [accessShape, aligned]
  unfold writeAt
  rw [regWrite_word isAt (by decide) rfl (by rw [regGet_pmu plain single]; exact named) (awake_of_always_on rfl s) shape,
    regPut_pmu plain single, BitVec.setWidth_setWidth_of_le _ (by decide), BitVec.setWidth_eq]
end Pmu

/-! Fields of a register word. -/

theorem getLsbD_fieldAt {n : Nat} (v : BitVec n) (i j : Nat) :
    (fieldAt v i).getLsbD j = (decide (j < 32) && decide (i ≤ j) && v.getLsbD (j - i)) := by
  simp [fieldAt, BitVec.getLsbD_ofNat, Nat.testBit_mul_two_pow, BitVec.testBit_toNat, Bool.and_assoc]
theorem getLsbD_flagAt (b : Bool) (i j : Nat) : (flagAt b i).getLsbD j = (decide (j < 32) && decide (i = j) && b) := by
  cases b with
  | false => simp [flagAt]
  | true => rw [flagAt, if_pos rfl, BitVec.getLsbD_ofNat, Nat.testBit_two_pow, Bool.and_true]

/-- SMP_CTL with EN set (R500). -/
def smpCtlWord (event : BitVec 9) (mode pfilt : Bool) (part : PartId) : Word :=
  fieldAt event 0 ||| flagAt true 9 ||| flagAt mode 10 ||| flagAt pfilt 11 ||| fieldAt part 12
/-- DUMP_CTL with EN set (R504). -/
def dumpCtlWord (ext : Bool) (nbuf : BitVec 8) : Word := flagAt true 0 ||| flagAt ext 1 ||| fieldAt nbuf 4

section Fields
variable (event : BitVec 9) (mode pfilt : Bool) (part : PartId) (ext : Bool) (nbuf : BitVec 8)

/-- Which field a bit of SMP_CTL belongs to (R500). -/
theorem getLsbD_smpCtlWord (i : Nat) : (smpCtlWord event mode pfilt part).getLsbD i =
    if i < 9 then event.getLsbD i else if i = 9 then true else if i = 10 then mode else if i = 11 then pfilt
    else part.getLsbD (i - 12) := by
  simp only [smpCtlWord, BitVec.getLsbD_or, getLsbD_fieldAt, getLsbD_flagAt]
  grind
/-- Which field a bit of DUMP_CTL belongs to (R504). -/
theorem getLsbD_dumpCtlWord (i : Nat) : (dumpCtlWord ext nbuf).getLsbD i =
    if i = 0 then true else if i = 1 then ext else if i < 4 then false else nbuf.getLsbD (i - 4) := by
  simp only [dumpCtlWord, BitVec.getLsbD_or, getLsbD_fieldAt, getLsbD_flagAt]
  grind

theorem fld_smpCtlWord_event : fld (smpCtlWord event mode pfilt part) 0 9 = event := by
  ext k hk
  grind [fld, getLsbD_smpCtlWord]
theorem fld_smpCtlWord_part : fld (smpCtlWord event mode pfilt part) 12 6 = part := by
  ext k hk
  grind [fld, getLsbD_smpCtlWord]
theorem fld_dumpCtlWord_nbuf : fld (dumpCtlWord ext nbuf) 4 8 = nbuf := by
  ext k hk
  grind [fld, getLsbD_dumpCtlWord]
theorem fld_setWidth (v : BitVec 8) : fld (v.setWidth 32) 0 8 = v := by
  ext k hk
  grind [fld]
end Fields

/-! Sample counters as registers (R500). -/

section Smp
variable (s : State) (i : Nat) (m : Smp)

@[simp] theorem smpSt_putSmp_self : smpSt (putSmp s i m) i = m := tget_tset_self ..
theorem smpSt_putSmp_of_ne {s : State} {i : Nat} {m : Smp} {k : Nat} (other : k ≠ i) : smpSt (putSmp s i m) k = smpSt s k :=
  tget_tset_of_ne _ _ other.symm _
@[simp] theorem putSmp_cache : (putSmp s i m).cache = s.cache := rfl
@[simp] theorem putSmp_mem : (putSmp s i m).mem = s.mem := rfl
@[simp] theorem putSmp_parts : (putSmp s i m).parts = s.parts := rfl
@[simp] theorem smpSt_settled (t : State) : smpSt (settled s t) i = smpSt t i := by
  unfold smpSt
  rw [settled_ctrs_smp]
end Smp

/-! What a write of a PMU word does (R497, R501, R503, R505, R506). -/

section Put
variable (s : State)

theorem writeAt_cntMode {j : Nat} (listed : j < 12) (w : Word) : writeAt s .mgmt 4 0 (4 * j) w =
    { s with ctrs := { s.ctrs with mode := putBits s.ctrs.mode (32 * j) w } } := by
  have inside : 4 * j < 0x30 := by omega
  rw [writeAt_pmu (by omega) (by omega) (by grind [accOffset]) (by grind [isPair]) (by simp [pmuGet, inside])]
  simp [pmuPut, cntMode, inside, listed]

section Sample
variable (i : BitVec 3)

/-- SMP_CTL and SMP_STATUS are no access registers and no pairs. -/
theorem smp_words_are_single : ∀ i : BitVec 3,
    (accOffset 4 (0x100 + 0x40 * i.toNat) = false ∧ isPair 4 ((0x100 + 0x40 * i.toNat) / 8 * 8) = false)
      ∧ (accOffset 4 (0x118 + 0x40 * i.toNat) = false ∧ isPair 4 ((0x118 + 0x40 * i.toNat) / 8 * 8) = false) := by decide

/-- Where word r of the registers of a sample counter is (R500). -/
theorem smp_word {o r : Nat} (place : o = 0x100 + r + 0x40 * i.toNat) (inside : r < 0x40) :
    ¬ o < 0x30 ∧ (0x100 ≤ o ∧ o < 0x300) ∧ o % 0x40 = r ∧ (o - 0x100) / 0x40 = i.toNat := by
  omega

theorem writeAt_smpCtl (w : Word) : writeAt s .mgmt 4 0 (0x100 + 0x40 * i.toNat) w =
    smpCtl s i.toNat (fld w 0 9) (w.getLsbD 9) (w.getLsbD 10) (w.getLsbD 11) (fld w 12 6) := by
  obtain ⟨⟨plain, single⟩, -⟩ := smp_words_are_single i
  obtain ⟨notMode, sample, reg, index⟩ := smp_word i (o := 0x100 + 0x40 * i.toNat) (r := 0) rfl (by decide)
  rw [writeAt_pmu (by omega) (by omega) plain single (by simp only [pmuGet, if_neg notMode, if_pos sample, reg]; rfl)]
  simp only [pmuPut, if_neg notMode, if_pos sample, reg, index]
/-- SMP_STATUS written with REC_VALID alone frees the record, and leaves OVF and MISSED (R503). -/
theorem writeAt_smpStatus_recValid : writeAt s .mgmt 4 0 (0x118 + 0x40 * i.toNat) 0xFF02 =
    putSmp (smpFree s i.toNat) i.toNat { smpSt s i.toNat with recValid := false } := by
  obtain ⟨-, plain, single⟩ := smp_words_are_single i
  obtain ⟨notMode, sample, reg, index⟩ := smp_word i (o := 0x118 + 0x40 * i.toNat) (r := 0x18) rfl (by decide)
  have freed : smpSt (smpFree s i.toNat) i.toNat = { smpSt s i.toNat with recValid := false } := smpSt_putSmp_self ..
  have free : (0xFF02 : Word).getLsbD 1 = true := rfl
  have ovf : ((smpSt s i.toNat).ovf && !(0xFF02 : Word).getLsbD 0) = (smpSt s i.toNat).ovf := Bool.and_true _
  have missed : satWrite (smpSt s i.toNat).missed (fld (0xFF02 : Word) 8 8) = (smpSt s i.toNat).missed := rfl
  rw [writeAt_pmu (by omega) (by omega) plain single (by simp only [pmuGet, if_neg notMode, if_pos sample, reg]; rfl)]
  simp only [pmuPut, if_neg notMode, if_pos sample, reg, index, free, if_true, freed, ovf, missed]
theorem writeAt_smpCtlWord (event : BitVec 9) (mode pfilt : Bool) (part : PartId) :
    writeAt s .mgmt 4 0 (0x100 + 0x40 * i.toNat) (smpCtlWord event mode pfilt part) =
      smpCtl s i.toNat event true mode pfilt part := by
  rw [writeAt_smpCtl, fld_smpCtlWord_event, fld_smpCtlWord_part, getLsbD_smpCtlWord, getLsbD_smpCtlWord, getLsbD_smpCtlWord]
  rfl
end Sample

theorem writeAt_dumpCtl (w : Word) : writeAt s .mgmt 4 0 0x400 w = dumpCtl s (w.getLsbD 0) (w.getLsbD 1) (fld w 4 8) :=
  writeAt_pmu (by decide) (by decide) rfl rfl rfl w
theorem writeAt_dumpCtlWord (ext : Bool) (nbuf : BitVec 8) :
    writeAt s .mgmt 4 0 0x400 (dumpCtlWord ext nbuf) = dumpCtl s true ext nbuf := by
  rw [writeAt_dumpCtl, fld_dumpCtlWord_nbuf, getLsbD_dumpCtlWord, getLsbD_dumpCtlWord]
  rfl
theorem writeAt_dumpAck (v : BitVec 8) : writeAt s .mgmt 4 0 0x418 (v.setWidth 32) =
    { s with ctrs := { s.ctrs with dump := { s.ctrs.dump with done := v } } } := by
  rw [writeAt_pmu (by decide) (by decide) rfl rfl rfl]
  exact congrArg (dumpAck s) (fld_setWidth v)
end Put

/-- CNT.EVT of an event is written whole, in the domain of its event (R495, R496). -/
theorem regWrite_cntEvt {s : State} {e : Nat} (event : e < 0x180)
    (awake : ∀ d, regDomain 47 (8 * e) = some d → (domSt s d).state.toNat < 2) (v : BitVec 64) :
    regWrite s .mgmt (regAddr 47 0 (8 * e)) 8 v = cntWrite s e v := by
  have inside : 8 * e < 0x1000 := by omega
  have pair : isPair 47 (8 * e) = true := by grind [isPair]
  have plain : accOffset 47 (8 * e) = false := by grind [accOffset]
  have isAt : decodeAddr (regAddr 47 0 (8 * e)) = (47, 0, 8 * e) :=
    decodeAddr_regAddr (win := 0x60) rfl (by decide) inside rfl (by decide) rfl (by omega)
  have aligned : (regAddr 47 0 (8 * e)).toNat % 8 = 0 := by
    rw [toNat_regAddr (win := 0x60) rfl (by decide) inside]
    omega
  have named : (regGet s false 47 0 (8 * e)).isSome = true := by
    have same : 8 * e / 8 * 8 = 8 * e := by omega
    simp only [regGet, plain, same, pair, if_true, Bool.false_eq_true, if_false, Option.isSome_some]
  have shape : accessShape (regAddr 47 0 (8 * e)) 8 47 (8 * e) = .pair := by simp [accessShape, aligned, pair, plain]
  rw [regWrite_pair isAt (by decide) rfl named awake shape]
  simp [pairPut]

/-! DUMP_CTL (R505). -/

section Dump
variable (s : State) (ext : Bool) (nbuf : BitVec 8)

theorem dumpCtl_written (en : Bool) : (dumpCtl s en ext nbuf).ctrs.dump.en = en ∧ (dumpCtl s en ext nbuf).ctrs.dump.ext = ext
    ∧ (dumpCtl s en ext nbuf).ctrs.dump.nbuf = nbuf := by
  unfold dumpCtl
  dsimp only
  split <;> exact ⟨rfl, rfl, rfl⟩
/-- Setting EN takes the parameters. -/
theorem dumpCtl_taken {s : State} (off : s.ctrs.dump.en = false) :
    let d := (dumpCtl s true ext nbuf).ctrs.dump
    d.tExt = ext ∧ d.tNbuf = nbuf ∧ d.tBase = s.ctrs.dump.base &&& ~~~0xFFF
      ∧ d.tPeriod = max 100000 s.ctrs.dump.period.toNat := by
  simp [dumpCtl, off]
end Dump

/-! SMP_CTL (R501). -/

section SmpCtl
variable (s : State) (i : Nat) (event : BitVec 9) (en mode pfilt : Bool) (part : PartId)

theorem smpSt_smpCtl_of_ne {k : Nat} (other : k ≠ i) : smpSt (smpCtl s i event en mode pfilt part) k = smpSt s k :=
  smpSt_putSmp_of_ne other
/-- EVENT and MODE are taken where EN is set that was clear. -/
theorem smpSt_smpCtl_self : smpSt (smpCtl s i event en mode pfilt part) i =
    { smpSt s i with
      event := event, en := en, mode := mode, pfilt := pfilt, part := part
      takenEvent := if en && !(smpSt s i).en then event else (smpSt s i).takenEvent
      takenMode := if en && !(smpSt s i).en then mode else (smpSt s i).takenMode } := smpSt_putSmp_self ..
end SmpCtl

/-! The commands. -/

section Commands
variable {s : State} {a : Master} (reaches : Reaches s a)
include reaches

theorem exec_cntEvtWrite (e : BitVec 9) (v : BitVec 64) : exec (.cntEvtWrite a e v) s =
    .next (settled s (regWrite s a (regAddr 47 0 (8 * e.toNat)) 8 v)) := finishAt_of_up reaches.1 reaches.2 _
theorem exec_cntModeWrite (j : BitVec 4) (w : Word) : exec (.cntModeWrite a j w) s =
    .next (settled s (writeAt s a 4 0 (4 * j.toNat) w)) := finishAt_of_up reaches.1 reaches.2 _
theorem exec_smpEnable (i : BitVec 3) (event : BitVec 9) (mode pfilt : Bool) (part : PartId) :
    exec (.smpEnable a i event mode pfilt part) s =
      .next (settled s (writeAt s a 4 0 (0x100 + 0x40 * i.toNat) (smpCtlWord event mode pfilt part))) :=
  finishAt_of_up reaches.1 reaches.2 _
theorem exec_smpRecFree (i : BitVec 3) : exec (.smpRecFree a i) s =
    .next (settled s (writeAt s a 4 0 (0x118 + 0x40 * i.toNat) 0xFF02)) := finishAt_of_up reaches.1 reaches.2 _
theorem exec_dumpEnable (ext : Bool) (nbuf : BitVec 8) : exec (.dumpEnable a ext nbuf) s =
    .next (settled s (writeAt s a 4 0 0x400 (dumpCtlWord ext nbuf))) := finishAt_of_up reaches.1 reaches.2 _
theorem exec_dumpAckWrite (v : BitVec 8) : exec (.dumpAckWrite a v) s =
    .next (settled s (writeAt s a 4 0 0x418 (v.setWidth 32))) := finishAt_of_up reaches.1 reaches.2 _
end Commands

/-- Settles O22: each command is a write of one register, and the register by the block's own function for it. -/
theorem counterRegistersAreWritten : Obligations.CounterRegistersAreWritten := by
  unfold Obligations.CounterRegistersAreWritten
  refine ⟨fun s w v reaches => ⟨fun e event awake => ?_, fun j listed => ?_, fun i event mode pfilt part => ?_, fun i => ?_,
      fun ext nbuf => ?_, fun d => ?_⟩,
    fun s a reaches => ⟨exec_cntEvtWrite reaches, exec_cntModeWrite reaches, exec_smpEnable reaches, exec_smpRecFree reaches,
      exec_dumpEnable reaches, exec_dumpAckWrite reaches⟩⟩
  · rw [exec_cntEvtWrite reaches, regWrite_cntEvt event awake]
    rfl
  · rw [exec_cntModeWrite reaches, writeAt_cntMode s listed]
  · refine ⟨_, exec_smpEnable reaches .., ?_⟩
    rw [writeAt_smpCtlWord, settled_cache, settled_mem]
    simp only [smpSt_settled, smpSt_smpCtl_self]
    exact ⟨trivial, trivial, trivial, trivial, trivial, trivial, fun off => by simp [off],
      fun k other => smpSt_smpCtl_of_ne (other := other) .., rfl, rfl⟩
  · refine ⟨_, exec_smpRecFree reaches i, ?_⟩
    rw [writeAt_smpStatus_recValid, settled_cache, settled_mem]
    simp only [smpSt_settled, smpSt_putSmp_self]
    refine ⟨trivial, trivial, trivial, fun k other => ?_, rfl, rfl⟩
    rw [smpSt_putSmp_of_ne other, smpFree, smpSt_putSmp_of_ne other]
  · refine ⟨_, exec_dumpEnable reaches ext nbuf, ?_⟩
    rw [writeAt_dumpCtlWord, settled_ctrs_dump, settled_cache, settled_mem]
    obtain ⟨en, extended, bufs⟩ := dumpCtl_written s ext nbuf true
    exact ⟨en, extended, bufs, dumpCtl_taken ext nbuf, rfl, rfl⟩
  · rw [exec_dumpAckWrite reaches, writeAt_dumpAck]

end Sys2Proof.Machine
end

section
/-! PROOFS. Counters that wrap, samples that are captured, and the snapshots of the dump (R494-R507). -/

namespace Sys2Proof.Machine
open Sys2Proof.Safety

/-! Fixed counters (R494-R496). -/

section Fixed
variable {s : State} {e n : Nat}

/-- Fewer events than are left to the maximum wrap nothing, whatever the mode. -/
theorem cntWrap_of_below (below : (tget cnt0 s.ctrs.fixed e).count.toNat + n < 2 ^ 48) : cntWrap s e n = s := by
  have fewer : (if s.ctrs.mode.getLsbD e then min 1 n else n) ≤ n := by
    split
    · exact Nat.min_le_right 1 n
    · exact Nat.le_refl n
  unfold cntWrap
  exact if_neg (by omega)
/-- In count mode, where no sample counter is set up, a counter that passes its maximum wraps and sets OVF. -/
theorem cntWrap_of_full (event : e < 0x180) (some_ : n ≠ 0) (counts : s.ctrs.mode.getLsbD e = false) (noSamples : s.ctrs.smp = [])
    (full : 2 ^ 48 ≤ (tget cnt0 s.ctrs.fixed e).count.toNat + n) :
    cntWrap s e n = { s with ctrs := { s.ctrs with fixed := tset cnt0 s.ctrs.fixed e { tget cnt0 s.ctrs.fixed e with
      count := (tget cnt0 s.ctrs.fixed e).count + BitVec.ofNat 48 n, ovf := true } } } := by
  simp only [cntWrap, countFor, cntAdd, event, some_, counts, noSamples, full, Bool.false_eq_true, if_false, and_self, if_true,
    List.isEmpty_nil, decide_true, Bool.or_true]
end Fixed

/-! Sample counters (R500-R503). -/

section Sample
variable {s : State} {i : Nat}

/-- What a sample counter holds after it has passed its maximum by n more increments (R502). -/
def smpWrapped (m : Smp) (n : Nat) : Smp :=
  { m with
    count := m.reload + BitVec.ofNat 48 (m.count.toNat + n - 2 ^ 48), ovf := true
    armed := m.armed || !m.recValid
    skid := if m.recValid then m.skid else 0
    missed := if m.recValid then satInc m.missed else m.missed }

theorem smpOverflow_of_full {n : Nat} (en : (smpSt s i).en = true) (full : 2 ^ 48 ≤ (smpSt s i).count.toNat + n) :
    smpOverflow s i n = raiseEvt (putSmp s i (smpWrapped (smpSt s i) n)) (16 + i) := by
  have wraps : smpAdd (tget smp0 s.ctrs.smp i) n = (smpWrapped (smpSt s i) n, true) := if_neg (Nat.not_lt.mpr full)
  simp only [smpOverflow, en, full, decide_true, Bool.and_self, if_true, smpCount, wraps]
  rfl
@[simp] theorem smpSt_raiseEvt (s : State) (v k : Nat) : smpSt (raiseEvt s v) k = smpSt s k := rfl

/-- The record that a capture fills: its skid is 0 in edge mode and for a condition (R502, R503). -/
def capturedRec (s : State) (i : Nat) (r : SmpRec) : SmpRec :=
  { r with skid := if (smpSt s i).takenMode || isCond (smpSt s i).takenEvent.toNat then 0 else r.skid, tick := s.now }

theorem smpCapture_of_armed {r : SmpRec} (armed : (smpSt s i).armed = true) (free : (smpSt s i).recValid = false)
    (filter : (smpSt s i).pfilt = false ∨ r.part = (smpSt s i).part) (near : r.skid.toNat ≤ 32) :
    smpCapture s i r = putSmp s i { smpSt s i with armed := false, recValid := true, record := capturedRec s i r } := by
  have passes : (!(smpSt s i).pfilt || r.part == (smpSt s i).part) = true := by
    rcases filter with none | same
    · rw [none]
      rfl
    · rw [same, beq_self_eq_true, Bool.or_true]
  simp only [smpCapture, armed, free, passes, near, decide_true, Bool.not_false, Bool.and_self, if_true]
  rfl
end Sample

/-! The dump (R504-R507). -/

/-- The record in its buffer, and the buffer after it the next (R506, R507). -/
def snapshotWritten (s : State) : State :=
  let d := s.ctrs.dump
  let a := d.tBase + BitVec.ofNat 64 (4096 * d.next.toNat)
  let r := dumpRecord s d.tExt d.nextTick
  let w3 : Word := (0 : BitVec 14) ++ BitVec.ofBool d.lost ++ BitVec.ofBool d.tExt ++ (d.seq + 1)
  { s with
    out := s.out ++ [.hostWrite a r.1, .hostWrite (a + 16) r.2, .hostWrite (a + 12) [w3]]
    ctrs := { s.ctrs with dump := { d with
      nextTick := d.nextTick + BitVec.ofNat 64 d.tPeriod, seq := d.seq + 1, lost := false
      next := BitVec.ofNat 8 ((d.next.toNat + 1) % (max 1 d.tNbuf.toNat + 1)) } } }

section Dump
variable {s : State} {bm : Bool}

theorem dumpSnap_of_idle (idle : s.ctrs.dump.en = false ∨ s.now.toNat < s.ctrs.dump.nextTick.toNat) : dumpSnap s bm = s := by
  rcases idle with off | early
  · simp [dumpSnap, off]
  · simp [dumpSnap, early]

variable (en : s.ctrs.dump.en = true) (due : s.ctrs.dump.nextTick.toNat ≤ s.now.toNat)
include en due

theorem dump_acts : ¬ (!s.ctrs.dump.en || decide (s.now.toNat < s.ctrs.dump.nextTick.toNat)) = true := by
  simp [en, due]
theorem dumpSnap_of_blocked (blocked : s.ctrs.dump.next = s.ctrs.dump.done ∨ bm = false) :
    dumpSnap s bm = { s with ctrs := { s.ctrs with dump := { s.ctrs.dump with
      nextTick := s.ctrs.dump.nextTick + BitVec.ofNat 64 s.ctrs.dump.tPeriod
      skipped := satInc s.ctrs.dump.skipped, lost := true } } } := by
  have skips : s.ctrs.dump.next = s.ctrs.dump.done ∨ ¬ bm = true := blocked.imp_right (Bool.not_eq_true bm).mpr
  exact (if_neg (dump_acts en due)).trans (if_pos skips)
theorem dumpSnap_of_written (free : s.ctrs.dump.next ≠ s.ctrs.dump.done) : dumpSnap s true = raiseEvt (snapshotWritten s) 15 := by
  have writes : ¬ (s.ctrs.dump.next = s.ctrs.dump.done ∨ ¬ true = true) := by simp [free]
  exact (if_neg (dump_acts en due)).trans (if_neg writes)
end Dump

/-- Whatever a snapshot adds to what goes out, the record is written first, in order. -/
theorem take_raiseEvt_snapshotWritten (s : State) (v : Nat) :
    (raiseEvt (snapshotWritten s) v).out.take (s.out.length + 3) = (snapshotWritten s).out := by
  obtain ⟨l, added⟩ := raiseEvt_out_append (snapshotWritten s) v
  rw [added]
  exact List.take_left' (List.length_append ..)

@[simp] theorem eventDone_ctrs (s : State) (done : Bool) : (eventDone s done).ctrs = s.ctrs := by
  obtain ⟨x, hx⟩ := eventDone_frame s done
  rw [hx]
@[simp] theorem eventDone_out (s : State) (done : Bool) : (eventDone s done).out = s.out := by
  obtain ⟨x, hx⟩ := eventDone_frame s done
  rw [hx]
@[simp] theorem eventDone_parts (s : State) (done : Bool) : (eventDone s done).parts = s.parts := by
  obtain ⟨x, hx⟩ := eventDone_frame s done
  rw [hx]

/-! The commands. -/

section Commands
variable {s : State} (run : Running s)
include run

theorem exec_counterWrap (e : BitVec 9) (n : BitVec 8) : exec (.counterWrap e n) s =
    .next (settled s (cntWrap s e.toNat n.toNat)) := finish_of_running run _
theorem exec_sampleOverflow (i : BitVec 3) (n : BitVec 8) : exec (.sampleOverflow i n) s =
    .next (settled s (smpOverflow s i.toNat n.toNat)) := finish_of_running run _
theorem exec_sampleCapture (i : BitVec 3) (a : Addr) (port : PortId) (portv : Bool) (part : PartId) (cls : BitVec 3)
    (op : BitVec 8) (slice : SliceId) (skid : BitVec 6) : exec (.sampleCapture i a port portv part cls op slice skid) s =
      .next (settled s (smpCapture s i.toNat { addr := a, port := port, portv := portv, part := part, cls := cls, op := op,
                                               skid := skid, slice := slice, tick := 0 })) := finish_of_running run _
theorem exec_dumpSnapshot (busMaster : Bool) : exec (.dumpSnapshot busMaster) s =
    .next (settled s (eventDone (dumpSnap s busMaster) ((dumpSnap s busMaster).ctrs.dump.nextTick != s.ctrs.dump.nextTick))) :=
  finish_of_running run _
end Commands

/-- Settles O27: a counter and a sample by whether it passes its maximum, a snapshot by whether it is due and a buffer is free. -/
theorem countersSamplesAndDumps : Obligations.CountersSamplesAndDumps := by
  unfold Obligations.CountersSamplesAndDumps
  refine ⟨fun s run => ⟨fun e n event some_ counts noSamples full => ?_, fun e n below => ?_, fun i n en full => ?_,
      fun i a port portv part cls op slice skid armed free filter near => ?_⟩,
    fun s bm run => ⟨fun idle => ?_, fun en due blocked => ?_, fun en due free master => ?_⟩,
    fun s run => ⟨exec_counterWrap run, exec_sampleOverflow run, exec_sampleCapture run, exec_dumpSnapshot run⟩⟩
  · have some_ : n.toNat ≠ 0 := fun none => some_ (BitVec.eq_of_toNat_eq none)
    rw [exec_counterWrap run, cntWrap_of_full event some_ counts noSamples full, BitVec.ofNat_toNat]
  · rw [exec_counterWrap run, cntWrap_of_below below, settled_self]
  · refine ⟨_, exec_sampleOverflow run i n, ?_⟩
    have parts : (raiseEvt (putSmp s i.toNat (smpWrapped (smpSt s i.toNat) n.toNat)) (16 + i.toNat)).parts = s.parts := rfl
    rw [smpOverflow_of_full en full, settled_cache, settled_mem, settled_ctrs_evt_of_parts parts]
    simp only [smpSt_settled, smpSt_raiseEvt, smpSt_putSmp_self]
    refine ⟨rfl, raiseEvt_ctrs_evt_self _ (by omega), rfl, fun free => ?_, fun held => ?_,
      fun k other => smpSt_putSmp_of_ne other, rfl, rfl⟩
    · simp [smpWrapped, free]
    · simp [smpWrapped, held]
  · refine ⟨_, exec_sampleCapture run .., ?_⟩
    rw [smpCapture_of_armed armed free filter near, settled_cache, settled_mem]
    simp only [smpSt_settled, smpSt_putSmp_self]
    refine ⟨trivial, trivial, rfl, rfl, rfl, rfl, rfl, rfl, fun none => ?_, fun ⟨level, event⟩ => ?_,
      fun k other => smpSt_putSmp_of_ne other, rfl, rfl⟩
    · rcases none with h | h <;> simp [capturedRec, h]
    · simp [capturedRec, level, event]
  · rw [exec_dumpSnapshot run, dumpSnap_of_idle idle, bne_self_eq_false, eventDone_false, settled_self]
  · rw [exec_dumpSnapshot run, dumpSnap_of_blocked en due blocked]
  · subst master
    refine ⟨_, exec_dumpSnapshot run true, ?_⟩
    rw [dumpSnap_of_written en due free]
    have parts : (eventDone (raiseEvt (snapshotWritten s) 15) ((raiseEvt (snapshotWritten s) 15).ctrs.dump.nextTick !=
      s.ctrs.dump.nextTick)).parts = s.parts := eventDone_parts ..
    rw [settled_ctrs_dump, settled_ctrs_fixed, settled_cache, settled_mem, settled_ctrs_evt_of_parts parts,
      settled_out_of_parts parts]
    simp only [eventDone_ctrs, eventDone_out, eventDone_cache, eventDone_mem]
    exact ⟨rfl, rfl, rfl, rfl, raiseEvt_ctrs_evt_self _ (by decide), take_raiseEvt_snapshotWritten s 15, rfl, rfl, rfl⟩

end Sys2Proof.Machine
end

section
/-! PROOFS. Every step takes one command (log entries 60, 61), a reset that is held lets nothing act (log entry 54), and what a tick
    of device time changes (log entry 60). -/

namespace Sys2Proof.Machine
open Sys2Proof.Safety

/-- Settles O1: `step` on a queue with a command in front is that command's meaning. -/
theorem stepRunsTheFrontCommand : Obligations.StepRunsTheFrontCommand := by
  unfold Obligations.StepRunsTheFrontCommand
  exact fun _ _ _ => rfl

/-- A step settles its answer against a state from which the front command is gone. -/
theorem step_settles_tail (s : State) : ∃ t, step s = .next (settled { s with pending := s.pending.tail } t) := by
  unfold step
  split
  next empty =>
    refine ⟨tick s, ?_⟩
    rw [show ({ s with pending := s.pending.tail } : State) = s by rw [empty, List.tail_nil, ← empty]]
  next c rest front =>
    rw [front, List.tail_cons]
    exact exec_settles c { s with pending := rest }

/-- Settles O2: the settling that ends every step puts the queue back as the command found it. -/
theorem everyStepTakesOneCommand : Obligations.EveryStepTakesOneCommand := by
  unfold Obligations.EveryStepTakesOneCommand
  refine ⟨⟨fun s => ?_, fun c s => ?_⟩, fun s t answer => ?_⟩
  · obtain ⟨t, settles⟩ := step_settles_tail s
    exact ⟨_, settles⟩
  · obtain ⟨t, settles⟩ := exec_settles c s
    exact ⟨_, settles⟩
  · obtain ⟨u, settles⟩ := step_settles_tail s
    obtain rfl : settled { s with pending := s.pending.tail } u = t := Host.Outcome.next.inj (settles.symm.trans answer)
    exact settled_pending _ u

/-- Every command that is no pin's answers by `finish`. -/
theorem exec_eq_finish {c : Instr} (acts : isPin c = false) (s : State) : ∃ t, exec c s = finish s t := by
  cases c <;> cases acts <;> exact ⟨_, rfl⟩

/-- Every access of a master answers by `finishAt`. -/
theorem exec_eq_finishAt {c : Instr} {a : Master} (access : masterOf c = some a) (s : State) :
    ∃ t, exec c s = finishAt s a t := by
  cases c <;> cases access <;> exact ⟨_, rfl⟩

/-- Settles O5: `finish` drops what a command made while a reset is held, and `finishAt` what an access made while the endpoint is
    not up. -/
theorem nothingActsUnderReset : Obligations.NothingActsUnderReset := by
  unfold Obligations.NothingActsUnderReset
  refine ⟨fun c s reset acts => ?_, fun c s access down => ?_⟩
  · obtain ⟨t, answer⟩ := exec_eq_finish acts s
    rw [answer, finish_of_reset reset, settled_self]
  · obtain ⟨t, answer⟩ := exec_eq_finishAt access s
    rw [answer]
    unfold finishAt finish
    simp [down, settled_self]

/-! A tick of device time. -/

/-- `t` differs from `s` at most in the counters, the vectors that have gone out, the reflected copies and the configuration
    registers: what a tick writes beside device time (R454, R468, R494). -/
def TickFrom (s t : State) : Prop := ∃ c o r g, t = { s with ctrs := c, out := o, refl := r, regs := g }

theorem TickFrom.refl (s : State) : TickFrom s s := ⟨s.ctrs, s.out, s.refl, s.regs, rfl⟩
theorem TickFrom.trans {s t u : State} (first : TickFrom s t) (second : TickFrom t u) : TickFrom s u := by
  obtain ⟨_, _, _, _, rfl⟩ := first
  obtain ⟨c, o, r, g, rfl⟩ := second
  exact ⟨c, o, r, g, rfl⟩
theorem TickFrom.ite {s t u : State} {p : Prop} [Decidable p] (yes : TickFrom s t) (no : TickFrom s u) :
    TickFrom s (if p then t else u) := by
  split
  · exact yes
  · exact no
theorem TickFrom.foldl {α : Type} {f : State → α → State} (each : ∀ s a, TickFrom s (f s a)) (l : List α) (s : State) :
    TickFrom s (l.foldl f s) := List.foldlRecOn l f (.refl s) fun _ before a _ => before.trans (each _ a)

theorem tickFrom_smpCount (s : State) (i n : Nat) : TickFrom s (smpCount s i n) := by
  unfold smpCount
  exact .ite ⟨_, _, _, _, rfl⟩ ⟨_, _, _, _, rfl⟩
theorem tickFrom_condFor (s : State) (e : Nat) (holds : Bool) : TickFrom s (condFor s e holds) := by
  have samples (was : Bool) (u : State) : TickFrom u (if u.ctrs.smp.isEmpty then u else (List.range 8).foldl (fun v i =>
      if smpSees v e none i && holds && ((tget smp0 v.ctrs.smp i).takenMode || !was) then smpCount v i 1 else v) u) :=
    .ite (.refl u) (.foldl (fun v i => .ite (tickFrom_smpCount v i 1) (.refl v)) _ u)
  unfold condFor
  exact TickFrom.trans (.ite ⟨_, _, _, _, rfl⟩ ⟨_, _, _, _, rfl⟩) (samples _ _)
theorem tickFrom_condTick (s : State) (e : Nat) : TickFrom s (condTick s e) := by
  unfold condTick
  exact .ite (.refl s) (.foldl (fun u _ => tickFrom_condFor u e _) _ s)

/-- Device time goes on by one (R511). -/
def timeOn (s : State) : State := { s with now := s.now + 1, boot := { s.boot with upTime := s.boot.upTime + 1 } }
/-- A tick of a running controller that has not taken itself out. -/
theorem tickFrom_tick {s : State} (run : Running s) (inService : s.ctrlOut = false) : TickFrom (timeOn s) (tick s) := by
  have copies (u : State) : TickFrom u (if u.now.toNat % 40 = 0 then refreshCopies u else u) :=
    .ite ⟨_, _, _, _, rfl⟩ (.refl u)
  have busyEnds (u : State) : TickFrom u (if commitBusy u then u else { u with regs := { u.regs with busy := none } }) :=
    .ite (.refl u) ⟨_, _, _, _, rfl⟩
  have counted : TickFrom (timeOn s) _ := ((TickFrom.foldl tickFrom_condTick condEvents _).trans (copies _)).trans (busyEnds _)
  have stays {u : State} (h : TickFrom (timeOn s) u) : (if u.ctrlOut then closePorts u else u) = u := by
    obtain ⟨c, o, r, g, rfl⟩ := h
    exact if_neg (by simp [timeOn, inService])
  have reset : ¬ inReset s = true := by simp [run]
  unfold tick
  rw [if_neg reset]
  exact (stays counted).symm ▸ counted

/-- Settles O6: a tick by whether a reset is held, and then by the frame of its parts. -/
theorem anEmptyQueueTicks : Obligations.AnEmptyQueueTicks := by
  unfold Obligations.AnEmptyQueueTicks
  have ticks (s : State) (empty : s.pending = []) : step s = .next (settled s (tick s)) := by
    unfold step
    rw [empty]
  refine ⟨fun s empty run inService => ⟨_, ticks s empty, ?_⟩, ticks, fun s empty reset => ?_⟩
  · obtain ⟨c, o, r, g, ticked⟩ := tickFrom_tick run inService
    rw [ticked]
    simp [timeOn, empty]
  · have still : tick s = s := if_pos reset
    rw [ticks s empty, still, settled_self]

end Sys2Proof.Machine
end

section
/-! PROOFS. Resets, rails and clocks, and the boot watchdog (R418, R533, R537, R578, R584, R586). -/

namespace Sys2Proof.Machine
open Sys2Proof.Safety

/-! A reset of every island (R533). -/

/-- Every island in its reset state, with start-up as `b` has it. -/
def resetWith (s : State) (b : Boot) : State := { powerReset s with boot := b }

theorem atReset_resetWith (s : State) (b : Boot) : AtReset (resetWith s b) := by
  have keys : netKeys s = { netReset with key0 := (netKeys s).key0, key1 := (netKeys s).key1, activeKey := (netKeys s).activeKey } := by
    unfold netKeys
    split <;> rfl
  unfold AtReset
  exact congrArg (fun n => ({ resetWith s b with net := n } : State)) keys
/-- A reset leaves no snoop that waits (R56). -/
theorem newlyReady_resetWith (s : State) (b : Boot) : newlyReady s (resetWith s b) = [] := by
  unfold newlyReady
  exact List.flatMap_eq_nil_iff.mpr fun _ _ => rfl
/-- No firmware runs that would log what becomes of the partitions (R538), and no event is pending. -/
theorem settled_resetWith (s : State) {b : Boot} (early : b.stage = 0) :
    settled s (resetWith s b) = resetWith s { b with intLow := false } := by
  have unlogged : logParts s (resetWith s b) = resetWith s b := by
    unfold logParts
    have none_ : (resetWith s b).boot.stage.toNat < 3 := by simp [resetWith, early]
    rw [if_pos none_]
    rfl
  have nonePending : decide (ctrsReset.intStatus &&& ctrsReset.intEn ≠ 0) = false := by decide
  unfold settled
  rw [unlogged, newlyReady_resetWith]
  exact congrArg (fun low => resetWith s { b with intLow := low }) nonePending

/-! What the pins, the rails and the clocks make of the state (R533, R578, R586). -/

theorem pwrOkLow_eq (s : State) : pwrOkLow s = resetWith s { bootPins s with pwrOk := false, lostClk := 0 } := rfl
/-- What a system reset keeps of start-up (R533, R584). -/
def bootKept (s : State) (cause : BitVec 2) (attempts : Nat) : Boot :=
  { bootPins s with
    attempts := attempts, cause := cause, log := s.boot.log, logPos := s.boot.logPos, logRecs := s.boot.logRecs
    logSeq := s.boot.logSeq, logUnread := s.boot.logUnread, railTrip := s.boot.railTrip, thermtrip := s.boot.thermtrip }
theorem systemReset_eq (s : State) (cause : BitVec 2) (attempts : Nat) :
    systemReset s cause attempts = resetWith s (bootKept s cause attempts) := rfl
theorem sysRstLow_of_running {s : State} (run : Running s) :
    sysRstLow s = resetWith s { bootKept s 1 s.boot.attempts with sysRst := false } := by
  have act : ¬ inReset s = true := by simp [run]
  unfold sysRstLow
  rw [if_neg act]
  rfl
theorem sysRstLow_of_reset {s : State} (reset : inReset s = true) :
    sysRstLow s = { s with boot := { s.boot with sysRst := false } } := by
  unfold sysRstLow
  rw [if_pos reset]
theorem railFalls_of_on {s : State} (on : s.boot.pwrOk = true) :
    railFalls s = resetWith s { bootPins s with railTrip := true } := by
  unfold railFalls
  simp only [on, Bool.not_true, Bool.false_eq_true, if_false]
  rfl
theorem railFalls_of_off {s : State} (off : s.boot.pwrOk = false) : railFalls s = s := by
  unfold railFalls
  simp [off]
theorem clkLost_core (s : State) {c : Refclk} (core : c ≠ .r156) :
    clkLost s c = resetWith s { bootPins s with lostClk := setBit s.boot.lostClk (clkBit c) true } := if_neg core
theorem clkReturn_of_there {s : State} {c : Refclk} (there : s.boot.lostClk.getLsbD (clkBit c) = false) : clkReturn s c = s := by
  unfold clkReturn
  simp [there]
theorem clkReturn_core {s : State} {c : Refclk} (core : c ≠ .r156) (lost : s.boot.lostClk.getLsbD (clkBit c) = true) :
    clkReturn s c = { s with boot := { s.boot with lostClk := setBit s.boot.lostClk (clkBit c) false, upTime := 0 } } := by
  unfold clkReturn
  simp only [lost, Bool.not_true, Bool.false_eq_true, if_false, if_neg core]
  rfl
theorem clkReturn_ring {s : State} (lost : s.boot.lostClk.getLsbD 2 = true) :
    clkReturn s .r156 = if inReset s then setClk s .r156 false else linkEvent (allRing.foldl trainAgain (setClk s .r156 false)) := by
  have was : s.boot.lostClk.getLsbD (clkBit .r156) = true := lost
  unfold clkReturn
  simp only [was, Bool.not_true, Bool.false_eq_true, if_false, if_true]
theorem mgmtReset_of_running {s : State} (run : Running s) (k : MgmtReset) : mgmtReset s k =
    { s with
      lan := (flushRpl (flushCmd s .host) .host).lan
      ctrs := { s.ctrs with evtEn := 0 }
      boot := { s.boot with perst := s.boot.perst && k != .perst } } := by
  have act : ¬ inReset s = true := by simp [run]
  unfold mgmtReset
  rw [if_neg act]
  rfl
theorem mbxSt_mgmtReset {s : State} (run : Running s) (k : MgmtReset) (m : Mailbox) :
    mbxSt (mgmtReset s k) m = mbxSt (flushRpl (flushCmd s .host) .host) m := by
  rw [mgmtReset_of_running run]
  rfl
theorem mgmtReset_of_reset {s : State} (reset : inReset s = true) (k : MgmtReset) : mgmtReset s k =
    { s with boot := { s.boot with perst := s.boot.perst && k != .perst } } := by
  unfold mgmtReset
  rw [if_pos reset]

theorem inReset_of_lostClk {s : State} {v : BitVec 3} {c : Refclk} (core : c ≠ .r156)
    (lost : s.boot.lostClk = setBit v (clkBit c) true) : inReset s = true := by
  unfold inReset
  cases c with
  | r25 =>
    have held : s.boot.lostClk.getLsbD 0 = true := lost ▸ getLsbD_setBit_self v (by decide)
    rw [held, Bool.or_true, Bool.true_or]
  | r100 =>
    have held : s.boot.lostClk.getLsbD 1 = true := lost ▸ getLsbD_setBit_self v (by decide)
    rw [held, Bool.or_true]
  | r156 => exact absurd rfl core

/-- Settles O8: each command by whether a reset is held; where it resets the islands, by the state that the reset leaves. -/
theorem resetsReturnTheController : Obligations.ResetsReturnTheController := by
  unfold Obligations.ResetsReturnTheController
  refine ⟨⟨fun s => ⟨_, rfl, ?_⟩, fun s run => ⟨_, rfl, ?_⟩, fun s reset => ?_, fun s on => ⟨_, rfl, ?_⟩, fun s off => ?_,
      fun s c core => ⟨_, rfl, ?_⟩, fun s run => ?_, fun s reset => ?_, fun s c core lost => ⟨_, rfl, ?_⟩, fun s run lost => ?_,
      fun s reset lost => ?_, fun s c there => ?_, fun s => ⟨_, rfl, ?_⟩, fun s => ⟨_, rfl, ?_⟩, fun s => ⟨_, rfl, ?_⟩⟩,
    ⟨fun s k run => ⟨_, rfl, ?_⟩, fun s k reset => ?_⟩,
    fun s => ⟨rfl, rfl, fun _ => rfl, rfl, fun _ => rfl, fun _ => rfl, fun _ => rfl⟩⟩
  · rw [pwrOkLow_eq, settled_resetWith s rfl]
    exact ⟨atReset_resetWith .., rfl, rfl, rfl, rfl, rfl⟩
  · rw [sysRstLow_of_running run, settled_resetWith s rfl]
    exact ⟨atReset_resetWith .., rfl, by simp [inReset, resetWith], rfl, rfl, rfl, rfl, rfl, rfl, rfl, rfl, rfl⟩
  · exact next_settled_congr s (sysRstLow_of_reset reset)
  · rw [railFalls_of_on on, settled_resetWith s rfl]
    exact ⟨atReset_resetWith .., rfl, by simp [inReset, resetWith], rfl⟩
  · rw [← settled_self s]
    exact next_settled_congr s (railFalls_of_off off)
  · rw [clkLost_core s core, settled_resetWith s rfl]
    exact ⟨atReset_resetWith .., rfl, inReset_of_lostClk core rfl, rfl⟩
  · refine next_settled_congr s ?_
    simp [clkLost, run]
  · refine next_settled_congr s ?_
    simp [clkLost, reset]
  · rw [clkReturn_core core lost]
    simp
  · refine next_settled_congr s ?_
    simp [clkReturn_ring lost, run]
  · refine next_settled_congr s ?_
    simp [clkReturn_ring lost, reset]
  · rw [← settled_self s]
    exact next_settled_congr s (clkReturn_of_there there)
  · simp [pinHigh]
  · simp [pinHigh]
  · simp [pinHigh]
  · have kept : (mgmtReset s k).parts = s.parts := by rw [mgmtReset_of_running run]
    rw [settled_ctrs_evt_of_parts kept]
    simp only [mbxSt_settled, settled_ctrs_evtEn, settled_ctrs_trouble, settled_lan, settled_boot_perst, settled_cache, settled_home,
      settled_mem, settled_parts, settled_ports, settled_net, settled_beams, settled_pwr, settled_regs]
    simp only [mbxSt_mgmtReset run, mbxSt_flushRpl_self, mbxSt_flushCmd_self, true_and]
    rw [mgmtReset_of_running run]
    refine ⟨rfl, fun m other => ?_, rfl, rfl, rfl, rfl, rfl, rfl, rfl, rfl, rfl, rfl, rfl, rfl, rfl⟩
    rw [mbxSt_flushRpl_of_ne _ other, mbxSt_flushCmd_of_ne _ other]
  · exact next_settled_congr s (mgmtReset_of_reset reset k)

/-! The boot watchdog (R537). -/

/-- Settles O10: by whether start-up has ended, or 10 s have not passed. -/
theorem bootWatchdogResets : Obligations.BootWatchdogResets := by
  unfold Obligations.BootWatchdogResets
  refine ⟨fun s run unready goesOn late => ?_, fun s idle => ?_⟩
  · have resets : watchdog s = resetWith s (bootKept s 2 (s.boot.attempts + 1)) := by
      unfold watchdog
      rw [if_neg (by simp [unready, goesOn, late])]
      exact systemReset_eq s 2 _
    refine ⟨_, finish_of_running run _, ?_⟩
    rw [resets, settled_resetWith s rfl]
    exact ⟨atReset_resetWith .., rfl, rfl, rfl⟩
  · have still : watchdog s = s := by
      unfold watchdog
      rw [if_pos (by simpa [or_assoc] using idle)]
    have answer : exec .bootWatchdog s = finish s (watchdog s) := rfl
    rw [answer, still, finish_self]

end Sys2Proof.Machine
end

section
/-! PROOFS. Start-up, step by step, to READY (R535, R536, R538, R548). -/

namespace Sys2Proof.Machine
open Sys2Proof.Safety

/-! Records in the firmware log (R434, R556). -/

/-- `t` is `s` with records in the firmware log, events raised, and what goes out with them: no other register, and no memory. -/
def Logged (s t : State) : Prop :=
  ∃ l p r q u c o, (∀ v, s.ctrs.evt.getLsbD v = true → c.evt.getLsbD v = true) ∧
    t = { s with boot := { s.boot with log := l, logPos := p, logRecs := r, logSeq := q, logUnread := u }, ctrs := c, out := o }

theorem Logged.refl (s : State) : Logged s s := ⟨_, _, _, _, _, _, _, fun _ held => held, rfl⟩
theorem Logged.trans {s t u : State} (first : Logged s t) (second : Logged t u) : Logged s u := by
  obtain ⟨_, _, _, _, _, _, _, kept, rfl⟩ := first
  obtain ⟨l, p, r, q, n, c, o, keeps, rfl⟩ := second
  exact ⟨l, p, r, q, n, c, o, fun v held => keeps v (kept v held), rfl⟩
theorem logged_raiseEvt (s : State) {v : Nat} (event : v < 32) : Logged s (raiseEvt s v) := by
  refine ⟨_, _, _, _, _, _, _, fun w held => ?_, rfl⟩
  refine (getLsbD_setBit s.ctrs.evt event true w).trans ?_
  split
  · rfl
  · exact held
theorem logged_logAdd (s : State) (code : BitVec 8) (ws : List Word) : Logged s (logAdd s code ws) := by
  unfold logAdd
  dsimp only
  split
  · exact .trans ⟨_, _, _, _, _, _, _, fun _ held => held, rfl⟩ (logged_raiseEvt _ (by decide))
  · exact ⟨_, _, _, _, _, _, _, fun _ held => held, rfl⟩
theorem Logged.keeps_evt {s t : State} (logged : Logged s t) {v : Nat} (held : s.ctrs.evt.getLsbD v = true) :
    t.ctrs.evt.getLsbD v = true := by
  obtain ⟨_, _, _, _, _, _, _, keeps, rfl⟩ := logged
  exact keeps v held
theorem logged_bootStageDone (s : State) (n : BitVec 4) :
    Logged { s with boot := { s.boot with stage := n } } (bootStageDone s n) := logged_logAdd ..
theorem logged_bootError (s : State) (code : BitVec 8) (what : Word) :
    Logged { s with boot := { s.boot with bootErr := if s.boot.bootErr = 0 then code else s.boot.bootErr } } (bootError s code what) :=
  logged_logAdd ..
theorem logged_bootRecord (s : State) : Logged s (bootRecord s) := logged_logAdd ..

/-! Firmware (R538, R543, R544). -/

/-- The checks of images leave no more than their records. -/
theorem logged_chooseFw (s : State) : Logged s (chooseFw s).1 := by
  have tried (u : State) (b : Bool) : Logged u (tryImage u b).1 := logged_logAdd ..
  unfold chooseFw
  dsimp only
  split
  · split
    · exact tried s false
    · exact (tried s false).trans (tried _ true)
  · split
    · exact tried s true
    · exact .refl s
theorem bootFw_of_none {s : State} (none_ : (chooseFw s).2 = none) : bootFw s =
    bootStop (bootRecord (bootError
      { (chooseFw s).1 with boot := { (chooseFw s).1.boot with recovery := true } } 2 0)) := by
  unfold bootFw
  split
  next t chosen => rw [chosen]
  next t b chosen => simp [chosen] at none_
theorem bootFw_of_some {s : State} {b : Bool} (some_ : (chooseFw s).2 = some b) : bootFw s =
    bootStageDone (if b then bootError (bootRecord (runFw (chooseFw s).1 b)) 1 0 else bootRecord (runFw (chooseFw s).1 b)) 3 := by
  unfold bootFw
  split
  next t chosen => simp [chosen] at some_
  next t c chosen =>
    obtain rfl : c = b := by simpa [chosen] using some_
    rw [chosen]
/-- Sections go to the memories of Lantern and the engines. -/
theorem fwLoad_frame (s : State) (a : Nat) : ∃ l m, fwLoad s a = { s with mem := { s.mem with lantern := l }, engMem := m } := by
  unfold fwLoad
  refine List.foldlRecOn (motive := fun (t : State) => ∃ l m, t = { s with mem := { s.mem with lantern := l }, engMem := m }) _ _
    ⟨s.mem.lantern, s.engMem, rfl⟩ ?_
  rintro _ ⟨l, m, rfl⟩ k _
  refine List.foldlRecOn (motive := fun (t : State) => ∃ l m, t = { s with mem := { s.mem with lantern := l }, engMem := m }) _ _ ?_ ?_
  · dsimp only
    split <;> exact ⟨_, _, rfl⟩
  · rintro _ ⟨l, m, rfl⟩ e _
    exact ⟨_, _, rfl⟩
/-- The image that runs is named in the registers of start-up. -/
theorem runFw_frame (s : State) (b : Bool) : ∃ l m svn raises digest sections, runFw s b =
    { s with
      mem := { s.mem with lantern := l }, engMem := m
      boot := { s.boot with
        fwB := b, version := norWord s (norFw b) 3, runSvn := svn, raiseSvn := raises, runDigest := digest, runSect := sections } } := by
  obtain ⟨l, m, loaded⟩ := fwLoad_frame s (norFw b)
  unfold runFw
  dsimp only
  rw [loaded]
  exact ⟨_, _, _, _, _, _, rfl⟩

/-- In recovery start-up stops, with its code in BOOT_ERR where none stood (R538, R539). -/
theorem bootFw_frame_of_none {s : State} (none_ : (chooseFw s).2 = none) : ∃ u, bootFw s = bootStop u ∧
    Logged { s with boot := { s.boot with recovery := true, bootErr := if s.boot.bootErr = 0 then 2 else s.boot.bootErr } } u := by
  refine ⟨_, bootFw_of_none none_, .trans ?_ (logged_bootRecord _)⟩
  have checked := logged_chooseFw s
  generalize (chooseFw s).1 = t at checked
  have failed := logged_bootError { t with boot := { t.boot with recovery := true } } 2 0
  obtain ⟨l, p, r, q, n, c, o, keeps, rfl⟩ := checked
  exact Logged.trans ⟨l, p, r, q, n, c, o, keeps, rfl⟩ failed
theorem bootFw_frame_of_some {s : State} {b : Bool} (some_ : (chooseFw s).2 = some b) : ∃ l m svn raises digest sections e,
    Logged { s with
      mem := { s.mem with lantern := l }, engMem := m
      boot := { s.boot with
        fwB := b, version := norWord s (norFw b) 3, runSvn := svn, raiseSvn := raises, runDigest := digest, runSect := sections
        bootErr := e, stage := 3 } } (bootFw s) := by
  rw [bootFw_of_some some_]
  have checked := logged_chooseFw s
  generalize (chooseFw s).1 = t at checked
  obtain ⟨l, m, svn, raises, digest, sections, runs⟩ := runFw_frame t b
  have recorded := logged_bootRecord (runFw t b)
  generalize bootRecord (runFw t b) = u at recorded
  obtain ⟨e, noted⟩ : ∃ e, Logged { u with boot := { u.boot with bootErr := e } } (if b then bootError u 1 0 else u) := by
    split
    · exact ⟨_, logged_bootError u 1 0⟩
    · exact ⟨_, .refl u⟩
  generalize (if b then bootError u 1 0 else u) = v at noted
  have done := logged_bootStageDone v 3
  rw [runs] at recorded
  refine ⟨l, m, svn, raises, digest, sections, e, Logged.trans ?_ done⟩
  obtain ⟨_, _, _, _, _, _, _, kept, rfl⟩ := checked
  obtain ⟨_, _, _, _, _, _, _, keeps, rfl⟩ := recorded
  obtain ⟨_, _, _, _, _, _, _, holds, rfl⟩ := noted
  exact ⟨_, _, _, _, _, _, _, fun v held => holds v (keeps v (kept v held)), rfl⟩

/-! READY (R534, R538, R545). -/

/-- The state in which start-up has ended: READY, stage 8, the attempts forgotten, and the fuse floor `f`. -/
def readied (s : State) (f : BitVec 8) : State :=
  { s with boot := { s.boot with ready := true, attempts := 0, stage := 8, svnFloor := f } }
/-- READY is logged, and raised as event BOOT. -/
def announced (s : State) : State := raiseEvt (bootStageDone { s with boot := { s.boot with ready := true, attempts := 0 } } 8) 14
/-- The fuse floor rises to that of the running image, where its header asks for that (R545). -/
def floorRaised (s : State) : State :=
  if s.boot.raiseSvn && decide (s.boot.svnFloor < s.boot.runSvn) then
    logAdd { s with boot := { s.boot with svnFloor := s.boot.runSvn } } 0x07 [fieldAt s.boot.runSvn 0]
  else s
/-- The init flits of the ports whose links are up go out (R322, R534). -/
def initFlits (s : State) : State :=
  (List.range 8).foldl (fun (s : State) n =>
    let p : PortId := BitVec.ofNat 3 n
    if (portSt s p).ltssm = .l0 then { s with out := s.out ++ [.flitInit p] } else s) s
theorem bootReady_eq (s : State) : bootReady s = initFlits (floorRaised (announced s)) := rfl

theorem logged_announced (s : State) : Logged (readied s s.boot.svnFloor) (announced s) :=
  (logged_bootStageDone { s with boot := { s.boot with ready := true, attempts := 0 } } 8).trans
    (logged_raiseEvt (v := 14) _ (by decide))
theorem announced_event (s : State) : (announced s).ctrs.evt.getLsbD 14 = true := raiseEvt_ctrs_evt_self (v := 14) _ (by decide)
theorem logged_floorRaised (s : State) :
    ∃ f, Logged { s with boot := { s.boot with svnFloor := f } } (floorRaised s) := by
  unfold floorRaised
  split
  · exact ⟨_, logged_logAdd ..⟩
  · exact ⟨_, .refl s⟩
theorem logged_initFlits (s : State) : Logged s (initFlits s) := by
  refine List.foldlRecOn (motive := fun (t : State) => Logged s t) _ _ (.refl s) fun t logged n _ => logged.trans ?_
  dsimp only
  split
  · exact ⟨_, _, _, _, _, _, _, fun _ held => held, rfl⟩
  · exact .refl t
/-- Beside the records and the init flits, the fuse floor may rise; event BOOT stands. -/
theorem bootReady_frame (s : State) : ∃ f, Logged (readied s f) (bootReady s) ∧ (bootReady s).ctrs.evt.getLsbD 14 = true := by
  have begun := logged_announced s
  have event := announced_event s
  rw [bootReady_eq]
  generalize announced s = t at begun event
  obtain ⟨f, raised⟩ := logged_floorRaised t
  have ends := raised.trans (logged_initFlits _)
  refine ⟨f, .trans ?_ ends, ends.keeps_evt event⟩
  obtain ⟨l, p, r, q, u, c, o, keeps, rfl⟩ := begun
  exact ⟨l, p, r, q, u, c, o, keeps, rfl⟩

/-! Memories and the configuration (R404, R410, R536, R548). -/

theorem bootMem_stopped {s : State} {r : StepReport} (lost : (trainedBy s r).hbmOk = 0) : (bootMem s r).boot.stopped = true := by
  unfold bootMem
  dsimp only
  rw [if_pos lost]
  rfl
theorem bootMem_done {s : State} {r : StepReport} (stack : (trainedBy s r).hbmOk ≠ 0) : (bootMem s r).boot.stage = 4 := by
  unfold bootMem
  dsimp only
  rw [if_neg stack]
  exact logAdd_boot_stage ..
theorem bootConfig_of_none {s : State} (begins : s.boot.apply = none) (none_ : baseImage s = none) :
    bootConfig s = bootStop (bootError s 3 0) := by
  unfold bootConfig
  simp only [begins, none_]
theorem bootConfig_of_image {s : State} {i : CfgImage} (begins : s.boot.apply = none) (image : baseImage s = some i) :
    bootConfig s = bootBase (takeId s i.ctrlId) (applyJob i true) := by
  unfold bootConfig
  simp only [begins, image]

/-! The time (R535). -/

section Time
variable {s : State}

theorem bootSync_of_locked (inStep : (syncStatus s false).net.syncLocked = true ∨ (syncStatus s false).net.syncIsMaster = true)
    (limit : Bool) : bootSync s limit = bootStageDone (syncStatus s false) 7 := if_pos ((Bool.or_eq_true ..).mpr inStep)
theorem bootSync_of_late
    (out : ¬ ((syncStatus s false).net.syncLocked = true ∨ (syncStatus s false).net.syncIsMaster = true)) (limit : Bool) :
    bootSync s limit =
      if limit then bootStageDone (raiseEvt (bootError (syncStatus s false) 8 0) 13) 7 else syncStatus s false :=
  if_neg fun locked => out ((Bool.or_eq_true ..).mp locked)
theorem bootStep_of_sync (goesOn : s.boot.stopped = false) (unready : s.boot.ready = false) (at_ : s.boot.stage = 6) (r : StepReport) :
    bootStep s r = bootSync s r.syncLimit := by simp [bootStep, goesOn, unready, at_]
end Time

section Commands
variable {s : State} (run : Running s)
include run

theorem exec_startupStepDone (r : StepReport) : exec (.startupStepDone r) s = .next (settled s (bootStep s r)) :=
  finish_of_running run _
end Commands

/-- Settles O9: each stage by what its step finds, and the stages that have ended. -/
theorem startupAdvances : Obligations.StartupAdvances := by
  unfold Obligations.StartupAdvances
  refine ⟨fun s r run goesOn unready early => ⟨_, exec_startupStepDone run r, ?_⟩,
    fun s r run goesOn unready at_ => ⟨_, exec_startupStepDone run r, ?_⟩,
    fun s r run goesOn unready at_ => ⟨fun none_ => ?_, fun b some_ => ?_⟩,
    fun s r run goesOn unready at_ => ⟨fun lost => ?_, fun stack => ?_⟩,
    fun s r run goesOn unready at_ begins => ⟨fun none_ => ?_, fun i some_ => ?_⟩, fun s r run goesOn unready at_ => ?_,
    fun s r run goesOn unready at_ => ⟨fun inStep => ?_, fun out limit => ?_, fun out early => ?_⟩, fun s r ended => ?_,
    fun s run => exec_startupStepDone run⟩
  · have step : bootStep s r = bootStageDone s (s.boot.stage + 1) := by
      obtain first | second : s.boot.stage = 0 ∨ s.boot.stage = 1 := by bv_omega
      · simp [bootStep, goesOn, unready, first]
      · simp [bootStep, goesOn, unready, second]
    rw [step]
    simp [bootStageDone]
  · have step : bootStep s r = bootReady s := by simp [bootStep, goesOn, unready, at_]
    obtain ⟨f, ⟨l, p, rs, q, u, c, o, keeps, ends⟩, event⟩ := bootReady_frame s
    rw [step, settled_ctrs_evt_of_parts (by rw [ends]; rfl)]
    rw [settled_boot_stage, settled_boot_ready, settled_boot_attempts, settled_cache, settled_home, settled_mem, settled_parts]
    rw [ends] at event ⊢
    exact ⟨rfl, rfl, rfl, event, rfl, rfl, rfl, rfl⟩
  · have step : bootStep s r = bootFw s := by simp [bootStep, goesOn, unready, at_]
    obtain ⟨_, stops, l, p, rs, q, u, c, o, keeps, rfl⟩ := bootFw_frame_of_none none_
    refine ⟨_, exec_startupStepDone run r, ?_⟩
    rw [step, stops]
    simp [bootStop, at_]
  · have step : bootStep s r = bootFw s := by simp [bootStep, goesOn, unready, at_]
    obtain ⟨lm, m, svn, raises, digest, sections, e, l, p, rs, q, u, c, o, keeps, runs⟩ := bootFw_frame_of_some some_
    refine ⟨_, exec_startupStepDone run r, ?_⟩
    rw [step, runs]
    simp [goesOn]
  · have step : bootStep s r = bootMem s r := by simp [bootStep, goesOn, unready, at_]
    exact ⟨_, exec_startupStepDone run r, by rw [settled_boot_stopped, step, bootMem_stopped lost]⟩
  · have step : bootStep s r = bootMem s r := by simp [bootStep, goesOn, unready, at_]
    exact ⟨_, exec_startupStepDone run r, by rw [settled_boot_stage, step, bootMem_done stack]⟩
  · have step : bootStep s r = bootConfig s := by simp [bootStep, goesOn, unready, at_]
    refine ⟨_, exec_startupStepDone run r, ?_⟩
    rw [step, bootConfig_of_none begins none_]
    simp [bootStop, bootError, at_]
  · have step : bootStep s r = bootConfig s := by simp [bootStep, goesOn, unready, at_]
    rw [exec_startupStepDone run, step, bootConfig_of_image begins some_]
  · have step : bootStep s r = bootStageDone (linkEvent (startCensus s false)) 6 := by simp [bootStep, goesOn, unready, at_]
    rw [exec_startupStepDone run, step]
  · rw [exec_startupStepDone run, bootStep_of_sync goesOn unready at_, bootSync_of_locked inStep]
  · rw [exec_startupStepDone run, bootStep_of_sync goesOn unready at_, bootSync_of_late out, if_pos limit]
  · rw [exec_startupStepDone run, bootStep_of_sync goesOn unready at_, bootSync_of_late out, if_neg (Bool.eq_false_iff.mp early)]
  · have still : bootStep s r = s := if_pos (by simpa using ended)
    have answer : exec (.startupStepDone r) s = finish s (bootStep s r) := rfl
    rw [answer, still, finish_self]

end Sys2Proof.Machine
end

section
/-! PROOFS. The throttling level, the trip and the backstop (R525-R531, R584). -/

namespace Sys2Proof.Machine
open Sys2Proof.Safety

/-! What a change of the level leaves as it is (R276, R512, R528). -/

/-- A slice clock, and its ramp, and nothing else. -/
theorem setClock_frame (s : State) (n : SliceId) :
    ∃ h r, setClock s n = { s with pwr := { s.pwr with mhz := h, ramp := r } } := by
  unfold setClock
  dsimp only
  split <;> exact ⟨_, _, rfl⟩
theorem setClocks_frame (s : State) : ∃ h r, setClocks s = { s with pwr := { s.pwr with mhz := h, ramp := r } } := by
  refine List.foldlRecOn (motive := fun (t : State) => ∃ h r, t = { s with pwr := { s.pwr with mhz := h, ramp := r } }) _ _
    ⟨s.pwr.mhz, s.pwr.ramp, rfl⟩ ?_
  rintro _ ⟨_, _, rfl⟩ n _
  obtain ⟨h, r, set⟩ := setClock_frame _ (BitVec.ofNat 4 n)
  exact ⟨h, r, set⟩
/-- A re-check writes its beam, and may raise an event. -/
theorem recheckBeam_frame (s : State) (x : BitVec 8) : ∃ m c o, recheckBeam s x = { s with beams := m, ctrs := c, out := o } := by
  unfold recheckBeam
  dsimp only
  split
  · exact ⟨_, _, _, rfl⟩
  · split <;> exact ⟨_, _, _, rfl⟩
theorem recheck_frame (s : State) : ∃ m c o, recheck s = { s with beams := m, ctrs := c, out := o } := by
  refine List.foldlRecOn (motive := fun (t : State) => ∃ m c o, t = { s with beams := m, ctrs := c, out := o }) _ _
    ⟨s.beams, s.ctrs, s.out, rfl⟩ ?_
  rintro _ ⟨_, _, _, rfl⟩ e _
  obtain ⟨m, c, o, checked⟩ := recheckBeam_frame _ e.1
  exact ⟨m, c, o, checked⟩
/-- A change of the level starts the windows anew, sets the clocks, is logged, and may re-check the beams (R528, R531). -/
theorem setLevel_frame {s : State} {v : BitVec 3} (changes : v ≠ s.pwr.level) : ∃ h r m b c o, setLevel s v =
    { s with
      pwr := { s.pwr with level := v, windows := 0, mhz := h, ramp := r }, beams := m, boot := b, ctrs := c, out := o } := by
  obtain ⟨h, r, clocks⟩ := setClocks_frame { s with pwr := { s.pwr with level := v, windows := 0 } }
  obtain ⟨_, _, _, _, _, c, o, _, logged⟩ := logged_logAdd (setClocks { s with pwr := { s.pwr with level := v, windows := 0 } })
    0x0B [s.pwr.level.setWidth 32, v.setWidth 32]
  unfold setLevel
  rw [if_neg changes]
  dsimp only
  rw [logged, clocks]
  split
  · obtain ⟨m, c, o, checked⟩ := recheck_frame _
    exact ⟨h, r, m, _, c, o, checked⟩
  · exact ⟨h, r, s.beams, _, c, o, rfl⟩

/-! The trip and the backstop (R530, R584). -/

theorem trip_of_cool (s : State) {tj : BitVec 8} (cool : celsius tj < 125) : trip s tj = s := if_pos cool
theorem trip_of_hot (s : State) {tj : BitVec 8} (hot : 125 ≤ celsius tj) : trip s tj =
    { s with boot := { s.boot with thermtrip := true }, pwr := { s.pwr with tj := tj, tjMax := hotter s.pwr.tjMax tj } } :=
  if_neg (Int.not_lt.mpr hot)
theorem backstop_of_cool (s : State) {tj : BitVec 8} (cool : celsius tj < gradeTj + 10) : backstop s tj = s := if_pos cool
/-- The reading of the backstop, before the level. -/
def backstopRead (s : State) (tj : BitVec 8) : State :=
  { s with pwr := { s.pwr with tj := tj, tjMax := hotter s.pwr.tjMax tj, backstop := true } }
theorem backstop_of_hot (s : State) {tj : BitVec 8} (hot : (gradeTj : Int) + 10 ≤ celsius tj) : backstop s tj =
    raiseEvt (if s.pwr.level.toNat < 5 then setLevel (backstopRead s tj) 5 else backstopRead s tj) 11 :=
  if_neg (Int.not_lt.mpr hot)

section Commands
variable {s : State} (run : Running s)
include run

theorem exec_thermtrip (tj : BitVec 8) : exec (.thermtrip tj) s = .next (settled s (trip s tj)) := finish_of_running run _
theorem exec_thermalBackstop (tj : BitVec 8) : exec (.thermalBackstop tj) s = .next (settled s (backstop s tj)) :=
  finish_of_running run _
end Commands

/-- Settles O11: by whether the reading is hot enough, and for the backstop by whether the level is below 5. -/
theorem tripAndBackstopLatch : Obligations.TripAndBackstopLatch := by
  unfold Obligations.TripAndBackstopLatch
  refine ⟨⟨fun s tj run hot => ?_, fun s tj cool => ?_, fun s low => ⟨_, rfl, ?_⟩⟩,
    fun s tj run => ⟨fun cool => ?_, fun hot high => ?_, fun hot low => ⟨_, exec_thermalBackstop run tj, ?_⟩⟩,
    fun s run => ⟨exec_thermtrip run, exec_thermalBackstop run⟩⟩
  · rw [exec_thermtrip run, trip_of_hot s hot]
  · have answer : exec (.thermtrip tj) s = finish s (trip s tj) := rfl
    rw [answer, trip_of_cool s cool, finish_self]
  · rw [settled_boot_thermtrip]
    cases held : inReset s with
    | true => rw [sysRstLow_of_reset held, low]
    | false =>
      rw [sysRstLow_of_running held]
      exact low
  · rw [exec_thermalBackstop run, backstop_of_cool s cool, settled_self]
  · rw [exec_thermalBackstop run, backstop_of_hot s hot, if_neg (Nat.not_lt.mpr high)]
    rfl
  · have changes : (5 : BitVec 3) ≠ (backstopRead s tj).pwr.level := fun same => by
      have five : s.pwr.level.toNat = 5 := congrArg BitVec.toNat same.symm
      omega
    obtain ⟨h, r, m, b, c, o, level⟩ := setLevel_frame changes
    have same : (backstop s tj).parts = s.parts := by
      rw [backstop_of_hot s hot, if_pos low, level]
      rfl
    rw [settled_ctrs_evt_of_parts same, settled_pwr, settled_cache, settled_home, settled_mem, settled_net, settled_ports,
      settled_parts, backstop_of_hot s hot, if_pos low, level]
    exact ⟨rfl, raiseEvt_ctrs_evt_self _ (by decide), rfl, rfl, rfl, rfl, rfl, rfl, rfl, rfl, rfl⟩

end Sys2Proof.Machine
end

section
/-! PROOFS. Slice clocks (R512, R513, R527), and how domains enter and leave sleep (R514, R517, R520). -/

namespace Sys2Proof.Machine
open Sys2Proof.Safety

/-! Slice clocks. -/

/-- The clock that a window chooses for a slice (R513). -/
def clockChoice (s : State) (n : SliceId) (lookups cycles : Word) : BitVec 12 :=
  if 75 * cycles.toNat < 100 * lookups.toNat then 2200
  else if 100 * lookups.toNat < 10 * cycles.toNat ∧ beamInSlice s n = false then 1600 else 2000
/-- The choice is noted before the clock follows it. -/
def chosen (s : State) (n : SliceId) (f : BitVec 12) : State :=
  { s with pwr := { s.pwr with choice := tset 2000 s.pwr.choice n.toNat f } }

theorem mhzChoice_chosen (s : State) (n : SliceId) (f : BitVec 12) : mhzChoice (chosen s n f) n = f.toNat :=
  congrArg BitVec.toNat (tget_tset_self ..)
theorem dvfs_eq (s : State) (n : SliceId) (lookups cycles : Word) :
    dvfs s n lookups cycles = setClock (chosen s n (clockChoice s n lookups cycles)) n := by
  unfold dvfs clockChoice
  simp only [Bool.not_eq_true]
  rfl

section Clock
variable {s : State} {n : SliceId}

/-- Down at once. -/
theorem setClock_down (down : min (mhzChoice s n) (capMhz s.pwr.level) ≤ mhzOf s n) : setClock s n =
    { s with pwr := { s.pwr with
      mhz := tset 2000 s.pwr.mhz n.toNat (BitVec.ofNat 12 (min (mhzChoice s n) (capMhz s.pwr.level)))
      ramp := tset 0 s.pwr.ramp n.toNat 0 } } := if_pos down
/-- Up after a ramp. -/
theorem setClock_up (up : mhzOf s n < min (mhzChoice s n) (capMhz s.pwr.level)) : setClock s n =
    { s with pwr := { s.pwr with
      ramp := tset 0 s.pwr.ramp n.toNat (BitVec.ofNat 12 (min (mhzChoice s n) (capMhz s.pwr.level))) } } :=
  if_neg (Nat.not_le.mpr up)
theorem rampDone_of_none (none_ : tget 0 s.pwr.ramp n.toNat = 0) : rampDone s n = s := if_pos none_
theorem rampDone_of_ramp (ramp : tget 0 s.pwr.ramp n.toNat ≠ 0) : rampDone s n =
    { s with pwr := { s.pwr with
      mhz := tset 2000 s.pwr.mhz n.toNat (tget 0 s.pwr.ramp n.toNat), ramp := tset 0 s.pwr.ramp n.toNat 0 } } := if_neg ramp
end Clock

@[simp] theorem mhzOf_settled (s t : State) (n : SliceId) : mhzOf (settled s t) n = mhzOf t n := by
  unfold mhzOf
  rw [settled_pwr]

/-! Domains. -/

section Domain
variable {s : State} {d : Nat}

/-- The domain of an unconnected port rests in A3, so that any other is wired (R11). -/
theorem wired_of_domSt_ne (other : domSt s d ≠ { dom0 with state := 3 }) : unwiredDom s d = false := by
  rw [← Bool.not_eq_true]
  exact fun off => other (if_pos off)

theorem idleEntry_of_idle (on : d ≠ 61) (idle : domWork s d = false) (awake : (domSt s d).state = 0)
    (stays : (domSt s d).entering = none) : idleEntry s d = putDom s d { domSt s d with state := 1 } := by
  unfold idleEntry
  simp [on, idle, awake, stays]
theorem idleEntry_of_work (work : domWork s d = true) : idleEntry s d = s := by
  unfold idleEntry
  simp [work]

theorem entryDone_of_cost {start : Tick} (entering : (domSt s d).entering = some (2, start)) (idle : domWork s d = false)
    (passed : start.toNat + 500 ≤ s.now.toNat) (none_ : nextEvent s d = none) :
    entryDone s d = putDom s d { domSt s d with state := 2, entering := none, alarm := none } := by
  have late : ¬ s.now.toNat < start.toNat + entryCost (2 : BitVec 2).toNat := Nat.not_lt.mpr passed
  have noAlarm : alarmOf s d 2 = none := by rw [alarmOf, none_, Option.map_none]
  unfold entryDone
  simp only [entering, idle, Bool.false_eq_true, if_false, if_neg late, noAlarm]
  rfl
/-- An entry is given up where work has come, and counted (R517). -/
theorem entryDone_of_work {st : BitVec 2} {start : Tick} (entering : (domSt s d).entering = some (st, start))
    (work : domWork s d = true) :
    entryDone s d = trouble (putDom s d { domSt s d with entering := none, state := 0, idleFrom := s.now }) 3 0 := by
  have wired : unwiredDom s d = false := wired_of_domSt_ne fun off => by simp [off, dom0] at entering
  unfold entryDone
  simp only [entering, work, if_true]
  unfold wakeDom
  simp only [wired, entering, Bool.false_eq_true, if_false, Option.isSome_some, if_true]
  rfl

theorem wakeAlarm_of_early {t : Tick} (alarm : (domSt s d).alarm = some t) (early : s.now.toNat < t.toNat) : wakeAlarm s d = s := by
  unfold wakeAlarm
  simp [alarm, early]
theorem wakeAlarm_of_due {t : Tick} (alarm : (domSt s d).alarm = some t) (asleep_ : (domSt s d).state.toNat = 2)
    (stays : (domSt s d).entering = none) (sleeps : (domSt s d).waking = none) (due : t.toNat ≤ s.now.toNat) :
    wakeAlarm s d = putDom s d { domSt s d with waking := some s.now } := by
  have wired : unwiredDom s d = false := wired_of_domSt_ne fun off => by simp [off, dom0] at alarm
  unfold wakeAlarm
  simp only [alarm, asleep, asleep_, Nat.le_refl, due, decide_true, Bool.and_self, if_true]
  unfold wakeDom
  simp [wired, stays, sleeps, asleep_, alarm]

theorem wakeDone_of_early {t : Tick} (waking : (domSt s d).waking = some t) (asleep_ : (domSt s d).state = 2)
    (early : s.now.toNat < t.toNat + 1500) (ok : Bool) : wakeDone s d ok = s := by
  have ticks : wakeTicks (domSt s d).state = 1500 := by rw [asleep_]; rfl
  unfold wakeDone
  simp only [waking, ticks, early, if_true]
theorem wakeDone_of_due {t : Tick} (waking : (domSt s d).waking = some t) (asleep_ : (domSt s d).state = 2)
    (due : t.toNat + 1500 ≤ s.now.toNat) {ok : Bool} (wakes : ok = true ∨ 16 ≤ d) :
    wakeDone s d ok = putDom s d { domSt s d with state := 0, waking := none, alarm := none, idleFrom := s.now } := by
  have ticks : wakeTicks (domSt s d).state = 1500 := by rw [asleep_]; rfl
  have notDeep : (domSt s d).state ≠ 3 := by rw [asleep_]; decide
  have walkable : (!ok && decide (d < 16)) = false := by
    rcases wakes with rfl | high
    · rfl
    · simp [high]
  unfold wakeDone
  simp only [waking, ticks, if_neg (Nat.not_lt.mpr due), walkable, Bool.false_eq_true, if_false, notDeep, false_and]
end Domain

section Commands
variable {s : State} (run : Running s)
include run

theorem exec_dvfsWindow (n : SliceId) (lookups cycles : Word) :
    exec (.dvfsWindow n lookups cycles) s = .next (settled s (dvfs s n lookups cycles)) := finish_of_running run _
theorem exec_voltageRampDone (n : SliceId) : exec (.voltageRampDone n) s = .next (settled s (rampDone s n)) :=
  finish_of_running run _
theorem exec_a1IdleEntry (d : BitVec 6) : exec (.a1IdleEntry d) s = .next (settled s (idleEntry s d.toNat)) :=
  finish_of_running run _
theorem exec_domainEntryDone (d : BitVec 6) : exec (.domainEntryDone d) s = .next (settled s (entryDone s d.toNat)) :=
  finish_of_running run _
theorem exec_wakeAlarm (d : BitVec 6) : exec (.wakeAlarm d) s = .next (settled s (wakeAlarm s d.toNat)) :=
  finish_of_running run _
theorem exec_domainWakeDone (d : BitVec 6) (ok : Bool) :
    exec (.domainWakeDone d ok) s = .next (settled s (wakeDone s d.toNat ok)) := finish_of_running run _
end Commands

/-- Settles O29: a slice's clock by whether it falls or rises, a domain by what it is doing and whether its time has come. -/
theorem clocksAndDomains : Obligations.ClocksAndDomains := by
  unfold Obligations.ClocksAndDomains
  refine ⟨fun s n lookups cycles run => ⟨fun down => ?_, fun up => ?_, fun ramp => ⟨_, exec_voltageRampDone run n, ?_⟩, fun none_ => ?_⟩,
    fun s d run => ⟨fun on idle awake stays => ?_, fun work => ?_, fun start entering idle passed none_ => ?_,
      fun st start entering work => ?_, fun t alarm asleep_ stays sleeps due => ?_, fun t alarm early => ?_,
      fun t ok waking asleep_ due wakes => ?_, fun t ok waking asleep_ early => ?_⟩,
    fun s run => ⟨exec_dvfsWindow run, exec_voltageRampDone run, exec_a1IdleEntry run, exec_domainEntryDone run, exec_wakeAlarm run,
      exec_domainWakeDone run⟩⟩
  · rw [exec_dvfsWindow run, dvfs_eq]
    have falls := setClock_down (s := chosen s n (clockChoice s n lookups cycles)) (n := n)
    rw [mhzChoice_chosen] at falls
    exact next_settled_congr s (falls down)
  · rw [exec_dvfsWindow run, dvfs_eq]
    have rises := setClock_up (s := chosen s n (clockChoice s n lookups cycles)) (n := n)
    rw [mhzChoice_chosen] at rises
    exact next_settled_congr s (rises up)
  · rw [mhzOf_settled, settled_pwr, settled_cache, settled_mem, rampDone_of_ramp ramp]
    refine ⟨congrArg BitVec.toNat (tget_tset_self ..), fun k other => ?_, rfl, rfl, rfl⟩
    rw [mhzOf_settled]
    exact congrArg BitVec.toNat (tget_tset_of_ne _ _ (fun same => other (BitVec.eq_of_toNat_eq same.symm)) _)
  · rw [exec_voltageRampDone run, rampDone_of_none none_, settled_self]
  · have on : d.toNat ≠ 61 := fun same => on (BitVec.eq_of_toNat_eq same)
    rw [exec_a1IdleEntry run, idleEntry_of_idle on idle awake stays]
  · rw [exec_a1IdleEntry run, idleEntry_of_work work, settled_self]
  · rw [exec_domainEntryDone run, entryDone_of_cost entering idle passed none_]
  · rw [exec_domainEntryDone run, entryDone_of_work entering work]
  · rw [exec_wakeAlarm run, wakeAlarm_of_due alarm asleep_ stays sleeps due]
  · rw [exec_wakeAlarm run, wakeAlarm_of_early alarm early, settled_self]
  · rw [exec_domainWakeDone run, wakeDone_of_due waking asleep_ due wakes]
  · rw [exec_domainWakeDone run, wakeDone_of_early waking asleep_ early, settled_self]

end Sys2Proof.Machine
end

section
/-! PROOFS. How memory channels refresh, retry, retrain and return (R391, R393, R394, R401, R404, R405, R409, R574). -/

namespace Sys2Proof.Machine
open Sys2Proof.Safety

/-! Refresh (R393, R394, R401). -/

theorem refreshBank_issued (postponed : Table Nat) (i : Nat) (limit : BitVec 4) :
    refreshBank postponed i false limit = tset 0 postponed i (tget 0 postponed i - 1) := rfl
theorem refreshBank_postponed {postponed : Table Nat} {i : Nat} {limit : BitVec 4} (room : tget 0 postponed i < limit.toNat) :
    refreshBank postponed i true limit = tset 0 postponed i (tget 0 postponed i + 1) := by
  unfold refreshBank
  simp [room]
/-- No beam read waits on a queue that holds none, in whatever bank. -/
theorem hbmRefresh_of_no_beam {s : State} {sl : SliceId} {q : BitVec 2} (noBeam : (hbmq s sl q.toNat).any (fun o => o.beam) = false)
    (bank limit : BitVec 4) : hbmRefresh s sl q bank limit =
      putHbmSt s (sl.toNat / 8) { hbmSt s (sl.toNat / 8) with
        postponed := refreshBank (hbmSt s (sl.toNat / 8)).postponed (16 * pcOf sl q.toNat + bank.toNat) false limit } := by
  have none_ : (hbmq s sl q.toNat).any (fun o => o.beam && (o.way ^^^ o.set.extractLsb' 0 4) == bank) = false := by
    rw [List.any_eq_false] at noBeam ⊢
    intro o queued
    simp [noBeam o queued]
  unfold hbmRefresh
  rw [none_]

section Channel
variable {s : State} {n : BitVec 3}

theorem ddrRfm_of_few {bank : BitVec 8} {raaimt : BitVec 16} (few : tget 0 (chanSt s n.toNat).raa bank.toNat < raaimt.toNat) :
    ddrRfm s n bank raaimt = s := if_pos (by omega)
theorem ddrRfm_of_many {bank : BitVec 8} {raaimt : BitVec 16} (pos : 0 < raaimt.toNat)
    (many : raaimt.toNat ≤ tget 0 (chanSt s n.toNat).raa bank.toNat) : ddrRfm s n bank raaimt =
      trouble (putChan s n.toNat { chanSt s n.toNat with
        raa := tset 0 (chanSt s n.toNat).raa bank.toNat (tget 0 (chanSt s n.toNat).raa bank.toNat - raaimt.toNat) })
        (35 + n.toNat) 4 := by
  have atLeast : max 1 raaimt.toNat = raaimt.toNat := by omega
  unfold ddrRfm
  rw [atLeast]
  exact if_neg (Nat.not_lt.mpr many)

/-! Retries and retraining (R391, R404, R405). -/

theorem alertCmd_of_stopped (stopped : chanServes s n = false) : alertCmd s n = s := by
  unfold alertCmd
  simp [stopped]
theorem alertCmd_of_exhausted (serves : chanServes s n = true) (exhausted : 3 ≤ (chanSt s n.toNat).reissues) :
    alertCmd s n = startRetrain s n := by
  unfold alertCmd
  simp [serves, exhausted]
theorem alertCmd_of_again (serves : chanServes s n = true) (again : (chanSt s n.toNat).reissues < 3)
    (window : (chanSt s n.toNat).retryWin = s.now.toNat / 1000000) (few : (chanSt s n.toNat).retries < 15) : alertCmd s n =
      trouble (putChan s n.toNat { chanSt s n.toNat with
        reissues := (chanSt s n.toNat).reissues + 1, retries := (chanSt s n.toNat).retries + 1 }) (35 + n.toNat) 3 := by
  have notTooMany : ¬ 16 ≤ (chanSt s n.toNat).retries + 1 := by omega
  unfold alertCmd
  simp only [serves, Bool.not_true, Bool.false_eq_true, if_false, if_neg (Nat.not_le.mpr again), ← window, if_true, if_neg notTooMany]
  rfl

theorem retrainEnd_of_idle
    (idle : (chanSt s n.toNat).retraining = false ∨ (chanSt s n.toNat).returning = true ∨ engineRuns s 60 = false) (ok : Bool) :
    retrainEnd s n ok = s := if_pos (by rcases idle with h | h | h <;> simp [h])
theorem retrainEnd_of_running (retrains : (chanSt s n.toNat).retraining = true) (stays : (chanSt s n.toNat).returning = false)
    (runs : engineRuns s 60 = true) (ok : Bool) : retrainEnd s n ok =
      if ok then recheck (putChan s n.toNat { chanSt s n.toNat with retraining := false }) else retireChannel s n :=
  if_neg (by simp [retrains, stays, runs])

/-! The return of a retired channel (R574). -/

theorem returnEnd_of_idle (idle : (chanSt s n.toNat).returning = false ∨ engineRuns s 60 = false) (ok : Bool) :
    returnEnd s n ok = s := if_pos (by rcases idle with h | h <;> simp [h])
/-- The lines that are marked as poisoned are no channel's registers. -/
theorem chanSt_markRun (r : PsnRun) (k : Nat) : chanSt (markRun s r) k = chanSt s k := rfl
theorem returnEnd_of_failed (returns : (chanSt s n.toNat).returning = true) (runs : engineRuns s 60 = true) :
    returnEnd s n false = putChan s n.toNat { chanSt s n.toNat with returning := false, cfgErr := true } :=
  if_neg (by simp [returns, runs])
theorem returnEnd_of_done (returns : (chanSt s n.toNat).returning = true) (runs : engineRuns s 60 = true) :
    returnEnd s n true =
      (let t := markRun s ⟨0, s.capacity / 128, some n, true⟩
       let u := putChan t n.toNat { chanSt t n.toNat with returning := false, trained := true, cfgErr := false }
       recheck { u with ddrRet := setBit u.ddrRet n.toNat false }) := by
  simp only [chanSt_markRun]
  exact if_neg (by simp [returns, runs])
end Channel

section Commands
variable {s : State} (run : Running s)
include run

theorem exec_mr4Read (n : BitVec 3) (double : Bool) : exec (.mr4Read n double) s =
    .next (settled s (putChan s n.toNat { chanSt s n.toNat with doubleRef := double })) := finish_of_running run _
theorem exec_ddrRefresh (n : BitVec 3) (bank : BitVec 8) (limit : BitVec 4) :
    exec (.ddrRefresh n bank limit) s = .next (settled s (ddrRefresh s n bank limit)) := finish_of_running run _
theorem exec_ddrRfm (n : BitVec 3) (bank : BitVec 8) (raaimt : BitVec 16) :
    exec (.ddrRfm n bank raaimt) s = .next (settled s (ddrRfm s n bank raaimt)) := finish_of_running run _
theorem exec_hbmRefresh (sl : SliceId) (q : BitVec 2) (bank limit : BitVec 4) :
    exec (.hbmRefresh sl q bank limit) s = .next (settled s (hbmRefresh s sl q bank limit)) := finish_of_running run _
theorem exec_alertN (n : BitVec 3) : exec (.alertN n) s = .next (settled s (alertCmd s n)) := finish_of_running run _
theorem exec_retrainDone (n : BitVec 3) (ok : Bool) : exec (.retrainDone n ok) s = .next (settled s (retrainEnd s n ok)) :=
  finish_of_running run _
theorem exec_channelReturnDone (n : BitVec 3) (ok : Bool) :
    exec (.channelReturnDone n ok) s = .next (settled s (returnEnd s n ok)) := finish_of_running run _
end Commands

/-- Settles O30: refreshes by whether a beam read waits, retries by how many there have been, and the ends of a retrain and of a
    return by whether one is under way and how it ends. -/
theorem memoryChannelsAreServed : Obligations.MemoryChannelsAreServed := by
  unfold Obligations.MemoryChannelsAreServed
  refine ⟨fun s n run => ⟨exec_mr4Read run n, fun bank limit noBeam => ?_, fun bank limit beam room => ?_,
      fun bank raaimt pos many => ?_, fun bank raaimt few => ?_, fun sl q bank limit noBeam => ?_,
      fun serves again window few => ?_, fun serves exhausted => ?_, fun stopped => ?_, fun idle ok => ?_,
      fun retrains stays runs => ⟨?_, ?_⟩⟩,
    ⟨fun s n idle ok => ?_, fun s n run returns runs => ⟨?_, ?_⟩⟩,
    fun s run => ⟨exec_mr4Read run, exec_ddrRefresh run, exec_ddrRfm run, exec_hbmRefresh run, exec_alertN run, exec_retrainDone run,
      exec_channelReturnDone run⟩⟩
  · rw [exec_ddrRefresh run, ddrRefresh, noBeam, refreshBank_issued]
  · rw [exec_ddrRefresh run, ddrRefresh, beam, refreshBank_postponed room]
  · rw [exec_ddrRfm run, ddrRfm_of_many pos many]
  · rw [exec_ddrRfm run, ddrRfm_of_few few, settled_self]
  · rw [exec_hbmRefresh run, hbmRefresh_of_no_beam noBeam, refreshBank_issued]
  · rw [exec_alertN run, alertCmd_of_again serves again window few]
  · rw [exec_alertN run, alertCmd_of_exhausted serves exhausted]
  · rw [exec_alertN run, alertCmd_of_stopped stopped, settled_self]
  · rw [exec_retrainDone run, retrainEnd_of_idle idle, settled_self]
  · rw [exec_retrainDone run, retrainEnd_of_running retrains stays runs, if_pos rfl]
  · rw [exec_retrainDone run, retrainEnd_of_running retrains stays runs, if_neg Bool.false_ne_true]
  · have answer : exec (.channelReturnDone n ok) s = finish s (returnEnd s n ok) := rfl
    rw [answer, returnEnd_of_idle idle, finish_self]
  · rw [exec_channelReturnDone run, returnEnd_of_failed returns runs]
  · rw [exec_channelReturnDone run, returnEnd_of_done returns runs]

end Sys2Proof.Machine
end

section
/-! PROOFS. Lines that a slice repairs and fills, atomics that perform, and the predictor that is cleared (R73, R121, R218, R220). -/

namespace Sys2Proof.Machine
open Sys2Proof.Safety

/-! The repair of a late read error (R121, R122). -/

section Repair
variable {s : State} {sl : SliceId}

theorem repair_of_none (none_ : (sliceSt s sl).repairs = []) : repair s sl = s := by
  unfold repair
  simp only [none_]

/-- The state in which line `l` is repaired: it has left the list, in which `rest` still stands, and its tags have been read. -/
def repairing (s : State) (sl : SliceId) (l : LineAddr) (rest : List LineAddr) : State :=
  readStages (putSlice s sl { sliceSt s sl with repairs := rest }) (place s l) l

variable {l : LineAddr} {rest : List LineAddr} (oldest : (sliceSt s sl).repairs = l :: rest)
include oldest

theorem repair_of_oldest : repair s sl =
    let t := repairing s sl l rest
    let st := stateHere t (place s l)
    if st = .I ∨ st = .X then t
    else if (st.dirty || (pfGet t (place s l) l).exh) ∧ poisonShort t (place s l).sl then s
    else becomeX t (place s l) l st.dirty := by
  unfold repair repairing
  simp only [oldest]
theorem repair_of_gone (gone : stateHere (repairing s sl l rest) (place s l) = .I ∨ stateHere (repairing s sl l rest) (place s l) = .X) :
    repair s sl = repairing s sl l rest := (repair_of_oldest oldest).trans (if_pos gone)

variable (notI : stateHere (repairing s sl l rest) (place s l) ≠ .I) (notX : stateHere (repairing s sl l rest) (place s l) ≠ .X)
include notI notX

/-- The line owes its poison, and no buffer is free for it (R122). -/
theorem repair_of_short
    (owes : (stateHere (repairing s sl l rest) (place s l)).dirty = true ∨ (pfGet (repairing s sl l rest) (place s l) l).exh = true)
    (short : poisonShort (repairing s sl l rest) (place s l).sl = true) : repair s sl = s :=
  ((repair_of_oldest oldest).trans (if_neg (not_or.mpr ⟨notI, notX⟩))).trans
    (if_pos ⟨(Bool.or_eq_true ..).mpr owes, short⟩)
theorem repair_of_room
    (room : ¬ ((stateHere (repairing s sl l rest) (place s l)).dirty = true ∨
      (pfGet (repairing s sl l rest) (place s l) l).exh = true) ∨ poisonShort (repairing s sl l rest) (place s l).sl = false) :
    repair s sl = becomeX (repairing s sl l rest) (place s l) l (stateHere (repairing s sl l rest) (place s l)).dirty := by
  refine ((repair_of_oldest oldest).trans (if_neg (not_or.mpr ⟨notI, notX⟩))).trans (if_neg fun ⟨owes, short⟩ => ?_)
  rcases room with owesNone | free
  · exact owesNone ((Bool.or_eq_true ..).mp owes)
  · exact Bool.false_ne_true (free.symm.trans short)
end Repair

/-! Entries that install or perform (R73, R220). -/

section Entry
variable {s : State} {sl : SliceId} {i : Nat} {e : MissEntry}

theorem fillInstall_of_ready (here : missAt s sl i = some e) (ring : e.kind = .ring) (ready : entryReady e = true) :
    fillInstall s sl i = tryFinish s sl i := by
  unfold fillInstall
  simp [here, ring, ready]
theorem fillInstall_of_waiting (here : missAt s sl i = some e) (waits : entryReady e = false) : fillInstall s sl i = s := by
  unfold fillInstall
  simp [here, waits]
theorem atomStep_of_none (none_ : missAt s sl i = none) : atomStep s sl i = s := by
  unfold atomStep
  simp only [none_]
/-- The target chunk is here, in a line that stands in a way, and nothing of it is poisoned. -/
theorem atomStep_of_ready {w : Nat} (here : missAt s sl i = some e) (bare : e.kind = .bare) (installs : e.noInstall = false)
    (first : e.performed = false) (atomic : e.req.op = .atom) (chunk : e.fillV.getLsbD (critOf e.req.hdr.addr).toNat = true)
    (way : findWay s (place s e.req.laddr) = some w) (free : e.owesCmp = false)
    (good : chunkPsn e.fill (critOf e.req.hdr.addr).toNat = false) (sound : e.poisoned = false) :
    atomStep s sl i = atomPerform s (place s e.req.laddr) i w e := by
  have performs : ¬ (e.kind ≠ .bare ∨ e.noInstall ∨ e.performed ∨ e.req.op ≠ .atom ∨
      ¬ e.fillV.getLsbD (critOf e.req.hdr.addr).toNat) := by
    simp [bare, installs, first, atomic, chunk]
  unfold atomStep
  simp only [here, free, Bool.false_eq_true, if_false, if_neg performs, way, good, sound, Bool.or_self, Bool.false_and]
end Entry

/-! The predictor (R215, R218). -/

section Predictor
variable {s : State} {sl : SliceId}

theorem predClear_of_idle (idle : (sliceSt s sl).clrBusy = false) : predClear s sl = s := by
  unfold predClear
  simp [idle]
theorem predClear_of_busy (busy : (sliceSt s sl).clrBusy = true) : predClear s sl =
    putSlice { s with cache := { s.cache with pred := s.cache.pred.filter fun e => decide (e.1 / 65536 ≠ sl.toNat) } } sl
      { sliceSt s sl with clrBusy := false } := if_pos busy
/-- The counters of a slice lie in its own 64 Ki indexes. -/
theorem predIndex_slice (n : SliceId) (l : LineAddr) : (n.toNat * 65536 + (predIx l).toNat) / 65536 = n.toNat := by
  have inside : (predIx l).toNat < 65536 := (predIx l).isLt
  omega
/-- The counters of the slice that is cleared read 0b01, the others as before. -/
theorem predAt_predClear (busy : (sliceSt s sl).clrBusy = true) (n : SliceId) (l : LineAddr) :
    predAt (predClear s sl) n l = if n = sl then 1 else predAt s n l := by
  rw [predClear_of_busy busy]
  unfold predAt
  refine (tget_filter pred0 (fun j => decide (j / 65536 ≠ sl.toNat)) s.cache.pred _).trans ?_
  rw [predIndex_slice]
  by_cases same : n = sl
  · simp [same, pred0]
  · have apart : n.toNat ≠ sl.toNat := fun h => same (BitVec.eq_of_toNat_eq h)
    simp [same, apart]
@[simp] theorem predAt_settled (s t : State) (n : SliceId) (l : LineAddr) : predAt (settled s t) n l = predAt t n l := by
  unfold predAt
  rw [settled_cache]
end Predictor

section Commands
variable {s : State} (run : Running s)
include run

theorem exec_repairTransaction (sl : SliceId) : exec (.repairTransaction sl) s = .next (settled s (repair s sl)) :=
  finish_of_running run _
theorem exec_fillInstall (sl : SliceId) (i : BitVec 8) :
    exec (.fillInstall sl i) s = .next (settled s (fillInstall s sl i.toNat)) := finish_of_running run _
theorem exec_atomPerform (sl : SliceId) (i : BitVec 8) :
    exec (.atomPerform sl i) s = .next (settled s (atomStep s sl i.toNat)) := finish_of_running run _
theorem exec_predictorClearDone (sl : SliceId) : exec (.predictorClearDone sl) s = .next (settled s (predClear s sl)) :=
  finish_of_running run _
end Commands

/-- Settles O46: a repair by what stands here of the line and whether a buffer is free for what it owes, an entry by whether it is
    ready, and the predictor by whether a clear is under way. -/
theorem sliceTransactionsAdvance : Obligations.SliceTransactionsAdvance := by
  unfold Obligations.SliceTransactionsAdvance
  refine ⟨fun s sl run => ⟨fun none_ => ?_, fun l rest oldest => ⟨fun gone => ?_, fun notI notX owes short => ?_,
        fun notI notX may => ?_⟩, fun i e here ring ready => ?_, fun i e here waits => ?_,
      fun i e w here bare installs first atomic keep chunk way free good sound => ?_, fun i none_ => ?_⟩,
    fun s sl run => ⟨fun idle => ?_, fun busy => ⟨_, exec_predictorClearDone run sl, ?_⟩⟩,
    fun s run => ⟨exec_repairTransaction run, exec_fillInstall run, exec_atomPerform run, exec_predictorClearDone run⟩⟩
  · rw [exec_repairTransaction run, repair_of_none none_, settled_self]
  · exact (exec_repairTransaction run sl).trans (next_settled_congr s (repair_of_gone oldest gone))
  · rw [exec_repairTransaction run, repair_of_short oldest notI notX owes short, settled_self]
  · exact (exec_repairTransaction run sl).trans (next_settled_congr s (repair_of_room oldest notI notX may))
  · rw [exec_fillInstall run, fillInstall_of_ready here ring ready]
  · rw [exec_fillInstall run, fillInstall_of_waiting here waits, settled_self]
  · rw [exec_atomPerform run, atomStep_of_ready here bare installs first atomic chunk way free good sound]
  · rw [exec_atomPerform run, atomStep_of_none none_, settled_self]
  · rw [exec_predictorClearDone run, predClear_of_idle idle, settled_self]
  · simp only [predAt_settled, sliceSt_settled, settled_cache, settled_mem]
    refine ⟨?_, fun l => (predAt_predClear busy sl l).trans (if_pos rfl),
      fun n l other => (predAt_predClear busy n l).trans (if_neg other), ?_, ?_⟩
    · rw [predClear_of_busy busy, sliceSt_putSlice_self]
    · rw [predClear_of_busy busy]
      rfl
    · rw [predClear_of_busy busy]
      rfl

end Sys2Proof.Machine
end
